-- ==== Sys2Proof/Word.lean ====
section
/-! DEFINITION. The word types of the KD-192: a byte, a 32-bit instruction word or vector lane, a 64-bit register. -/

namespace Sys2Proof

/-- One byte of any memory (R7: every memory is byte addressed, little-endian). -/
abbrev Byte := BitVec 8

/-- One instruction word, and one lane of a vector register (R141). -/
abbrev W32 := BitVec 32

/-- One scalar register, one register of a map (R7, R141). -/
abbrev Word := BitVec 64

end Sys2Proof
end

