-- ==== Sys2Proof/Machine/Tab.lean ====
section
/-! DEFINITION. Sparse tables: lists of key and value with strictly rising keys. Registers, memories, cores and contexts
are tables; a key that is not listed has the table's default value. -/

namespace Sys2Proof.Machine

/-- A table from natural numbers to values, plain data. A memory of bytes is one (Host.Cell). -/
abbrev Tab (α : Type) := List (Nat × α)

namespace Tab

variable {α : Type}

/-- The value at key `k`, the default `d` where nothing is listed. -/
def get (d : α) : Tab α → Nat → α
  | [], _ => d
  | (i, x) :: t, k => if k = i then x else get d t k

/-- Is the key listed? -/
def has : Tab α → Nat → Bool
  | [], _ => false
  | (i, _) :: t, k => k == i || has t k

/-- The entry listed at a key, if any. -/
def find : Tab α → Nat → Option α
  | [], _ => none
  | (i, x) :: t, k => if k = i then some x else find t k

/-- The table without an entry at `k`. -/
def del : Tab α → Nat → Tab α
  | [], _ => []
  | (i, x) :: t, k => if i = k then del t k else (i, x) :: del t k

/-- The table with `x` listed at `k`, keys still rising. -/
def put : Tab α → Nat → α → Tab α
  | [], k, x => [(k, x)]
  | (i, y) :: t, k, x =>
    if k < i then (k, x) :: (i, y) :: t
    else if k = i then (k, x) :: t
    else (i, y) :: put t k x

/-- The table with value `x` at `k`, in canonical form: the default is never listed. -/
def set [DecidableEq α] (d : α) (t : Tab α) (k : Nat) (x : α) : Tab α :=
  if x = d then del t k else put t k x

/-- Keys strictly rise from `lo` on, and no entry equals the default. -/
def canon [DecidableEq α] (d : α) : Nat → Tab α → Bool
  | _, [] => true
  | lo, (i, x) :: t => decide (lo ≤ i) && decide (x ≠ d) && canon d (i + 1) t

/-- The canonical form of a table: equal contents are equal tables. -/
def wf [DecidableEq α] (d : α) (t : Tab α) : Bool := canon d 0 t

/-- Write a list of values at rising keys from `k`. -/
def setRun [DecidableEq α] (d : α) : Tab α → Nat → List α → Tab α
  | t, _, [] => t
  | t, k, x :: xs => setRun d (set d t k x) (k + 1) xs

/-- `n` values at rising keys from `k`. -/
def getRun (d : α) (t : Tab α) : Nat → Nat → List α
  | _, 0 => []
  | k, n + 1 => get d t k :: getRun d t (k + 1) n

/-- The entries at keys from `lo` up to but not including `hi`. -/
def slice (t : Tab α) (lo hi : Nat) : Tab α := t.filter (fun e => decide (lo ≤ e.1) && decide (e.1 < hi))

/-- The entries outside `lo ≤ k < hi`: that range holds the default. -/
def clear (t : Tab α) (lo hi : Nat) : Tab α := t.filter (fun e => decide (e.1 < lo) || decide (hi ≤ e.1))

/-- The table with entry `k` changed by `f`. -/
def upd (d : α) (t : Tab α) (k : Nat) (f : α → α) : Tab α := put t k (f (get d t k))

end Tab

end Sys2Proof.Machine
end

