-- ==== Sys2Proof/Syntax.lean ====
section
/-! DEFINITION. The steps of the KD-192: every slot instruction of R172 to R178, every micro-operation of R180, and every
step without an encoding (an event of an engine, of the fabric, of the host). One constructor per row of the table. -/

namespace Sys2Proof

/-- A scalar or vector register field (R170): 0 to 55 registers, 56 to 59 queue pops, 60 to 63 queue peeks. -/
abbrev RegF := BitVec 6

/-- A predicate, mask, parameter register or accumulator tile field (R171). -/
abbrev F3 := BitVec 3

/-- The conditions of CMP and CMPI (R174, codes 0 to 9). -/
inductive Cond where | eq | ne | lt | ge | ltu | geu | le | gt | leu | gtu
  deriving DecidableEq, Repr

/-- The conditions of WAITA (R173, codes 0 to 3). -/
inductive WCond where | eq | ne | geu | ltu
  deriving DecidableEq, Repr

/-- The scopes of R131, codes 0 to 4. -/
inductive Scope where | core | die | package | group | system
  deriving DecidableEq, Repr

/-- The instruction regions of IFENCE (R173, codes 0 to 2). -/
inductive IRegion where | common | idle | executing
  deriving DecidableEq, Repr

/-- The cluster sets of a cl field (R163): all, CLMA, CLMB. -/
inductive CSet where | all | a | b
  deriving DecidableEq, Repr

/-- The conditions of VCMP on FP32 lanes (R176). -/
inductive FCond where | eq | ne | lt | le | gt | ge | un | or
  deriving DecidableEq, Repr

/-- The conditions of VCMP on 32-bit integer lanes (R176). -/
inductive ICond where | eq | ne | lt | le | gt | ge | ltu | geu
  deriving DecidableEq, Repr

/-- The formats of VCVT (R176, codes 0 to 7). -/
inductive VFmt where | f32 | bf16 | e4m3 | e5m2 | kbf7 | kbf4 | kbf2 | i32
  deriving DecidableEq, Repr

/-- The operations of FRED and RATOM (R177, codes 0 to 4; FRED has the first three). -/
inductive AOp where | add | max | min | swap | cas
  deriving DecidableEq, Repr

/-- The formats of FRED and RATOM (R177, codes 0 to 4). -/
inductive AFmt where | fp32 | bf16 | int32 | int64 | fx128
  deriving DecidableEq, Repr

/-- Rounding modes (R31, R162), header codes 0 to 5. -/
inductive Rnd where | rne | rtz | rdn | rup | rna | sr
  deriving DecidableEq, Repr

/-- The kinds of packet of R285 (KIND codes 1 to 10). -/
inductive PKind where | write | readreq | readdata | reduce | atomic | atomicdata | ack | mcwrite | chunk | time
  deriving DecidableEq, Repr

/-- A packet with good checks (R284): header fields and payload. The zero fields and the end-to-end check are those of
the wire form. -/
structure Packet where
  kind    : PKind
  vc      : Nat
  det     : Bool
  hops    : Nat
  dctx    : Nat
  status  : Nat
  len     : Nat
  srcPkg  : Nat
  srcCore : Nat
  op      : Nat
  fmt     : Nat
  frac    : Nat
  tag     : Nat
  addr    : Nat
  group   : Nat
  payload : List Byte
  deriving DecidableEq, Repr

/-- The steps of the machine. `c` is a core (0 to 191), `t` a stream (false primary, true secondary), `x` a context (0 to
15). A field is as narrow as R171 to R180 make it; what remains to check is in `Instr.wellFormed`. -/
inductive Instr where
  -- C slot, R173
  | idle (n : BitVec 6) (sat : Bool) (rnd : Rnd) (prof : BitVec 6)
  | brp (p : F3) (o : BitVec 22)
  | br (o : BitVec 22)
  | brpn (p : F3) (o : BitVec 22)
  | call (d : RegF) (i : BitVec 20)
  | jmp (a : RegF) (k : F3)
  | callr (d a : RegF) (k : F3)
  | ret (a : RegF) (k : F3)
  | setf (d : BitVec 2) (a : RegF) (k : F3)
  | loop (d a : RegF) (i : BitVec 14)
  | loopi (d : RegF) (n : BitVec 6) (i : BitVec 14)
  | bswap (p : F3) (o : BitVec 22)
  | waita (a b : RegF) (k : F3) (s : Scope) (c : WCond)
  | waito (a : RegF) (i : BitVec 14)
  | tend
  | trap (code : BitVec 16)
  | brk (code : BitVec 16)
  | ifence (r : IRegion)
  | sysr (d : RegF) (n : BitVec 12)
  | sysw (a : RegF) (n : BitVec 12)
  -- scalar slots, R174
  | add (d a b : RegF) (k : F3)
  | sub (d a b : RegF) (k : F3)
  | mul (d a b : RegF) (k : F3)
  | mulh (d a b : RegF) (k : F3)
  | mulhu (d a b : RegF) (k : F3)
  | divs (d a b : RegF) (k : F3)
  | divu (d a b : RegF) (k : F3)
  | rems (d a b : RegF) (k : F3)
  | remu (d a b : RegF) (k : F3)
  | and (d a b : RegF) (k : F3)
  | or (d a b : RegF) (k : F3)
  | xor (d a b : RegF) (k : F3)
  | andn (d a b : RegF) (k : F3)
  | shl (d a b : RegF) (k : F3)
  | shr (d a b : RegF) (k : F3)
  | sar (d a b : RegF) (k : F3)
  | min (d a b : RegF) (k : F3)
  | max (d a b : RegF) (k : F3)
  | minu (d a b : RegF) (k : F3)
  | maxu (d a b : RegF) (k : F3)
  | clz (d a : RegF) (k : F3)
  | ctz (d a : RegF) (k : F3)
  | popc (d a : RegF) (k : F3)
  | sel (d a b : RegF) (k : F3)
  | addi (d a : RegF) (i : BitVec 14)
  | andi (d a : RegF) (i : BitVec 14)
  | ori (d a : RegF) (i : BitVec 14)
  | xori (d a : RegF) (i : BitVec 14)
  | shli (d a : RegF) (n : BitVec 6)
  | shri (d a : RegF) (n : BitVec 6)
  | sari (d a : RegF) (n : BitVec 6)
  | lui (d : RegF) (i : BitVec 20)
  | lhi (d : RegF) (i : BitVec 20)
  | ltop (d : RegF) (i : BitVec 12)
  | ext (d a : RegF) (w p : BitVec 6)
  | ins (d a : RegF) (w p : BitVec 6)
  | widx (d : RegF) (f : F3)
  | cmp (d : F3) (a b : RegF) (k : F3) (c : Cond)
  | cmpi (d : F3) (a : RegF) (c : Cond) (i : BitVec 10)
  | pand (d a b k : F3)
  | por (d a b k : F3)
  | pxor (d a b k : F3)
  | pnot (d a k : F3)
  -- memory slots, R175
  | ldB (d s : RegF) (l : Bool) (o : BitVec 13)
  | ldH (d s : RegF) (l : Bool) (o : BitVec 13)
  | ldW (d s : RegF) (l : Bool) (o : BitVec 13)
  | ldD (d s : RegF) (l : Bool) (o : BitVec 13)
  | lduB (d s : RegF) (l : Bool) (o : BitVec 13)
  | lduH (d s : RegF) (l : Bool) (o : BitVec 13)
  | lduW (d s : RegF) (l : Bool) (o : BitVec 13)
  | stB (d s : RegF) (l : Bool) (o : BitVec 13)
  | stH (d s : RegF) (l : Bool) (o : BitVec 13)
  | stW (d s : RegF) (l : Bool) (o : BitVec 13)
  | stD (d s : RegF) (l : Bool) (o : BitVec 13)
  | vld (d s : RegF) (l : Bool) (c : CSet) (o : BitVec 11)
  | vldb (d s : RegF) (l : Bool) (c : CSet) (o : BitVec 11)
  | vldt (d s : RegF) (l : Bool) (c : CSet) (o : BitVec 11)
  | vst (d s : RegF) (l : Bool) (c : CSet) (o : BitVec 11)
  | vstt (d s : RegF) (l : Bool) (c : CSet) (o : BitVec 11)
  | vlds (d a b : RegF) (k : F3) (c : CSet) (l : Bool)
  | vsts (d a b : RegF) (k : F3) (c : CSet) (l : Bool)
  | amoAdd (d a b : RegF) (k : F3) (l : Bool)
  | amoMax (d a b : RegF) (k : F3) (l : Bool)
  | amoMin (d a b : RegF) (k : F3) (l : Bool)
  | amoSwap (d a b : RegF) (k : F3) (l : Bool)
  | amoCas (d a b : RegF) (k : F3) (l : Bool)
  | qpush (d : BitVec 2) (a : RegF) (k : F3)
  | qdrop (d : BitVec 2) (k : F3)
  | vldkKbf7 (d a b : RegF) (c : CSet) (l : Bool)
  | vldkKbf4 (d a b : RegF) (c : CSet) (l : Bool)
  | vldkKbf2 (d a b : RegF) (c : CSet) (l : Bool)
  | vstkKbf7 (d a b : RegF) (c : CSet) (l : Bool)
  | vstkKbf4 (d a b : RegF) (c : CSet) (l : Bool)
  | vstkKbf2 (d a b : RegF) (c : CSet) (l : Bool)
  -- vector slots, R176
  | vaddI32 (d a b : RegF) (k : F3) (c : CSet)
  | vsubI32 (d a b : RegF) (k : F3) (c : CSet)
  | vmulI32 (d a b : RegF) (k : F3) (c : CSet)
  | vmulh (d a b : RegF) (k : F3) (c : CSet)
  | vand (d a b : RegF) (k : F3) (c : CSet)
  | vor (d a b : RegF) (k : F3) (c : CSet)
  | vxor (d a b : RegF) (k : F3) (c : CSet)
  | vabsI32 (d a : RegF) (k : F3) (c : CSet)
  | vshl (d a b : RegF) (k : F3) (c : CSet)
  | vshr (d a b : RegF) (k : F3) (c : CSet)
  | vsar (d a b : RegF) (k : F3) (c : CSet)
  | vminI32 (d a b : RegF) (k : F3) (c : CSet)
  | vmaxI32 (d a b : RegF) (k : F3) (c : CSet)
  | vminU32 (d a b : RegF) (k : F3) (c : CSet)
  | vmaxU32 (d a b : RegF) (k : F3) (c : CSet)
  | vaddF32 (d a b : RegF) (k : F3) (c : CSet)
  | vsubF32 (d a b : RegF) (k : F3) (c : CSet)
  | vmulF32 (d a b : RegF) (k : F3) (c : CSet)
  | vfmaF32 (d a b : RegF) (k : F3) (c : CSet)
  | vminF32 (d a b : RegF) (k : F3) (c : CSet)
  | vmaxF32 (d a b : RegF) (k : F3) (c : CSet)
  | vdot2Bf16 (d a b : RegF) (k : F3) (c : CSet)
  | vabsF32 (d a : RegF) (k : F3) (c : CSet)
  | vnegF32 (d a : RegF) (k : F3) (c : CSet)
  | vcpysF32 (d a b : RegF) (k : F3) (c : CSet)
  | vaccrd (d a : RegF) (k : F3) (c : CSet)
  | vcmpF32 (d : F3) (a b : RegF) (k : F3) (c : CSet) (f : FCond)
  | vcmpI32 (d : F3) (a b : RegF) (k : F3) (c : CSet) (f : ICond)
  | vmov (d a : RegF) (k : F3) (c : CSet)
  | vsel (d a b : RegF) (k : F3) (c : CSet)
  | vbcast (d a : RegF) (k : F3) (c : CSet)
  | vextr (d a b : RegF) (k : F3) (c : CSet)
  | vins (d a b : RegF) (k : F3) (c : CSet)
  | vperm (d a b : RegF) (k : F3) (c : CSet)
  | vxcl (d a : RegF) (r : F3) (k : F3) (c : CSet)
  | viota (d : RegF) (k : F3) (c : CSet)
  | vredaddF32 (d a : RegF) (k : F3) (c : CSet)
  | vredaddI32 (d a : RegF) (k : F3) (c : CSet)
  | vredmaxF32 (d a : RegF) (k : F3) (c : CSet)
  | vredmaxI32 (d a : RegF) (k : F3) (c : CSet)
  | vredminF32 (d a : RegF) (k : F3) (c : CSet)
  | vredminI32 (d a : RegF) (k : F3) (c : CSet)
  | vcvt (d a : RegF) (s t : VFmt) (k : F3) (c : CSet)
  | vcvtF32Fx128Lo (d a : RegF) (p : BitVec 6) (k : F3) (c : CSet)
  | vcvtF32Fx128Hi (d a : RegF) (p : BitVec 6) (k : F3) (c : CSet)
  | vrcp (d a : RegF) (k : F3) (c : CSet)
  | vrcpr (d a b : RegF) (k : F3) (c : CSet)
  | vrsq (d a : RegF) (k : F3) (c : CSet)
  | vrsqr (d a b : RegF) (k : F3) (c : CSet)
  | vsqrt (d a : RegF) (k : F3) (c : CSet)
  | vexp2 (d a : RegF) (k : F3) (c : CSet)
  | vlog2 (d a : RegF) (k : F3) (c : CSet)
  | vsin (d a : RegF) (k : F3) (c : CSet)
  | vcos (d a : RegF) (k : F3) (c : CSet)
  | vrand (d : RegF) (k : F3) (c : CSet)
  | vrandf (d : RegF) (k : F3) (c : CSet)
  | vdrop (d a b : RegF) (k : F3) (c : CSet)
  | vtopk (d a b : RegF) (k : F3) (c : CSet)
  | vmergek (d a b : RegF) (k : F3) (c : CSet)
  -- engine slot, R177
  | mpset (a : RegF) (n : F3)
  | mcall (e : BitVec 12)
  | cpy (a b : RegF) (g : BitVec 4)
  | cpyc (a b : RegF) (g : BitVec 4)
  | gset (a : RegF) (g : BitVec 4)
  | gstart (a b : RegF) (q : BitVec 2)
  | tarm (a b : RegF) (g : BitVec 4)
  | fsend (a b : RegF) (g : BitVec 4)
  | fmcast (a b : RegF) (g : BitVec 4)
  | fred (a b : RegF) (op : AOp) (f : AFmt) (g : BitVec 4)
  | ratom (a b : RegF) (op : AOp) (f : AFmt) (g : BitVec 4)
  | csend (a b : RegF) (ch : BitVec 12)
  | crecv (a b : RegF) (ch : BitVec 12)
  | chw (a : RegF) (ch : BitVec 12)
  | ccollAllred (a b : RegF) (r : BitVec 10)
  | ccollRedscat (a b : RegF) (r : BitVec 10)
  | ccollAllgath (a b : RegF) (r : BitVec 10)
  | ccollBcast (a b : RegF) (r : BitVec 10)
  | ccollReduce (a b : RegF) (r : BitVec 10)
  | ccollPxch (a b : RegF) (r : BitVec 10)
  | spawn (a : RegF)
  | kilnw (a : RegF)
  | kilnr (a : RegF)
  | digest (a b : RegF) (g : BitVec 4)
  | efence (g : BitVec 4) (s : Scope)
  -- micro-operations of the matrix engine of core c, R180
  | lds (c : Nat) (pa : F3) (o : Bool) (n : BitVec 7)
  | swap (c : Nat)
  | strm (c : Nat) (t pa : F3) (n : BitVec 7)
  | strmc (c : Nat) (t pa : F3) (n : BitVec 7)
  | zero (c : Nat) (t : F3)
  | scale (c : Nat) (t : F3) (i : BitVec 16)
  | ldacc (c : Nat) (t pa : F3)
  | drain (c : Nat) (t pa pb pc : F3) (fmt : BitVec 5)
  | amax (c : Nat) (t pb : F3)
  | madd (c : Nat) (pd pa : F3) (i : BitVec 32)
  | mloop (c : Nat) (p : F3) (target : BitVec 12)
  | mbrz (c : Nat) (p : F3) (target : BitVec 12)
  | mwait (c : Nat) (cls : BitVec 2)
  | mend (c : Nat)
  -- steps of a core
  | routineBegin (c : Nat)
  | routineFinish (c : Nat)
  | routineFlagsJoin (c : Nat) (t : Bool)
  | resultLanding (c : Nat) (t : Bool)
  | pendingAccessPerform (c : Nat)
  | sleepEnd (c : Nat) (t : Bool)
  | waitLimitExpiry (c : Nat) (t : Bool)
  | trapEntry (c : Nat) (t : Bool)
  | tretResume (c : Nat) (t : Bool)
  | tretEnd (c : Nat) (t : Bool)
  | taskEnd (c : Nat) (t : Bool)
  | gangJoin (g : Nat)
  | gangMessageLanding (c : Nat)
  | takeGrant (c : Nat)
  -- steps of the engines
  | copyChunk (c id : Nat)
  | copyComplete (c id : Nat)
  | gatherRowDelivery (c q : Nat)
  | gstartIndexEntry (c q : Nat)
  | keyUseReport (x : Nat)
  | faultRecordPost (x : Nat)
  | pageWalk (x : Nat)
  -- steps of the fabric
  | packetForward (p : Packet)
  | write (p : Packet)
  | readreq (p : Packet)
  | readdata (p : Packet)
  | reduce (p : Packet)
  | roundTimeout (x g : Nat)
  | atomic (p : Packet)
  | atomicdata (p : Packet)
  | ack (p : Packet)
  | mcwrite (p : Packet)
  | responseTimeout (tag : Nat)
  | chunk (p : Packet)
  | abortMarker (p : Packet)
  | creditReturn (p : Packet)
  | collectiveStart (id : Nat)
  | stepTimeout (id : Nat)
  | collectiveComplete (id : Nat)
  | prioritySwitch (port : Nat)
  | time (port : Nat) (p : Packet)
  -- steps of context control registers
  | xinvComplete (x : Nat)
  -- launches
  | launchQueuePoll (q : Nat)
  | launchAccept (q : Option Nat)
  | unitDispatch (l : Nat)
  | imageLoad (c : Nat)
  | launchComplete (l : Nat)
  -- contexts
  | killComplete (x : Nat)
  | switchOutComplete (x : Nat)
  | efenceComplete (c id : Nat)
  | digestComplete (c id : Nat)
  -- host, system and power
  | mgctlReloadDone (x : Nat)
  | clctlReloadDone (x : Nat)
  | createComplete (x : Nat)
  -- steps that the machine never names itself: of the environment, of a register write, of the end of a cycle
  | flit (port : Nat) (bytes : List Byte)
  | portDown (port : Nat)
  | portUp (port : Nat)
  | registerWrite (addr : Nat) (bytes : List Byte)
  | hostCxlMemRead (addr n : Nat)
  | hostCxlMemWrite (addr : Nat) (bytes : List Byte)
  | hostCxlIoWindowAccess (addr n : Nat) (w : Option (List Byte))
  | hostSupervisorWrite (c off : Nat) (bytes : List Byte)
  | thermalWarn (die : Nat)
  | throttleStep (die : Nat)
  | thermalTrip (die : Nat)
  | hbmScrub (addr : Nat) (bad : Bool)
  | gtbCorrection (up : Bool)
  | xinvContext (x : Nat)
  | xinvPages (x : Nat)
  | xinvRanges (x : Nat)
  | xinvNop (x : Nat)
  | mgctlReloadReduction (x : Nat)
  | mgctlReloadMulticast (x : Nat)
  | clctlReloadChannels (x : Nat)
  | clctlReloadRings (x : Nat)
  | create (x : Nat)
  | kill (x : Nat)
  | signal (x : Nat)
  | wdclr (x : Nat)
  | ucload (x : Nat)
  | attest (x : Nat)
  | debugHalt (x : Nat)
  | lqbaseWrite (q : Nat) (v : Word)
  | tctlNone (c : Nat) (t : Bool) (v : Word)
  | tctlSetSkew (c : Nat) (t : Bool) (v : Word)
  | tctlClearSkew (c : Nat) (t : Bool) (v : Word)
  | tctlMakeMailbox (c : Nat) (t : Bool) (v : Word)
  | tctlReleaseMailbox (c : Nat) (t : Bool) (v : Word)
  | tctlDisarm (c : Nat) (t : Bool) (v : Word)
  | reduceResend
  | timeSend
  | gtbokLoss
  | epochBoundary
  | coldStart
  | warmStart
  | firmwarePush
  | sampleRecord (x : Nat)
  | launchAged (l : Nat)
  | collisionCycle (c : Nat)
  | powerFreeze (c : Nat)
  | freezeEnd (c : Nat)
  | quantumEnd (x : Nat)
  | contextYield (x : Nat)
  | switchIn (x : Nat)
  deriving DecidableEq, Repr

end Sys2Proof
end

