-- ==== Sys2Proof/Machine/State.lean ====
section
/-! DEFINITION. The state of one KD-192 package as plain data, the reasons a step can stop, and the state at reset. -/

namespace Sys2Proof.Machine

/-! ## Why a step stops -/

/-- A machine stop. -/
inductive Fault where
  /-- Raised by `step` after a thermal trip, where nothing is to come any more: every clock of the package stands, and only a
  cold start leaves that state (R426). Safe: the hardware does nothing either. -/
  | clocksStopped
  deriving DecidableEq, Repr

/-- A step without a meaning. -/
inductive Refusal where
  /-- Raised by `exec` for an instruction that has no meaning in the model yet. Safe: nothing can be proved of it. -/
  | notModelled (mnemonic : String)
  deriving DecidableEq, Repr

/-! ## Results and accesses under way in a stream (R145, R132) -/

/-- Where a pending result lands. -/
inductive Dest where
  /-- only flags -/
  | flags
  | s (d : Nat) (v : Word)
  | p (d : Nat) (v : Bool)
  /-- the written lanes of a vector register -/
  | v (d : Nat) (lanes : List (Nat × W32))
  /-- the written bits of a mask -/
  | k (d : Nat) (bits : List (Nat × Bool))
  | xf (d : Nat) (v : Word)
  /-- a SYSW (R197) -/
  | sys (n : Nat) (v : Word)
  /-- a parameter register of the core (R262) -/
  | mp (d : Nat) (v : Word)
  /-- a geometry set (R342) -/
  | gset (g : Nat) (ws : List Word)
  /-- a resident channel entry (R351) -/
  | chan (c : Nat) (ws : List Word)
  /-- the replay bank (R355); none leaves replay -/
  | kiln (k : Option (List Word))
  deriving DecidableEq, Repr

/-- An entry of the landing buffer (R146): `rem` ticks remain, `seq` is the issue order (R147). -/
structure Landing where
  seq   : Nat
  rem   : Nat
  flags : Nat
  dest  : Dest
  /-- bundle and slot of its operation (R392) -/
  src   : Nat × Nat
  deriving DecidableEq, Repr

/-- The operations of AMO (R219). -/
inductive AmoOp where | add | max | min | swap | cas
  deriving DecidableEq, Repr

/-- What a pending scratchpad access does when its tick comes. -/
inductive AccOp where
  /-- load `n` bytes at `a` into s register `d` -/
  | loadS (d a n : Nat) (signed : Bool)
  /-- load 4 bytes per written lane: (lane, address) -/
  | loadV (d : Nat) (els : List (Nat × Nat))
  /-- load a KBF block per cluster: (cluster, code address, header address) -/
  | loadK (d k : Nat) (els : List (Nat × Nat × Nat))
  /-- store elements, each whole: (address, bytes) -/
  | store (els : List (Nat × List Byte))
  | amoSample (d a : Nat) (op : AmoOp) (v e : Word)
  /-- an AMO whose write tick has come while its sample waits for another AMO (R220) -/
  | amoLate (d a : Nat) (op : AmoOp) (v e : Word)
  | amoWrite (d a : Nat) (op : AmoOp) (v e : Word) (old : Word)
  /-- GSET's 192 bytes, CHW's 64 bytes and KILNR's 256 bytes -/
  | loadG (g a : Nat)
  | loadCh (c a : Nat)
  | loadKiln (a : Nat)
  /-- a gang message's source sample (R349) -/
  | msgSample (id : Nat)
  deriving DecidableEq, Repr

/-- A pending scratchpad access: `rem` ticks remain, `lat` ticks from the sample to the landing, issued in cycle `cyc`. -/
structure Access where
  seq    : Nat
  rem    : Nat
  lat    : Nat
  al     : Bool
  cyc    : Nat
  bundle : Nat
  slot   : Nat
  op     : AccOp
  deriving DecidableEq, Repr

/-! ## Waiting, traps and tasks -/

/-- A WAITA or WAITO in force (R191 to R194). `tested` after its test tick: the stream sleeps. -/
structure Wait where
  /-- WAITA: doubleword address, condition, value; otherwise the tile of a WAITO -/
  isA    : Bool
  addr   : Nat
  cond   : WCond
  val    : Word
  bundle : Nat
  mask   : Nat
  /-- where the stream goes on after the wait -/
  next   : Nat
  tested : Bool
  count  : Nat
  /-- the condition held at the sample position of this cycle -/
  ok     : Bool
  deriving DecidableEq, Repr

/-- What the committed slots of the bundle at pc have asked for so far. -/
structure Part where
  /-- target, idle ticks before it, and whether the executing bank is exchanged -/
  goto  : Option (Nat × Nat × Bool)
  wait  : Option Wait
  tend  : Bool
  /-- idle ticks after the bundle beyond its own (IFENCE) -/
  extra : Nat
  deriving DecidableEq, Repr, Inhabited

def Part.none : Part := ⟨.none, .none, false, 0⟩

/-- A task's place in the machine (R359, R371, R374). -/
structure Task where
  launch : Nat
  wid    : Word
  /-- (offset, width) of the six work-id fields -/
  fields : List (Nat × Nat)
  det    : Bool
  gang   : Option Nat
  gidx   : Nat
  gsize  : Nat
  /-- the lead's core, whose instruction scratchpad a gang fetches (R374); the task's own core otherwise -/
  lead   : Nat
  deriving DecidableEq, Repr

/-- The task state held while a handler runs (R148). -/
structure Held where
  landing : List Landing
  acc     : List Access
  idle    : Nat
  wait    : Option Wait
  part    : Part
  tpc     : Nat
  /-- the tick of the stop is not over: its landings are done and it is run again (R384) -/
  sameTick : Bool
  drawSet : Bool
  deriving DecidableEq, Repr

/-- A fault record (R85) without its last field's byte order. -/
structure FRec where
  va     : Word
  bundle : Nat
  slot   : Nat
  cause  : Nat
  kind   : Nat
  unit   : Nat
  code   : Nat
  time   : Word
  deriving DecidableEq, Repr

/-- An asynchronous condition that names an operation: trap code, bundle, slot, argument (R386). -/
structure Async where
  code   : Nat
  bundle : Nat
  slot   : Nat
  arg    : Nat
  /-- the posted record it came in, of a routine fault -/
  frec   : Option FRec
  deriving DecidableEq, Repr

/-- What a stream does in the cycle under way (the model's own field, set when the cycle is planned). -/
inductive Ph where
  | rest | idle | test | sleep | issue | reissue | drain
  /-- held by its gang (R375 item 2) -/
  | held
  deriving DecidableEq, Repr, Inhabited

/-- A deviation run (R409): cause code, first cycle, bundle, slot, mode, cycles so far. -/
structure Dev where
  cause  : Nat
  first  : Nat
  bundle : Nat
  slot   : Nat
  sup    : Bool
  len    : Nat
  /-- the work id of the stream's task as the run began -/
  wid    : Word
  deriving DecidableEq, Repr

/-- The general registers of a stream (R141). -/
structure Regs where
  s  : Tab Word
  p  : Tab Bool
  /-- key 128 * register + position -/
  v  : Tab W32
  k  : Tab (BitVec 128)
  xf : Tab Word
  ts : Tab W32
  /-- key 24 * set + doubleword -/
  g  : Tab Word
  deriving DecidableEq, Repr, Inhabited

/-- The system registers of a stream (R143, R144, R49, R123). -/
structure SysRegs where
  fflags : Nat
  clma   : BitVec 8
  clmb   : BitVec 8
  scoll  : Word
  /-- ticks begun since dispatch; STICK reads one less, 0 before the first tick -/
  ticks  : Nat
  kseed  : Word
  ktens  : W32
  kstep  : W32
  drawc  : W32
  kidx   : Word
  kdest  : Word
  spawnc : W32
  kwen   : Bool
  tsel   : BitVec 11
  exb    : Bool
  sup    : Bool
  replay : Bool
  deriving DecidableEq, Repr, Inhabited

/-- The trap registers of a stream (R388). -/
structure TrapRegs where
  code  : Nat
  slot  : Nat
  asy   : Bool
  done  : BitVec 8
  arg   : BitVec 28
  tpc   : Nat
  top   : Nat
  tfr   : List Word
  flost : Nat
  sscr  : Tab Word
  deriving DecidableEq, Repr, Inhabited

/-- Conditions that wait for a boundary of the stream (R386). -/
structure Pending where
  faults   : List FRec
  lost     : Bool
  keywarns : List FRec
  routine  : List Async
  /-- operations that have met an uncorrectable error -/
  ecc      : List Async
  waitto   : Bool
  dbg      : Bool
  hsig     : Bool
  quant    : Bool
  /-- routine flags that join at the next tick, and those of routines that finished in this cycle (R268) -/
  flagsIn  : Nat
  flagsNew : Nat
  deriving DecidableEq, Repr, Inhabited

/-- One bundle stream (R140, R141). -/
structure Stream where
  regs : Regs
  sys  : SysRegs
  trap : TrapRegs
  pend : Pending
  /-- the replay bank (R355, R397, R402): the record's 32 doublewords, its scales, its (entry, tag) pairs -/
  bank      : List Word
  bankTs    : List W32
  bankPairs : List (Nat × Nat)
  task : Option Task
  pc   : Nat
  /-- committed slots of the bundle at pc (R384) -/
  done : BitVec 8
  part : Part
  sameTick : Bool
  idle : Nat
  wait : Option Wait
  ending : Bool
  landing : List Landing
  acc  : List Access
  seq  : Nat
  held : Option Held
  /-- a return under way: END and SKIP (R389) -/
  ret  : Option (Bool × BitVec 8)
  /-- (storage offset, old word) of instruction words written since the stream's last IFENCE of their region (R129) -/
  stale : List (Nat × W32)
  bpSkip : Bool
  stepDue : Bool
  /-- a SYSW to DRAWC has landed in the tick under way (R54) -/
  drawSet : Bool
  dev  : Option Dev
  /-- a trap has been entered in this cycle: its debug record is to be made, with the work id at the entry -/
  entered : Bool
  entWid  : Word
  /-- stores and shared results of a handler whose return has taken effect: they perform and land in the cycle of the return, in
  their place among the core's (R132, R262, R389) -/
  lastAcc  : List Access
  lastLand : List Landing
  /-- the tick after the last one in which a slot posted less than another member's may have (R377) -/
  quiet : Nat
  ph   : Ph
  deriving DecidableEq, Repr, Inhabited

/-! ## Engines of a core -/

/-- The owner states of R116. -/
inductive Owner where | core | engR | engW | fab | mbx
  deriving DecidableEq, Repr

/-- A tile's owner state, SKEW and hold count (R113, R116). -/
structure Tile where
  st    : Owner
  skew  : Bool
  holds : Nat
  deriving DecidableEq, Repr

def Tile.free : Tile := ⟨.core, false, 0⟩

/-- A pending take (R118, R119): command, tile, destination or source, issue cycle. -/
structure Take where
  id   : Nat
  tile : Nat
  dst  : Bool
  cyc  : Nat
  deriving DecidableEq, Repr

/-- The fields of a completion record captured at issue (R100, R338). -/
structure Rec where
  none  : Bool
  addr  : Nat
  stamp : Word
  scope : Nat
  deriving DecidableEq, Repr

/-- Who issued a command, and what it captured of its stream (R56, R58, R85, R73). -/
structure Origin where
  sec    : Bool
  bundle : Nat
  slot   : Nat
  /-- the launch whose task issued it; none from a handler without a task -/
  launch : Option Nat
  wid    : Word
  kseed  : Word
  ktens  : W32
  kstep  : W32
  kwen   : Bool
  det    : Bool
  sup    : Bool
  replay : Bool
  pairs  : List (Nat × Nat)
  exb    : Bool
  deriving DecidableEq, Repr

/-- An arming in force (R124, R345). -/
structure Arming where
  tile   : Nat
  n      : Nat
  count  : Nat
  landed : Nat
  crec   : Rec
  org    : Origin
  deriving DecidableEq, Repr

/-- Kinds of command that run beside the streams (R336). -/
inductive CKind where
  | cpy | cpyc | fsend | fmcast | fred (op : AOp) (f : AFmt) | ratom (op : AOp) (f : AFmt) | kilnw | digest | efence
  | gangMsg
  deriving DecidableEq, Repr

/-- A command of a core in flight (R103, R336). -/
structure Cmd where
  id    : Nat
  kind  : CKind
  org   : Origin
  /-- the captured geometry set, 24 doublewords -/
  set   : List Word
  a     : Word
  b     : Word
  /-- RATOM's operand and expected value -/
  x     : Nat
  e     : Nat
  /-- KILNW's record -/
  bytes : List Byte
  /-- tiles it takes: (tile, as a destination) -/
  tiles : List (Nat × Bool)
  crec  : Rec
  /-- it counts against the 512 places (R337) -/
  place : Bool
  /-- identities of the commands, routines, collectives and headers it waits for: CPYC, EFENCE -/
  after : List Nat
  /-- destination units done, and the CRC register so far -/
  next  : Nat
  crc   : Nat
  flags : Nat
  /-- lowest nonzero status met so far and the cause of an XLAT -/
  status : Nat
  cause : Nat
  byte3 : Nat
  /-- it has ended before every destination unit was converted (R84) -/
  cut   : Bool
  /-- a copy's destination before its first chunk, doubleword by doubleword of its footprint (R10) -/
  olds  : List Nat
  /-- digest sum -/
  sum   : Nat
  /-- 0 under way, 1 requests of the chunk are out, 2 a further write is out, 3 the record is under way -/
  phase : Nat
  deriving DecidableEq, Repr

/-- The kinds of micro-operation by what they depend on (R266). -/
inductive MKind where | lds | swap | strm | acc
  deriving DecidableEq, Repr

/-- A micro-operation that has dispatched and has not surely finished: its accumulator tiles, the scratchpad runs (address,
length) that it writes, and its flags (R181, R266). -/
structure MOp where
  kind  : MKind
  tiles : List Nat
  runs  : List (Nat × Nat)
  flags : Nat
  deriving DecidableEq, Repr

/-- A routine of the MXE queue (R263). -/
structure Routine where
  id    : Nat
  entry : Nat
  prof  : Nat
  rnd   : Rnd
  sat   : Bool
  mp    : List Word
  xf    : List Word
  ts    : List W32
  org   : Origin
  tiles : List (Nat × Bool)
  /-- the cycle of its MCALL's issue -/
  cyc   : Nat
  begun : Bool
  mended : Bool
  /-- flags of the micro-operations that have surely finished (R181) -/
  flags : Nat
  /-- the others, in program order -/
  open_ : List MOp
  deriving DecidableEq, Repr

/-- An index in an address queue with its captured configuration (R107). -/
structure AEntry where
  index : Word
  gqb   : Word
  gqc   : Word
  gql   : Word
  org   : Origin
  deriving DecidableEq, Repr

/-- An entry of a data queue (R108). -/
structure DEntry where
  vec   : Bool
  bytes : List Byte
  deriving DecidableEq, Repr

/-- A GSTART in progress (R344). -/
structure GStart where
  id   : Nat
  addr : Nat
  n    : Nat
  next : Nat
  gqb  : Word
  gqc  : Word
  gql  : Word
  tiles : List (Nat × Bool)
  org  : Origin
  deriving DecidableEq, Repr

/-- One gather queue (R106). -/
structure GQueue where
  gqb : Word
  gqc : Word
  gql : Word
  oob : Bool
  xf  : Bool
  aq  : List AEntry
  dq  : List DEntry
  gs  : Option GStart
  deriving DecidableEq, Repr

/-- The value of a plane element or an accumulator contribution: an exact `m * 2^e`, or NAN; `loud` where it comes from a
signalling NaN or an infinity (R256). -/
inductive PVal where
  | nan (loud : Bool)
  | num (m : Int) (e : Int)
  deriving DecidableEq, Repr

/-- A weight plane with its record (R258). Key 256 * kk + j; complex profiles hold the imaginary part in `im`. -/
structure Plane where
  prof : Nat
  kl   : Nat
  re   : Tab PVal
  im   : Tab PVal
  deriving DecidableEq, Repr, Inhabited

/-- The matrix engine of a core (R252, R258, R261, R265, R266). -/
structure Mxe where
  mp    : Tab Word
  upc   : Nat
  /-- key 32768 * tile + 256 * row + column -/
  acc   : Tab (BitVec 48)
  accE  : Tab Int
  active : Plane
  shadow : Plane
  /-- the context region, by microword address -/
  ucode : Tab Word
  queue : List Routine
  /-- accumulators, planes or microcode hold an uncorrectable error (R392) -/
  ecc   : Bool
  /-- array cycles or LDS cycles of the last micro-operation that are still to start, and what each charges (R379) -/
  left  : Nat
  units : Nat
  deriving DecidableEq, Repr, Inhabited

/-- A gang message on its way (R349). -/
structure GMsg where
  id    : Nat
  src   : Nat
  dst   : Nat
  /-- the destination's virtual pages, and the receiver's scratchpad offsets that they reach -/
  pages : List (Int × Nat)
  /-- destination tick of the receiver -/
  tick  : Nat
  data  : List (Nat × Byte)
  sampled : Bool
  deriving DecidableEq, Repr

/-- What waits for a reserved doubleword (R220): a write of a stream (with its cycle of issue) or of an engine, an AMO's
sample, or a request of another agent, which performs whole once the reservation is over. -/
inductive Deferred where
  | write (who : Option Bool) (cyc a : Nat) (bs : List Byte)
  | sample (who : Bool) (acc : Access)
  | packet (p : Packet)
  deriving DecidableEq, Repr

/-- A doubleword reserved by an AMO of a stream from its sample to its write (R220). -/
structure Resv where
  addr : Nat
  sec  : Bool
  seq  : Nat
  old  : Word
  late : List Deferred
  deriving DecidableEq, Repr

/-- What a context has on a core: everything of R141 that belongs to the context image. -/
structure Seat where
  prim : Stream
  sec  : Stream
  spad : Tab Byte
  /-- common region, bank A and bank B, by window offset from 0x60_0000 -/
  ispad : Tab Byte
  tiles : Tab Tile
  takes : List Take
  armings : List Arming
  resv  : List Resv
  /-- core accesses that have performed in the cycle under way: cycle of issue, address, bytes (R213) -/
  just  : List (Nat × Nat × Nat)
  mxe   : Mxe
  gq    : Tab GQueue
  /-- QDROPs of the cycle under way: queue, and how many of its indices go (R222) -/
  drops : List (Nat × Nat)
  cmds  : List Cmd
  msgs  : List GMsg
  /-- the loaded image's address (R372) -/
  image : Option Nat
  /-- doublewords of the data and instruction scratchpads that hold an uncorrectable error (R392) -/
  bad   : List Nat
  ibad  : List Nat
  deriving DecidableEq, Repr, Inhabited

/-- A freeze (R157, R410): cause code, and (stream, bundle, slot) of each stream that caused it. -/
structure Freeze where
  cause : Nat
  named : List (Bool × Nat × Nat)
  deriving DecidableEq, Repr

/-- One core: the seat of the context that holds it, and what never belongs to a context. -/
structure Core where
  seat  : Seat
  owner : Option Nat
  /-- the supervisor region, by instruction address (R127, R130) -/
  svr   : Tab Byte
  pwrfz : Word
  tok   : Nat
  /-- charges of the last 63 cycles, newest first (R380) -/
  charges : List Nat
  epoch : Nat
  epochFz : Bool
  /-- the freeze of the cycle under way or just past (R157) -/
  frozen : Option Freeze
  /-- bytes of the windows that CXL.io has written since no context holds the core; the others are not specified (R442) -/
  bare : Tab Byte
  /-- it has stopped frozen for a quantum end (R398) -/
  halted : Bool
  /-- doublewords of the supervisor region that hold an uncorrectable error (R392) -/
  svrBad : List Nat
  deriving DecidableEq, Repr

/-! ## Contexts -/

/-- A translation held by a cache (R80): virtual page run, physical base, attributes. -/
structure TlbEntry where
  vpn  : Nat
  len  : Nat
  pbase : Nat
  dctx : Nat
  rd   : Bool
  w    : Bool
  a    : Bool
  d    : Bool
  /-- a walk that failed: its cause (R83); 0 otherwise -/
  fault : Nat
  deriving DecidableEq, Repr

/-- A walk requested but not finished (R80). -/
structure WalkReq where
  va : Nat
  deriving DecidableEq, Repr

/-- Window states (R86). -/
inductive WinSt where | live | held | image | revoked
  deriving DecidableEq, Repr

/-- Window state of a core with the accesses held at its lookup in order of arrival (R86). -/
structure Win where
  st   : WinSt
  held : List Packet
  deriving DecidableEq, Repr

/-- A key-use report on its way to the log (R58, R59). -/
structure KeyRep where
  ktens : W32
  kstep : W32
  ident : Word
  core  : Nat
  unit  : Nat
  org   : Origin
  deriving DecidableEq, Repr

/-- A fault record on its way to its stream or to the ring (R85). -/
structure FPost where
  core : Nat
  org  : Origin
  frec : FRec
  deriving DecidableEq, Repr

/-- An open reduction round of a group (R297). -/
structure Round where
  /-- cycle in which it opened -/
  start : Nat
  /-- (rank, element, value) in order of arrival -/
  contribs : List (Nat × Nat × Nat)
  deriving DecidableEq, Repr

/-- One context: what it has beside its register blocks (those are in `State.regs`). -/
structure Ctx where
  /-- DBGA and CSEED as fixed at CREATE (R393) -/
  dbga  : Bool
  cseed : Word
  /-- range store, key 8 * entry + doubleword (R71, R75) -/
  rng   : Tab Word
  tlb   : List TlbEntry
  walks : List WalkReq
  /-- the key-use log, oldest first (R58) -/
  keylog : List (W32 × W32 × Word)
  keyReps : List KeyRep
  posts : List FPost
  /-- resident reduction and multicast entries, key 8 * group + doubleword and 128 * group + doubleword (R295) -/
  groups : Tab Word
  mgroups : Tab Word
  rounds : Tab Round
  /-- resident channel and ring entries, key 8 * entry + doubleword (R305) -/
  chans : Tab Word
  rings : Tab Word
  /-- key channel: credits held as a sender, sequence number (R310, R313) -/
  chst  : Tab (Nat × Nat)
  /-- key channel: sequence number at its last reload (R433) -/
  chNum : Tab Nat
  /-- chunks and markers of commands that have not started (R313) -/
  chHeld : List Packet
  /-- key core (R86) -/
  wins  : Tab Win
  /-- what the save image holds in the KD-192's own format, key core (R396, R397) -/
  saved : Tab Seat
  /-- cores whose image has been written elsewhere than R435 allows -/
  taint : List Nat
  /-- tile-state words of the image, (core, tile), written with a value that does not say the tile's state (R435) -/
  odd : List (Nat × Nat)
  /-- requests of a killed context that must be answered (R400) -/
  drain : List Nat
  /-- number of the cycle in which it last took its core set, plus 1 (R394) -/
  tookAt : Nat
  /-- GTB cycle in which the context took its set (R394) -/
  qstart : Word
  /-- the quantum end is under way: units stop and save (R398) -/
  leaving : Bool
  deriving DecidableEq, Repr

/-! ## The fabric (11) -/

/-- A port (R280 to R283, R302). -/
structure Port where
  up      : Bool
  sendSeq : Nat
  recvSeq : Nat
  /-- unacknowledged flits, oldest first -/
  replay  : List (List Byte)
  /-- flits of the replay buffer sent since the last acknowledgement or NAK -/
  sent    : Nat
  /-- the next flit that leaves carries NAK -/
  nak     : Bool
  /-- a discard has come since the last accepted flit: its NAK is made (R282 item 3) -/
  gap     : Bool
  /-- failures in a row of the oldest flit, and the cycle of the last acknowledgement (R282) -/
  fails   : Nat
  ackCyc  : Nat
  /-- packet bytes received so far, per virtual channel (R281) -/
  asm     : Tab (List Byte)
  /-- the neighbour's distance from the root, its last GTB and the cycle of its TIME packet (R302) -/
  hop     : Option Nat
  /-- the last measure of the link's round trip, in cycles (R302 item 3) -/
  rtt     : Option Nat
  /-- a TIME packet that found no place in the replay buffer (R302 item 2) -/
  timeDue : Bool
  /-- the sequencer runs its shadow set (R322, R323) -/
  shadow  : Bool
  deriving DecidableEq, Repr

/-- What a request of this package is for (R290). `what` numbers the access within its agent. -/
inductive Agent where
  /-- a command of a core -/
  | cmd (c id what : Nat)
  /-- a row of a gather queue: the row's place in the address queue -/
  | row (c q n : Nat)
  /-- a record on its way: job number -/
  | rcd (n : Nat)
  | coll (id what : Nat)
  /-- a read of the launch manager -/
  | hdr (n what : Nat)
  deriving DecidableEq, Repr

/-- The answer to a request: status, flags, data. -/
structure Resp where
  status : Nat
  flags  : Nat
  data   : List Byte
  deriving DecidableEq, Repr

/-- A request of this package (R290): it stays until its agent has taken the answer. -/
structure Req where
  tag   : Nat
  agent : Agent
  kind  : PKind
  /-- virtual address and bytes -/
  va    : Nat
  n     : Nat
  sup   : Bool
  cyc   : Nat
  /-- destination package, source core and line, for R289's order -/
  dpkg  : Nat
  core  : Nat
  addr  : Nat
  /-- the bytes of a write, and whether they are digested (R404) -/
  data  : List Byte
  dig   : Bool
  /-- the port it left through (R289) -/
  port  : Option Nat
  res   : Option Resp
  deriving DecidableEq, Repr

/-- Who a record belongs to. -/
inductive RecOwner where
  | cmd (c id : Nat)
  | coll (id : Nat)
  | launch (id : Nat)
  | other
  deriving DecidableEq, Repr

/-- A record whose halves are written by requests that cross the fabric or wait at a window (R102, R136). -/
structure RecJob where
  n     : Nat
  owner : RecOwner
  ctx   : Nat
  core  : Nat
  org   : Origin
  unit  : Nat
  va    : Nat
  lo    : Word
  hi    : Word
  /-- bytes 7:0 are written: the stamp half is next -/
  second : Bool
  /-- the half under way has been sent -/
  sent  : Bool
  /-- requests that must be answered first -/
  after : Option Agent
  deriving DecidableEq, Repr

/-! ## The collective engine (12) -/

/-- A chunk as it stands on the wire (R312). -/
structure Wire where
  step : Nat
  off  : Nat
  n    : Nat
  last : Bool
  data : List Byte
  deriving DecidableEq, Repr

/-- A collective command in flight (R310). `kind` is 0 to 5 as in CCOLL, 6 for CRECV and 7 for CSEND. -/
structure Coll where
  id    : Nat
  ctx   : Nat
  core  : Nat
  org   : Origin
  kind  : Nat
  /-- channels used to send and to receive -/
  sch   : Nat
  rch   : Nat
  /-- captured entries: send channel, receive channel, ring descriptor -/
  se    : List Word
  re    : List Word
  ring  : List Word
  addr  : Word
  n     : Nat
  scope : Nat
  va    : Nat
  stamp : Word
  seq   : Nat
  /-- cycles that the step timer has run since its last restart (R330) -/
  timer : Nat
  /-- own chunks produced for step 0 -/
  own   : Nat
  /-- steps of the chunks sent, and of the credits that came back for them -/
  sent  : List Nat
  back  : List Nat
  /-- chunks received and consumed: (step, offset, count, LAST) -/
  got   : List (Nat × Nat × Nat × Bool)
  /-- chunks waiting to be sent -/
  toSend : List Wire
  /-- chunks received for the command before it could take them -/
  early : List Wire
  /-- words already read, as codes, key 4 * element + 0 for the local element, 1 to 3 for the optimiser's words -/
  loc   : Tab Nat
  /-- optimiser descriptor, eight doublewords -/
  opt   : List Word
  /-- range entries written through by the optimiser -/
  optEnt : List Nat
  flags : Nat
  keyed : Bool
  /-- abort: reason, cause or originating reason, failing step, suspected peer -/
  abort : Option (Nat × Nat × Nat × Nat)
  /-- 0 not started, 1 reading the optimiser descriptor, 2 running, 3 its record is under way -/
  phase : Nat
  deriving DecidableEq, Repr

/-! ## Launches (14) -/

/-- A header read from a queue, or a SPAWN waiting for its acceptance (R353, R366). -/
structure Spawn where
  id   : Nat
  ctx  : Nat
  core : Nat
  org  : Origin
  va   : Nat
  kseed : Word
  kstep : W32
  deriving DecidableEq, Repr

/-- An accepted launch that has not completed (R361 to R370). -/
structure Launch where
  id    : Nat
  ctx   : Nat
  /-- the header's sixteen doublewords, the seed and step of a SPAWN put in (R378) -/
  hdr   : List Word
  entry : Nat
  clen  : Nat
  alen  : Nat
  /-- work ids of tasks not yet dispatched are those of the units from this one on -/
  unit  : Nat
  /-- tasks dispatched that have not ended -/
  running : Nat
  age   : Nat
  /-- the cycle last counted, plus 1 -/
  ageCyc : Nat
  aged  : Bool
  /-- cores into which RELOAD has loaded the image for this launch -/
  loaded : List Nat
  status : Nat
  cause : Nat
  nrec  : Nat
  /-- no further task dispatches (R372) -/
  stop  : Bool
  /-- its record is under way -/
  closing : Bool
  deriving DecidableEq, Repr

/-- A gang (R374 to R377). -/
structure Gang where
  /-- cores of the members, member 0 first -/
  cores : List Nat
  skew  : Nat
  origin : Nat
  /-- the stream tick at which the members end, once all have issued their TEND (R195) -/
  ends  : Option Nat
  deriving DecidableEq, Repr

/-- The power ring of a die (R381, R382), its junction temperature in units of 0.125 degrees and its throttling (R418, R426). -/
structure Die where
  pool : Nat
  tj   : Nat
  /-- steps by which a hot die's DTOK was lowered (R426) -/
  steps : List Nat
  hot  : Bool
  /-- the cycle of its next step of throttling (R426) -/
  due  : Nat
  deriving DecidableEq, Repr

/-! ## What the environment does to the package in a cycle, beside its inputs -/

/-- Errors in storage (R303, R392, R424), and what the package's sensors and links measure (R302, R418). -/
inductive Upset where
  /-- an error that the protection corrects -/
  | corrected
  /-- a doubleword of the data scratchpad, of the common region or a bank (by window offset from 0x60_0000), or of the
  supervisor region of core `c` -/
  | data (c dw : Nat)
  | code (c dw : Nat)
  | sup (c dw : Nat)
  /-- accumulators, planes or microcode of core `c` -/
  | mxe (c : Nat)
  /-- the registers or queue entries that slot `k` of the stream reads in this cycle -/
  | read (c : Nat) (sec : Bool) (k : Nat)
  /-- the landing-buffer entries of the stream that land in this cycle -/
  | land (c : Nat) (sec : Bool)
  /-- the Mash unit's next operation on a group's round, or on an atomic of the context (group 1,024) -/
  | mash (x g : Nat)
  /-- a packet in the buffers of the crossbar, by its place -/
  | packet (n : Nat)
  /-- the junction of die `d` is at `v` units of 0.125 degrees -/
  | temp (d v : Nat)
  /-- the round trip of port `i`'s link takes `n` cycles -/
  | trip (i n : Nat)
  deriving DecidableEq, Repr

/-- The way a request of one source core has taken (R289): packets that must follow it take its port. -/
structure Bind where
  src  : Nat
  core : Nat
  tag  : Nat
  vc   : Nat
  dst  : Nat
  /-- 256-byte lines: the first and the last -/
  lo   : Nat
  hi   : Nat
  port : Nat
  cyc  : Nat
  deriving DecidableEq, Repr

/-- Whose turn it is inside a cycle (the model's own). -/
inductive Turn where
  | start | returns | plan | tick (c : Nat) | joins | issue (c : Nat) (t : Bool) | slot (c : Nat) (t : Bool) | after (c : Nat)
  | close
  deriving DecidableEq, Repr

/-- The slot instruction under way: bundle, header and what the slots below it have done (the model's own). -/
structure Cursor where
  core : Nat
  sec  : Bool
  pc   : Nat
  len  : Nat
  rnd  : Rnd
  sat  : Bool
  prof : Nat
  slot : Nat
  done : BitVec 8
  part : Part
  /-- the header's present mask and idle field, and the slots not yet reached with their words -/
  present : BitVec 8
  hidle   : Nat
  todo    : List (Nat × W32)
  /-- the drawing slots of the bundle (R54) -/
  drawers : List Nat
  /-- what the seat will be after every slot of the cycle's bundles, in deterministic mode (R212) -/
  ahead : Option Seat
  /-- the seat as it stands before any bundle of the cycle issues (R197) -/
  start : Option Seat
  /-- the slots run to find that out: no OWNVIOL test -/
  trial : Bool
  /-- a slot trapped: no further slot of the bundle issues -/
  stopped : Bool
  deriving DecidableEq, Repr

structure State where
  cores : Tab Core
  ctxs  : Tab Ctx
  /-- registers of BAR 0, key its offset (R68): FCFG, FSTAT, ROUTE (R288), the translation, group, collective, control and
  debug blocks of the contexts (R70, R295, R304, R391, R406), the launch queues (R364), DPCFG (R381) and the system block
  (R418). A register that is not listed holds its reset value. -/
  regs  : Tab Word
  /-- staging area and report (R421, R423), key BAR 0 offset -/
  staging : Tab Byte
  /-- the firmware image in flash (R421) -/
  flash : List Byte
  hbm   : Tab Byte
  /-- HBM lines of 64 bytes that hold an uncorrectable error (R417, R424) -/
  poison : List Nat
  hostMem : Tab Byte
  /-- what the host writes into its own memory in the cycles to come: one list of places and bytes a cycle (R66, R68) -/
  hostFeed : List (List (Nat × Byte))
  /-- storage errors of the cycles to come, one list a cycle, and those of the cycle under way (R424) -/
  upsets : List (List Upset)
  upset  : List Upset
  ports : Tab Port
  /-- the ways of requests that are not yet acknowledged, latest first (R289) -/
  binds : List Bind
  /-- packets handed to the fabric (R289) -/
  outbox : List Packet
  reqs  : List Req
  recs  : List RecJob
  nextTag : Nat
  /-- groups (context, group) whose next operation fails its residue check; group 1,024 stands for the context's atomics (R300) -/
  mashBad : List (Nat × Nat)
  /-- REDUCE packets returned for lack of room, with the cycle of the return (R297) -/
  returned : List (Nat × Packet)
  /-- the cycle after that of the last accepted TIME packet, 0 before the first; the first cycle that allows a correction (R302) -/
  timeCyc : Nat
  corrCyc : Nat
  /-- estimated error of the GTB against the followed neighbour (R302) -/
  timeErr : Int
  /-- what the cycle adds to the GTB: 1, or 0 or 2 in a correction -/
  gtbStep : Nat
  /-- set once at start-up (R302 item 5) -/
  timeSet : Bool
  spawns : List Spawn
  launches : List Launch
  /-- tail last read of a launch queue, and queues that have stopped (R365) -/
  tails : Tab Word
  stopped : List Nat
  /-- the header of a queue's entry whose acceptance is under way, key queue (R363) -/
  heads : Tab (List Word)
  /-- next launch queue of the round robin (R366) -/
  robin : Nat
  /-- contexts that a warm start has killed, until they are created again (R66, R420) -/
  gone  : List Nat
  /-- the certificate of the alias key that the device key signed at the last cold start (R422) -/
  cert  : List Byte
  gangs : Tab Gang
  colls : List Coll
  dies  : Tab Die
  nextId : Nat
  /-- MSI-X vectors sent, newest first (R416) -/
  msix  : List Nat
  /-- the answer to the last host read: bytes and poison (R67) -/
  hostReply : List Byte × Bool
  cycle : Nat
  gtb   : Word
  agenda : List Instr
  inputs : List (List Instr)
  turn  : Turn
  cur   : Cursor
  free  : Nat
  deriving DecidableEq, Repr

/-! ## Reset values -/

def Regs.reset : Regs := ⟨[], [], [], [], [], [], []⟩

/-- R144: CLMA and CLMB reset to 0xFF; KWEN to 1 (R49). TS0 to TS15 reset to 1.0: see `tsDefault`. -/
def SysRegs.reset : SysRegs :=
  { fflags := 0, clma := 0xFF, clmb := 0xFF, scoll := 0, ticks := 0, kseed := 0, ktens := 0, kstep := 0, drawc := 0,
    kidx := 0, kdest := 0, spawnc := 0, kwen := true, tsel := 0, exb := false, sup := false, replay := false }

/-- The reset value of a tensor scale register (R144). -/
def tsDefault : W32 := 0x3F800000

def TrapRegs.reset : TrapRegs :=
  { code := 0, slot := 0, asy := false, done := 0, arg := 0, tpc := 0, top := 0, tfr := [0, 0, 0, 0], flost := 0,
    sscr := [] }

def Pending.none : Pending :=
  { faults := [], lost := false, keywarns := [], routine := [], ecc := [], waitto := false, dbg := false,
    hsig := false, quant := false, flagsIn := 0, flagsNew := 0 }

def Stream.reset : Stream :=
  { regs := .reset, sys := .reset, trap := .reset, pend := .none, bank := [], bankTs := [], bankPairs := [], task := .none, pc := 0,
    done := 0, part := .none, sameTick := false, idle := 0, wait := .none, ending := false, landing := [], acc := [],
    seq := 0, held := .none, ret := .none, stale := [], bpSkip := false, stepDue := false, drawSet := false,
    dev := .none, entered := false, entWid := 0, lastAcc := [], lastLand := [], quiet := 0, ph := .rest }

/-- A plane of zeros with the record (0, 128) (R258). -/
def Plane.reset : Plane := ⟨0, 128, [], []⟩

/-- The default of an unlisted plane value: the number 0. -/
def PVal.zero : PVal := .num 0 0

def Mxe.reset : Mxe :=
  { mp := [], upc := 0, acc := [], accE := [], active := .reset, shadow := .reset, ucode := [], queue := [],
    ecc := false, left := 0, units := 0 }

def GQueue.reset : GQueue := ⟨0, 0, 0, false, false, [], [], .none⟩

def Seat.reset : Seat :=
  { prim := .reset, sec := .reset, spad := [], ispad := [], tiles := [], takes := [], armings := [], resv := [], just := [],
    mxe := .reset, gq := [], drops := [], cmds := [], msgs := [], image := .none, bad := [], ibad := [] }

def Ctx.reset : Ctx :=
  { dbga := false, cseed := 0, rng := [], tlb := [], walks := [], keylog := [], keyReps := [], posts := [], groups := [],
    mgroups := [], rounds := [], chans := [], rings := [], chst := [], chNum := [], chHeld := [], wins := [],
    saved := [], taint := [], odd := [], drain := [], tookAt := 0, qstart := 0, leaving := false }

/-- R381: 96 tokens; R144: PWRFZ 0. -/
def Core.reset : Core :=
  { seat := .reset, owner := .none, svr := [], pwrfz := 0, tok := 96, charges := [], epoch := 0, epochFz := false,
    frozen := .none, bare := [], halted := false, svrBad := [] }

def Port.reset : Port :=
  { up := false, sendSeq := 0, recvSeq := 0, replay := [], sent := 0, nak := false, gap := false, fails := 0, ackCyc := 0,
    asm := [], hop := .none, rtt := .none, timeDue := false, shadow := false }

def Die.reset : Die := ⟨0, 0, [], false, 0⟩

def Cursor.reset : Cursor :=
  { core := 0, sec := false, pc := 0, len := 0, rnd := .rne, sat := false, prof := 0, slot := 0, done := 0, part := .none,
    present := 0, hidle := 0, todo := [], drawers := [], ahead := .none, start := .none, trial := false, stopped := false }

/-- The machine right after reset, before a cold start has run (R419): every register at its reset value, STAGE RESET,
every memory zero, the ports down. Values the spec does not give: log entries 8 to 11. -/
def State.reset : State :=
  { cores := [], ctxs := [], regs := [], staging := [], flash := [], hbm := [], poison := [], hostMem := [], hostFeed := [],
    upsets := [], upset := [], ports := [], binds := [], outbox := [], reqs := [], recs := [], nextTag := 0, mashBad := [], returned := [], timeCyc := 0, corrCyc := 0, timeErr := 0, gtbStep := 1,
    timeSet := false, spawns := [], launches := [], tails := [], stopped := [], heads := [], robin := 0, gone := [], cert := [],
    gangs := [], colls := [],
    dies := [], nextId := 0, msix := [], hostReply := ([], false), cycle := 0, gtb := 0, agenda := [], inputs := [],
    turn := .start, cur := .reset, free := 0 }

end Sys2Proof.Machine
end

