-- ==== Sys2Proof/Config.lean ====
section
/-! DEFINITION. What the spec leaves open: free values without a body (no proof can see them), each applied to the state's
counter of free values, so that every use is a fresh one; and the outcomes of checks whose arithmetic the spec does not
give. -/

namespace Sys2Proof.Config

/-- A free choice (R10, R59, R121, R129): log entry 3. -/
opaque freeBool : Nat → Bool

/-- A free doubleword (R10, R392): log entry 3. -/
opaque freeWord : Nat → Word

/-- A fetch of an instruction word that no IFENCE has ordered sees the new word (R129, R130): by cycle, stream of a core,
place of the word, and write: log entry 3. -/
opaque freeFetch : Nat → Nat → Nat → Nat → Bool

/-- The whole state of a core in a context whose image was written elsewhere than R435 allows: log entry 3. -/
opaque freeSeat : Nat → Machine.Seat

/-- The header of a firmware image (R421): its own size in bytes, the image's length, its security version, the digest of
the rest of the image, the signature, and the bytes that the signature covers. -/
structure FwHeader where
  size   : Nat
  len    : Nat
  svn    : Nat
  digest : List Byte
  sig    : List Byte
  fields : List Byte
  deriving DecidableEq, Repr, Inhabited

/-- The header that opens an image; none where it is not well formed. The magic word and the places of the fields are not
given (R421): log entry 12. -/
opaque firmwareHeader : List Byte → Option FwHeader

/-- The public key whose SHA3-512 is fused (R421), and the fused minimum of the security version: log entry 12. -/
opaque firmwareKey : List Byte
opaque fusedSvn : Nat

/-- The fused unique device secret (R422): log entry 12. -/
opaque deviceSecret : List Byte

/-- ML-DSA-87, whose arithmetic the spec does not give (R421 to R423): the public key of the pair derived from a seed, 2,592
bytes; the signature of bytes by that pair, 4,627 bytes; the check of a signature by a public key. Log entry 12. -/
opaque mldsaPublic : List Byte → Nat
opaque mldsaSign : List Byte → List Byte → Nat
opaque mldsaVerify : List Byte → List Byte → List Byte → Bool

/-- HBM training of a cold start fails (R425): log entry 12. -/
opaque trainingFails : Nat → Bool

/-- Cores that firmware disables at a cold start, as a number of 192 bits (R425): log entry 12. -/
opaque disabledCores : Nat → Nat

/-- The delay of a port's link, in cycles, before its round trip has been measured (R302): log entry 12. -/
opaque linkDelay : Nat → Nat

/-- A port trains at a cold start (R419 step 5): log entry 12. -/
opaque portTrains : Nat → Bool

/-- The system is wired in two levels (R287): log entry 12. -/
opaque twoLevel : Bool

/-- Tokens of a die out of the package budget (R381, R419 step 7): log entry 12. -/
opaque packageBudget : Nat → Nat

end Sys2Proof.Config
end

