-- ==== Sys2Proof/WellFormed.lean ====
section
/-! DEFINITION. Which steps are well formed: the checks of R171 to R177 and R180 that the field types do not make already. -/

namespace Sys2Proof

/-- A destination register field takes the values 0 to 55 (R171). -/
def dst (d : RegF) : Bool := decide (d.toNat ≤ 55)

/-- Cores are numbered 0 to 191 (R1). -/
def coreOk (c : Nat) : Bool := decide (c < 192)

/-- Contexts are numbered 0 to 15 (R69). -/
def ctxOk (x : Nat) : Bool := decide (x < 16)

/-- Ports are numbered 0 to 127 (R280). -/
def portOk (p : Nat) : Bool := decide (p < 128)

/-- RATOM: SWAP and CAS have no FX128 form, and the operand of CAS and of FX128 is an even register 0 to 54 (R177,
R171). -/
def ratomOk (b : RegF) (op : AOp) (f : AFmt) : Bool :=
  !(decide (f = .fx128) && (decide (op = .swap) || decide (op = .cas))) &&
    (!(decide (op = .cas) || decide (f = .fx128)) || (decide (b.toNat % 2 = 0) && decide (b.toNat ≤ 54)))

/-- The formats a DRAIN may name (R180). -/
def drainFmt (f : BitVec 5) : Bool := [2, 3, 4, 5, 8, 12, 13, 14].contains f.toNat

/-- The well-formed steps: an encoding with any other field value is no instruction and traps ILLI (R178), and an event
names agents that exist. -/
def Instr.wellFormed : Instr → Bool
  | .idle _ _ _ prof => decide (prof.toNat < 12)
  | .brp p _ => decide (p ≠ 0)
  | .br _ => true
  | .brpn _ _ => true
  | .call d _ => dst d
  | .jmp _ _ => true
  | .callr d _ _ => dst d
  | .ret _ _ => true
  | .setf _ _ _ => true
  | .loop d _ _ => dst d
  | .loopi d _ _ => dst d
  | .bswap _ _ => true
  | .waita _ _ _ _ _ => true
  | .waito _ _ => true
  | .tend => true
  | .trap _ => true
  | .brk _ => true
  | .ifence _ => true
  | .sysr d _ => dst d
  | .sysw _ _ => true
  | .add d _ _ _ => dst d
  | .sub d _ _ _ => dst d
  | .mul d _ _ _ => dst d
  | .mulh d _ _ _ => dst d
  | .mulhu d _ _ _ => dst d
  | .divs d _ _ _ => dst d
  | .divu d _ _ _ => dst d
  | .rems d _ _ _ => dst d
  | .remu d _ _ _ => dst d
  | .and d _ _ _ => dst d
  | .or d _ _ _ => dst d
  | .xor d _ _ _ => dst d
  | .andn d _ _ _ => dst d
  | .shl d _ _ _ => dst d
  | .shr d _ _ _ => dst d
  | .sar d _ _ _ => dst d
  | .min d _ _ _ => dst d
  | .max d _ _ _ => dst d
  | .minu d _ _ _ => dst d
  | .maxu d _ _ _ => dst d
  | .clz d _ _ => dst d
  | .ctz d _ _ => dst d
  | .popc d _ _ => dst d
  | .sel d _ _ _ => dst d
  | .addi d _ _ => dst d
  | .andi d _ _ => dst d
  | .ori d _ _ => dst d
  | .xori d _ _ => dst d
  | .shli d _ _ => dst d
  | .shri d _ _ => dst d
  | .sari d _ _ => dst d
  | .lui d _ => dst d
  | .lhi d _ => dst d
  | .ltop d _ => dst d
  | .ext d _ w p => dst d && decide (p.toNat + w.toNat + 1 ≤ 64)
  | .ins d _ w p => dst d && decide (p.toNat + w.toNat + 1 ≤ 64)
  | .widx d f => dst d && decide (f ≠ 7)
  | .cmp _ _ _ _ _ => true
  | .cmpi _ _ _ _ => true
  | .pand _ _ _ _ => true
  | .por _ _ _ _ => true
  | .pxor _ _ _ _ => true
  | .pnot _ _ _ => true
  | .ldB d _ _ _ => dst d
  | .ldH d _ _ _ => dst d
  | .ldW d _ _ _ => dst d
  | .ldD d _ _ _ => dst d
  | .lduB d _ _ _ => dst d
  | .lduH d _ _ _ => dst d
  | .lduW d _ _ _ => dst d
  | .stB _ _ _ _ => true
  | .stH _ _ _ _ => true
  | .stW _ _ _ _ => true
  | .stD _ _ _ _ => true
  | .vld d _ _ _ _ => dst d
  | .vldb d _ _ _ _ => dst d
  | .vldt d _ _ _ _ => dst d
  | .vst _ _ _ _ _ => true
  | .vstt _ _ _ _ _ => true
  | .vlds d _ _ _ _ _ => dst d
  | .vsts _ _ _ _ _ _ => true
  | .amoAdd d _ _ _ _ => dst d
  | .amoMax d _ _ _ _ => dst d
  | .amoMin d _ _ _ _ => dst d
  | .amoSwap d _ _ _ _ => dst d
  | .amoCas d _ _ _ _ => dst d
  | .qpush _ _ _ => true
  | .qdrop _ _ => true
  | .vldkKbf7 d _ _ _ _ => dst d
  | .vldkKbf4 d _ _ _ _ => dst d
  | .vldkKbf2 d _ _ _ _ => dst d
  | .vstkKbf7 _ _ _ _ _ => true
  | .vstkKbf4 _ _ _ _ _ => true
  | .vstkKbf2 _ _ _ _ _ => true
  | .vaddI32 d _ _ _ _ => dst d
  | .vsubI32 d _ _ _ _ => dst d
  | .vmulI32 d _ _ _ _ => dst d
  | .vmulh d _ _ _ _ => dst d
  | .vand d _ _ _ _ => dst d
  | .vor d _ _ _ _ => dst d
  | .vxor d _ _ _ _ => dst d
  | .vabsI32 d _ _ _ => dst d
  | .vshl d _ _ _ _ => dst d
  | .vshr d _ _ _ _ => dst d
  | .vsar d _ _ _ _ => dst d
  | .vminI32 d _ _ _ _ => dst d
  | .vmaxI32 d _ _ _ _ => dst d
  | .vminU32 d _ _ _ _ => dst d
  | .vmaxU32 d _ _ _ _ => dst d
  | .vaddF32 d _ _ _ _ => dst d
  | .vsubF32 d _ _ _ _ => dst d
  | .vmulF32 d _ _ _ _ => dst d
  | .vfmaF32 d _ _ _ _ => dst d
  | .vminF32 d _ _ _ _ => dst d
  | .vmaxF32 d _ _ _ _ => dst d
  | .vdot2Bf16 d _ _ _ _ => dst d
  | .vabsF32 d _ _ _ => dst d
  | .vnegF32 d _ _ _ => dst d
  | .vcpysF32 d _ _ _ _ => dst d
  | .vaccrd d _ _ _ => dst d
  | .vcmpF32 _ _ _ _ _ _ => true
  | .vcmpI32 _ _ _ _ _ _ => true
  | .vmov d _ _ _ => dst d
  | .vsel d _ _ _ _ => dst d
  | .vbcast d _ _ _ => dst d
  | .vextr d _ _ _ _ => dst d
  | .vins d _ _ _ _ => dst d
  | .vperm d _ _ _ _ => dst d
  | .vxcl d _ _ _ _ => dst d
  | .viota d _ _ => dst d
  | .vredaddF32 d _ _ _ => dst d
  | .vredaddI32 d _ _ _ => dst d
  | .vredmaxF32 d _ _ _ => dst d
  | .vredmaxI32 d _ _ _ => dst d
  | .vredminF32 d _ _ _ => dst d
  | .vredminI32 d _ _ _ => dst d
  | .vcvt d _ s t _ _ => dst d && decide (s ≠ t)
  | .vcvtF32Fx128Lo d _ _ _ _ => dst d
  | .vcvtF32Fx128Hi d _ _ _ _ => dst d
  | .vrcp d _ _ _ => dst d
  | .vrcpr d _ _ _ _ => dst d
  | .vrsq d _ _ _ => dst d
  | .vrsqr d _ _ _ _ => dst d
  | .vsqrt d _ _ _ => dst d
  | .vexp2 d _ _ _ => dst d
  | .vlog2 d _ _ _ => dst d
  | .vsin d _ _ _ => dst d
  | .vcos d _ _ _ => dst d
  | .vrand d _ _ => dst d
  | .vrandf d _ _ => dst d
  | .vdrop d _ _ _ _ => dst d
  | .vtopk d _ _ _ _ => dst d
  | .vmergek d _ _ _ _ => dst d
  | .mpset _ _ => true
  | .mcall _ => true
  | .cpy _ _ _ => true
  | .cpyc _ _ _ => true
  | .gset _ _ => true
  | .gstart _ _ _ => true
  | .tarm _ _ _ => true
  | .fsend _ _ _ => true
  | .fmcast _ _ _ => true
  | .fred _ _ op _ _ => decide (op ≠ .swap) && decide (op ≠ .cas)
  | .ratom _ b op f _ => ratomOk b op f
  | .csend _ _ _ => true
  | .crecv _ _ _ => true
  | .chw _ _ => true
  | .ccollAllred _ _ _ => true
  | .ccollRedscat _ _ _ => true
  | .ccollAllgath _ _ _ => true
  | .ccollBcast _ _ _ => true
  | .ccollReduce _ _ _ => true
  | .ccollPxch _ _ _ => true
  | .spawn _ => true
  | .kilnw _ => true
  | .kilnr _ => true
  | .digest _ _ _ => true
  | .efence _ _ => true
  | .lds c _ _ _ => coreOk c
  | .swap c => coreOk c
  | .strm c _ _ _ => coreOk c
  | .strmc c _ _ _ => coreOk c
  | .zero c _ => coreOk c
  | .scale c _ _ => coreOk c
  | .ldacc c _ _ => coreOk c
  | .drain c _ _ _ _ fmt => coreOk c && drainFmt fmt
  | .amax c _ _ => coreOk c
  | .madd c _ _ _ => coreOk c
  | .mloop c _ _ => coreOk c
  | .mbrz c _ _ => coreOk c
  | .mwait c cls => coreOk c && decide (cls ≠ 0)
  | .mend c => coreOk c
  | .routineBegin c => coreOk c
  | .routineFinish c => coreOk c
  | .routineFlagsJoin c _ => coreOk c
  | .resultLanding c _ => coreOk c
  | .pendingAccessPerform c => coreOk c
  | .collisionCycle c => coreOk c
  | .powerFreeze c => coreOk c
  | .freezeEnd c => coreOk c
  | .sleepEnd c _ => coreOk c
  | .waitLimitExpiry c _ => coreOk c
  | .trapEntry c _ => coreOk c
  | .tretResume c _ => coreOk c
  | .tretEnd c _ => coreOk c
  | .taskEnd c _ => coreOk c
  | .gangJoin _ => true
  | .gangMessageLanding c => coreOk c
  | .takeGrant c => coreOk c
  | .copyChunk c _ => coreOk c
  | .copyComplete c _ => coreOk c
  | .gatherRowDelivery c q => coreOk c && decide (q < 4)
  | .gstartIndexEntry c q => coreOk c && decide (q < 4)
  | .keyUseReport x => ctxOk x
  | .faultRecordPost x => ctxOk x
  | .pageWalk x => ctxOk x
  | .flit port bytes => portOk port && decide (bytes.length = 256)
  | .portDown port => portOk port
  | .packetForward _ => true
  | .write _ => true
  | .readreq _ => true
  | .readdata _ => true
  | .reduce _ => true
  | .reduceResend => true
  | .roundTimeout x g => ctxOk x && decide (g < 1024)
  | .atomic _ => true
  | .atomicdata _ => true
  | .ack _ => true
  | .mcwrite _ => true
  | .responseTimeout _ => true
  | .chunk _ => true
  | .abortMarker _ => true
  | .creditReturn _ => true
  | .collectiveStart _ => true
  | .stepTimeout _ => true
  | .collectiveComplete _ => true
  | .prioritySwitch port => portOk port
  | .time port _ => portOk port
  | .timeSend => true
  | .gtbCorrection _ => true
  | .gtbokLoss => true
  | .xinvContext x => ctxOk x
  | .xinvPages x => ctxOk x
  | .xinvRanges x => ctxOk x
  | .xinvNop x => ctxOk x
  | .xinvComplete x => ctxOk x
  | .mgctlReloadReduction x => ctxOk x
  | .mgctlReloadMulticast x => ctxOk x
  | .clctlReloadChannels x => ctxOk x
  | .clctlReloadRings x => ctxOk x
  | .tctlNone c _ _ => coreOk c
  | .tctlSetSkew c _ _ => coreOk c
  | .tctlClearSkew c _ _ => coreOk c
  | .tctlMakeMailbox c _ _ => coreOk c
  | .tctlReleaseMailbox c _ _ => coreOk c
  | .tctlDisarm c _ _ => coreOk c
  | .launchQueuePoll q => decide (q < 64)
  | .launchAccept _ => true
  | .lqbaseWrite q _ => decide (q < 64)
  | .unitDispatch _ => true
  | .imageLoad c => coreOk c
  | .launchAged _ => true
  | .launchComplete _ => true
  | .create x => ctxOk x
  | .kill x => ctxOk x
  | .killComplete x => ctxOk x
  | .signal x => ctxOk x
  | .wdclr x => ctxOk x
  | .ucload x => ctxOk x
  | .attest x => ctxOk x
  | .quantumEnd x => ctxOk x
  | .switchOutComplete x => ctxOk x
  | .contextYield x => ctxOk x
  | .switchIn x => ctxOk x
  | .efenceComplete c _ => coreOk c
  | .digestComplete c _ => coreOk c
  | .epochBoundary => true
  | .debugHalt x => ctxOk x
  | .sampleRecord x => ctxOk x
  | .registerWrite _ _ => true
  | .hostCxlMemRead _ _ => true
  | .hostCxlMemWrite _ _ => true
  | .hostCxlIoWindowAccess _ _ _ => true
  | .hostSupervisorWrite c _ _ => coreOk c
  | .coldStart => true
  | .warmStart => true
  | .firmwarePush => true
  | .thermalWarn die => decide (die < 4)
  | .throttleStep die => decide (die < 4)
  | .thermalTrip die => decide (die < 4)
  | .hbmScrub _ _ => true
  | .portUp port => portOk port
  | .mgctlReloadDone x => ctxOk x
  | .clctlReloadDone x => ctxOk x
  | .createComplete x => ctxOk x

end Sys2Proof
end

