-- ==== Sys2Proof/Decode.lean ====
section
/-! DEFINITION. Decoding of headers, instruction words and microwords (R151, R152, R169 to R181), and the encoder. Every
32-bit word is, in each slot, one instruction, ILLI or SLOT (R178). -/

namespace Sys2Proof

/-- Why a header or a word is no instruction (R152, R178). -/
inductive Reject where
  /-- a bad header: no slot performs -/
  | illb
  /-- an unassigned encoding -/
  | illi
  /-- an assigned major of another slot class -/
  | slot
  deriving DecidableEq, Repr

/-- The slot classes of R151. -/
inductive SlotClass where | c | s | m | v | e
  deriving DecidableEq, Repr

/-- The class of slot number 0 to 7 (R151). -/
def slotClass : Nat → SlotClass
  | 0 => .c
  | 1 => .s
  | 2 => .s
  | 3 => .m
  | 4 => .m
  | 5 => .v
  | 6 => .v
  | _ => .e

/-- The class of an assigned major (R172); majors 0 and 63 are unassigned. -/
def majorClass (m : Nat) : Option SlotClass :=
  if m = 0 then none
  else if m ≤ 10 then some .c
  else if m ≤ 23 then some .s
  else if m ≤ 41 then some .m
  else if m ≤ 52 then some .v
  else if m ≤ 62 then some .e
  else none

/-- Field of `n` bits at bit `lo`. -/
def fld (w lo n : Nat) : BitVec n := BitVec.ofNat n (w / 2 ^ lo)

/-- The same field as a number. -/
def nfld (w lo n : Nat) : Nat := w / 2 ^ lo % 2 ^ n

/-- The flag at bit `lo`. -/
def bfld (w lo : Nat) : Bool := decide (w / 2 ^ lo % 2 = 1)

/-! ## Codes of the small fields -/

def Cond.code : Cond → Nat
  | .eq => 0 | .ne => 1 | .lt => 2 | .ge => 3 | .ltu => 4 | .geu => 5 | .le => 6 | .gt => 7 | .leu => 8 | .gtu => 9

def Cond.ofCode : Nat → Option Cond
  | 0 => some .eq | 1 => some .ne | 2 => some .lt | 3 => some .ge | 4 => some .ltu
  | 5 => some .geu | 6 => some .le | 7 => some .gt | 8 => some .leu | 9 => some .gtu
  | _ => none

def WCond.code : WCond → Nat
  | .eq => 0 | .ne => 1 | .geu => 2 | .ltu => 3

def WCond.ofCode : Nat → Option WCond
  | 0 => some .eq | 1 => some .ne | 2 => some .geu | 3 => some .ltu
  | _ => none

def Scope.code : Scope → Nat
  | .core => 0 | .die => 1 | .package => 2 | .group => 3 | .system => 4

def Scope.ofCode : Nat → Option Scope
  | 0 => some .core | 1 => some .die | 2 => some .package | 3 => some .group | 4 => some .system
  | _ => none

def IRegion.code : IRegion → Nat
  | .common => 0 | .idle => 1 | .executing => 2

def IRegion.ofCode : Nat → Option IRegion
  | 0 => some .common | 1 => some .idle | 2 => some .executing
  | _ => none

def CSet.code : CSet → Nat
  | .all => 0 | .a => 1 | .b => 2

def CSet.ofCode : Nat → Option CSet
  | 0 => some .all | 1 => some .a | 2 => some .b
  | _ => none

def FCond.code : FCond → Nat
  | .eq => 0 | .ne => 1 | .lt => 2 | .le => 3 | .gt => 4 | .ge => 5 | .un => 6 | .or => 7

def FCond.ofCode : Nat → Option FCond
  | 0 => some .eq | 1 => some .ne | 2 => some .lt | 3 => some .le
  | 4 => some .gt | 5 => some .ge | 6 => some .un | 7 => some .or
  | _ => none

def ICond.code : ICond → Nat
  | .eq => 0 | .ne => 1 | .lt => 2 | .le => 3 | .gt => 4 | .ge => 5 | .ltu => 6 | .geu => 7

def ICond.ofCode : Nat → Option ICond
  | 0 => some .eq | 1 => some .ne | 2 => some .lt | 3 => some .le
  | 4 => some .gt | 5 => some .ge | 6 => some .ltu | 7 => some .geu
  | _ => none

def VFmt.code : VFmt → Nat
  | .f32 => 0 | .bf16 => 1 | .e4m3 => 2 | .e5m2 => 3 | .kbf7 => 4 | .kbf4 => 5 | .kbf2 => 6 | .i32 => 7

def VFmt.ofCode : Nat → Option VFmt
  | 0 => some .f32 | 1 => some .bf16 | 2 => some .e4m3 | 3 => some .e5m2
  | 4 => some .kbf7 | 5 => some .kbf4 | 6 => some .kbf2 | 7 => some .i32
  | _ => none

def AOp.code : AOp → Nat
  | .add => 0 | .max => 1 | .min => 2 | .swap => 3 | .cas => 4

def AOp.ofCode : Nat → Option AOp
  | 0 => some .add | 1 => some .max | 2 => some .min | 3 => some .swap | 4 => some .cas
  | _ => none

def AFmt.code : AFmt → Nat
  | .fp32 => 0 | .bf16 => 1 | .int32 => 2 | .int64 => 3 | .fx128 => 4

def AFmt.ofCode : Nat → Option AFmt
  | 0 => some .fp32 | 1 => some .bf16 | 2 => some .int32 | 3 => some .int64 | 4 => some .fx128
  | _ => none

def Rnd.code : Rnd → Nat
  | .rne => 0 | .rtz => 1 | .rdn => 2 | .rup => 3 | .rna => 4 | .sr => 5

def Rnd.ofCode : Nat → Option Rnd
  | 0 => some .rne | 1 => some .rtz | 2 => some .rdn | 3 => some .rup | 4 => some .rna | 5 => some .sr
  | _ => none

/-! ## Headers (R151, R152) -/

/-- The fields of a good header. -/
structure Header where
  idle : BitVec 6
  sat  : Bool
  rnd  : Rnd
  prof : BitVec 6
  mask : BitVec 8
  deriving DecidableEq, Repr

/-- A header word: bits 31:24 must be zero, rnd 0 to 5 and profile 0 to 11 (R152). -/
def decodeHeader (w : Nat) : Except Reject Header :=
  if nfld w 24 8 = 0 ∧ nfld w 8 6 < 12 then
    match Rnd.ofCode (nfld w 14 3) with
    | some r => .ok { idle := fld w 18 6, sat := bfld w 17, rnd := r, prof := fld w 8 6, mask := fld w 0 8 }
    | none => .error .illb
  else .error .illb

/-- The word of a header. -/
def encodeHeader (h : Header) : Nat :=
  h.idle.toNat * 2 ^ 18 + h.sat.toNat * 2 ^ 17 + h.rnd.code * 2 ^ 14 + h.prof.toNat * 2 ^ 8 + h.mask.toNat

/-! ## Instruction words (R169 to R177) -/

/-- F-A with destination, two sources and guard. -/
def faDABK (f : RegF → RegF → RegF → F3 → Instr) (w : Nat) : Option Instr :=
  some (f (fld w 20 6) (fld w 14 6) (fld w 8 6) (fld w 5 3))

/-- F-A with destination and one source; b zero. -/
def faDAK (f : RegF → RegF → F3 → Instr) (w : Nat) : Option Instr :=
  if nfld w 8 6 = 0 then some (f (fld w 20 6) (fld w 14 6) (fld w 5 3)) else none

/-- F-A with one source; d and b zero. -/
def faAK (f : RegF → F3 → Instr) (w : Nat) : Option Instr :=
  if nfld w 20 6 = 0 ∧ nfld w 8 6 = 0 then some (f (fld w 14 6) (fld w 5 3)) else none

/-- F-B with a 14-bit immediate. -/
def fbDAI (f : RegF → RegF → BitVec 14 → Instr) (w : Nat) : Option Instr :=
  some (f (fld w 20 6) (fld w 14 6) (fld w 0 14))

/-- F-D with a predicate, neg as given. -/
def fdPO (f : F3 → BitVec 22 → Instr) (w : Nat) : Option Instr := some (f (fld w 23 3) (fld w 0 22))

/-- Predicate operation: d, a and b are predicates. -/
def faPred (f : F3 → F3 → F3 → F3 → Instr) (w : Nat) : Option Instr :=
  if nfld w 20 6 < 8 ∧ nfld w 14 6 < 8 ∧ nfld w 8 6 < 8 then
    some (f (fld w 20 3) (fld w 14 3) (fld w 8 3) (fld w 5 3))
  else none

/-- Scalar F-M. -/
def fmS (f : RegF → RegF → Bool → BitVec 13 → Instr) (w : Nat) : Option Instr :=
  some (f (fld w 20 6) (fld w 14 6) (bfld w 13) (fld w 0 13))

/-- Vector F-M. -/
def fmV (f : RegF → RegF → Bool → CSet → BitVec 11 → Instr) (w : Nat) : Option Instr :=
  (CSet.ofCode (nfld w 11 2)).map fun c => f (fld w 20 6) (fld w 14 6) (bfld w 13) c (fld w 0 11)

/-- Column access of the vector-memory major 40. -/
def faVms (f : RegF → RegF → RegF → F3 → CSet → Bool → Instr) (w : Nat) : Option Instr :=
  if nfld w 0 1 = 0 then
    (CSet.ofCode (nfld w 2 2)).map fun c =>
      f (fld w 20 6) (fld w 14 6) (fld w 8 6) (fld w 5 3) c (bfld w 1)
  else none

/-- Scratchpad atomic. -/
def faAmo (f : RegF → RegF → RegF → F3 → Bool → Instr) (w : Nat) : Option Instr :=
  some (f (fld w 20 6) (fld w 14 6) (fld w 8 6) (fld w 5 3) (bfld w 4))

/-- KBF block access: k is a cluster set. -/
def faKbf (f : RegF → RegF → RegF → CSet → Bool → Instr) (w : Nat) : Option Instr :=
  (CSet.ofCode (nfld w 5 3)).map fun c => f (fld w 20 6) (fld w 14 6) (fld w 8 6) c (bfld w 4)

/-- F-V with two sources. -/
def fv2 (f : RegF → RegF → RegF → F3 → CSet → Instr) (w : Nat) : Option Instr :=
  (CSet.ofCode (nfld w 3 2)).map fun c => f (fld w 20 6) (fld w 14 6) (fld w 8 6) (fld w 5 3) c

/-- F-V with one source; vb zero. -/
def fv1 (f : RegF → RegF → F3 → CSet → Instr) (w : Nat) : Option Instr :=
  if nfld w 8 6 = 0 then (CSet.ofCode (nfld w 3 2)).map fun c => f (fld w 20 6) (fld w 14 6) (fld w 5 3) c else none

/-- F-V with no source; va and vb zero. -/
def fv0 (f : RegF → F3 → CSet → Instr) (w : Nat) : Option Instr :=
  if nfld w 8 12 = 0 then (CSet.ofCode (nfld w 3 2)).map fun c => f (fld w 20 6) (fld w 5 3) c else none

/-- F-E with two sources and a 4-bit set; the remaining immediate bits are the given code. -/
def feABG (f : RegF → RegF → BitVec 4 → Instr) (w : Nat) : Option Instr :=
  some (f (fld w 20 6) (fld w 14 6) (fld w 0 4))

/-- F-E with a 10-bit ring. -/
def feRing (f : RegF → RegF → BitVec 10 → Instr) (w : Nat) : Option Instr :=
  some (f (fld w 20 6) (fld w 14 6) (fld w 0 10))

/-- The control majors 1 to 10 (R173). -/
def decodeC (m w : Nat) : Option Instr :=
  if m = 1 then
    if bfld w 22 then fdPO .brpn w
    else if nfld w 23 3 = 0 then some (.br (fld w 0 22)) else fdPO .brp w
  else if m = 2 then some (.call (fld w 20 6) (fld w 0 20))
  else if m = 3 then
    match nfld w 0 5 with
    | 0 => faAK .jmp w
    | 1 => faDAK .callr w
    | 2 => faAK .ret w
    | 3 => if nfld w 20 6 < 4 ∧ nfld w 8 6 = 0 then some (.setf (fld w 20 2) (fld w 14 6) (fld w 5 3)) else none
    | _ => none
  else if m = 4 then fbDAI .loop w
  else if m = 5 then some (.loopi (fld w 20 6) (fld w 14 6) (fld w 0 14))
  else if m = 6 then if bfld w 22 then none else fdPO .bswap w
  else if m = 7 then
    if nfld w 20 6 = 0 then
      match Scope.ofCode (nfld w 2 3), WCond.ofCode (nfld w 0 2) with
      | some s, some c => some (.waita (fld w 14 6) (fld w 8 6) (fld w 5 3) s c)
      | _, _ => none
    else none
  else if m = 8 then if nfld w 20 6 = 0 then some (.waito (fld w 14 6) (fld w 0 14)) else none
  else if m = 9 then
    if nfld w 20 6 = 0 then
      match nfld w 16 4 with
      | 0 => if nfld w 0 16 = 0 then some .tend else none
      | 1 => some (.trap (fld w 0 16))
      | 2 => some (.brk (fld w 0 16))
      | 3 => if nfld w 2 14 = 0 then (IRegion.ofCode (nfld w 0 2)).map .ifence else none
      | _ => none
    else none
  else if m = 10 then
    match nfld w 12 2 with
    | 0 => if nfld w 14 6 = 0 then some (.sysr (fld w 20 6) (fld w 0 12)) else none
    | 1 => if nfld w 20 6 = 0 then some (.sysw (fld w 14 6) (fld w 0 12)) else none
    | _ => none
  else none

/-- ALU, major 11 (R174). -/
def decodeAlu (w : Nat) : Option Instr :=
  match nfld w 0 5 with
  | 0 => faDABK .add w
  | 1 => faDABK .sub w
  | 2 => faDABK .mul w
  | 3 => faDABK .mulh w
  | 4 => faDABK .mulhu w
  | 5 => faDABK .divs w
  | 6 => faDABK .divu w
  | 7 => faDABK .rems w
  | 8 => faDABK .remu w
  | 9 => faDABK .and w
  | 10 => faDABK .or w
  | 11 => faDABK .xor w
  | 12 => faDABK .andn w
  | 13 => faDABK .shl w
  | 14 => faDABK .shr w
  | 15 => faDABK .sar w
  | 16 => faDABK .min w
  | 17 => faDABK .max w
  | 18 => faDABK .minu w
  | 19 => faDABK .maxu w
  | 20 => faDAK .clz w
  | 21 => faDAK .ctz w
  | 22 => faDAK .popc w
  | 23 => faDABK .sel w
  | _ => none

/-- Shift immediates: major 16. -/
def fbShift (f : RegF → RegF → BitVec 6 → Instr) (w : Nat) : Option Instr :=
  some (f (fld w 20 6) (fld w 14 6) (fld w 0 6))

/-- The scalar majors 11 to 23 (R174). -/
def decodeS (m w : Nat) : Option Instr :=
  if m = 11 then decodeAlu w
  else if m = 12 then fbDAI .addi w
  else if m = 13 then fbDAI .andi w
  else if m = 14 then fbDAI .ori w
  else if m = 15 then fbDAI .xori w
  else if m = 16 then
    match nfld w 6 8 with
    | 0 => fbShift .shli w
    | 1 => fbShift .shri w
    | 2 => fbShift .sari w
    | _ => none
  else if m = 17 then some (.lui (fld w 20 6) (fld w 0 20))
  else if m = 18 then some (.lhi (fld w 20 6) (fld w 0 20))
  else if m = 19 then if nfld w 12 8 = 0 then some (.ltop (fld w 20 6) (fld w 0 12)) else none
  else if m = 20 then
    match nfld w 12 2 with
    | 0 => some (.ext (fld w 20 6) (fld w 14 6) (fld w 6 6) (fld w 0 6))
    | 1 => some (.ins (fld w 20 6) (fld w 14 6) (fld w 6 6) (fld w 0 6))
    | 2 => if nfld w 14 6 = 0 ∧ nfld w 3 9 = 0 then some (.widx (fld w 20 6) (fld w 0 3)) else none
    | _ => none
  else if m = 21 then
    if nfld w 20 6 < 8 then
      (Cond.ofCode (nfld w 0 5)).map fun c => .cmp (fld w 20 3) (fld w 14 6) (fld w 8 6) (fld w 5 3) c
    else none
  else if m = 22 then
    if nfld w 20 6 < 8 then
      (Cond.ofCode (nfld w 10 4)).map fun c => .cmpi (fld w 20 3) (fld w 14 6) c (fld w 0 10)
    else none
  else if m = 23 then
    match nfld w 0 5 with
    | 0 => faPred .pand w
    | 1 => faPred .por w
    | 2 => faPred .pxor w
    | 3 => if nfld w 8 6 = 0 then faPred (fun d a _ k => .pnot d a k) w else none
    | _ => none
  else none

/-- Major 41: scratchpad atomics, queue operations and KBF block accesses (R175). -/
def decodeMatm (w : Nat) : Option Instr :=
  match nfld w 0 4 with
  | 0 => faAmo .amoAdd w
  | 1 => faAmo .amoMax w
  | 2 => faAmo .amoMin w
  | 3 => faAmo .amoSwap w
  | 4 => faAmo .amoCas w
  | 8 =>
    if nfld w 20 6 < 4 ∧ nfld w 8 6 = 0 ∧ nfld w 4 1 = 0 then some (.qpush (fld w 20 2) (fld w 14 6) (fld w 5 3)) else none
  | 9 => if nfld w 20 6 < 4 ∧ nfld w 8 12 = 0 ∧ nfld w 4 1 = 0 then some (.qdrop (fld w 20 2) (fld w 5 3)) else none
  | 10 => faKbf .vldkKbf7 w
  | 11 => faKbf .vldkKbf4 w
  | 12 => faKbf .vldkKbf2 w
  | 13 => faKbf .vstkKbf7 w
  | 14 => faKbf .vstkKbf4 w
  | 15 => faKbf .vstkKbf2 w
  | _ => none

/-- The memory majors 24 to 41 (R175). -/
def decodeM (m w : Nat) : Option Instr :=
  if m = 24 then fmS .ldB w
  else if m = 25 then fmS .ldH w
  else if m = 26 then fmS .ldW w
  else if m = 27 then fmS .ldD w
  else if m = 28 then fmS .lduB w
  else if m = 29 then fmS .lduH w
  else if m = 30 then fmS .lduW w
  else if m = 31 then fmS .stB w
  else if m = 32 then fmS .stH w
  else if m = 33 then fmS .stW w
  else if m = 34 then fmS .stD w
  else if m = 35 then fmV .vld w
  else if m = 36 then fmV .vldb w
  else if m = 37 then fmV .vldt w
  else if m = 38 then fmV .vst w
  else if m = 39 then fmV .vstt w
  else if m = 40 then if bfld w 4 then faVms .vsts w else faVms .vlds w
  else if m = 41 then decodeMatm w
  else none

/-- The integer and FP32 vector majors 42 to 45 (R176). -/
def decodeVArith (m w : Nat) : Option Instr :=
  if m = 42 then
    match nfld w 0 3 with
    | 0 => fv2 .vaddI32 w
    | 1 => fv2 .vsubI32 w
    | 2 => fv2 .vmulI32 w
    | 3 => fv2 .vmulh w
    | 4 => fv2 .vand w
    | 5 => fv2 .vor w
    | 6 => fv2 .vxor w
    | _ => fv1 .vabsI32 w
  else if m = 43 then
    match nfld w 0 3 with
    | 0 => fv2 .vshl w
    | 1 => fv2 .vshr w
    | 2 => fv2 .vsar w
    | 3 => fv2 .vminI32 w
    | 4 => fv2 .vmaxI32 w
    | 5 => fv2 .vminU32 w
    | 6 => fv2 .vmaxU32 w
    | _ => none
  else if m = 44 then
    match nfld w 0 3 with
    | 0 => fv2 .vaddF32 w
    | 1 => fv2 .vsubF32 w
    | 2 => fv2 .vmulF32 w
    | 3 => fv2 .vfmaF32 w
    | 4 => fv2 .vminF32 w
    | 5 => fv2 .vmaxF32 w
    | 6 => fv2 .vdot2Bf16 w
    | _ => none
  else
    match nfld w 0 3 with
    | 0 => fv1 .vabsF32 w
    | 1 => fv1 .vnegF32 w
    | 2 => fv2 .vcpysF32 w
    | 3 => fv1 .vaccrd w
    | _ => none

/-- Compares, moves and reductions: majors 46 to 49 (R176). -/
def decodeVMove (m w : Nat) : Option Instr :=
  if m = 46 then
    if nfld w 20 6 < 8 then
      match CSet.ofCode (nfld w 3 2), FCond.ofCode (nfld w 0 3) with
      | some c, some f => some (.vcmpF32 (fld w 20 3) (fld w 14 6) (fld w 8 6) (fld w 5 3) c f)
      | _, _ => none
    else none
  else if m = 47 then
    if nfld w 20 6 < 8 then
      match CSet.ofCode (nfld w 3 2), ICond.ofCode (nfld w 0 3) with
      | some c, some f => some (.vcmpI32 (fld w 20 3) (fld w 14 6) (fld w 8 6) (fld w 5 3) c f)
      | _, _ => none
    else none
  else if m = 48 then
    match nfld w 0 3 with
    | 0 => fv1 .vmov w
    | 1 => fv2 .vsel w
    | 2 => fv1 .vbcast w
    | 3 => fv2 .vextr w
    | 4 => fv2 .vins w
    | 5 => fv2 .vperm w
    | 6 =>
      if nfld w 11 3 = 0 then
        (CSet.ofCode (nfld w 3 2)).map fun c => .vxcl (fld w 20 6) (fld w 14 6) (fld w 8 3) (fld w 5 3) c
      else none
    | _ => fv0 .viota w
  else
    match nfld w 0 3 with
    | 0 => fv1 .vredaddF32 w
    | 1 => fv1 .vredaddI32 w
    | 2 => fv1 .vredmaxF32 w
    | 3 => fv1 .vredmaxI32 w
    | 4 => fv1 .vredminF32 w
    | 5 => fv1 .vredminI32 w
    | _ => none

/-- Conversions, special functions, keyed randomness and ranking: majors 50 to 52 (R176). -/
def decodeVSpecial (m w : Nat) : Option Instr :=
  if m = 50 then
    match nfld w 0 3 with
    | 0 =>
      match VFmt.ofCode (nfld w 11 3), VFmt.ofCode (nfld w 8 3), CSet.ofCode (nfld w 3 2) with
      | some s, some t, some c => some (.vcvt (fld w 20 6) (fld w 14 6) s t (fld w 5 3) c)
      | _, _, _ => none
    | 1 => fv2 .vcvtF32Fx128Lo w
    | 2 => fv2 .vcvtF32Fx128Hi w
    | _ => none
  else if m = 51 then
    match nfld w 0 3 with
    | 0 => fv1 .vrcp w
    | 1 => fv2 .vrcpr w
    | 2 => fv1 .vrsq w
    | 3 => fv2 .vrsqr w
    | 4 => fv1 .vsqrt w
    | 5 => fv1 .vexp2 w
    | 6 => fv1 .vlog2 w
    | _ => fv1 .vsin w
  else
    match nfld w 0 3 with
    | 0 => fv1 .vcos w
    | 1 => fv0 .vrand w
    | 2 => fv0 .vrandf w
    | 3 => fv2 .vdrop w
    | 4 => fv2 .vtopk w
    | 5 => fv2 .vmergek w
    | _ => none

/-- The vector majors 42 to 52 (R176). -/
def decodeV (m w : Nat) : Option Instr :=
  if m ≤ 45 then decodeVArith m w
  else if m ≤ 49 then decodeVMove m w
  else decodeVSpecial m w

/-- The engine majors 53 to 62 (R177). -/
def decodeE (m w : Nat) : Option Instr :=
  if m = 53 then
    if bfld w 13 then
      if nfld w 14 12 = 0 ∧ nfld w 12 1 = 0 then some (.mcall (fld w 0 12)) else none
    else if nfld w 14 6 = 0 ∧ nfld w 3 10 = 0 then some (.mpset (fld w 20 6) (fld w 0 3)) else none
  else if m = 54 then
    match nfld w 4 10 with
    | 0 => feABG .cpy w
    | 1 => feABG .cpyc w
    | _ => none
  else if m = 55 then if nfld w 4 16 = 0 then some (.gset (fld w 20 6) (fld w 0 4)) else none
  else if m = 56 then if nfld w 2 12 = 0 then some (.gstart (fld w 20 6) (fld w 14 6) (fld w 0 2)) else none
  else if m = 57 then if nfld w 4 10 = 0 then feABG .tarm w else none
  else if m = 58 then
    match nfld w 12 2 with
    | 0 => if nfld w 4 8 = 0 then feABG .fsend w else none
    | 1 => if nfld w 4 8 = 0 then feABG .fmcast w else none
    | 2 =>
      if nfld w 4 3 = 0 then
        match AOp.ofCode (nfld w 10 2), AFmt.ofCode (nfld w 7 3) with
        | some op, some f => some (.fred (fld w 20 6) (fld w 14 6) op f (fld w 0 4))
        | _, _ => none
      else none
    | _ => none
  else if m = 59 then
    if nfld w 4 4 = 0 then
      match AOp.ofCode (nfld w 11 3), AFmt.ofCode (nfld w 8 3) with
      | some op, some f => some (.ratom (fld w 20 6) (fld w 14 6) op f (fld w 0 4))
      | _, _ => none
    else none
  else if m = 60 then
    match nfld w 12 2 with
    | 0 => some (.csend (fld w 20 6) (fld w 14 6) (fld w 0 12))
    | 1 => some (.crecv (fld w 20 6) (fld w 14 6) (fld w 0 12))
    | 2 => if nfld w 14 6 = 0 then some (.chw (fld w 20 6) (fld w 0 12)) else none
    | _ => none
  else if m = 61 then
    match nfld w 10 4 with
    | 0 => feRing .ccollAllred w
    | 1 => feRing .ccollRedscat w
    | 2 => feRing .ccollAllgath w
    | 3 => feRing .ccollBcast w
    | 4 => feRing .ccollReduce w
    | 5 => feRing .ccollPxch w
    | _ => none
  else if m = 62 then
    match nfld w 10 4 with
    | 0 => if nfld w 14 6 = 0 ∧ nfld w 0 10 = 0 then some (.spawn (fld w 20 6)) else none
    | 1 => if nfld w 14 6 = 0 ∧ nfld w 0 10 = 0 then some (.kilnw (fld w 20 6)) else none
    | 2 => if nfld w 14 6 = 0 ∧ nfld w 0 10 = 0 then some (.kilnr (fld w 20 6)) else none
    | 3 => if nfld w 4 6 = 0 then feABG .digest w else none
    | 4 =>
      if nfld w 14 12 = 0 ∧ nfld w 7 3 = 0 then
        (Scope.ofCode (nfld w 0 3)).map fun s => .efence (fld w 3 4) s
      else none
    | _ => none
  else none

/-- An assigned major's word, before the checks of `Instr.wellFormed`. -/
def decodeMajor (m w : Nat) : Option Instr :=
  if m ≤ 10 then decodeC m w
  else if m ≤ 23 then decodeS m w
  else if m ≤ 41 then decodeM m w
  else if m ≤ 52 then decodeV m w
  else decodeE m w

/-- The fate of word `w` in a slot of class `cls` (R178 item 2). -/
def decodeSlot (cls : SlotClass) (w : Nat) : Except Reject Instr :=
  match majorClass (nfld w 26 6) with
  | none => .error .illi
  | some k =>
    if k = cls then
      match decodeMajor (nfld w 26 6) w with
      | some i => if i.wellFormed then .ok i else .error .illi
      | none => .error .illi
    else .error .slot

/-! ## Microwords (R179 to R181) -/

/-- The microword `w` as a step of core `c`; none where the check of R181 fails. -/
def decodeMicro (c w : Nat) : Option Instr :=
  let t : F3 := fld w 56 3
  let pa : F3 := fld w 53 3
  let pb : F3 := fld w 50 3
  let pc : F3 := fld w 47 3
  let o := bfld w 46
  let n : BitVec 7 := fld w 39 7
  let fmt : BitVec 5 := fld w 34 5
  let i16 : BitVec 16 := fld w 0 16
  let zA := nfld w 16 18 = 0
  let r : Option Instr :=
    match nfld w 59 5 with
    | 1 => if zA ∧ t = 0 ∧ pb = 0 ∧ pc = 0 ∧ fmt = 0 ∧ i16 = 0 then some (.lds c pa o n) else none
    | 2 => if nfld w 0 59 = 0 then some (.swap c) else none
    | 3 => if zA ∧ pb = 0 ∧ pc = 0 ∧ o = false ∧ fmt = 0 ∧ i16 = 0 then some (.strm c t pa n) else none
    | 4 => if zA ∧ pb = 0 ∧ pc = 0 ∧ o = false ∧ fmt = 0 ∧ i16 = 0 then some (.strmc c t pa n) else none
    | 5 => if nfld w 0 56 = 0 then some (.zero c t) else none
    | 6 => if nfld w 0 53 = 0 then some (.ldacc c t pa) else none
    | 7 => if zA ∧ o = false ∧ n = 0 ∧ i16 = 0 then some (.drain c t pa pb pc fmt) else none
    | 8 => if nfld w 0 50 = 0 ∧ pa = 0 then some (.amax c t pb) else none
    | 9 => if nfld w 16 40 = 0 then some (.scale c t i16) else none
    | 10 => if nfld w 32 21 = 0 then some (.madd c t pa (fld w 0 32)) else none
    | 11 => if nfld w 0 44 = 0 then some (.mloop c t (fld w 44 12)) else none
    | 12 => if nfld w 0 44 = 0 then some (.mbrz c t (fld w 44 12)) else none
    | 13 => if nfld w 2 57 = 0 then some (.mwait c (fld w 0 2)) else none
    | 14 => if nfld w 0 59 = 0 then some (.mend c) else none
    | _ => none
  match r with
  | some i =>
    match i with
    | .drain _ _ _ _ _ f => if drainFmt f then r else none
    | .mwait _ cls => if cls = 0 then none else r
    | _ => r
  | none => none

/-! ## The encoder -/

def eFA (m d a b k fn : Nat) : Nat := m * 2 ^ 26 + d * 2 ^ 20 + a * 2 ^ 14 + b * 2 ^ 8 + k * 2 ^ 5 + fn
def eFB (m d a i : Nat) : Nat := m * 2 ^ 26 + d * 2 ^ 20 + a * 2 ^ 14 + i
def eFC (m d i : Nat) : Nat := m * 2 ^ 26 + d * 2 ^ 20 + i
def eFD (m p neg o : Nat) : Nat := m * 2 ^ 26 + p * 2 ^ 23 + neg * 2 ^ 22 + o
def eAlu (d a b : RegF) (k : F3) (fn : Nat) : Nat := eFA 11 d.toNat a.toNat b.toNat k.toNat fn
def eFMS (m : Nat) (d s : RegF) (l : Bool) (o : BitVec 13) : Nat := eFB m d.toNat s.toNat (l.toNat * 2 ^ 13 + o.toNat)
def eFMV (m : Nat) (d s : RegF) (l : Bool) (c : CSet) (o : BitVec 11) : Nat :=
  eFB m d.toNat s.toNat (l.toNat * 2 ^ 13 + c.code * 2 ^ 11 + o.toNat)
def eAmo (d a b : RegF) (k : F3) (l : Bool) (fn : Nat) : Nat := eFA 41 d.toNat a.toNat b.toNat k.toNat (l.toNat * 2 ^ 4 + fn)
def eKbf (d a b : RegF) (c : CSet) (l : Bool) (fn : Nat) : Nat := eFA 41 d.toNat a.toNat b.toNat c.code (l.toNat * 2 ^ 4 + fn)
def eV2 (m : Nat) (d a b : RegF) (k : F3) (c : CSet) (fn : Nat) : Nat :=
  eFA m d.toNat a.toNat b.toNat k.toNat (c.code * 2 ^ 3 + fn)
def eV1 (m : Nat) (d a : RegF) (k : F3) (c : CSet) (fn : Nat) : Nat := eFA m d.toNat a.toNat 0 k.toNat (c.code * 2 ^ 3 + fn)
def eV0 (m : Nat) (d : RegF) (k : F3) (c : CSet) (fn : Nat) : Nat := eFA m d.toNat 0 0 k.toNat (c.code * 2 ^ 3 + fn)

/-- The word of a well-formed instruction, from the tables of R169 to R177; none for a step without an encoding. -/
def encode : Instr → Option Nat
  | .idle n sat rnd prof => some (encodeHeader { idle := n, sat := sat, rnd := rnd, prof := prof, mask := 0 })
  | .brp p o => some (eFD 1 p.toNat 0 o.toNat)
  | .br o => some (eFD 1 0 0 o.toNat)
  | .brpn p o => some (eFD 1 p.toNat 1 o.toNat)
  | .call d i => some (eFC 2 d.toNat i.toNat)
  | .jmp a k => some (eFA 3 0 a.toNat 0 k.toNat 0)
  | .callr d a k => some (eFA 3 d.toNat a.toNat 0 k.toNat 1)
  | .ret a k => some (eFA 3 0 a.toNat 0 k.toNat 2)
  | .setf d a k => some (eFA 3 d.toNat a.toNat 0 k.toNat 3)
  | .loop d a i => some (eFB 4 d.toNat a.toNat i.toNat)
  | .loopi d n i => some (eFB 5 d.toNat n.toNat i.toNat)
  | .bswap p o => some (eFD 6 p.toNat 0 o.toNat)
  | .waita a b k s c => some (eFA 7 0 a.toNat b.toNat k.toNat (s.code * 4 + c.code))
  | .waito a i => some (eFB 8 0 a.toNat i.toNat)
  | .tend => some (eFC 9 0 0)
  | .trap code => some (eFC 9 0 (2 ^ 16 + code.toNat))
  | .brk code => some (eFC 9 0 (2 * 2 ^ 16 + code.toNat))
  | .ifence r => some (eFC 9 0 (3 * 2 ^ 16 + r.code))
  | .sysr d n => some (eFB 10 d.toNat 0 n.toNat)
  | .sysw a n => some (eFB 10 0 a.toNat (2 ^ 12 + n.toNat))
  | .add d a b k => some (eAlu d a b k 0)
  | .sub d a b k => some (eAlu d a b k 1)
  | .mul d a b k => some (eAlu d a b k 2)
  | .mulh d a b k => some (eAlu d a b k 3)
  | .mulhu d a b k => some (eAlu d a b k 4)
  | .divs d a b k => some (eAlu d a b k 5)
  | .divu d a b k => some (eAlu d a b k 6)
  | .rems d a b k => some (eAlu d a b k 7)
  | .remu d a b k => some (eAlu d a b k 8)
  | .and d a b k => some (eAlu d a b k 9)
  | .or d a b k => some (eAlu d a b k 10)
  | .xor d a b k => some (eAlu d a b k 11)
  | .andn d a b k => some (eAlu d a b k 12)
  | .shl d a b k => some (eAlu d a b k 13)
  | .shr d a b k => some (eAlu d a b k 14)
  | .sar d a b k => some (eAlu d a b k 15)
  | .min d a b k => some (eAlu d a b k 16)
  | .max d a b k => some (eAlu d a b k 17)
  | .minu d a b k => some (eAlu d a b k 18)
  | .maxu d a b k => some (eAlu d a b k 19)
  | .clz d a k => some (eAlu d a 0 k 20)
  | .ctz d a k => some (eAlu d a 0 k 21)
  | .popc d a k => some (eAlu d a 0 k 22)
  | .sel d a b k => some (eAlu d a b k 23)
  | .addi d a i => some (eFB 12 d.toNat a.toNat i.toNat)
  | .andi d a i => some (eFB 13 d.toNat a.toNat i.toNat)
  | .ori d a i => some (eFB 14 d.toNat a.toNat i.toNat)
  | .xori d a i => some (eFB 15 d.toNat a.toNat i.toNat)
  | .shli d a n => some (eFB 16 d.toNat a.toNat (0 * 2 ^ 6 + n.toNat))
  | .shri d a n => some (eFB 16 d.toNat a.toNat (1 * 2 ^ 6 + n.toNat))
  | .sari d a n => some (eFB 16 d.toNat a.toNat (2 * 2 ^ 6 + n.toNat))
  | .lui d i => some (eFC 17 d.toNat i.toNat)
  | .lhi d i => some (eFC 18 d.toNat i.toNat)
  | .ltop d i => some (eFC 19 d.toNat i.toNat)
  | .ext d a w p => some (eFB 20 d.toNat a.toNat (0 * 2 ^ 12 + w.toNat * 2 ^ 6 + p.toNat))
  | .ins d a w p => some (eFB 20 d.toNat a.toNat (1 * 2 ^ 12 + w.toNat * 2 ^ 6 + p.toNat))
  | .widx d f => some (eFB 20 d.toNat 0 (2 * 2 ^ 12 + f.toNat))
  | .cmp d a b k c => some (eFA 21 d.toNat a.toNat b.toNat k.toNat c.code)
  | .cmpi d a c i => some (eFB 22 d.toNat a.toNat (c.code * 2 ^ 10 + i.toNat))
  | .pand d a b k => some (eFA 23 d.toNat a.toNat b.toNat k.toNat 0)
  | .por d a b k => some (eFA 23 d.toNat a.toNat b.toNat k.toNat 1)
  | .pxor d a b k => some (eFA 23 d.toNat a.toNat b.toNat k.toNat 2)
  | .pnot d a k => some (eFA 23 d.toNat a.toNat 0 k.toNat 3)
  | .ldB d s l o => some (eFMS 24 d s l o)
  | .ldH d s l o => some (eFMS 25 d s l o)
  | .ldW d s l o => some (eFMS 26 d s l o)
  | .ldD d s l o => some (eFMS 27 d s l o)
  | .lduB d s l o => some (eFMS 28 d s l o)
  | .lduH d s l o => some (eFMS 29 d s l o)
  | .lduW d s l o => some (eFMS 30 d s l o)
  | .stB d s l o => some (eFMS 31 d s l o)
  | .stH d s l o => some (eFMS 32 d s l o)
  | .stW d s l o => some (eFMS 33 d s l o)
  | .stD d s l o => some (eFMS 34 d s l o)
  | .vld d s l c o => some (eFMV 35 d s l c o)
  | .vldb d s l c o => some (eFMV 36 d s l c o)
  | .vldt d s l c o => some (eFMV 37 d s l c o)
  | .vst d s l c o => some (eFMV 38 d s l c o)
  | .vstt d s l c o => some (eFMV 39 d s l c o)
  | .vlds d a b k c l => some (eFA 40 d.toNat a.toNat b.toNat k.toNat (0 * 2 ^ 4 + c.code * 2 ^ 2 + l.toNat * 2))
  | .vsts d a b k c l => some (eFA 40 d.toNat a.toNat b.toNat k.toNat (1 * 2 ^ 4 + c.code * 2 ^ 2 + l.toNat * 2))
  | .amoAdd d a b k l => some (eAmo d a b k l 0)
  | .amoMax d a b k l => some (eAmo d a b k l 1)
  | .amoMin d a b k l => some (eAmo d a b k l 2)
  | .amoSwap d a b k l => some (eAmo d a b k l 3)
  | .amoCas d a b k l => some (eAmo d a b k l 4)
  | .qpush d a k => some (eFA 41 d.toNat a.toNat 0 k.toNat 8)
  | .qdrop d k => some (eFA 41 d.toNat 0 0 k.toNat 9)
  | .vldkKbf7 d a b c l => some (eKbf d a b c l 10)
  | .vldkKbf4 d a b c l => some (eKbf d a b c l 11)
  | .vldkKbf2 d a b c l => some (eKbf d a b c l 12)
  | .vstkKbf7 d a b c l => some (eKbf d a b c l 13)
  | .vstkKbf4 d a b c l => some (eKbf d a b c l 14)
  | .vstkKbf2 d a b c l => some (eKbf d a b c l 15)
  | .vaddI32 d a b k c => some (eV2 42 d a b k c 0)
  | .vsubI32 d a b k c => some (eV2 42 d a b k c 1)
  | .vmulI32 d a b k c => some (eV2 42 d a b k c 2)
  | .vmulh d a b k c => some (eV2 42 d a b k c 3)
  | .vand d a b k c => some (eV2 42 d a b k c 4)
  | .vor d a b k c => some (eV2 42 d a b k c 5)
  | .vxor d a b k c => some (eV2 42 d a b k c 6)
  | .vabsI32 d a k c => some (eV1 42 d a k c 7)
  | .vshl d a b k c => some (eV2 43 d a b k c 0)
  | .vshr d a b k c => some (eV2 43 d a b k c 1)
  | .vsar d a b k c => some (eV2 43 d a b k c 2)
  | .vminI32 d a b k c => some (eV2 43 d a b k c 3)
  | .vmaxI32 d a b k c => some (eV2 43 d a b k c 4)
  | .vminU32 d a b k c => some (eV2 43 d a b k c 5)
  | .vmaxU32 d a b k c => some (eV2 43 d a b k c 6)
  | .vaddF32 d a b k c => some (eV2 44 d a b k c 0)
  | .vsubF32 d a b k c => some (eV2 44 d a b k c 1)
  | .vmulF32 d a b k c => some (eV2 44 d a b k c 2)
  | .vfmaF32 d a b k c => some (eV2 44 d a b k c 3)
  | .vminF32 d a b k c => some (eV2 44 d a b k c 4)
  | .vmaxF32 d a b k c => some (eV2 44 d a b k c 5)
  | .vdot2Bf16 d a b k c => some (eV2 44 d a b k c 6)
  | .vabsF32 d a k c => some (eV1 45 d a k c 0)
  | .vnegF32 d a k c => some (eV1 45 d a k c 1)
  | .vcpysF32 d a b k c => some (eV2 45 d a b k c 2)
  | .vaccrd d a k c => some (eV1 45 d a k c 3)
  | .vcmpF32 d a b k c f => some (eFA 46 d.toNat a.toNat b.toNat k.toNat (c.code * 2 ^ 3 + f.code))
  | .vcmpI32 d a b k c f => some (eFA 47 d.toNat a.toNat b.toNat k.toNat (c.code * 2 ^ 3 + f.code))
  | .vmov d a k c => some (eV1 48 d a k c 0)
  | .vsel d a b k c => some (eV2 48 d a b k c 1)
  | .vbcast d a k c => some (eV1 48 d a k c 2)
  | .vextr d a b k c => some (eV2 48 d a b k c 3)
  | .vins d a b k c => some (eV2 48 d a b k c 4)
  | .vperm d a b k c => some (eV2 48 d a b k c 5)
  | .vxcl d a r k c => some (eFA 48 d.toNat a.toNat r.toNat k.toNat (c.code * 2 ^ 3 + 6))
  | .viota d k c => some (eV0 48 d k c 7)
  | .vredaddF32 d a k c => some (eV1 49 d a k c 0)
  | .vredaddI32 d a k c => some (eV1 49 d a k c 1)
  | .vredmaxF32 d a k c => some (eV1 49 d a k c 2)
  | .vredmaxI32 d a k c => some (eV1 49 d a k c 3)
  | .vredminF32 d a k c => some (eV1 49 d a k c 4)
  | .vredminI32 d a k c => some (eV1 49 d a k c 5)
  | .vcvt d a s t k c => some (eFA 50 d.toNat a.toNat (s.code * 2 ^ 3 + t.code) k.toNat (c.code * 2 ^ 3))
  | .vcvtF32Fx128Lo d a p k c => some (eV2 50 d a p k c 1)
  | .vcvtF32Fx128Hi d a p k c => some (eV2 50 d a p k c 2)
  | .vrcp d a k c => some (eV1 51 d a k c 0)
  | .vrcpr d a b k c => some (eV2 51 d a b k c 1)
  | .vrsq d a k c => some (eV1 51 d a k c 2)
  | .vrsqr d a b k c => some (eV2 51 d a b k c 3)
  | .vsqrt d a k c => some (eV1 51 d a k c 4)
  | .vexp2 d a k c => some (eV1 51 d a k c 5)
  | .vlog2 d a k c => some (eV1 51 d a k c 6)
  | .vsin d a k c => some (eV1 51 d a k c 7)
  | .vcos d a k c => some (eV1 52 d a k c 0)
  | .vrand d k c => some (eV0 52 d k c 1)
  | .vrandf d k c => some (eV0 52 d k c 2)
  | .vdrop d a b k c => some (eV2 52 d a b k c 3)
  | .vtopk d a b k c => some (eV2 52 d a b k c 4)
  | .vmergek d a b k c => some (eV2 52 d a b k c 5)
  | .mpset a n => some (eFB 53 a.toNat 0 n.toNat)
  | .mcall e => some (eFB 53 0 0 (2 ^ 13 + e.toNat))
  | .cpy a b g => some (eFB 54 a.toNat b.toNat g.toNat)
  | .cpyc a b g => some (eFB 54 a.toNat b.toNat (2 ^ 4 + g.toNat))
  | .gset a g => some (eFB 55 a.toNat 0 g.toNat)
  | .gstart a b q => some (eFB 56 a.toNat b.toNat q.toNat)
  | .tarm a b g => some (eFB 57 a.toNat b.toNat g.toNat)
  | .fsend a b g => some (eFB 58 a.toNat b.toNat g.toNat)
  | .fmcast a b g => some (eFB 58 a.toNat b.toNat (2 ^ 12 + g.toNat))
  | .fred a b op f g => some (eFB 58 a.toNat b.toNat (2 * 2 ^ 12 + op.code * 2 ^ 10 + f.code * 2 ^ 7 + g.toNat))
  | .ratom a b op f g => some (eFB 59 a.toNat b.toNat (op.code * 2 ^ 11 + f.code * 2 ^ 8 + g.toNat))
  | .csend a b ch => some (eFB 60 a.toNat b.toNat ch.toNat)
  | .crecv a b ch => some (eFB 60 a.toNat b.toNat (2 ^ 12 + ch.toNat))
  | .chw a ch => some (eFB 60 a.toNat 0 (2 * 2 ^ 12 + ch.toNat))
  | .ccollAllred a b r => some (eFB 61 a.toNat b.toNat (0 * 2 ^ 10 + r.toNat))
  | .ccollRedscat a b r => some (eFB 61 a.toNat b.toNat (1 * 2 ^ 10 + r.toNat))
  | .ccollAllgath a b r => some (eFB 61 a.toNat b.toNat (2 * 2 ^ 10 + r.toNat))
  | .ccollBcast a b r => some (eFB 61 a.toNat b.toNat (3 * 2 ^ 10 + r.toNat))
  | .ccollReduce a b r => some (eFB 61 a.toNat b.toNat (4 * 2 ^ 10 + r.toNat))
  | .ccollPxch a b r => some (eFB 61 a.toNat b.toNat (5 * 2 ^ 10 + r.toNat))
  | .spawn a => some (eFB 62 a.toNat 0 (0 * 2 ^ 10))
  | .kilnw a => some (eFB 62 a.toNat 0 (1 * 2 ^ 10))
  | .kilnr a => some (eFB 62 a.toNat 0 (2 * 2 ^ 10))
  | .digest a b g => some (eFB 62 a.toNat b.toNat (3 * 2 ^ 10 + g.toNat))
  | .efence g s => some (eFB 62 0 0 (4 * 2 ^ 10 + g.toNat * 2 ^ 3 + s.code))
  | .lds _ _ _ _ => none
  | .swap _ => none
  | .strm _ _ _ _ => none
  | .strmc _ _ _ _ => none
  | .zero _ _ => none
  | .scale _ _ _ => none
  | .ldacc _ _ _ => none
  | .drain _ _ _ _ _ _ => none
  | .amax _ _ _ => none
  | .madd _ _ _ _ => none
  | .mloop _ _ _ => none
  | .mbrz _ _ _ => none
  | .mwait _ _ => none
  | .mend _ => none
  | .routineBegin _ => none
  | .routineFinish _ => none
  | .routineFlagsJoin _ _ => none
  | .resultLanding _ _ => none
  | .pendingAccessPerform _ => none
  | .collisionCycle _ => none
  | .powerFreeze _ => none
  | .freezeEnd _ => none
  | .sleepEnd _ _ => none
  | .waitLimitExpiry _ _ => none
  | .trapEntry _ _ => none
  | .tretResume _ _ => none
  | .tretEnd _ _ => none
  | .taskEnd _ _ => none
  | .gangJoin _ => none
  | .gangMessageLanding _ => none
  | .takeGrant _ => none
  | .copyChunk _ _ => none
  | .copyComplete _ _ => none
  | .gatherRowDelivery _ _ => none
  | .gstartIndexEntry _ _ => none
  | .keyUseReport _ => none
  | .faultRecordPost _ => none
  | .pageWalk _ => none
  | .flit _ _ => none
  | .portDown _ => none
  | .packetForward _ => none
  | .write _ => none
  | .readreq _ => none
  | .readdata _ => none
  | .reduce _ => none
  | .reduceResend => none
  | .roundTimeout _ _ => none
  | .atomic _ => none
  | .atomicdata _ => none
  | .ack _ => none
  | .mcwrite _ => none
  | .responseTimeout _ => none
  | .chunk _ => none
  | .abortMarker _ => none
  | .creditReturn _ => none
  | .collectiveStart _ => none
  | .stepTimeout _ => none
  | .collectiveComplete _ => none
  | .prioritySwitch _ => none
  | .time _ _ => none
  | .timeSend => none
  | .gtbCorrection _ => none
  | .gtbokLoss => none
  | .xinvContext _ => none
  | .xinvPages _ => none
  | .xinvRanges _ => none
  | .xinvNop _ => none
  | .xinvComplete _ => none
  | .mgctlReloadReduction _ => none
  | .mgctlReloadMulticast _ => none
  | .clctlReloadChannels _ => none
  | .clctlReloadRings _ => none
  | .tctlNone _ _ _ => none
  | .tctlSetSkew _ _ _ => none
  | .tctlClearSkew _ _ _ => none
  | .tctlMakeMailbox _ _ _ => none
  | .tctlReleaseMailbox _ _ _ => none
  | .tctlDisarm _ _ _ => none
  | .launchQueuePoll _ => none
  | .launchAccept _ => none
  | .lqbaseWrite _ _ => none
  | .unitDispatch _ => none
  | .imageLoad _ => none
  | .launchAged _ => none
  | .launchComplete _ => none
  | .create _ => none
  | .kill _ => none
  | .killComplete _ => none
  | .signal _ => none
  | .wdclr _ => none
  | .ucload _ => none
  | .attest _ => none
  | .quantumEnd _ => none
  | .switchOutComplete _ => none
  | .contextYield _ => none
  | .switchIn _ => none
  | .efenceComplete _ _ => none
  | .digestComplete _ _ => none
  | .epochBoundary => none
  | .debugHalt _ => none
  | .sampleRecord _ => none
  | .registerWrite _ _ => none
  | .hostCxlMemRead _ _ => none
  | .hostCxlMemWrite _ _ => none
  | .hostCxlIoWindowAccess _ _ _ => none
  | .hostSupervisorWrite _ _ _ => none
  | .coldStart => none
  | .warmStart => none
  | .firmwarePush => none
  | .thermalWarn _ => none
  | .throttleStep _ => none
  | .thermalTrip _ => none
  | .hbmScrub _ _ => none
  | .portUp _ => none
  | .mgctlReloadDone _ => none
  | .clctlReloadDone _ => none
  | .createComplete _ => none

/-- The microword of a micro-operation (R179, R180); none for any other step. -/
def encodeMicro : Instr → Option Nat
  | .lds _ pa o n => some (1 * 2 ^ 59 + pa.toNat * 2 ^ 53 + o.toNat * 2 ^ 46 + n.toNat * 2 ^ 39)
  | .swap _ => some (2 * 2 ^ 59 + 0)
  | .strm _ t pa n => some (3 * 2 ^ 59 + t.toNat * 2 ^ 56 + pa.toNat * 2 ^ 53 + n.toNat * 2 ^ 39)
  | .strmc _ t pa n => some (4 * 2 ^ 59 + t.toNat * 2 ^ 56 + pa.toNat * 2 ^ 53 + n.toNat * 2 ^ 39)
  | .zero _ t => some (5 * 2 ^ 59 + t.toNat * 2 ^ 56)
  | .scale _ t i => some (9 * 2 ^ 59 + t.toNat * 2 ^ 56 + i.toNat)
  | .ldacc _ t pa => some (6 * 2 ^ 59 + t.toNat * 2 ^ 56 + pa.toNat * 2 ^ 53)
  | .drain _ t pa pb pc fmt => some (7 * 2 ^ 59 + t.toNat * 2 ^ 56 + pa.toNat * 2 ^ 53 + pb.toNat * 2 ^ 50 + pc.toNat * 2 ^ 47 + fmt.toNat * 2 ^ 34)
  | .amax _ t pb => some (8 * 2 ^ 59 + t.toNat * 2 ^ 56 + pb.toNat * 2 ^ 50)
  | .madd _ pd pa i => some (10 * 2 ^ 59 + pd.toNat * 2 ^ 56 + pa.toNat * 2 ^ 53 + i.toNat)
  | .mloop _ p target => some (11 * 2 ^ 59 + p.toNat * 2 ^ 56 + target.toNat * 2 ^ 44)
  | .mbrz _ p target => some (12 * 2 ^ 59 + p.toNat * 2 ^ 56 + target.toNat * 2 ^ 44)
  | .mwait _ cls => some (13 * 2 ^ 59 + cls.toNat)
  | .mend _ => some (14 * 2 ^ 59 + 0)
  | _ => none

/-- Bits of `w` from `8 * i`, one byte. -/
def byteOf (w i : Nat) : Byte := BitVec.ofNat 8 (w / 256 ^ i)

/-- The four bytes of a word as the hardware stores it (R7). -/
def wordBytes (w : Nat) : List Byte := [byteOf w 0, byteOf w 1, byteOf w 2, byteOf w 3]

/-- A little-endian number from bytes (R7). -/
def leNat : List Byte → Nat
  | [] => 0
  | b :: bs => b.toNat + 256 * leNat bs

/-- The step that an instruction word of the table is: a word whose major is 0 is a header and, with mask 0, IDLE; any
other word is a slot instruction of its major's class. The word is laid out as bytes and read back, little-endian. -/
def decodeTableWord (_nbits w : Nat) : Option Instr :=
  let v := leNat (wordBytes w)
  match majorClass (nfld v 26 6) with
  | none =>
    match decodeHeader v with
    | .ok h => if h.mask = 0 then some (.idle h.idle h.sat h.rnd h.prof) else none
    | .error _ => none
  | some k =>
    match decodeSlot k v with
    | .ok i => some i
    | .error _ => none

end Sys2Proof
end

