-- ==== Sys2Proof/Machine/Bits.lean ====
section
/-! DEFINITION. Bit fields, sign extension, byte order and memories of bytes (R7). -/

namespace Sys2Proof.Machine

/-- Two's-complement value of the low `n` bits of `w`. -/
def sextN (n w : Nat) : Int :=
  let v := w % 2 ^ n
  if v < 2 ^ (n - 1) then (v : Int) else (v : Int) - 2 ^ n

/-- The low `n` bits of an integer, as a number. -/
def wrapN (n : Nat) (x : Int) : Nat := (x % (2 ^ n : Int)).toNat

/-- Bit `i` of a number. -/
def bitN (w i : Nat) : Bool := decide (w / 2 ^ i % 2 = 1)

/-- A flag as a number. -/
def b2n (b : Bool) : Nat := if b then 1 else 0

/-- `n` bytes of a number, least significant first (R7). -/
def leBytes : Nat → Nat → List Byte
  | 0, _ => []
  | n + 1, w => BitVec.ofNat 8 w :: leBytes n (w / 256)

/-- A memory of bytes; a byte that is not listed reads zero. -/
abbrev Mem := Tab Byte

namespace Mem

/-- One byte. -/
def byte (m : Mem) (a : Nat) : Byte := Tab.get 0 m a

/-- Write one byte. -/
def setByte (m : Mem) (a : Nat) (b : Byte) : Mem := Tab.set 0 m a b

/-- `n` bytes from `a`, at rising addresses. -/
def bytes (m : Mem) (a n : Nat) : List Byte := Tab.getRun 0 m a n

/-- Write bytes at rising addresses from `a`. -/
def setBytes (m : Mem) (a : Nat) (bs : List Byte) : Mem := Tab.setRun 0 m a bs

/-- A little-endian number of `n` bytes. -/
def num (m : Mem) (a n : Nat) : Nat := leNat (bytes m a n)

/-- Write a little-endian number of `n` bytes. -/
def setNum (m : Mem) (a n w : Nat) : Mem := setBytes m a (leBytes n w)

/-- The canonical form of a memory. -/
def wf (m : Mem) : Bool := Tab.wf 0 m

end Mem

/-- Bytes with bits `lo` up to `lo + n` of the number replaced by `v`. -/
def insBits (w lo n v : Nat) : Nat := w - (w / 2 ^ lo % 2 ^ n) * 2 ^ lo + (v % 2 ^ n) * 2 ^ lo

/-- The numbers `0` to `n - 1`. -/
def upto (n : Nat) : List Nat := List.range n

/-- Bitwise exclusive or, or, and of numbers. -/
def nxor (a b : Nat) : Nat := a ^^^ b

/-- Replace element `i` of a list. -/
def setAt {α : Type} : List α → Nat → α → List α
  | [], _, _ => []
  | _ :: t, 0, x => x :: t
  | y :: t, i + 1, x => y :: setAt t i x

/-- Element `i` of a list, or the default. -/
def nth {α : Type} (d : α) : List α → Nat → α
  | [], _ => d
  | x :: _, 0 => x
  | _ :: t, i + 1 => nth d t i

/-- The CRC-32C register after one bit (R98: reflected, polynomial 0x1EDC6F41). -/
def crcBit (c : Nat) : Nat := if c % 2 = 1 then nxor (c / 2) 0x82F63B78 else c / 2

/-- The CRC-32C register after one byte. -/
def crcByte (c : Nat) (b : Byte) : Nat :=
  let x := nxor c b.toNat
  crcBit (crcBit (crcBit (crcBit (crcBit (crcBit (crcBit (crcBit x)))))))

/-- CRC-32C of bytes (R98). -/
def crc32c (bs : List Byte) : Nat := nxor (bs.foldl crcByte 0xFFFFFFFF) 0xFFFFFFFF

end Sys2Proof.Machine
end

