-- ==== Sys2Proof/Machine/Regs.lean ====
section
/-! DEFINITION. The registers of BAR 0 by their offset (R68): reset values, writable bits, and their fields. -/

namespace Sys2Proof.Machine

/-- Bits `hi` down to `lo` set. -/
def bitsMask (hi lo : Nat) : Nat := 2 ^ (hi + 1) - 2 ^ lo

/-- A register: reset value, RW bits, W1C bits (R8). Other bits are RO, WO or RSV. -/
structure RegInfo where
  reset : Nat
  rw    : Nat
  w1c   : Nat
  deriving DecidableEq, Repr

/-- The system block (R418). -/
def sysInfo (o : Nat) : Option RegInfo :=
  match o with
  | 0x00 => some ⟨0, 0, 0⟩
  | 0x08 => some ⟨0, 0, 0⟩
  | 0x10 => some ⟨0, 0, 0⟩
  | 0x18 => some ⟨0, 0, 0⟩
  | 0x20 => some ⟨0, 0, 0⟩
  | 0x28 => some ⟨0, 0, 1⟩
  | 0x30 => some ⟨0, 0, 2 ^ 16⟩
  | _ => none

/-- The translation block of a context (R70, R295). -/
def transInfo (o : Nat) : Option RegInfo :=
  match o with
  | 0x00 => some ⟨0, bitsMask 55 12 + 1, 0⟩
  | 0x08 => some ⟨0, bitsMask 55 12, 0⟩
  | 0x10 => some ⟨0, bitsMask 63 0, 0⟩
  | 0x18 => some ⟨0, bitsMask 31 16 + bitsMask 3 2, 2 ^ 4⟩
  | 0x20 => some ⟨0, bitsMask 55 16 + 1, 0⟩
  | 0x28 => some ⟨0, bitsMask 55 16 + 1, 0⟩
  | 0x30 => some ⟨0, bitsMask 31 12 + 2 ^ 3, 2 ^ 2⟩
  | _ => none

/-- The collective block of a context (R304). -/
def clInfo (o : Nat) : Option RegInfo :=
  match o with
  | 0x00 => some ⟨0, bitsMask 55 18 + 1, 0⟩
  | 0x08 => some ⟨0, bitsMask 55 16 + 1, 0⟩
  | 0x10 => some ⟨0, bitsMask 43 20 + 2 ^ 3, 2 ^ 2⟩
  | 0x18 => some ⟨0, 0, 0⟩
  | _ => none

/-- A launch queue (R364). -/
def lqInfo (o : Nat) : Option RegInfo :=
  match o with
  | 0x00 => some ⟨0, bitsMask 55 4 + 1, 0⟩
  | 0x08 => some ⟨0, bitsMask 55 3, 0⟩
  | 0x10 => some ⟨0, 0, 0⟩
  | 0x18 => some ⟨0, 0, 3⟩
  | _ => none

/-- The control block of a context (R391). -/
def ccbInfo (o : Nat) : Option RegInfo :=
  match o with
  | 0x00 => some ⟨0, bitsMask 33 0, 0⟩
  | 0x08 => some ⟨0, bitsMask 63 0, 0⟩
  | 0x10 => some ⟨0, bitsMask 63 0, 0⟩
  | 0x18 => some ⟨0, bitsMask 63 0, 0⟩
  | 0x20 => some ⟨0, bitsMask 63 0, 0⟩
  | 0x28 => some ⟨0, bitsMask 55 16, 0⟩
  | 0x30 => some ⟨0, bitsMask 55 12 + bitsMask 3 0, 0⟩
  | 0x38 => some ⟨0, 0, 0⟩
  | 0x40 => some ⟨2 ^ 40, bitsMask 47 0, 0⟩
  | 0x48 => some ⟨0, bitsMask 63 32 + bitsMask 9 8, 0⟩
  | 0x50 => some ⟨0, bitsMask 55 3, 0⟩
  | 0x58 => some ⟨0, 0, 2 ^ 8⟩
  | 0x60 => some ⟨0, 0, 0⟩
  | 0x68 => some ⟨0, 0, 0⟩
  | 0x70 => some ⟨0, 0, 0⟩
  | 0x78 => some ⟨0, 0, 0⟩
  | _ => none

/-- The debug block of a context (R406, R412). -/
def dbgInfo (o : Nat) : Option RegInfo :=
  if o = 0x00 then some ⟨0, bitsMask 47 32 + 2 ^ 5 + bitsMask 3 0, 0⟩
  else if o = 0x08 then some ⟨0, bitsMask 55 12 + bitsMask 3 0, 0⟩
  else if o = 0x10 then some ⟨0, 0, 0⟩
  else if o = 0x18 then some ⟨0, bitsMask 63 0, 0⟩
  else if o = 0x20 then some ⟨0, 0, 0⟩
  else if 0x28 ≤ o ∧ o ≤ 0x40 then some ⟨0, bitsMask 31 24 + bitsMask 21 20 + bitsMask 18 2 + 1, 0⟩
  else if 0x80 ≤ o ∧ o < 0x100 then some ⟨0, 0, 0⟩
  else none

/-- The register at an aligned offset of BAR 0; none where nothing is assigned. -/
def regInfo (o : Nat) : Option RegInfo :=
  if o % 8 ≠ 0 then none
  else if o < 0x100000 then sysInfo o
  else if o < 0x100000 + 16 * 0x40 then transInfo (o % 0x40)
  else if o = 0x200000 then some ⟨1000 * 2 ^ 40, bitsMask 63 40 + bitsMask 13 0, 0⟩
  else if o = 0x200008 then some ⟨0, 0, 0⟩
  else if 0x210000 ≤ o ∧ o < 0x218000 then some ⟨0, bitsMask 31 30 + bitsMask 23 8 + bitsMask 6 0, 0⟩
  else if 0x300000 ≤ o ∧ o < 0x300000 + 16 * 0x20 then clInfo (o % 0x20)
  else if 0x400000 ≤ o ∧ o < 0x400000 + 64 * 0x20 then lqInfo (o % 0x20)
  else if 0x500000 ≤ o ∧ o < 0x500020 then
    some ⟨4608 * 2 ^ 32 + 4 * 2 ^ 16 + 16 * 2 ^ 8 + 24, bitsMask 47 32 + bitsMask 23 0, 0⟩
  else if 0x600000 ≤ o ∧ o < 0x600000 + 16 * 0x80 then ccbInfo (o % 0x80)
  else if 0x700000 ≤ o ∧ o < 0x700000 + 16 * 0x100 then dbgInfo (o % 0x100)
  else none

/-- The reset value of a register. -/
def regReset (o : Nat) : Word :=
  match regInfo o with
  | some i => BitVec.ofNat 64 i.reset
  | none => 0

/-- The register at offset `o`. -/
def State.reg (s : State) (o : Nat) : Word := (Tab.find s.regs o).getD (regReset o)

def State.setReg (s : State) (o : Nat) (v : Word) : State := { s with regs := Tab.put s.regs o v }

/-- Bits `lo` up to `lo + n` of the register at `o`. -/
def State.fld (s : State) (o lo n : Nat) : Nat := (s.reg o).toNat / 2 ^ lo % 2 ^ n

def State.setFld (s : State) (o lo n v : Nat) : State := s.setReg o (BitVec.ofNat 64 (insBits (s.reg o).toNat lo n v))

/-- A one-bit field. -/
def State.flag (s : State) (o i : Nat) : Bool := bitN (s.reg o).toNat i

/-- Adds to a counter that saturates at `2 ^ n - 1`. -/
def State.bump (s : State) (o lo n by_ : Nat) : State :=
  s.setFld o lo n (if 2 ^ n - 1 < s.fld o lo n + by_ then 2 ^ n - 1 else s.fld o lo n + by_)

/-! ## Offsets of the blocks -/

def trOff (x : Nat) : Nat := 0x100000 + 0x40 * x
def oFCFG : Nat := 0x200000
def oFSTAT : Nat := 0x200008
def routeOff (n : Nat) : Nat := 0x210000 + 8 * n
def clOff (x : Nat) : Nat := 0x300000 + 0x20 * x
def lqOff (q : Nat) : Nat := 0x400000 + 0x20 * q
def dpOff (d : Nat) : Nat := 0x500000 + 8 * d
def ccbOff (x : Nat) : Nat := 0x600000 + 0x80 * x
def dbgOff (x : Nat) : Nat := 0x700000 + 0x100 * x
def oSYSSTAT : Nat := 0x00
def oSYSCTL : Nat := 0x08
def oCDIS : Nat := 0x10
def oECCSTAT : Nat := 0x28
def oTHERM : Nat := 0x30
def stagingOff : Nat := 0x900000
def stagingEnd : Nat := 0xD00000
def reportOff : Nat := 0x910000

/-! ## Named fields -/

/-- FCFG.PKG: this package's number (R288). -/
def State.pkg (s : State) : Nat := s.fld oFCFG 0 12

/-- SYSSTAT.STAGE (R418): 0 RESET, 1 VERIFY, 2 RECOVERY, 3 TRAIN, 4 READY, 5 HALTED. -/
def State.stage (s : State) : Nat := s.fld oSYSSTAT 0 4

/-- An MSI-X vector goes to the host (R416). -/
def State.msi (s : State) (v : Nat) : State := { s with msix := v :: s.msix }

/-- STAGE changes: vector 0 (R416). -/
def State.setStage (s : State) (v : Nat) : State :=
  let t := s.setFld oSYSSTAT 0 4 v
  if s.stage = v then t else t.msi 0

def State.setLastErr (s : State) (v : Nat) : State := s.setFld oSYSSTAT 8 8 v

/-- STATE of a context (R391): 0 FREE, 1 LIVE, 2 OUT, 3 KILLING, 4 KILLED, 5 FAULT. -/
def State.ctxState (s : State) (x : Nat) : Nat := s.fld (ccbOff x + 0x58) 0 4

/-- Entering FAULT or KILLED sends vector 1 (R416). -/
def State.setCtxState (s : State) (x v : Nat) : State :=
  let t := s.setFld (ccbOff x + 0x58) 0 4 v
  if (v = 4 ∨ v = 5) ∧ s.ctxState x ≠ v then t.msi 1 else t

def State.ctxBusy (s : State) (x : Nat) : Bool := s.flag (ccbOff x + 0x58) 7
def State.setCtxBusy (s : State) (x : Nat) (b : Bool) : State := s.setFld (ccbOff x + 0x58) 7 1 (b2n b)
def State.setCtxErr (s : State) (x : Nat) : State := s.setFld (ccbOff x + 0x58) 8 1 1

/-- The core set of a context, as a number of 192 bits. -/
def State.coreSet (s : State) (x : Nat) : Nat :=
  s.fld (ccbOff x + 0x10) 0 64 + s.fld (ccbOff x + 0x18) 0 64 * 2 ^ 64 + s.fld (ccbOff x + 0x20) 0 64 * 2 ^ 128

/-- Its cores, ascending. -/
def State.setCores (s : State) (x : Nat) : List Nat := (List.range 192).filter fun c => bitN (s.coreSet x) c

/-- The place of core `c` in the image area (R396). -/
def State.imgIndex (s : State) (x c : Nat) : Nat := ((List.range c).filter fun i => bitN (s.coreSet x) i).length

/-- The package-local address of the image of core `c` (R396). -/
def State.imgAddr (s : State) (x c : Nat) : Nat :=
  (s.reg (ccbOff x + 0x28)).toNat % 2 ^ 44 / 2 ^ 16 * 2 ^ 16 + s.imgIndex x c * 0x840000

/-- ECCSTAT.UE becomes 1: vector 2 (R416, R424). -/
def State.setUE (s : State) : State := if s.flag oECCSTAT 0 then s else (s.setFld oECCSTAT 0 1 1).msi 2

/-- A write of `bs` at byte `lo` of the register at `o`: the word after the write of its RW and W1C bits (R8, R415), and
the written bits, zero where no byte is named. -/
def regAfter (s : State) (o lo : Nat) (bs : List Byte) : Word × Nat :=
  let i := (regInfo o).getD ⟨0, 0, 0⟩
  let named := bitsMask (8 * (lo + bs.length) - 1) (8 * lo)
  let v := leNat bs * 2 ^ (8 * lo) % 2 ^ 64
  let old := (s.reg o).toNat
  let rw := i.rw &&& named
  (BitVec.ofNat 64 ((old - (old &&& rw) + (v &&& rw)) - ((old &&& i.w1c) &&& v)), v)

/-- A host or boot-processor read of a register (R65, R415): WO bits read zero, unassigned offsets read zero. -/
def State.readReg (s : State) (o : Nat) : Word := if (regInfo o).isSome then s.reg o else 0

end Sys2Proof.Machine
end

