-- ==== Sys2Proof/Machine/Ops.lean ====
section
/-! DEFINITION. The named operations over cores, streams, landing buffers and memories, and taking an exception. -/

namespace Sys2Proof.Machine

/-! ## Reaching cores and streams -/

def Seat.st (x : Seat) (t : Bool) : Stream := if t then x.sec else x.prim

def Seat.putSt (x : Seat) (t : Bool) (y : Stream) : Seat := if t then { x with sec := y } else { x with prim := y }

def State.core (s : State) (c : Nat) : Core := Tab.get Core.reset s.cores c

def State.putCore (s : State) (c : Nat) (x : Core) : State := { s with cores := Tab.put s.cores c x }

def State.seat (s : State) (c : Nat) : Seat := (s.core c).seat

def State.putSeat (s : State) (c : Nat) (x : Seat) : State := s.putCore c { s.core c with seat := x }

def State.st (s : State) (c : Nat) (t : Bool) : Stream := (s.seat c).st t

def State.putSt (s : State) (c : Nat) (t : Bool) (y : Stream) : State := s.putSeat c ((s.seat c).putSt t y)

/-- The stream of the slot instruction under way, and its update. -/
def State.cst (s : State) : Stream := s.st s.cur.core s.cur.sec

def State.putCst (s : State) (y : Stream) : State := s.putSt s.cur.core s.cur.sec y

/-- The work id of a stream's task; 0 without one. -/
def Stream.wid (y : Stream) : Word := match y.task with | some t => t.wid | none => 0

def State.ctx (s : State) (x : Nat) : Ctx := Tab.get Ctx.reset s.ctxs x

def State.putCtx (s : State) (x : Nat) (y : Ctx) : State := { s with ctxs := Tab.put s.ctxs x y }

/-- The context that holds a core; context 0 where none does. -/
def State.ctxOf (s : State) (c : Nat) : Nat := (s.core c).owner.getD 0

/-- Counts one use of the free values. -/
def State.used (s : State) : State := { s with free := s.free + 1 }

/-! ## Registers (R141, R142) -/

/-- s0 reads zero. -/
def Regs.getS (r : Regs) (d : Nat) : Word := if d = 0 then 0 else Tab.get 0 r.s d

/-- A write to s0 is discarded. -/
def Regs.setS (r : Regs) (d : Nat) (v : Word) : Regs := if d = 0 then r else { r with s := Tab.set 0 r.s d v }

/-- p0 reads true. -/
def Regs.getP (r : Regs) (d : Nat) : Bool := if d = 0 then true else Tab.get false r.p d

def Regs.setP (r : Regs) (d : Nat) (v : Bool) : Regs := if d = 0 then r else { r with p := Tab.set false r.p d v }

/-- k0 reads all ones. -/
def Regs.getK (r : Regs) (d : Nat) : BitVec 128 := if d = 0 then BitVec.allOnes 128 else Tab.get 0 r.k d

def Regs.setK (r : Regs) (d : Nat) (v : BitVec 128) : Regs := if d = 0 then r else { r with k := Tab.set 0 r.k d v }

def Regs.getV (r : Regs) (d lane : Nat) : W32 := Tab.get 0 r.v (128 * d + lane)

def Regs.setV (r : Regs) (d lane : Nat) (v : W32) : Regs := { r with v := Tab.set 0 r.v (128 * d + lane) v }

def Regs.setLanes (r : Regs) (d : Nat) : List (Nat × W32) → Regs
  | [] => r
  | (l, x) :: ls => Regs.setLanes (r.setV d l x) d ls

/-- One bit of a mask register's value. -/
def setBit128 (m : BitVec 128) (l : Nat) (b : Bool) : BitVec 128 :=
  if b then m ||| BitVec.ofNat 128 (2 ^ l) else m &&& ~~~ BitVec.ofNat 128 (2 ^ l)

def maskBits (m : BitVec 128) : List (Nat × Bool) → BitVec 128
  | [] => m
  | (l, b) :: ls => maskBits (setBit128 m l b) ls

def Regs.getTs (r : Regs) (i : Nat) : W32 := Tab.get tsDefault r.ts i

/-- Doubleword `n` of geometry set `g` (R88, R89). -/
def Regs.getG (r : Regs) (g n : Nat) : Word := Tab.get 0 r.g (24 * g + n)

def Regs.setG (r : Regs) (g n : Nat) (v : Word) : Regs := { r with g := Tab.set 0 r.g (24 * g + n) v }

def Regs.gset (r : Regs) (g : Nat) : List Word := (List.range 24).map (r.getG g)

/-! ## The landing buffer (R145 to R147) -/

/-- Insert by issue order. -/
def insLanding (e : Landing) : List Landing → List Landing
  | [] => [e]
  | f :: l => if f.seq ≤ e.seq then f :: insLanding e l else e :: f :: l

/-- Accesses stand in issue order, a bundle's in slot order (R132). -/
def insAcc (a : Access) : List Access → List Access
  | [] => [a]
  | b :: l => if b.seq ≤ a.seq then b :: insAcc a l else a :: b :: l

/-- A pending result of the stream, due after `rem` ticks. -/
def Stream.pushLanding (y : Stream) (e : Landing) : Stream := { y with landing := insLanding e y.landing }

def Stream.pushAcc (y : Stream) (a : Access) : Stream := { y with acc := y.acc ++ [a] }

/-- R182, `land`: the value enters the landing buffer of the stream under way and lands `L` ticks later, with flags. -/
def land (d : Dest) (flags L : Nat) (s : State) : State :=
  let y := s.cst
  s.putCst { y.pushLanding ⟨y.seq, L, flags, d, (s.cur.pc, s.cur.slot)⟩ with seq := y.seq + 1 }

/-- R132: a pending scratchpad access of the stream under way, performing `rem` ticks after its issue; a loaded value
lands `lat` ticks after its issue. -/
def pend (op : AccOp) (rem lat : Nat) (al : Bool) (s : State) : State :=
  let y := s.cst
  s.putCst { y.pushAcc ⟨y.seq, rem, lat, al, s.cycle, s.cur.pc, s.cur.slot, op⟩ with seq := y.seq + 1 }

/-! ## The data scratchpad (R111, R211) -/

/-- Bytes of the data scratchpad. -/
def spadSize : Nat := 0x600000

/-- R211: the bytes of an element lie in the data scratchpad. -/
def inSpad (a n : Nat) : Bool := decide (a + n ≤ spadSize)

def tileOf (a : Nat) : Nat := a / 4096

def Seat.tile (x : Seat) (t : Nat) : Tile := Tab.get Tile.free x.tiles t

def Seat.putTile (x : Seat) (t : Nat) (y : Tile) : Seat := { x with tiles := Tab.set Tile.free x.tiles t y }

/-- Tiles touched by `n` bytes at `a`. -/
def tilesOf (a n : Nat) : List Nat :=
  if n = 0 then [] else (List.range ((a + n - 1) / 4096 - a / 4096 + 1)).map (a / 4096 + ·)

/-- Does an element touch the doubleword at `w`? -/
def touches (w a n : Nat) : Bool := decide (a < w + 8) && decide (w < a + n)

/-- The doublewords of a list that a write of `n` bytes at `a` leaves with their errors: those it does not write whole. -/
def leftBad (a n : Nat) (ws : List Nat) : List Nat := ws.filter fun w => !(decide (a ≤ w) && decide (w + 8 ≤ a + n))

/-- The reservation that holds back a write of `n` bytes at `a` by an agent (none: an engine or an inbound write). -/
def holdsBack (who : Option Bool) (a n : Nat) (r : Resv) : Bool := touches r.addr a n && decide (some r.sec ≠ who)

/-- R220: a write of an element that issued in cycle `cyc` performs, or waits for the AMO that reserves its word. -/
def Seat.write (x : Seat) (who : Option Bool) (cyc a : Nat) (bs : List Byte) : Seat :=
  if x.resv.any (holdsBack who a bs.length) then
    { x with resv := x.resv.map fun r => if holdsBack who a bs.length r then { r with late := r.late ++ [.write who cyc a bs] } else r }
  else
    { x with spad := Mem.setBytes x.spad a bs,
             bad := leftBad a bs.length x.bad }

/-- Bytes as a load of stream `t` samples them: the latest deferred write of that stream to a reserved word shows (R220). -/
def Seat.sampleByte (x : Seat) (t : Bool) (a : Nat) : Byte :=
  let late := (x.resv.filter fun r => decide (r.sec ≠ t) && touches r.addr a 1).flatMap Resv.late
  late.foldl (fun b d =>
    match d with
    | .write (some w) _ a' bs => if w = t ∧ a' ≤ a ∧ a < a' + bs.length then nth 0 bs (a - a') else b
    | _ => b) (Mem.byte x.spad a)

def Seat.sample (x : Seat) (t : Bool) (a n : Nat) : List Byte := (List.range n).map fun i => x.sampleByte t (a + i)

/-- Does an element touch a doubleword with an uncorrectable error (R392)? -/
def Seat.isBad (x : Seat) (a n : Nat) : Bool := x.bad.any fun w => touches w a n

/-- R219: the value an AMO writes; none for a failed CAS. -/
def amoNew (op : AmoOp) (w v e : Word) : Option Word :=
  match op with
  | .add => some (w + v)
  | .max => some (if v.toInt ≤ w.toInt then w else v)
  | .min => some (if w.toInt ≤ v.toInt then w else v)
  | .swap => some v
  | .cas => if w = e then some v else none

/-- The doubleword at `a`. -/
def Seat.dword (x : Seat) (a : Nat) : Word := BitVec.ofNat 64 (Mem.num x.spad a 8)

/-- The result of an AMO that samples now: a landing due when the AMO's own latency ends. -/
def amoResult (acc : Access) (d : Nat) (w : Word) (remNow : Nat) (y : Stream) : Stream :=
  { y with landing := insLanding ⟨acc.seq, remNow, 0, .s d w, (acc.bundle, acc.slot)⟩ (y.landing.filter fun e => decide (e.seq ≠ acc.seq)) }

/-- The doubleword at `a` holds `v`; it is written whole, so an error in it is gone (R392). -/
def Seat.putDword (x : Seat) (a : Nat) (v : Word) : Seat :=
  { x with spad := Mem.setNum x.spad a 8 v.toNat, bad := x.bad.filter fun w => decide (w ≠ a) }

/-- An AMO's write with the value `w` that it has sampled (R219). -/
def Seat.amoPut (x : Seat) (a : Nat) (op : AmoOp) (w v e : Word) : Seat :=
  match amoNew op w v e with
  | some n => x.putDword a n
  | none => x

/-- Something waits for the AMO that reserves the doubleword at `a` (R220). -/
def Seat.defer (x : Seat) (a : Nat) (d : Deferred) : Seat :=
  { x with resv := x.resv.map fun r => if r.addr = a then { r with late := r.late ++ [d] } else r }

/-- The AMO's sample and write in one step: its write tick has come, and no reservation is its own (R220). The result lands in the
stream's next tick, also where that is later than the third after the issue (log entry 85). -/
def Seat.amoWhole (x : Seat) (t : Bool) (acc : Access) (d a : Nat) (op : AmoOp) (v e : Word) : Seat :=
  (x.putSt t (amoResult acc d (x.dword a) 1 (x.st t))).amoPut a op (x.dword a) v e

/-- Has the stream stopped (R220): the access is held with its task, or the stream sleeps? -/
def Stream.holdsAcc (y : Stream) (seq : Nat) : Bool :=
  (match y.held with | some h => h.acc.any fun b => decide (b.seq = seq) | none => false)
    || (match y.wait with | some w => w.tested | none => false)

/-- Has the write tick of an AMO come while its sample waits for another AMO (R220)? -/
def AccOp.isLate : AccOp → Bool
  | .amoLate _ _ _ _ _ => true
  | _ => false

/-- What one deferred write or sample does once its reservation is over (R220). A deferred AMO of a stream that has stopped
samples at its write tick. -/
def Seat.releaseOne (x : Seat) : Deferred → Seat
  | .write who cyc a bs =>
    let x := x.write who cyc a bs
    if who.isSome then { x with just := x.just ++ [(cyc, a, bs.length)] } else x
  | .sample who acc =>
    match acc.op with
    | .amoSample d a op v e =>
      let y := x.st who
      if x.resv.any (fun r => decide (r.addr = a)) then x.defer a (.sample who acc)
      else if y.holdsAcc acc.seq then x
      else
        match y.acc.find? fun b => decide (b.seq = acc.seq) with
        | some b =>
          if b.op.isLate then (x.putSt who { y with acc := y.acc.filter fun b => decide (b.seq ≠ acc.seq) }).amoWhole who acc d a op v e
          else { x.putSt who (amoResult acc d (x.dword a) (b.rem + 1) y) with resv := x.resv ++ [⟨a, who, acc.seq, x.dword a, []⟩] }
        | none => x
    | _ => x
  | .packet _ => x

/-- Is the reservation over (R220): its AMO's write is no longer to come, or its stream sleeps? -/
def Seat.resvOver (x : Seat) (r : Resv) : Bool :=
  let y := x.st r.sec
  !(y.acc.any fun b => decide (b.seq = r.seq)) || (match y.wait with | some w => w.tested | none => false)

/-- An engine does not write a doubleword that an AMO has reserved: it waits until the AMO has written (R220). -/
def Seat.reserved (x : Seat) (a n : Nat) : Bool := x.resv.any fun r => touches r.addr a n

/-! ## Owner states seen by an access (R119, R120) -/

/-- The state a tile has for an access that issued in cycle `cyc`: that of the oldest pending take issued no later, if the
tile is CORE. -/
def Seat.ownerFor (x : Seat) (t cyc : Nat) : Owner :=
  match (x.tile t).st with
  | .core =>
    match x.takes.find? (fun k => decide (k.tile = t) && decide (k.cyc ≤ cyc)) with
    | some k => if k.dst then .engW else .engR
    | none => .core
  | o => o

/-- R120: an access with al = 1 freezes in this state. -/
def freezesIn (isStore : Bool) : Owner → Bool
  | .core => false
  | .engR => isStore
  | .engW => true
  | .fab => true
  | .mbx => false

/-- (address, bytes) of an access's elements. -/
def AccOp.elems : AccOp → List (Nat × Nat)
  | .loadS _ a n _ => [(a, n)]
  | .loadV _ els => els.map fun e => (e.2, 4)
  | .loadK _ k els => els.flatMap fun e => [(e.2.1, 2 * (k + 1)), (e.2.2, 2)]
  | .store els => els.map fun e => (e.1, e.2.length)
  | .amoSample _ a _ _ _ => [(a, 8)]
  | .amoWrite _ a _ _ _ _ => [(a, 8)]
  | .amoLate _ a _ _ _ => [(a, 8)]
  | .loadG _ a => [(a, 192)]
  | .loadCh _ a => [(a, 64)]
  | .loadKiln a => [(a, 256)]
  | .msgSample _ => []

/-- Does the access write (R132)? -/
def AccOp.isWrite : AccOp → Bool
  | .store _ => true
  | .amoWrite _ _ _ _ _ _ => true
  | .amoLate _ _ _ _ _ => true
  | _ => false

/-- Does R120 treat it as a store? -/
def AccOp.isStore : AccOp → Bool
  | .store _ => true
  | .amoSample _ _ _ _ _ => true
  | .amoWrite _ _ _ _ _ _ => true
  | .amoLate _ _ _ _ _ => true
  | _ => false

/-! ## Charges and time -/

/-- The trap codes of R383. -/
def tcILLB : Nat := 1
def tcILLI : Nat := 2
def tcSLOT : Nat := 3
def tcPRIV : Nat := 4
def tcALIGN : Nat := 5
def tcXLAT : Nat := 6
def tcASYNC : Nat := 7
def tcOWNVIOL : Nat := 8
def tcQERR : Nat := 9
def tcGANGDIV : Nat := 10
def tcWAITTO : Nat := 11
def tcKEYWARN : Nat := 12
def tcGENMISS : Nat := 13
def tcECC : Nat := 14
def tcBRK : Nat := 15
def tcTRAP : Nat := 16
def tcQUANT : Nat := 17
def tcDBG : Nat := 18
def tcHSIG : Nat := 19

/-- ECC is pending, naming the bundle and slot of an operation that has met an uncorrectable error (R392, R424). -/
def eccAt (c : Nat) (t : Bool) (op : Nat × Nat) (s : State) : State :=
  let y := s.st c t
  (s.putSt c t { y with pend := { y.pend with ecc := y.pend.ecc ++ [⟨tcECC, op.1, op.2, 0, none⟩] } }).setUE

/-- What a trap writes into the trap registers (R388). -/
structure TrapInfo where
  code : Nat
  slot : Nat
  asy  : Bool
  done : BitVec 8
  arg  : Nat
  tpc  : Nat
  top  : Nat
  tfr  : List Word
  deriving DecidableEq, Repr

/-! ## Stopping a stream for good -/

/-- R400 step 1: the stream stops; its landing buffer, pending accesses and stopped bundle are discarded. -/
def Stream.halt (y : Stream) : Stream :=
  { y with task := none, landing := [], acc := [], lastAcc := [], lastLand := [], held := none, part := .none, done := 0, idle := 0, wait := none,
           ending := false, ret := none, sameTick := false, pend := .none, ph := .rest,
           sys := { y.sys with sup := false } }

/-- Both streams stop. Their reservations are over; what engines and other agents wait for with them still performs (R220). -/
def Seat.haltBoth (x : Seat) : Seat :=
  { x with
    prim := x.prim.halt, sec := x.sec.halt
    resv := x.resv.map fun r => { r with late := r.late.filter fun d =>
      match d with
      | .write none _ _ _ => true
      | .packet _ => true
      | _ => false } }

/-- Every stream of a context stops (R390, R400 step 1). -/
def haltCtx (x : Nat) (s : State) : State :=
  { s with cores := s.cores.map fun e =>
      if e.2.owner = some x then
        (e.1, { e.2 with seat := e.2.seat.haltBoth })
      else e }

/-- R390: a trap condition in supervisor mode is a context fault. -/
def contextFault (c : Nat) (t : Bool) (code : Nat) (s : State) : State :=
  let x := s.ctxOf c
  let o := ccbOff x + 0x58
  (((haltCtx x s).setFld o 24 8 code |>.setFld o 16 8 c).setFld o 15 1 (b2n t)).setCtxState x 5

/-! ## Taking an exception and returning from it (R384 to R390) -/

/-- R387: the stream holds its task state, sets SUP, writes the trap registers and fetches at 0x100 times the code. -/
def Stream.enter (y : Stream) (i : TrapInfo) (same : Bool) : Stream :=
  { y with
    held := some ⟨y.landing, y.acc, y.idle, y.wait, y.part, i.tpc, same, y.drawSet⟩
    landing := [], acc := [], idle := 0, wait := none, part := .none, done := 0, sameTick := false, drawSet := false
    pc := 0x100 * i.code
    entered := true
    entWid := y.wid
    sys := { y.sys with sup := true }
    stale := y.stale.filter fun e => decide (0x8000 ≤ e.1)
    trap := { y.trap with code := i.code, slot := i.slot, asy := i.asy, done := i.done, arg := BitVec.ofNat 28 i.arg,
                          tpc := i.tpc % 2 ^ 19, top := i.top % 2 ^ 19, tfr := i.tfr } }

/-- Taking an exception on a stream (R387); in supervisor mode it is a context fault (R390). `same`: the tick of the stop
is not over (R384). -/
def takeTrap (c : Nat) (t : Bool) (i : TrapInfo) (same : Bool) (s : State) : State :=
  let y := s.st c t
  if y.sys.sup then contextFault c t i.code s
  else s.putSt c t (y.enter i same)

/-- R384: a precise trap of the slot under way. The slots below have committed; no further slot issues. -/
def slotTrap (code arg : Nat) (s : State) : State :=
  let k := s.cur
  let s := s.putCst { s.cst with part := k.part }
  let s := takeTrap k.core k.sec
    { code := code, slot := k.slot, asy := false, done := k.done, arg := arg, tpc := k.pc, top := k.pc,
      tfr := [0, 0, 0, 0] } true s
  { s with cur := { s.cur with stopped := true } }

/-- The four doublewords of a fault record (R85). -/
def FRec.words (f : FRec) : List Word :=
  [f.va, BitVec.ofNat 64 f.bundle,
   BitVec.ofNat 64 (f.slot % 8 + f.cause % 256 * 2 ^ 8 + f.kind % 256 * 2 ^ 16 + f.unit % 256 * 2 ^ 24
     + f.code % 256 * 2 ^ 32), f.time]

/-- R389: the return from a handler. END = 1 lets the task run out; otherwise it resumes at TPC with DONE and SKIP as the
done mask; a wait whose TPC is unchanged is resumed with a fresh test, and after WAITTO with a count of zero (R194). -/
def Stream.leave (y : Stream) (endIt : Bool) (skip : BitVec 8) : Stream :=
  match y.held with
  | none => { y with sys := { y.sys with sup := false }, ret := none }
  | some h =>
    let dn := y.trap.done ||| skip
    let base :=
      { y with held := none, ret := none, landing := h.landing, acc := h.acc, idle := h.idle
               pc := y.trap.tpc, done := dn, part := .none, sameTick := false, drawSet := h.drawSet
               sys := { y.sys with sup := false } }
    if endIt then { base with ending := true, idle := 0, done := 0, wait := none }
    else
      match h.wait with
      | some w =>
        if y.trap.tpc = w.bundle then
          { base with wait := some { w with tested := true, count := if y.trap.code = tcWAITTO then 0 else w.count }, done := 0, pc := w.next }
        else { base with sameTick := false }
      | none =>
        if y.trap.tpc = h.tpc then { base with part := h.part, sameTick := h.sameTick }
        else { base with sameTick := h.sameTick }

/-! ## Rejections of a slot -/

/-- A slot meaning answers a next state, or the trap it takes: code and argument. -/
abbrev SlotRes := Except (Nat × Nat) State

/-- The queue a field names, if it names one (R170). -/
def qOf (f : RegF) : Option Nat := if 56 ≤ f.toNat then some (f.toNat % 4) else none

/-- A pop field (R109). -/
def isPop (f : RegF) : Bool := decide (56 ≤ f.toNat) && decide (f.toNat < 60)

def Seat.q (x : Seat) (n : Nat) : GQueue := Tab.get GQueue.reset x.gq n

def Seat.putQ (x : Seat) (n : Nat) (q : GQueue) : Seat := { x with gq := Tab.put x.gq n q }

/-- GQC.EN (R106). -/
def GQueue.en (q : GQueue) : Bool := bitN q.gqc.toNat 0

/-- R109 item 4: a named queue with EN = 0. -/
def deadQueue (s : State) (f : RegF) : Bool :=
  match qOf f with
  | some n => !((s.seat s.cur.core).q n).en
  | none => false

/-- Remove the head of a queue's data. -/
def popQ (n : Nat) (s : State) : State :=
  let x := s.seat s.cur.core
  let q := x.q n
  s.putSeat s.cur.core (x.putQ n { q with dq := q.dq.drop 1 })

/-- R109 item 1: every queue that some field pops is popped once. -/
def popFields (fs : List RegF) (s : State) : State :=
  (List.range 4).foldl (fun s n => if fs.any (fun f => isPop f && decide (f.toNat % 4 = n)) then popQ n s else s) s

/-- One slot: QERR for a dead queue, then the body, then the pops (R109, R154). A trap of the body keeps the entries. -/
def runSlot (fs : List RegF) (body : SlotRes) (s : State) : Host.Outcome State Fault Refusal :=
  if fs.any (deadQueue s) then .next (slotTrap tcQERR 0 s)
  else
    match body with
    | .ok s' => .next (popFields fs s').used
    | .error e => .next (slotTrap e.1 e.2 s)

end Sys2Proof.Machine
end

