-- ==== Sys2Proof/Machine/Operands.lean ====
section
/-! DEFINITION. The operand forms: register fields with queue reads (R109, R170, R182), cluster sets and masks (R223 to R225),
immediates and effective addresses (R169, R175). -/

namespace Sys2Proof.Machine

/-- The head of queue `n`, if any (R109). -/
def queueHead (s : State) (n : Nat) : Option DEntry := ((s.seat s.cur.core).q n).dq.head?

/-- R182, S(f): 0 for field 0, a register, or a queue entry of the scalar class. An entry of the other class has no
stated value: log entry 15. -/
def rdS (s : State) (f : RegF) : Word :=
  match qOf f with
  | none => s.cst.regs.getS f.toNat
  | some n =>
    match queueHead s n with
    | some e => if e.vec then Config.freeWord s.free else BitVec.ofNat 64 (leNat e.bytes)
    | none => Config.freeWord s.free

/-- R182, V(f, c, l): the lane at a position of a vector register or queue entry (R108, R225). -/
def rdV (s : State) (f : RegF) (pos : Nat) : W32 :=
  match qOf f with
  | none => s.cst.regs.getV f.toNat pos
  | some n =>
    match queueHead s n with
    | some e =>
      if e.vec then BitVec.ofNat 32 (leNat ((e.bytes.drop (4 * pos)).take 4))
      else BitVec.ofNat 32 (Config.freeWord (s.free + pos)).toNat
    | none => BitVec.ofNat 32 (Config.freeWord (s.free + pos)).toNat

/-- R182, P(n). -/
def rdP (s : State) (k : F3) : Bool := s.cst.regs.getP k.toNat

/-- A mask register (R142). -/
def rdK (s : State) (k : F3) : BitVec 128 := s.cst.regs.getK k.toNat

/-- The clusters of a set (R223), bit c for cluster c. -/
def clusterSet (s : State) (c : CSet) : BitVec 8 :=
  match c with
  | .all => 0xFF
  | .a => s.cst.sys.clma
  | .b => s.cst.sys.clmb

/-- Is cluster `c` in the set? -/
def inCset (m : BitVec 8) (c : Nat) : Bool := m.getLsbD c

/-- The clusters of the set in ascending order. -/
def clustersOf (m : BitVec 8) : List Nat := (List.range 8).filter (inCset m)

/-- R224: positions whose cluster is in the set and whose mask bit is 1. -/
def writtenLanes (s : State) (k : F3) (c : CSet) : List Nat :=
  let m := clusterSet s c
  let kk := rdK s k
  (List.range 128).filter fun p => inCset m (p / 16) && kk.getLsbD p

/-- Every position of every cluster in the set. -/
def setLanes (s : State) (c : CSet) : List Nat :=
  let m := clusterSet s c
  (List.range 128).filter fun p => inCset m (p / 16)

/-- R182, sext: an `n`-bit field as a two's-complement value of 64 bits. -/
def sext64 {n : Nat} (x : BitVec n) : Word := x.signExtend 64

/-- An effective address of F-M: base plus the offset times the access unit, modulo 2^64 (R175, R211). -/
def effAddr (base : Word) {n : Nat} (off : BitVec n) (size : Nat) : Nat :=
  (base + sext64 off * BitVec.ofNat 64 size).toNat

/-- A branch target: bundle address plus four times the offset, modulo 2^19 (R169). -/
def branchTarget (a : Nat) {n : Nat} (off : BitVec n) : Nat := wrapN 19 ((a : Int) + 4 * off.toInt)

/-- The address of the bundle that follows in memory (R185). -/
def linkAddr (s : State) : Nat := (s.cur.pc + s.cur.len) % 2 ^ 19

/-- R182, goto: the next bundle, the idle ticks before it, and whether the executing bank is exchanged there (R189). -/
def goto_ (target idle : Nat) (swap : Bool) (s : State) : State :=
  { s with cur := { s.cur with part := { s.cur.part with goto := some (target, idle, swap) } } }

/-- A guarded slot (R154, R182): with a false guard the rest of the operation does not take place. -/
def guarded (k : F3) (s : State) (body : SlotRes) : SlotRes := if rdP s k then body else .ok s

end Sys2Proof.Machine
end

