-- ==== Sys2Proof/Machine/Exact.lean ====
section
/-! DEFINITION. Exact values: dyadic rationals with a sign, infinities and NaN, and the one rounding of R32. -/

namespace Sys2Proof.Machine

/-- An operand's exact value. A NaN is quiet or signalling (R14). A finite value is `m * 2^e` with a sign, and a zero
keeps its sign (R15). -/
inductive XVal where
  | nan (sig : Bool)
  | inf (neg : Bool)
  | fin (neg : Bool) (m : Nat) (e : Int)
  deriving DecidableEq, Repr

namespace XVal

def zero : XVal := .fin false 0 0

def isNan : XVal → Bool
  | .nan _ => true
  | _ => false

def isSig : XVal → Bool
  | .nan s => s
  | _ => false

def isInf : XVal → Bool
  | .inf _ => true
  | _ => false

def isZero : XVal → Bool
  | .fin _ m _ => decide (m = 0)
  | _ => false

def isNeg : XVal → Bool
  | .nan _ => false
  | .inf n => n
  | .fin n _ _ => n

/-- An integer times a power of two. -/
def ofInt (i : Int) (e : Int) : XVal := .fin (decide (i < 0)) i.natAbs e

def neg : XVal → XVal
  | .nan s => .nan s
  | .inf n => .inf (!n)
  | .fin n m e => .fin (!n) m e

def abs : XVal → XVal
  | .nan s => .nan s
  | .inf _ => .inf false
  | .fin _ m e => .fin false m e

/-- Times `2 ^ k`, exactly. -/
def scale (k : Int) : XVal → XVal
  | .fin n m e => .fin n m (e + k)
  | v => v

end XVal

/-- The integer `x` such that the value is `x * 2^e`, for `e` at most the value's own exponent. -/
def intAt (neg : Bool) (m : Nat) (e0 e : Int) : Int :=
  let a : Int := (m : Int) * 2 ^ (e0 - e).toNat
  if neg then -a else a

/-- Sign of the comparison of two numbers (finite or infinite). -/
def xcmp : XVal → XVal → Ordering
  | .inf a, .inf b => if a = b then .eq else if a then .lt else .gt
  | .inf a, _ => if a then .lt else .gt
  | _, .inf b => if b then .gt else .lt
  | .fin n1 m1 e1, .fin n2 m2 e2 =>
    let e := if e1 ≤ e2 then e1 else e2
    compare (intAt n1 m1 e1 e) (intAt n2 m2 e2 e)
  | _, _ => .eq

/-- `floor (log2 |v|)` of a nonzero finite value. -/
def ilog (m : Nat) (e : Int) : Int := (Nat.log2 m : Int) + e

/-- R32: the magnitude of `m * 2^e`, of the given sign, on the quantum `2^q`. -/
def roundMag (neg : Bool) (m : Nat) (e q : Int) (mode : Rnd) (rw : Nat) : Nat :=
  if q ≤ e then m * 2 ^ (e - q).toNat
  else
    let s := (q - e).toNat
    let n := m / 2 ^ s
    let r := m % 2 ^ s
    let up : Bool :=
      match mode with
      | .rne => decide (2 ^ s < 2 * r) || (decide (2 * r = 2 ^ s) && decide (n % 2 = 1))
      | .rna => decide (2 ^ s ≤ 2 * r)
      | .rtz => false
      | .rup => decide (r ≠ 0) && !neg
      | .rdn => decide (r ≠ 0) && neg
      | .sr => decide (2 ^ 32 ≤ r * 2 ^ 32 / 2 ^ s + rw)
    n + b2n up

/-- Is the value a multiple of `2^q`? -/
def onQuantum (m : Nat) (e q : Int) : Bool := decide (q ≤ e) || decide (m % 2 ^ (q - e).toNat = 0)

/-! ## Exact sums and products -/

/-- Flags as numbers (R40). -/
def fNX : Nat := 1
def fUF : Nat := 2
def fOF : Nat := 4
def fDZ : Nat := 8
def fNV : Nat := 16
def fRG : Nat := 32

/-- Flags of R40 joined. -/
def fOr (a b : Nat) : Nat := a ||| b

/-- NV where a NaN is signalling (R14). -/
def nvIf (b : Bool) : Nat := if b then fNV else 0

/-- The exact sum (R15, R229): the zero of operands of opposite sign is +0, and -0 in RDN. -/
def xadd (mode : Rnd) : XVal → XVal → XVal × Nat
  | .nan a, b => (.nan false, nvIf (a || b.isSig))
  | a, .nan b => (.nan false, nvIf (a.isSig || b))
  | .inf a, .inf b => if a = b then (.inf a, 0) else (.nan false, fNV)
  | .inf a, _ => (.inf a, 0)
  | _, .inf b => (.inf b, 0)
  | .fin n1 m1 e1, .fin n2 m2 e2 =>
    let e := if e1 ≤ e2 then e1 else e2
    let s := intAt n1 m1 e1 e + intAt n2 m2 e2 e
    if s = 0 then
      if m1 = 0 ∧ m2 = 0 ∧ n1 = n2 then (.fin n1 0 0, 0) else (.fin (decide (mode = .rdn)) 0 0, 0)
    else (XVal.ofInt s e, 0)

/-- The exact product (R229): zero times infinity is invalid. -/
def xmul : XVal → XVal → XVal × Nat
  | .inf a, b =>
    if b.isZero then (.nan false, fNV) else if b.isNan then (.nan false, nvIf b.isSig) else (.inf (a != b.isNeg), 0)
  | a, .inf b =>
    if a.isZero then (.nan false, fNV) else if a.isNan then (.nan false, nvIf a.isSig) else (.inf (a.isNeg != b), 0)
  | .nan a, b => (.nan false, nvIf (a || b.isSig))
  | a, .nan b => (.nan false, nvIf (a.isSig || b))
  | .fin n1 m1 e1, .fin n2 m2 e2 => (.fin (n1 != n2) (m1 * m2) (e1 + e2), 0)

/-- The integer square root by binary digits: the largest `r` with `r * r ≤ n`, for `n < 4^k`. -/
def isqrt : Nat → Nat → Nat
  | 0, _ => 0
  | k + 1, n =>
    let r := isqrt k (n / 4)
    let c := 2 * r + 1
    if c * c ≤ n then c else 2 * r

end Sys2Proof.Machine
end

