-- ==== Sys2Proof/Machine/Formats.lean ====
section
/-! DEFINITION. The operand formats (R12 to R30), their decoding, and the rounding, overflow and saturation of conversions
(R31 to R39). -/

namespace Sys2Proof.Machine

/-- A floating-point layout of R12. -/
structure FloatFmt where
  width : Nat
  fbits : Nat
  bias  : Nat
  /-- the code of the largest finite magnitude -/
  maxCode : Nat
  /-- no infinity; NaN codes are all ones only (R16) -/
  isE4m3 : Bool
  /-- the default NaN (R14) -/
  dnan : Nat
  deriving DecidableEq, Repr

def fmtF32 : FloatFmt := ⟨32, 23, 127, 0x7F7FFFFF, false, 0x7FC00000⟩
def fmtBf16 : FloatFmt := ⟨16, 7, 127, 0x7F7F, false, 0x7FC0⟩
def fmtE4m3 : FloatFmt := ⟨8, 3, 7, 0x7E, true, 0x7F⟩
def fmtE5m2 : FloatFmt := ⟨8, 2, 15, 0x7B, false, 0x7C + 2⟩

/-- The value of a code (R12, R14, R16). -/
def decodeFloat (f : FloatFmt) (code : Nat) : XVal :=
  let neg := bitN code (f.width - 1)
  let mag := code % 2 ^ (f.width - 1)
  let e := mag / 2 ^ f.fbits
  let fr := mag % 2 ^ f.fbits
  if f.maxCode < mag then
    if f.isE4m3 then .nan false
    else if fr = 0 then .inf neg
    else .nan (!bitN fr (f.fbits - 1))
  else if e = 0 then .fin neg fr (1 - (f.bias : Int) - f.fbits)
  else .fin neg (fr + 2 ^ f.fbits) ((e : Int) - f.bias - f.fbits)

/-- The sign bit in a code. -/
def signBit (f : FloatFmt) (neg : Bool) : Nat := if neg then 2 ^ (f.width - 1) else 0

/-- Whether overflow gives an infinity (the table of R33). -/
def overflowsToInf (mode : Rnd) (neg : Bool) : Bool :=
  match mode with
  | .rne => true
  | .rna => true
  | .sr => true
  | .rtz => false
  | .rup => !neg
  | .rdn => neg

/-- The infinity of a format, in E4M3 the NaN of that sign (R33). -/
def infCode (f : FloatFmt) (neg : Bool) : Nat := signBit f neg + f.maxCode + 1

/-- Round an exact value once into a floating-point format (R32 to R35): code and flags. -/
def encodeFloat (f : FloatFmt) (mode : Rnd) (sat : Bool) (rw : Nat) : XVal → Nat × Nat
  | .nan sig => (f.dnan, nvIf sig)
  | .inf neg =>
    if f.isE4m3 then
      if sat then (signBit f neg + f.maxCode, fOF + fNX) else (f.dnan, fNV)
    else (infCode f neg, 0)
  | .fin neg m e =>
    if m = 0 then (signBit f neg, 0)
    else
      let emin : Int := 1 - (f.bias : Int)
      let lg := ilog m e
      let q := (if lg ≤ emin then emin else lg) - f.fbits
      let n := roundMag neg m e q mode rw
      -- the code of n * 2^q with an unbounded exponent; a carry into the next binade is the next power of two
      let code := ((q + f.fbits + f.bias - 1).toNat) * 2 ^ f.fbits + n
      if f.maxCode < code then
        if sat || !overflowsToInf mode neg then (signBit f neg + f.maxCode, fOF + fNX)
        else (infCode f neg, fOF + fNX)
      else
        let inexact := !onQuantum m e q
        let nu := roundMag neg m e (lg - f.fbits) mode rw
        let tiny := decide (lg < emin) && decide (nu < 2 ^ (emin - (lg - f.fbits)).toNat)
        (signBit f neg + code, if inexact then (if tiny then fNX + fUF else fNX) else 0)

/-- An integer destination (R28, R29, R36). -/
structure IntFmt where
  bits : Nat
  signed : Bool
  deriving DecidableEq, Repr

def IntFmt.lo (f : IntFmt) : Int := if f.signed then -(2 ^ (f.bits - 1)) else 0
def IntFmt.hi (f : IntFmt) : Int := if f.signed then 2 ^ (f.bits - 1) - 1 else 2 ^ f.bits - 1

/-- The indefinite value of R36. -/
def IntFmt.indefinite (f : IntFmt) : Nat := if f.signed then 2 ^ (f.bits - 1) else 2 ^ f.bits - 1

/-- Convert into an integer type or FX128 with `p` fractional bits (R36, R38): code and flags. A NaN of a block sets NV here as
any NaN does: the model's choice between R36 and R39 (log entry 67). -/
def encodeInt (f : IntFmt) (p : Nat) (mode : Rnd) (sat : Bool) (rw : Nat) : XVal → Nat × Nat
  | .nan _ => (if sat then 0 else f.indefinite, fNV)
  | .inf neg => (if sat then wrapN f.bits (if neg then f.lo else f.hi) else f.indefinite, fNV)
  | .fin neg m e =>
    let q : Int := -(p : Int)
    let n := roundMag neg m e q mode rw
    let v : Int := if neg then -(n : Int) else n
    if f.hi < v then (if sat then wrapN f.bits f.hi else f.indefinite, fNV)
    else if v < f.lo then (if sat then wrapN f.bits f.lo else f.indefinite, fNV)
    else (wrapN f.bits v, if onQuantum m e q then 0 else fNX)

/-- The value of an integer code. -/
def decodeIntF (f : IntFmt) (p : Nat) (code : Nat) : XVal :=
  XVal.ofInt (if f.signed then sextN f.bits code else ((code % 2 ^ f.bits : Nat) : Int)) (-(p : Int))

/-- Conversion between integer widths (R37): clamp or keep the low bits, no flag. -/
def resizeInt (f : IntFmt) (sat : Bool) (v : Int) : Nat :=
  if sat then wrapN f.bits (if f.hi < v then f.hi else if v < f.lo then f.lo else v) else wrapN f.bits v

def fmtU8 : IntFmt := ⟨8, false⟩
def fmtI8 : IntFmt := ⟨8, true⟩
def fmtU32 : IntFmt := ⟨32, false⟩
def fmtI32 : IntFmt := ⟨32, true⟩
def fmtI64 : IntFmt := ⟨64, true⟩
def fmtFx128 : IntFmt := ⟨128, true⟩

/-! ## The format codes of R90 -/

/-- The formats of R90, codes 0 to 16. -/
inductive EFmt where
  | u8 | i8 | bf16 | fp32 | e4m3 | e5m2 | e8m0 | u32 | i32 | i64 | fx128 | cf32 | kbf7 | kbf4 | kbf2 | mxE4m3 | mxE5m2
  deriving DecidableEq, Repr

def EFmt.ofCode : Nat → Option EFmt
  | 0 => some .u8 | 1 => some .i8 | 2 => some .bf16 | 3 => some .fp32 | 4 => some .e4m3 | 5 => some .e5m2
  | 6 => some .e8m0 | 7 => some .u32 | 8 => some .i32 | 9 => some .i64 | 10 => some .fx128 | 11 => some .cf32
  | 12 => some .kbf7 | 13 => some .kbf4 | 14 => some .kbf2 | 15 => some .mxE4m3 | 16 => some .mxE5m2
  | _ => none

/-- Bytes of one element; for a block format, of one code plane element group (see `kbfCodeBytes`), zero here. -/
def EFmt.bytes : EFmt → Nat
  | .u8 => 1 | .i8 => 1 | .bf16 => 2 | .fp32 => 4 | .e4m3 => 1 | .e5m2 => 1 | .e8m0 => 1 | .u32 => 4 | .i32 => 4
  | .i64 => 8 | .fx128 => 16 | .cf32 => 8 | .kbf7 => 0 | .kbf4 => 0 | .kbf2 => 0 | .mxE4m3 => 0 | .mxE5m2 => 0

/-- The magnitude width `k` of a KBF format (R20). -/
def EFmt.kbf : EFmt → Option Nat
  | .kbf7 => some 7
  | .kbf4 => some 4
  | .kbf2 => some 2
  | _ => none

/-- The element format of an MXFP8 format (R17). -/
def EFmt.mx : EFmt → Option FloatFmt
  | .mxE4m3 => some fmtE4m3
  | .mxE5m2 => some fmtE5m2
  | _ => none

/-- The integer types (R28) and FX128 (R29). -/
def EFmt.int : EFmt → Option IntFmt
  | .u8 => some fmtU8
  | .i8 => some fmtI8
  | .u32 => some fmtU32
  | .i32 => some fmtI32
  | .i64 => some fmtI64
  | .fx128 => some fmtFx128
  | _ => none

/-- The scalar floating-point formats of R12 that hold signed values. -/
def EFmt.float : EFmt → Option FloatFmt
  | .bf16 => some fmtBf16
  | .fp32 => some fmtF32
  | .e4m3 => some fmtE4m3
  | .e5m2 => some fmtE5m2
  | _ => none

/-- Is it a plain integer type (an integer type other than FX128)? -/
def EFmt.plainInt (f : EFmt) : Bool := f.int.isSome && decide (f ≠ .fx128)

/-- The value of a scalar element's code; `p` is the declared number of fractional bits of FX128. -/
def decodeElem (f : EFmt) (p : Nat) (code : Nat) : XVal :=
  match f.float with
  | some ff => decodeFloat ff code
  | none =>
    match f.int with
    | some fi => decodeIntF fi (if f = .fx128 then p else 0) code
    | none => if code % 256 = 255 then .nan false else .fin false 1 ((code % 256 : Nat) - 127)

/-- Convert an exact value into a scalar format (R32 to R36, R38): code and flags. -/
def encodeElem (f : EFmt) (p : Nat) (mode : Rnd) (sat : Bool) (rw : Nat) (v : XVal) : Nat × Nat :=
  match f.float with
  | some ff => encodeFloat ff mode sat rw v
  | none =>
    match f.int with
    | some fi => encodeInt fi (if f = .fx128 then p else 0) mode sat rw v
    | none => (0, 0)

/-! ## FP32 shorthands -/

/-- The value of an FP32 code. -/
def f32Val (w : Nat) : XVal := decodeFloat fmtF32 (w % 2 ^ 32)

/-- One FP32 rounding of R226: nearest even unless a mode is given, never saturating arithmetic. -/
def f32Rne (v : XVal) : Nat × Nat := encodeFloat fmtF32 .rne false 0 v

/-! ## KBF blocks (R20 to R27) -/

/-- A block: exponent, micro-exponents, sixteen codes. -/
structure KBlock where
  exp : Nat
  mu  : Nat
  codes : List Nat
  deriving DecidableEq, Repr

/-- The NaN block (R21, R23). -/
def nanBlock : KBlock := ⟨255, 0, List.replicate 16 0⟩

/-- The magnitude of element value `x` on the block quantum (R23, `mag`). -/
def kbfMag (k : Nat) (mode : Rnd) (E u : Nat) (x : XVal) (rw : Nat) : Nat :=
  match x with
  | .fin neg m e => roundMag neg m e ((E : Int) - 127 - ((k : Int) - 1) - u) mode rw
  | _ => 0

/-- Is some magnitude above `top` at exponent `E` (R23)? -/
def kbfOver (k : Nat) (mode : Rnd) (E : Nat) : List XVal → List Nat → Bool
  | x :: xs, r :: rs => decide (2 ^ k - 1 < kbfMag k mode E 0 x r) || kbfOver k mode E xs rs
  | _, _ => false

/-- The search of R23 for the block exponent, from `E` with `fuel` further exponents; 255 where none fits. -/
def kbfExp (k : Nat) (mode : Rnd) (xs : List XVal) (rs : List Nat) : Nat → Nat → Nat
  | 0, E => E
  | fuel + 1, E => if kbfOver k mode E xs rs then kbfExp k mode xs rs fuel (E + 1) else E

/-- The micro-exponent byte: bit `j` where both elements of pair `j` fit at half scale (R23). -/
def kbfMu (k : Nat) (mode : Rnd) (E : Nat) : Nat → List XVal → List Nat → Nat
  | j, x :: y :: xs, r :: s :: rs =>
    (if kbfMag k mode E 1 x r ≤ 2 ^ k - 1 ∧ kbfMag k mode E 1 y s ≤ 2 ^ k - 1 then 2 ^ j else 0)
      + kbfMu k mode E (j + 1) xs rs
  | _, _, _ => 0

/-- Codes and flags of the elements from position `i` (R23). -/
def kbfCodes (k : Nat) (mode : Rnd) (E mu : Nat) : Nat → List XVal → List Nat → List Nat × Nat
  | i, x :: xs, r :: rs =>
    let u := b2n (bitN mu (i / 2))
    let m0 := kbfMag k mode E u x r
    let m := if 2 ^ k - 1 < m0 then 2 ^ k - 1 else m0
    let fl :=
      match x with
      | .fin _ a e =>
        fOr (if onQuantum a e ((E : Int) - 127 - ((k : Int) - 1) - u) && decide (m = m0) then 0 else fNX)
          (if a ≠ 0 ∧ m = 0 then fUF else 0)
      | _ => 0
    let rest := kbfCodes k mode E mu (i + 1) xs rs
    ((if x.isNeg && decide (m ≠ 0) then 2 ^ k + m else m) :: rest.1, fOr fl rest.2)
  | _, _, _ => ([], 0)

/-- R23, kbf_encode: sixteen exact values (padding already zero) and keyed words to a block and flags. A NaN is looked for
first: a block that also holds an infinity sets no NV for it (the model's choice, log entry 68). -/
def kbfEncode (k : Nat) (mode : Rnd) (sat : Bool) (xs : List XVal) (rs : List Nat) : KBlock × Nat :=
  let sig := xs.any XVal.isSig
  if xs.any XVal.isNan then (nanBlock, nvIf sig)
  else if xs.any XVal.isInf && !sat then (nanBlock, fNV)
  else
    let ys := xs.map fun x => match x with | .inf n => XVal.fin n 1 200 | v => v
    let E := kbfExp k mode ys rs 255 0
    if E = 255 ∧ sat = false then (nanBlock, fOF + fNX)
    else
      let E' := if E = 255 then 254 else E
      let mu := kbfMu k mode E' 0 ys rs
      let c := kbfCodes k mode E' mu 0 ys rs
      (⟨E', mu, c.1⟩, fOr c.2 (if E = 255 then fOF + fNX else 0))

/-- The value of element `i` of a block (R21). -/
def kbfElem (k : Nat) (b : KBlock) (i : Nat) : XVal :=
  if b.exp = 255 then .nan false
  else
    let c := nth 0 b.codes i
    let m := c % 2 ^ k
    .fin (bitN c k && decide (m ≠ 0)) m ((b.exp : Int) - 127 - ((k : Int) - 1) - b2n (bitN b.mu (i / 2)))

/-- Sixteen values of a block. -/
def kbfDecode (k : Nat) (b : KBlock) : List XVal := (upto 16).map (kbfElem k b)

/-- Bytes of a code plane block: 16, 10 or 6 (R22). -/
def kbfCodeBytes (k : Nat) : Nat := 2 * (k + 1)

/-- The packed field of sixteen codes (R22). -/
def packCodes (k : Nat) : List Nat → Nat
  | [] => 0
  | c :: cs => c % 2 ^ (k + 1) + 2 ^ (k + 1) * packCodes k cs

/-- Sixteen codes from the packed field. -/
def unpackCodes (k : Nat) (n w : Nat) : List Nat :=
  match n with
  | 0 => []
  | n + 1 => w % 2 ^ (k + 1) :: unpackCodes k n (w / 2 ^ (k + 1))

/-- The element plane bytes of a block. -/
def kbfPlane (k : Nat) (b : KBlock) : List Byte := leBytes (kbfCodeBytes k) (packCodes k b.codes)

/-- The header plane bytes of a block. -/
def kbfHeader (b : KBlock) : List Byte := [BitVec.ofNat 8 b.exp, BitVec.ofNat 8 b.mu]

/-- A block from its element plane and header bytes. -/
def kbfOfBytes (k : Nat) (plane hdr : List Byte) : KBlock :=
  ⟨(nth 0 hdr 0).toNat, (nth 0 hdr 1).toNat, unpackCodes k 16 (leNat plane)⟩

/-- R26: the codes of the transposed 4 x 4 block; pairs 2 to 7 exchange. -/
def kbfTranspose (b : KBlock) : KBlock :=
  match b.codes with
  | [a0, a1, a2, a3, b0, b1, c0, c1, d0, d1, e0, e1, g0, g1, h0, h1] =>
    { b with codes := [a0, a1, a2, a3, b1, b0, c1, c0, d1, d0, e1, e0, g1, g0, h1, h0] }
  | _ => b

/-- Local (row, column) of position `i` of a block `rows` x `cols` (R24, R25). -/
def blockCell (rows cols i : Nat) : Nat × Nat :=
  if rows = 4 ∧ cols = 4 then
    nth (0, 0) [(0, 0), (1, 1), (2, 2), (3, 3), (0, 1), (1, 0), (0, 2), (2, 0), (0, 3), (3, 0), (1, 2), (2, 1), (1, 3), (3, 1),
      (2, 3), (3, 2)] i
  else (i / cols, i % cols)

/-! ## MXFP8 blocks (R17 to R19) -/

/-- The exponent emax of R19 step 3. -/
def mxEmax (f : FloatFmt) : Int := if f.isE4m3 then 8 else 15

/-- The largest of `ilog` over nonzero finite values. -/
def maxLog : List XVal → Option Int
  | [] => none
  | .fin _ m e :: xs =>
    if m = 0 then maxLog xs
    else
      match maxLog xs with
      | none => some (ilog m e)
      | some l => some (if l ≤ ilog m e then ilog m e else l)
  | _ :: xs => maxLog xs

/-- Element codes and flags at scale `2^X` (R19 step 4: always saturating). -/
def mxCodes (f : FloatFmt) (mode : Rnd) (X : Int) : List XVal → List Nat → List Nat × Nat
  | x :: xs, r :: rs =>
    let c := encodeFloat f mode true r (x.scale (-X))
    let rest := mxCodes f mode X xs rs
    (c.1 :: rest.1, fOr c.2 rest.2)
  | _, _ => ([], 0)

/-- R19: encode an MXFP8 block of the given values (32, or fewer in a ragged last block): scale code, element codes,
flags. -/
def mxEncode (f : FloatFmt) (mode : Rnd) (xs : List XVal) (rs : List Nat) : Nat × List Nat × Nat :=
  if xs.any XVal.isNan || xs.any XVal.isInf then
    (255, xs.map (fun _ => 0), nvIf (xs.any XVal.isSig || xs.any XVal.isInf))
  else
    match maxLog xs with
    | none => (0, xs.map (fun _ => 0), 0)
    | some l =>
      let X0 := l - mxEmax f
      let X := if X0 < -127 then -127 else if 127 < X0 then 127 else X0
      let c := mxCodes f mode X xs rs
      ((X + 127).toNat, c.1, c.2)

/-- R17, R18: the value of an element of a block with scale code `s`. -/
def mxElem (f : FloatFmt) (s code : Nat) : XVal :=
  if s = 255 then .nan false else (decodeFloat f code).scale ((s : Int) - 127)

end Sys2Proof.Machine
end

