-- ==== Sys2Proof/Machine/Arith.lean ====
section
/-! DEFINITION. FP32 operations on codes (R226, R229, R230, R242, R325) and the combining function of the Mash units and the
collective engine (R293). -/

namespace Sys2Proof.Machine

/-- Round an exact FP32 result once, keeping the flags of the operation (R226). -/
def fpRound (r : XVal × Nat) : Nat × Nat :=
  let e := f32Rne r.1
  (e.1, fOr r.2 e.2)

def fAdd (x y : Nat) : Nat × Nat := fpRound (xadd .rne (f32Val x) (f32Val y))
def fSub (x y : Nat) : Nat × Nat := fpRound (xadd .rne (f32Val x) (f32Val y).neg)
def fMul (x y : Nat) : Nat × Nat := fpRound (xmul (f32Val x) (f32Val y))

/-- `d + a * b`, rounded once; a NaN or an invalid product keeps its flags (R229). -/
def fFma (d a b : Nat) : Nat × Nat :=
  let p := xmul (f32Val a) (f32Val b)
  let s := xadd .rne (f32Val d) p.1
  fpRound (s.1, fOr p.2 s.2)

/-- The lesser or greater of two codes of a format (R230): an operand unchanged. -/
def fMinMax (f : FloatFmt) (isMax : Bool) (x y : Nat) : Nat × Nat :=
  let vx := decodeFloat f x
  let vy := decodeFloat f y
  let fl := nvIf (vx.isSig || vy.isSig)
  if vx.isNan && vy.isNan then (f.dnan, fl)
  else if vx.isNan then (y, fl)
  else if vy.isNan then (x, fl)
  else
    let lt : Bool :=
      match xcmp vx vy with
      | .lt => true
      | .gt => false
      | .eq => vx.isNeg && !vy.isNeg
    (if lt = isMax then y else x, fl)

/-- A quotient of magnitudes with a sticky bit below it: enough bits for any single rounding to FP32. -/
def divMag (m1 m2 : Nat) : Nat × Int :=
  let k := 64 + Nat.log2 m2
  let n := m1 * 2 ^ k
  (2 * (n / m2) + (if n % m2 = 0 then 0 else 1), -(k : Int) - 1)

/-- The IEEE quotient before its rounding (R325). -/
def xdiv : XVal → XVal → XVal × Nat
  | .nan a, b => (.nan false, nvIf (a || b.isSig))
  | a, .nan b => (.nan false, nvIf (a.isSig || b))
  | .inf _, .inf _ => (.nan false, fNV)
  | .inf a, b => (.inf (a != b.isNeg), 0)
  | a, .inf b => (.fin (a.isNeg != b) 0 0, 0)
  | .fin n1 m1 e1, .fin n2 m2 e2 =>
    if m2 = 0 then (if m1 = 0 then (.nan false, fNV) else (.inf (n1 != n2), fDZ))
    else
      let q := divMag m1 m2
      (.fin (n1 != n2) q.1 (q.2 + e1 - e2), 0)

/-- divr of R325. -/
def fDiv (x y : Nat) : Nat × Nat := fpRound (xdiv (f32Val x) (f32Val y))

/-- The square root before its rounding, with a sticky bit (R242). -/
def xsqrt : XVal → XVal × Nat
  | .nan a => (.nan false, nvIf a)
  | .inf neg => if neg then (.nan false, fNV) else (.inf false, 0)
  | .fin neg m e =>
    if m = 0 then (.fin neg 0 0, 0)
    else if neg then (.nan false, fNV)
    else
      let odd := (e % 2).toNat
      let n := m * 2 ^ odd * 2 ^ 80
      let r := isqrt 80 n
      (.fin false (2 * r + (if r * r = n then 0 else 1)) ((e - odd) / 2 - 41), 0)

/-- sqrtr of R325, VSQRT of R242. -/
def fSqrt (x : Nat) : Nat × Nat := fpRound (xsqrt (f32Val x))

/-! ## The combining function (R293) -/

/-- Bytes of an element of a format of FRED and RATOM. -/
def afmtSize : AFmt → Nat
  | .fp32 => 4
  | .bf16 => 2
  | .int32 => 4
  | .int64 => 8
  | .fx128 => 16

/-- The sum of two integers of `n` bits modulo `2 ^ n`, with OF where it wrapped. -/
def wrapAdd (n x y : Nat) : Nat × Nat :=
  let s := sextN n x + sextN n y
  (wrapN n s, if sextN n (wrapN n s) = s then 0 else fOF)

/-- The greater or lesser of two signed integers of `n` bits. -/
def intMinMax (n : Nat) (isMax : Bool) (x y : Nat) : Nat :=
  if decide (sextN n x < sextN n y) = isMax then y else x

/-- f(x, y) of R293 on codes of an ATOMIC: `x` earlier, `y` later. SWAP and CAS are not combinations. -/
def combine (op : AOp) (f : AFmt) (x y : Nat) : Nat × Nat :=
  match f with
  | .fp32 =>
    match op with
    | .max => fMinMax fmtF32 true x y
    | .min => fMinMax fmtF32 false x y
    | _ => fAdd x y
  | .bf16 =>
    match op with
    | .max => fMinMax fmtBf16 true x y
    | .min => fMinMax fmtBf16 false x y
    | _ =>
      let r := xadd .rne (decodeFloat fmtBf16 x) (decodeFloat fmtBf16 y)
      let e := encodeFloat fmtBf16 .rne false 0 r.1
      (e.1, fOr r.2 e.2)
  | .int32 =>
    match op with
    | .max => (intMinMax 32 true x y, 0)
    | .min => (intMinMax 32 false x y, 0)
    | _ => wrapAdd 32 x y
  | .int64 =>
    match op with
    | .max => (intMinMax 64 true x y, 0)
    | .min => (intMinMax 64 false x y, 0)
    | _ => wrapAdd 64 x y
  | .fx128 =>
    match op with
    | .max => (intMinMax 128 true x y, 0)
    | .min => (intMinMax 128 false x y, 0)
    | _ => wrapAdd 128 x y

/-- The partial of a reduction round: BF16 contributions and partials are FP32 codes (R293, R298). -/
def partialFmt (f : AFmt) : AFmt := if f = .bf16 then .fp32 else f

/-- A contribution as the round combines it: BF16 decoded exactly to FP32, bit for bit (R298). -/
def contribCode (f : AFmt) (c : Nat) : Nat :=
  match f with
  | .bf16 => c % 2 ^ 16 * 2 ^ 16
  | _ => c

/-- The final value and flags of an element (R298): BF16 rounded once, in RNE. -/
def finishElem (f : AFmt) (v : Nat) : Nat × Nat :=
  match f with
  | .bf16 => encodeFloat fmtBf16 .rne false 0 (f32Val v)
  | _ => (v, 0)

/-- The result of an ATOMIC (R293): the value written, if any, and flags. -/
def atomicNew (op : AOp) (f : AFmt) (old x e : Nat) : Option Nat × Nat :=
  match op with
  | .swap => (some x, 0)
  | .cas => (if old = e then some x else none, 0)
  | _ => let r := combine op f old x; (some r.1, r.2)

end Sys2Proof.Machine
end

