-- ==== Sys2Proof/Machine/Translate.lean ====
section
/-! DEFINITION. The physical map (R63 to R66) and the translation of context virtual addresses (R69 to R83). -/

namespace Sys2Proof.Machine

/-! ## Regions (R63, R64) -/

/-- The rows of R65. -/
inductive Row where
  | hbm | host | data | code | sup | regs
  deriving DecidableEq, Repr

def hbmSize : Nat := 0x6C00000000
def hostBase : Nat := 0x80000000000
def winBase : Nat := 0xC0000000000
def winEnd : Nat := 0xC0060000000
def regBase : Nat := 0xF0000000000

/-- The row of a package-local address; none where it is unassigned. -/
def rowOf (a : Nat) : Option Row :=
  if a < hbmSize then some .hbm
  else if hostBase ≤ a ∧ a < winBase then some .host
  else if winBase ≤ a ∧ a < winEnd then
    let o := (a - winBase) % 0x800000
    if o < 0x600000 then some .data
    else if o < 0x608000 then some .sup
    else if o < 0x680000 then some .code
    else none
  else if regBase ≤ a ∧ a < 2 ^ 44 then some .regs
  else none

/-- The one row that holds a run of bytes (R65); none where the run leaves a region. -/
def rowRun (a n : Nat) : Option Row := if rowOf (a + (n - 1)) = rowOf a then rowOf a else none

/-- The core and the window offset of a window address. -/
def winCore (a : Nat) : Nat := (a - winBase) / 0x800000
def winOffset (a : Nat) : Nat := (a - winBase) % 0x800000

/-- Do the bytes lie in this package's HBM (R70, R393)? -/
def State.ownHbm (s : State) (g n : Nat) : Bool := decide (g / 2 ^ 44 = s.pkg) && decide (g % 2 ^ 44 + n ≤ hbmSize)

/-- Does a line of an HBM run hold an uncorrectable error (R417)? -/
def State.poisoned (s : State) (a n : Nat) : Bool := s.poison.any fun l => decide (64 * l < a + n) && decide (a < 64 * l + 64)

/-! ## Causes (R83) -/

def cNONCANON : Nat := 1
def cNOMAP : Nat := 2
def cPERM : Nat := 3
def cBADPTE : Nat := 4
def cGENMISS : Nat := 5
def cBADADDR : Nat := 6
def cGONE : Nat := 7
def cWALKERR : Nat := 8
def cKEYWARN : Nat := 9
def cROUTINE : Nat := 10
def cUNREACH : Nat := 11
def cDESC : Nat := 12

/-! ## Range entries (R71 to R75) -/

/-- The generation selectors of R73. -/
inductive Sel where
  | current | other | replay
  deriving DecidableEq, Repr

/-- What an access needs (R83). -/
inductive Need where
  | read | write | remote
  deriving DecidableEq, Repr

/-- A translation: physical address, destination context, digest bit, and the range entry if one matched. -/
structure Xl where
  phys  : Nat
  dctx  : Nat
  dig   : Bool
  entry : Option Nat
  deriving DecidableEq, Repr

/-- Doubleword `n` of resident range entry `i`. -/
def Ctx.rngDw (y : Ctx) (i n : Nat) : Nat := (Tab.get 0 y.rng (8 * i + n)).toNat

/-- The RSV bits of doubleword `n` of a range entry (R71); the last two doublewords are reserved whole. -/
def rngRsv (n : Nat) : Nat :=
  match n with
  | 0 => bitsMask 63 56 + 2 ^ 7
  | 5 => bitsMask 63 32
  | 6 => bitsMask 63 0
  | 7 => bitsMask 63 0
  | _ => bitsMask 63 56 + bitsMask 11 0

/-- An entry with V = 1 and a nonzero RSV bit (R71). -/
def badRange (dw : Nat → Nat) : Bool := bitN (dw 0) 0 && (List.range 8).any fun n => decide (dw n &&& rngRsv n ≠ 0)

/-- Bits 55:12. -/
def pageOf (w : Nat) : Nat := w / 2 ^ 12 % 2 ^ 44

/-- Does entry `i` match the page (R72)? -/
def Ctx.rngHit (y : Ctx) (page i : Nat) : Bool :=
  bitN (y.rngDw i 0) 0 && !badRange (y.rngDw i) && decide (pageOf (y.rngDw i 0) ≤ page)
    && decide (page ≤ pageOf (y.rngDw i 1))

/-- R73: the offset of a matching entry, or a fault cause. -/
def Ctx.rngOffset (y : Ctx) (i : Nat) (sel : Sel) (pairs : List (Nat × Nat)) : Except Nat Nat :=
  let w := y.rngDw i 0
  let off := fun n => pageOf (y.rngDw i n) * 2 ^ 12
  let cur := b2n (bitN w 6)
  if bitN w 5 = false then (if sel = .other then .error cPERM else .ok (off 2))
  else
    match sel with
    | .other => .ok (off (3 + (1 - cur)))
    | .current => .ok (off (3 + cur))
    | .replay =>
      match pairs.find? fun p => decide (p.1 = i) with
      | none => .ok (off (3 + cur))
      | some p =>
        if p.2 ≠ 0 ∧ y.rngDw i 5 % 2 ^ 16 = p.2 then .ok (off 3)
        else if p.2 ≠ 0 ∧ y.rngDw i 5 / 2 ^ 16 % 2 ^ 16 = p.2 then .ok (off 4)
        else .error cGENMISS

/-! ## Loading range entries (R75, R82) -/

/-- The doubleword of HBM at `a`; a free one where its line holds an uncorrectable error (R424, log entry 3). -/
def hbmWord (s : State) (a : Nat) : Word :=
  if s.poisoned a 8 then Config.freeWord (s.free + a / 8 % 32768) else BitVec.ofNat 64 (Mem.num s.hbm a 8)

/-- `n` doublewords of HBM. -/
def hbmWords (s : State) (a n : Nat) : List Word := (List.range n).map fun i => hbmWord s (a + 8 * i)

/-- The package-local address of the range table, if it lies wholly in this package's HBM. -/
def rngTable (s : State) (x : Nat) : Option Nat :=
  let g := pageOf (s.reg (trOff x + 8)).toNat * 2 ^ 12
  if s.ownHbm g 4096 then some (g % 2 ^ 44) else none

/-- One entry of the range store from the table; an invalid one without a table. -/
def loadRange (s : State) (base : Option Nat) (i : Nat) (r : Tab Word) : Tab Word :=
  Tab.setRun 0 r (8 * i) (match base with | some b => hbmWords s (b + 64 * i) 8 | none => List.replicate 8 0)

/-- The range store with the named entries as the table now gives them. -/
def loadedRng (s : State) (x : Nat) (is : List Nat) : Tab Word :=
  is.foldl (fun r i => loadRange s (rngTable s x) i r) (s.ctx x).rng

/-- XINV.KIND and BUSY. -/
def xinvKind (s : State) (x : Nat) : Nat := s.fld (trOff x + 0x18) 2 2
def xinvBusy (s : State) (x : Nat) : Bool := s.flag (trOff x + 0x18) 1

/-- The range entries that XINVA names (R75). -/
def xinvNamed (s : State) (x : Nat) : List Nat := (List.range 64).filter fun i => bitN (s.reg (trOff x + 0x10)).toNat i

/-- The range entries that an XINV under way reloads. -/
def xinvRanges (s : State) (x : Nat) : List Nat :=
  if xinvBusy s x = false then []
  else match xinvKind s x with
    | 0 => List.range 64
    | 2 => xinvNamed s x
    | _ => []

/-- The context as a translation sees its range entries: while an XINV reloads some, the old or the new ones (R82). -/
def rngSeen (s : State) (x : Nat) : Ctx :=
  match xinvRanges s x with
  | [] => s.ctx x
  | is => if Config.freeBool s.free then s.ctx x else { s.ctx x with rng := loadedRng s x is }

/-! ## Page tables (R76 to R79) -/

/-- An entry that carries a walk's failure. -/
def TlbEntry.failed (page cause : Nat) : TlbEntry := ⟨page, 1, 0, 0, false, false, false, false, cause⟩

/-- Reserved bits of a page-table entry (R77). -/
def pteRsv (leaf : Bool) : Nat := if leaf then bitsMask 63 56 + 2 ^ 7 else bitsMask 63 56 + bitsMask 11 2

/-- A leaf that R77 accepts at level `n`. -/
def goodLeaf (n e : Nat) : Bool :=
  bitN e 0 && bitN e 1 && decide (e &&& pteRsv true = 0) && decide (pageOf e % 2 ^ (9 * n) = 0)

/-- The declaration of R79 holds: equal DCTX, D, C, A, W and RD, and consecutive frames of `u` pages, the first aligned. -/
def trueGroup (n u : Nat) (es : List Nat) : Bool :=
  let e0 := nth 0 es 0
  es.all (goodLeaf n) && decide (pageOf e0 % (u * es.length) = 0)
    && (es.mapIdx fun i e => decide (pageOf e = pageOf e0 + i * u) && decide (e % 2 ^ 12 = e0 % 2 ^ 12)).all id

/-- A cached translation of `len` pages from page `vpn` by leaf `e` with frame `f`. -/
def leafEntry (vpn len f e : Nat) : TlbEntry := ⟨vpn, len, f * 2 ^ 12, e / 2 ^ 8 % 16, bitN e 2, bitN e 3, bitN e 4, bitN e 6, 0⟩

/-- R79: the entry of a leaf that names a group of `k` leaves of `u` pages, its members `es`. A group as declared is held as one
entry. Otherwise any member's leaf, taken as the group's entry, may translate a page, but never to a frame that no member names:
a free choice, the page's own leaf where the chosen one would leave the group's frames (log entry 70). -/
def groupEntry (s : State) (page n u k e : Nat) (es : List Nat) : TlbEntry :=
  let len := u * k
  if trueGroup n u es then leafEntry (page / len * len) len (pageOf e / len * len) e
  else
    let m := nth e es ((Config.freeWord s.free).toNat % k)
    let f := pageOf m / len * len + page / u % k * u
    if goodLeaf n m ∧ es.any (fun q => goodLeaf n q && decide (pageOf q = f)) then leafEntry (page / u * u) u f m
    else leafEntry (page / u * u) u (pageOf e) e

/-- One level of R78 and those below it, for the page `page` and the table at package-local address `t`. -/
def walkFrom (s : State) (page : Nat) : Nat → Nat → TlbEntry
  | 0, _ => TlbEntry.failed page cBADPTE
  | n + 1, t =>
    -- n is the level
    let a := t + 8 * (page / 2 ^ (9 * n) % (if n = 4 then 256 else 512))
    let e := Mem.num s.hbm a 8
    if s.poisoned a 8 then TlbEntry.failed page cWALKERR
    else if bitN e 0 = false then TlbEntry.failed page cNOMAP
    else if e &&& pteRsv (bitN e 1) ≠ 0 then TlbEntry.failed page cBADPTE
    else if bitN e 1 then
      if 2 < n ∨ pageOf e % 2 ^ (9 * n) ≠ 0 then TlbEntry.failed page cBADPTE
      else
        let u := 2 ^ (9 * n)
        if bitN e 5 then
          let k := if n = 2 then 2 else 16
          groupEntry s page n u k e ((List.range k).map fun i => Mem.num s.hbm (t + 8 * (page / u % 512 / k * k + i)) 8)
        else leafEntry (page / u * u) u (pageOf e) e
    else if n = 0 then TlbEntry.failed page cBADPTE
    else if s.ownHbm (pageOf e * 2 ^ 12) 4096 then walkFrom s page n (pageOf e * 2 ^ 12 % 2 ^ 44)
    else TlbEntry.failed page cBADPTE

/-- R78: a walk of context `x`'s tables. -/
def walk (s : State) (x page : Nat) : TlbEntry :=
  let root := pageOf (s.reg (trOff x)).toNat * 2 ^ 12
  if s.ownHbm root 4096 then walkFrom s page 5 (root % 2 ^ 44) else TlbEntry.failed page cBADPTE

/-- What an entry says of one page. -/
def TlbEntry.at_ (e : TlbEntry) (page : Nat) : TlbEntry :=
  { e with vpn := page, len := 1, pbase := e.pbase + (page - e.vpn) * 2 ^ 12 }

/-- The cached translation of a page (R80), if one is held. -/
def Ctx.cached (y : Ctx) (page : Nat) : Option TlbEntry :=
  y.tlb.find? fun e => decide (e.vpn ≤ page) && decide (page < e.vpn + e.len)

/-- The page's translation by the tables: a cached one, which a cache may also have dropped (R80, R82), or a walk. The choice is
free, and fresh for every request. -/
def pageXl (s : State) (x page : Nat) : TlbEntry :=
  match (s.ctx x).cached page with
  | none => (walk s x page).at_ page
  | some e =>
    let w := (walk s x page).at_ page
    if e.at_ page = w then w else if Config.freeBool s.free then e.at_ page else w

/-- Does the address need a walk that no cache answers? -/
def needsWalk (s : State) (x va : Nat) : Bool :=
  decide (va < 2 ^ 56) && s.flag (trOff x) 0 && ((s.ctx x).cached (va / 2 ^ 12)).isNone
    && !(List.range 64).any fun i => (s.ctx x).rngHit (va / 2 ^ 12) i

/-- Are the needed permissions there (R83)? -/
def permits (need : Need) (rd w a : Bool) : Bool :=
  match need with
  | .read => rd
  | .write => w
  | .remote => w && a

/-- R69: the translation of a virtual address, or the cause of its failure. An access that misses its generation and lacks a
permission too fails with GENMISS: the spec gives no order of the two (the model's choice, log entry 90). -/
def translate (s : State) (x va : Nat) (sel : Sel) (pairs : List (Nat × Nat)) (need : Need) : Except Nat Xl :=
  let y := rngSeen s x
  let page := va / 2 ^ 12
  if 2 ^ 56 ≤ va then .error cNONCANON
  else
    match (List.range 64).find? (y.rngHit page) with
    | some i =>
      match y.rngOffset i sel pairs with
      | .error c => .error c
      | .ok off =>
        let w := y.rngDw i 0
        if permits need (bitN w 1) (bitN w 2) (bitN w 3) then
          .ok ⟨(va + off) % 2 ^ 56, w / 2 ^ 8 % 16, bitN w 4, some i⟩
        else .error cPERM
    | none =>
      if s.flag (trOff x) 0 = false then .error cNOMAP
      else
        let e := pageXl s x page
        if e.fault ≠ 0 then .error e.fault
        else if sel = .other ∨ permits need e.rd e.w e.a = false then .error cPERM
        else .ok ⟨(e.pbase + va % 2 ^ 12) % 2 ^ 56, e.dctx, e.d, none⟩

/-- The selector and tag pairs of a command (R73). -/
def Origin.sel (o : Origin) : Sel := if o.replay then .replay else .current

/-- A translation for a command. -/
def xlate (s : State) (x : Nat) (o : Origin) (va : Nat) (need : Need) : Except Nat Xl := translate s x va o.sel o.pairs need

/-- A walk request joins the queue unless one for its page is there (R80). -/
def askWalk (x va : Nat) (s : State) : State :=
  let y := s.ctx x
  if y.walks.any fun r => decide (r.va / 2 ^ 12 = va / 2 ^ 12) then s
  else s.putCtx x { y with walks := y.walks ++ [⟨va⟩] }

end Sys2Proof.Machine
end

