-- ==== Sys2Proof/Machine/Access.lean ====
section
/-! DEFINITION. How a request performs at the package that owns its address: HBM, windows and images (R65, R66, R86, R87,
R120, R124), atomics and reductions (R293 to R301). -/

namespace Sys2Proof.Machine

/-! ## Statuses (R101, R292, R328) -/

def stOK : Nat := 0
def stXLAT : Nat := 1
def stCRCBAD : Nat := 2
def stDESC : Nat := 3
def stMEMERR : Nat := 4
def stOWNER : Nat := 5
def stTIMEOUT : Nat := 6
def stRANK : Nat := 7
def stDUP : Nat := 8
def stMISMATCH : Nat := 9
def stNOGROUP : Nat := 10
def stUNREACH : Nat := 11
def stMASHERR : Nat := 12
/-- How a response carries BADADDR and GONE, for which R101 has no code: log entry 17. -/
def stBADADDR : Nat := 0x40 + cBADADDR
def stGONE : Nat := 0x40 + cGONE

/-- The status a record carries for an answer, and its cause (R101). -/
def recStatus (st : Nat) : Nat × Nat := if st = stBADADDR then (stXLAT, cBADADDR) else if st = stGONE then (stXLAT, cGONE) else (st, 0)

/-- The lower nonzero status of two (R101, R347), with its cause. -/
def worse (a b : Nat × Nat) : Nat × Nat := if b.1 = 0 then a else if a.1 = 0 then b else if b.1 < a.1 then b else a

/-- What performing a request gives: done with an answer, held at the window lookup (R86), or waiting on core `c` for the AMO
that reserves one of its doublewords (R220). -/
inductive Perf where
  | done (s : State) (r : Resp)
  | hold (x c : Nat)
  | later (c : Nat)

def Perf.status (s : State) (st : Nat) : Perf := .done s ⟨st, 0, []⟩

/-! ## HBM -/

/-- Launch queues whose tail lies in a written line: the launch manager reads it again (R365). -/
def pollsOf (s : State) (a n : Nat) : List Instr :=
  (List.range 64).filterMap fun q =>
    let t := (s.reg (lqOff q + 8)).toNat % 2 ^ 44
    if s.flag (lqOff q) 0 ∧ t / 64 * 64 < a + n ∧ a < t / 64 * 64 + 64 then some (.launchQueuePoll q) else none

/-- Bytes of HBM change: exactly those covered (R62); a wholly written line loses its error (R417). -/
def hbmPut (a : Nat) (bs : List Byte) (s : State) : State :=
  { s with hbm := Mem.setBytes s.hbm a bs,
           poison := s.poison.filter fun l => !(decide (a ≤ 64 * l) && decide (64 * l + 64 ≤ a + bs.length)),
           agenda := s.agenda ++ pollsOf s a bs.length }

/-- Size and places of a core image (R396). -/
def imgSize : Nat := 0x840000
def imgTiles : Nat := 0x820000

/-- A tile-state word (R396). -/
def tileWord (t : Tile) : Nat :=
  (match t.st with | .core => 0 | .engR => 1 | .engW => 2 | .fab => 3 | .mbx => 4) + b2n t.skew * 8 + t.holds % 1024 * 16

/-- The tile that a tile-state word names; an unassigned code as CORE. -/
def tileOfWord (w : Nat) : Tile :=
  ⟨match w % 8 with | 1 => .engR | 2 => .engW | 3 => .fab | 4 => .mbx | _ => .core, bitN w 3, w / 16 % 1024⟩

/-- May system software write this tile-state word and be sure of the tile (R435)? -/
def plainTileWord (w : Nat) : Bool := (decide (w % 8 = 0) || decide (w % 8 = 4)) && decide (w / 16 = 0)

/-- The tile-state word of tile `t` in the image of core `c`. -/
def State.imgTile (s : State) (x c t : Nat) : Nat := Mem.num s.hbm (s.imgAddr x c + imgTiles + 4 * t) 4

/-- Doublewords of a saved core that are written whole lose their errors (R392, R435). -/
def Seat.mend (y : Seat) (lo n : Nat) : Seat :=
  { y with bad := leftBad lo n y.bad, ibad := if 0x600000 < lo + n then leftBad lo n (y.ibad.map (0x600000 + ·)) |>.map (· - 0x600000) else y.ibad }

/-- The image of core `c` is written at offsets `lo` up to `lo + n`. -/
def mendImage (x c lo n : Nat) (s : State) : State :=
  let y := s.ctx x
  match Tab.find y.saved c with
  | some z => if z.bad.isEmpty && z.ibad.isEmpty then s else s.putCtx x { y with saved := Tab.put y.saved c (z.mend lo n) }
  | none => s

/-- R435: offsets `lo` up to `hi` of the image of core `c` have been written. -/
def markImage (x c lo hi : Nat) (s : State) : State :=
  let s := mendImage x c lo (hi - lo) s
  let y := s.ctx x
  if hi ≤ 0x600000 then s
  else if imgTiles ≤ lo ∧ hi ≤ imgTiles + 6144 then
    let ts := (List.range ((hi + 3) / 4 - lo / 4)).map (lo / 4 - imgTiles / 4 + ·)
    let odd := ts.filter fun t => !plainTileWord (s.imgTile x c t)
    s.putCtx x { y with odd := (y.odd.filter fun e => !(decide (e.1 = c) && ts.any (· == e.2))) ++ odd.map fun t => (c, t) }
  else s.putCtx x { y with taint := if y.taint.any (· == c) then y.taint else c :: y.taint }

/-- The images of existing contexts that a write to HBM touches (R435). -/
def imageTouch (a n : Nat) (s : State) : State :=
  (List.range 16).foldl (fun s x =>
    if s.ctxState x = 0 ∨ s.ctxState x = 4 then s
    else (s.setCores x).foldl (fun s c =>
      let b := s.imgAddr x c
      if a < b + imgSize ∧ b < a + n then markImage x c (a - b) (min (a + n - b) imgSize) s else s) s) s

/-- An engine or host write to HBM. -/
def hbmWrite (a : Nat) (bs : List Byte) (s : State) : State := imageTouch a bs.length (hbmPut a bs s)

/-- A read of HBM. -/
def hbmRead (s : State) (a n : Nat) : List Byte := Mem.bytes s.hbm a n

/-- A read of HBM has met an uncorrectable error, if `bad`: UE, and its free words are used up (R424). -/
def seenBad (bad : Bool) (s : State) : State := if bad then { s.setUE with free := s.free + 32768 } else s

/-- A unit of the package has read `n` bytes of HBM. -/
def hbmSeen (a n : Nat) (s : State) : State := seenBad (s.poisoned a n) s

/-! ## Records to be written (R102, R136) -/

/-- A 16-byte record is to be written for `owner`. -/
def addRec (owner : RecOwner) (x c : Nat) (o : Origin) (unit va : Nat) (lo hi : Word) (s : State) : State :=
  { s with recs := s.recs ++ [⟨s.nextId, owner, x, c, o, unit, va, lo, hi, false, false, none⟩], nextId := s.nextId + 1 }

/-- Bytes 7:0 of a record (R100). -/
def recLo (status cause flags b3 word : Nat) : Word :=
  BitVec.ofNat 64 (status % 256 + cause % 256 * 2 ^ 8 + flags % 64 * 2 ^ 16 + b3 % 256 * 2 ^ 24 + word % 2 ^ 32 * 2 ^ 32)

/-! ## Windows -/

/-- The seat of context `x` on core `c`: on the core if the context holds it, otherwise in the image. -/
def State.seatOf (s : State) (x c : Nat) : Seat :=
  if (s.core c).owner = some x then s.seat c else Tab.get Seat.reset (s.ctx x).saved c

def State.putSeatOf (s : State) (x c : Nat) (y : Seat) : State :=
  if (s.core c).owner = some x then s.putSeat c y
  else s.putCtx x { s.ctx x with saved := Tab.put (s.ctx x).saved c y }

/-- Do image bytes hold an uncorrectable error: of HBM, or of the core's storage at the save (R392, R417)? -/
def imgBad (s : State) (x c off n : Nat) : Bool :=
  s.poisoned (s.imgAddr x c + off) n
    || (let y := s.seatOf x c; y.isBad off n || y.ibad.any fun w => touches (0x600000 + w) off n)

/-- A window's write to the save image. -/
def imgWrite (x c off : Nat) (bs : List Byte) (s : State) : State := mendImage x c off bs.length (hbmPut (s.imgAddr x c + off) bs s)

/-- R120: do all tiles of the bytes admit an inbound write? -/
def Seat.admits (x : Seat) (a n : Nat) : Bool :=
  (tilesOf a n).all fun t => match (x.tile t).st with | .fab => true | .mbx => true | _ => false

/-- Bytes of a run `[a, a + n)` in the tiles `[t, t + k)`. -/
def overlap (a n t k : Nat) : Nat := (if a + n ≤ 4096 * (t + k) then a + n else 4096 * (t + k)) - (if 4096 * t ≤ a then a else 4096 * t)

/-- R124: the armings count a landed write; a full one flips its run to CORE and its record is to be written. -/
def Seat.count (x : Seat) (a n : Nat) : Seat × List Arming :=
  let up := x.armings.map fun r => { r with landed := r.landed + overlap a n r.tile r.count }
  let full := up.filter fun r => decide (r.n ≤ r.landed)
  let tiles := full.foldl (fun ts r => (List.range r.count).foldl (fun ts i =>
    Tab.set Tile.free ts (r.tile + i) { Tab.get Tile.free ts (r.tile + i) with st := .core }) ts) x.tiles
  ({ x with armings := up.filter fun r => !decide (r.n ≤ r.landed), tiles := tiles }, full)

/-- A write in aligned 8-byte words (R125). -/
def Seat.writeWords (x : Seat) (a : Nat) : Nat → List Byte → Seat
  | 0, _ => x
  | _, [] => x
  | f + 1, bs =>
    let k := 8 - a % 8
    Seat.writeWords (x.write .none 0 a (bs.take k)) (a + k) f (bs.drop k)

/-- A write to the common region or a bank: the words replaced stay visible to fetches until an IFENCE (R129). -/
def Seat.writeCode (x : Seat) (off : Nat) (bs : List Byte) : Seat :=
  let w0 := (off - 0x600000) / 4
  let olds := (List.range ((off - 0x600000 + bs.length + 3) / 4 - w0)).map fun i =>
    (4 * (w0 + i), BitVec.ofNat 32 (Mem.num x.ispad (4 * (w0 + i)) 4))
  { x with ispad := Mem.setBytes x.ispad (off - 0x600000) bs,
           prim := { x.prim with stale := x.prim.stale ++ olds },
           sec := { x.sec with stale := x.sec.stale ++ olds },
           ibad := leftBad (off - 0x600000) bs.length x.ibad }

/-- The records of armings that have flipped. -/
def armRecs (x c : Nat) : List Arming → State → State
  | [], s => s
  | r :: rs, s =>
    armRecs x c rs (if r.crec.none then s else addRec .other x c r.org 3 r.crec.addr (recLo stOK 0 0 0 0) r.crec.stamp s)

/-- The seat of (x, c); in the image, with the tiles `ts` as the image's tile-state words give them (R396, R435). -/
def State.seatIn (s : State) (x c : Nat) (live : Bool) (ts : List Nat) : Seat :=
  let y := s.seatOf x c
  if live then y else ts.foldl (fun y t => y.putTile t (tileOfWord (s.imgTile x c t))) y

/-- An inbound write to the data scratchpad of (x, c), on the core or in the image (R86, R87, R120, R124). -/
def dataWrite (x c : Nat) (live : Bool) (off : Nat) (bs : List Byte) (s : State) : Perf :=
  let y := s.seatIn x c live (tilesOf off bs.length)
  if y.admits off bs.length then
    let y := if live then y.writeWords off (bs.length + 1) bs else y.mend off bs.length
    let s := if live then s else hbmPut (s.imgAddr x c + off) bs s
    let z := y.count off bs.length
    let s := if live then s else z.2.foldl (fun s r => (List.range r.count).foldl (fun s i =>
      hbmPut (s.imgAddr x c + imgTiles + 4 * (r.tile + i)) (leBytes 4 (tileWord (z.1.tile (r.tile + i)))) s) s) s
    .done (armRecs x c z.2 (s.putSeatOf x c z.1)) ⟨stOK, 0, []⟩
  else .status s stOWNER

/-- A request that waits for a reservation. -/
def Deferred.isPacket (d : Deferred) : Bool := match d with | .packet _ => true | _ => false

/-- The doubleword whose reservation a request to `n` bytes at `a` waits for (R220): that of a request which waits already, so
that requests keep their order, or for a write one that it touches. -/
def Seat.waitsFor (x : Seat) (write : Bool) (a n : Nat) : Option Nat :=
  match x.resv.find? fun r => r.late.any Deferred.isPacket with
  | some r => some r.addr
  | none => if write then (x.resv.find? fun r => touches r.addr a n).map Resv.addr else none

/-- The window state of (x, c) (R86). -/
def State.win (s : State) (x c : Nat) : Win := Tab.get ⟨.revoked, []⟩ (s.ctx x).wins c

def State.putWin (s : State) (x c : Nat) (w : Win) : State :=
  s.putCtx x { s.ctx x with wins := Tab.put (s.ctx x).wins c w }

/-! ## The checks of a request (R65, R66) -/

/-- R66: the destination context was killed, by a warm start too (R420), or was never created. -/
def ctxCheck (s : State) (x : Nat) : Nat :=
  match s.ctxState x with
  | 0 => if s.gone.any (· == x) then stGONE else stBADADDR
  | 3 => stGONE
  | 4 => stGONE
  | _ => stOK

/-- The row of a request and its context's check; what fails gives a status (R65, R66). `own`: an engine of this package,
`sup`: a command of a supervisor-mode stream. The region is tested before the context, an order that the spec does not give (the
model's choice, log entry 88). -/
def rowCheck (s : State) (own sup write remote : Bool) (x a n : Nat) : Except Nat Row :=
  match rowRun a n with
  | none => .error stBADADDR
  | some r =>
    let ok : Bool :=
      match r with
      | .hbm => true
      | .host => own && !write && !remote
      | .data => true
      | .code => !remote
      | .sup => own && sup && !write && !remote
      | .regs => false
    if !ok then .error stBADADDR
    else
      if ctxCheck s x ≠ stOK then .error (ctxCheck s x)
      else if (r = .data ∨ r = .code ∨ r = .sup) ∧ bitN (s.coreSet x) (winCore a) = false then .error stBADADDR
      else .ok r

/-- A window access: live, in the image, held or rejected (R86). -/
inductive Lookup where
  | live | image | held | gone
  deriving DecidableEq, Repr

def lookup (s : State) (x c : Nat) : Lookup :=
  match (s.win x c).st with
  | .live => .live
  | .held => .held
  | .image => .image
  | .revoked => .gone

/-- R65, R66, R86: a read of `n` bytes at package-local `a`. -/
def perfRead (own sup : Bool) (x a n : Nat) (s : State) : Perf :=
  match rowCheck s own sup false false x a n with
  | .error st => .status s st
  | .ok .hbm => if s.poisoned a n then .status s.setUE stMEMERR else .done s ⟨stOK, 0, hbmRead s a n⟩
  | .ok .host => .done s ⟨stOK, 0, Mem.bytes s.hostMem (a - hostBase) n⟩
  | .ok .sup =>
    let k := s.core (winCore a)
    let off := winOffset a - 0x600000
    if k.svrBad.any fun w => touches w off n then .status s.setUE stMEMERR else .done s ⟨stOK, 0, Mem.bytes k.svr off n⟩
  | .ok .regs => .status s stBADADDR
  | .ok r =>
    let c := winCore a
    let off := winOffset a
    match lookup s x c with
    | .gone => .status s stGONE
    | .held => .hold x c
    | .image =>
      if imgBad s x c off n then .status s.setUE stMEMERR else .done s ⟨stOK, 0, hbmRead s (s.imgAddr x c + off) n⟩
    | .live =>
      let y := s.seat c
      if (y.waitsFor false off n).isSome then .later c
      else if r = .data then
        if y.isBad off n then .status s.setUE stMEMERR else .done s ⟨stOK, 0, Mem.bytes y.spad off n⟩
      else if y.ibad.any fun w => touches w (off - 0x600000) n then .status s.setUE stMEMERR
      else .done s ⟨stOK, 0, Mem.bytes y.ispad (off - 0x600000) n⟩

/-- R65, R66, R86, R120: a write. -/
def perfWrite (own : Bool) (x a : Nat) (bs : List Byte) (s : State) : Perf :=
  match rowCheck s own false true false x a bs.length with
  | .error st => .status s st
  | .ok .hbm => .status (hbmWrite a bs s) stOK
  | .ok r =>
    let c := winCore a
    let off := winOffset a
    match lookup s x c with
    | .gone => .status s stGONE
    | .held => .hold x c
    | .image =>
      if r = .data then dataWrite x c false off bs s else .status (imgWrite x c off bs s) stOK
    | .live =>
      if ((s.seat c).waitsFor true off bs.length).isSome then .later c
      else if r = .data then dataWrite x c true off bs s
      else .status (s.putSeat c ((s.seat c).writeCode off bs)) stOK

/-! ## Atomics (R293) -/

/-- The bytes an ATOMIC leaves, and its answer: the old value and flags. -/
def atomicBytes (op : AOp) (f : AFmt) (old : List Byte) (x e : Nat) : Option (List Byte) × Resp :=
  let r := atomicNew op f (leNat old) x e
  (r.1.map (leBytes (afmtSize f)), ⟨stOK, r.2, old⟩)

/-- Does the Mash unit's next operation on round `g` of the context fail its check (R300, R303)? Group 1,024 stands for atomics. -/
def State.mashFails (s : State) (x g : Nat) : Bool := s.mashBad.any fun b => decide (b = (x, g))

def State.mashMet (s : State) (x g : Nat) : State := { s with mashBad := s.mashBad.filter fun b => decide (b ≠ (x, g)) }

/-- R293: one indivisible read-modify-write; in a window only on MBX tiles, the rule that R120's table leaves to R293 (log entry
75). An uncorrectable error in the word, or a failed residue check, is answered MASHERR and changes nothing. -/
def perfAtomic (own : Bool) (x a : Nat) (op : AOp) (f : AFmt) (v e : Nat) (s : State) : Perf :=
  match rowCheck s own false true true x a (afmtSize f) with
  | .error st => .status s st
  | .ok .hbm =>
    if s.poisoned a (afmtSize f) then .status s.setUE stMASHERR
    else if s.mashFails x 1024 then .status (s.mashMet x 1024) stMASHERR
    else
      let r := atomicBytes op f (hbmRead s a (afmtSize f)) v e
      .done (match r.1 with | some bs => hbmWrite a bs s | none => s) r.2
  | .ok _ =>
    let c := winCore a
    let off := winOffset a
    match lookup s x c with
    | .gone => .status s stGONE
    | .held => .hold x c
    | l =>
      let live := decide (l = .live)
      let y := s.seatIn x c live (tilesOf off (afmtSize f))
      if live && (y.waitsFor true off (afmtSize f)).isSome then .later c
      else if (tilesOf off (afmtSize f)).all fun t => decide ((y.tile t).st = .mbx) then
        if (if live then y.isBad off (afmtSize f) else imgBad s x c off (afmtSize f)) then .status s.setUE stMASHERR
        else
        let old := if live then Mem.bytes y.spad off (afmtSize f) else hbmRead s (s.imgAddr x c + off) (afmtSize f)
        let r := atomicBytes op f old v e
        .done (match r.1 with
          | none => s
          | some bs => if live then s.putSeat c (y.writeWords off 4 bs) else imgWrite x c off bs s) r.2
      else .status s stOWNER

/-! ## Reduction groups (R294 to R301) -/

/-- Doubleword `n` of resident reduction entry `g`. -/
def Ctx.grpDw (y : Ctx) (g n : Nat) : Nat := (Tab.get 0 y.groups (8 * g + n)).toNat

def afmtOf (n : Nat) : Option AFmt :=
  match n with
  | 0 => some .fp32
  | 1 => some .bf16
  | 2 => some .int32
  | 3 => some .int64
  | 4 => some .fx128
  | _ => none

def aopOf (n : Nat) : Option AOp :=
  match n with
  | 0 => some .add
  | 1 => some .max
  | 2 => some .min
  | 3 => some .swap
  | 4 => some .cas
  | _ => none

/-- A resident group's fields (R296). -/
structure Group where
  tmo : Nat
  n   : Nat
  fxp : Nat
  fmt : AFmt
  op  : AOp
  ord : Bool
  dst : Nat
  len : Nat
  memb : Nat
  map : Nat
  crec : Nat
  stamp : Word
  deriving DecidableEq, Repr

/-- The valid entry `g`, if there is one. -/
def Ctx.group (y : Ctx) (g : Nat) : Option Group :=
  let w := y.grpDw g 0
  if bitN w 0 = false then none
  else
    match afmtOf (w / 2 ^ 18 % 8), aopOf (w / 2 ^ 16 % 4) with
    | some f, some o =>
      some ⟨w / 2 ^ 40, w / 2 ^ 28 % 2 ^ 12 + 1, w / 2 ^ 21 % 128, f, o, bitN w 1, y.grpDw g 1 % 2 ^ 44,
        y.grpDw g 2 % 2 ^ 24 + 1, y.grpDw g 3 % 2 ^ 44, y.grpDw g 4, y.grpDw g 5, Tab.get 0 y.groups (8 * g + 6)⟩
    | _, _ => none

/-- The first valid group whose range contains package-local `a` (R297 item 1), from index `g` on. -/
def findGroup (y : Ctx) (a : Nat) : Nat → Nat → Option (Nat × Group)
  | 0, _ => none
  | f + 1, g =>
    match y.group g with
    | some e => if e.dst ≤ a ∧ a < e.dst + e.len * afmtSize e.fmt then some (g, e) else findGroup y a f (g + 1)
    | none => findGroup y a f (g + 1)

/-- A word of a rank table; a free one where its line holds an uncorrectable error (R424). -/
def rankWord (s : State) (a : Nat) : Nat :=
  if s.poisoned a 4 then (Config.freeWord (s.free + a / 4 % 4096)).toNat % 2 ^ 32 else Mem.num s.hbm a 4

/-- The lowest rank of (package, core) in the rank table (R296). -/
def rankOf (s : State) (memb pkg core : Nat) : Nat → Nat → Option Nat
  | 0, _ => none
  | f + 1, r =>
    let w := rankWord s (memb + 4 * r)
    if w % 2 ^ 12 = pkg ∧ w / 2 ^ 12 % 256 = core then some r else rankOf s memb pkg core f (r + 1)

/-- Contributions of element `e` in the order they combine in (R298). -/
def Round.of (r : Round) (ord : Bool) (n e : Nat) : List Nat :=
  let mine := r.contribs.filter fun c => decide (c.2.1 = e)
  if ord then (List.range n).filterMap fun k => (mine.find? fun c => decide (c.1 = k)).map fun c => c.2.2
  else mine.map fun c => c.2.2

/-- R298: contributions combined in turn, before the rounding at the end, with the flags of every f. -/
def Group.fold (g : Group) (c : Nat) (cs : List Nat) : Nat × Nat :=
  cs.foldl (fun v y =>
    let z := combine g.op (partialFmt g.fmt) v.1 (contribCode g.fmt y)
    (z.1, fOr v.2 z.2)) (contribCode g.fmt c, 0)

/-- R298, res(e): the combined value and flags. -/
def Group.res (g : Group) : List Nat → Nat × Nat
  | [] => (0, 0)
  | c :: cs =>
    let r := g.fold c cs
    let f := finishElem g.fmt r.1
    (f.1, fOr r.2 f.2)

/-- Contributions of element `e` that have combined although the round is not full: of an ordered group those of the ranks from 0
on without a gap (log entry 84). -/
def Round.sofar (r : Round) (ord : Bool) (n e : Nat) : List Nat :=
  if ord then
    r.of true ((List.range n).takeWhile fun k => r.contribs.any fun c => decide (c.1 = k) && decide (c.2.1 = e)).length e
  else r.of false n e

/-- The flags of every f of a round so far (R299). -/
def Round.flags (r : Round) (g : Group) : Nat :=
  (List.range g.len).foldl (fun fl e => match r.sofar g.ord g.n e with | [] => fl | c :: cs => fOr fl (g.fold c cs).2) 0

/-- Ranks that failed to contribute to some element (R299, R301). -/
def Round.missing (r : Round) (g : Group) : List Nat :=
  (List.range g.n).filter fun k => (List.range g.len).any fun e =>
    !(r.contribs.any fun c => decide (c.1 = k) && decide (c.2.1 = e))

/-- Does every element hold N contributions? -/
def Round.full (r : Round) (g : Group) : Bool :=
  (List.range g.len).all fun e => decide ((r.contribs.filter fun c => decide (c.2.1 = e)).length = g.n)

/-- A round closes: its record is to be written with the group's stamp, which advances (R298, R299): after a TIMEOUT or MASHERR
record too, for which the spec does not say it (the model's choice, log entry 84). -/
def closeRound (x gi : Nat) (g : Group) (status flags missing : Nat) (s : State) : State :=
  let y := s.ctx x
  let s := (s.mashMet x gi).putCtx x { y with rounds := Tab.del y.rounds gi, groups := Tab.set 0 y.groups (8 * gi + 6) (g.stamp + 1) }
  let o : Origin := ⟨false, 0, 0, none, 0, 0, 0, 0, false, false, false, false, [], false⟩
  addRec .other x 0xFF o 3 g.crec (recLo status 0 flags 0 missing) g.stamp s

/-- R298: the results of a complete round, element by element. -/
def roundResults (r : Round) (g : Group) : List (Nat × Nat × Nat) :=
  (List.range g.len).map fun e => let v := g.res (r.of g.ord g.n e); (g.dst + e * afmtSize g.fmt, v.1, v.2)

/-- R298, R300: a round that is full completes. -/
def completeRound (x gi : Nat) (g : Group) (s : State) : State :=
  match Tab.find (s.ctx x).rounds gi with
  | none => s
  | some r =>
    if s.mashFails x gi then closeRound x gi g stMASHERR (r.flags g) (r.missing g).length s
    else if r.full g then
      let res := roundResults r g
      closeRound x gi g stOK (lanesOr res) 0
        (res.foldl (fun s e => hbmWrite e.1 (leBytes (afmtSize g.fmt) e.2.1) s) s)
    else s
where
  lanesOr : List (Nat × Nat × Nat) → Nat
    | [] => 0
    | e :: es => fOr e.2.2 (lanesOr es)

/-- Elements of a REDUCE payload. -/
def payloadElems (size : Nat) : Nat → List Byte → List Nat
  | 0, _ => []
  | f + 1, bs => if bs.isEmpty then [] else leNat (bs.take size) :: payloadElems size f (bs.drop size)

/-- R297: a REDUCE whose region admits it (R65). -/
def perfContrib (p : Packet) (s : State) : Perf :=
  let x := p.dctx
  let a := p.addr % 2 ^ 44
  let y := s.ctx x
  if s.flag (trOff x + 0x20) 0 = false then .status s stNOGROUP
  else
    match findGroup y a 1024 0 with
    | none => .status s stNOGROUP
    | some (gi, g) =>
      let k := p.payload.length / afmtSize g.fmt
      if (a - g.dst) % afmtSize g.fmt ≠ 0 ∨ p.payload.length % afmtSize g.fmt ≠ 0 ∨ g.dst + g.len * afmtSize g.fmt < a + p.payload.length
          ∨ aopOf p.op ≠ some g.op ∨ afmtOf p.fmt ≠ some g.fmt ∨ p.frac ≠ g.fxp then
        .status s stMISMATCH
      else if p.det = true ∧ g.ord = false ∧ g.op = .add ∧ (g.fmt = .fp32 ∨ g.fmt = .bf16) then .status s stMISMATCH
      else
        match rankOf s g.memb p.srcPkg p.srcCore g.n 0 with
        | none => .status (hbmSeen g.memb (4 * g.n) s) stRANK
        | some rank =>
          let s := hbmSeen g.memb (4 * (rank + 1)) s
          let r := Tab.get ⟨s.cycle, []⟩ y.rounds gi
          let e0 := (a - g.dst) / afmtSize g.fmt
          if r.contribs.any fun c => decide (c.1 = rank) && decide (e0 ≤ c.2.1) && decide (c.2.1 < e0 + k) then
            .status s stDUP
          else
            let new := (payloadElems (afmtSize g.fmt) k p.payload).mapIdx fun i v => (rank, e0 + i, v)
            let s := s.putCtx x { y with rounds := Tab.put y.rounds gi { r with contribs := r.contribs ++ new } }
            .status (completeRound x gi g s) stOK

/-- R65, R66, R86, R297: a REDUCE at its destination. In a window no group's range lies, so one that the region and the window
admit finds no group. -/
def perfReduce (own : Bool) (p : Packet) (s : State) : Perf :=
  let x := p.dctx
  let a := p.addr % 2 ^ 44
  match rowCheck s own false true true x a p.payload.length with
  | .error st => .status s st
  | .ok .hbm => perfContrib p s
  | .ok _ =>
    match lookup s x (winCore a) with
    | .gone => .status s stGONE
    | .held => .hold x (winCore a)
    | _ => .status s stNOGROUP

/-! ## Performing a request packet -/

/-- A request performs at its destination (R291). `own`: it comes from an engine of this package. -/
def perform (own sup : Bool) (p : Packet) (s : State) : Perf :=
  let a := p.addr % 2 ^ 44
  match p.kind with
  | .readreq => perfRead own sup p.dctx a p.len s
  | .write => perfWrite own p.dctx a p.payload s
  | .mcwrite => perfWrite own p.dctx a p.payload s
  | .reduce => perfReduce own p s
  | .atomic =>
    match aopOf p.op, afmtOf p.fmt with
    | some op, some f =>
      perfAtomic own p.dctx a op f (leNat (p.payload.take (afmtSize f))) (leNat (p.payload.drop (afmtSize f))) s
    | _, _ => .status s stBADADDR
  | _ => .status s stOK

end Sys2Proof.Machine
end

