-- ==== Sys2Proof/Machine/Krg.lean ====
section
/-! DEFINITION. Keyed randomness (R44 to R48, R57): the function KRG, its counters and the keyed word of an element. -/

namespace Sys2Proof.Machine

/-- Rotate a 32-bit word left. -/
def rotl (v : W32) (n : Nat) : W32 := v.rotateLeft n

/-- Four 32-bit words. -/
structure Quad where
  a : W32
  b : W32
  c : W32
  d : W32
  deriving DecidableEq, Repr

/-- Word `j` of a quad. -/
def Quad.word (q : Quad) : Nat → W32
  | 0 => q.a
  | 1 => q.b
  | 2 => q.c
  | _ => q.d

/-- The words of a 128-bit number, least significant first. -/
def Quad.ofNat (n : Nat) : Quad :=
  ⟨BitVec.ofNat 32 n, BitVec.ofNat 32 (n / 2 ^ 32), BitVec.ofNat 32 (n / 2 ^ 64), BitVec.ofNat 32 (n / 2 ^ 96)⟩

/-- The 128-bit number of four words. -/
def Quad.toNat (q : Quad) : Nat := q.a.toNat + q.b.toNat * 2 ^ 32 + q.c.toNat * 2 ^ 64 + q.d.toNat * 2 ^ 96

/-- One round of R44. -/
def krgRound (k : Quad) (r : Nat) (x : Quad) : Quad :=
  let c : W32 := BitVec.ofNat 32 ((r + 1) * 0x6A1C93E5)
  let x0 := x.a + (k.word (r % 4) ^^^ c)
  let x1 := rotl (x.b ^^^ x0) 8
  let x2 := x.c + x1
  let x3 := rotl (x.d ^^^ x2) 20
  let x0 := x0 + x3
  let x1 := x1 + rotl x0 12
  let x2 := x2 ^^^ (k.word ((r + 2) % 4) + c)
  ⟨x1, x2, x3, x0⟩

/-- R44: KRG of a 128-bit key and counter. -/
def krgQuad (key ctr : Nat) : Quad :=
  let k := Quad.ofNat key
  krgRound k 9 (krgRound k 8 (krgRound k 7 (krgRound k 6 (krgRound k 5 (krgRound k 4 (krgRound k 3 (krgRound k 2
    (krgRound k 1 (krgRound k 0 (Quad.ofNat ctr))))))))))

/-- KRG as a number. -/
def krg (key ctr : Nat) : Nat := (krgQuad key ctr).toNat

/-- The key of R46. -/
def keyOf (kseed ktens kstep : Nat) : Nat := kseed % 2 ^ 64 * 2 ^ 64 + ktens % 2 ^ 32 * 2 ^ 32 + kstep % 2 ^ 32

/-- The counter of domain 1 (stage) for a group of four elements (R47). -/
def ctrRound (stage g : Nat) : Nat := 1 * 2 ^ 120 + stage * 2 ^ 112 + g % 2 ^ 64

/-- The counter of domain 2 (R47). -/
def ctrDrop (g : Nat) : Nat := 2 * 2 ^ 120 + g % 2 ^ 64

/-- The counter of domain 3 (R47). -/
def ctrDraw (lane wid drawc : Nat) : Nat := 3 * 2 ^ 120 + lane % 128 * 2 ^ 96 + wid % 2 ^ 64 * 2 ^ 32 + drawc % 2 ^ 32

/-- The counter of domain 4 (R47). -/
def ctrSpawn (wid idx : Nat) : Nat := 4 * 2 ^ 120 + wid % 2 ^ 64 * 2 ^ 32 + idx % 2 ^ 32

/-- R48, domain 1: the keyed word of element `i` at a stage. -/
def roundWord (key stage i : Nat) : Nat :=
  let i := i % 2 ^ 64
  ((krgQuad key (ctrRound stage (i / 4))).word (i % 4)).toNat

/-- R48, domain 2: the keyed word of element `i`. -/
def dropWord (key i : Nat) : Nat :=
  let i := i % 2 ^ 64
  ((krgQuad key (ctrDrop (i / 4))).word (i % 4)).toNat

/-- The fixed keys of R57. -/
def digKA : Nat := 5 * 2 ^ 32 + 0x192
def digKB : Nat := 2 ^ 64 + 5 * 2 ^ 32 + 0x192

/-- R57: the digest term of the aligned 4-byte word at virtual address `va`, with a byte mask and the word's covered
bytes. -/
def digestTerm (va mask word : Nat) : Nat :=
  let c := 5 * 2 ^ 120 + mask % 16 * 2 ^ 86 + va / 4 % 2 ^ 54 * 2 ^ 32 + word % 2 ^ 32
  krg digKB c * 2 ^ 128 + krg digKA c

end Sys2Proof.Machine
end

