-- ==== Sys2Proof/Machine/Request.lean ====
section
/-! DEFINITION. Requests of this package's engines and their responses (R290, R291), completion records (R102), fault records
on their way (R84, R85), and the write digest (R404). -/

namespace Sys2Proof.Machine

/-! ## Faults on their way -/

/-- A fault record is posted (R85); `code` is the trap code of a cause 10. Its GTB is that of detection. -/
def postFault (x c : Nat) (o : Origin) (va : Word) (cause kind unit code : Nat) (s : State) : State :=
  let y := s.ctx x
  s.putCtx x { y with posts := y.posts ++ [⟨c, o, ⟨va, o.bundle, o.slot, cause, kind, unit, code, s.gtb⟩⟩] }

/-- A keyed use reports to its context's log (R58). -/
def postKey (x c unit : Nat) (o : Origin) (ktens kstep : W32) (ident : Word) (s : State) : State :=
  let y := s.ctx x
  s.putCtx x { y with keyReps := y.keyReps ++ [⟨ktens, kstep, ident, c, unit, o⟩] }

/-! ## Digests (R57, R404) -/

/-- The sum of the terms of the aligned words that a run of bytes touches. -/
def digestRun (va : Nat) (bs : List Byte) : Nat :=
  let w0 := va / 4
  let k := (va + bs.length + 3) / 4 - w0
  (List.range (if bs.isEmpty then 0 else k)).foldl (fun d i =>
    let w := 4 * (w0 + i)
    let byteAt := fun j => if va ≤ w + j ∧ w + j < va + bs.length then some (nth (0 : Byte) bs (w + j - va)) else none
    let mask := (List.range 4).foldl (fun m j => m + (if (byteAt j).isSome then 2 ^ j else 0)) 0
    let data := leNat ((List.range 4).map fun j => (byteAt j).getD 0)
    d + digestTerm w mask data) 0 % 2 ^ 256

/-- Adds to the write digest of a context. -/
def addDigest (x va : Nat) (bs : List Byte) (s : State) : State :=
  let o := ccbOff x + 0x60
  let d := (s.fld o 0 64 + s.fld (o + 8) 0 64 * 2 ^ 64 + s.fld (o + 16) 0 64 * 2 ^ 128 + s.fld (o + 24) 0 64 * 2 ^ 192
    + digestRun va bs) % 2 ^ 256
  (((s.setFld o 0 64 d).setFld (o + 8) 0 64 (d / 2 ^ 64)).setFld (o + 16) 0 64 (d / 2 ^ 128)).setFld (o + 24) 0 64
    (d / 2 ^ 192)

/-! ## Requests and responses -/

/-- A request of source package `src` to package `dst` is acknowledged: later packets need not follow its way (R289). -/
def unbind (src dst tag : Nat) (s : State) : State :=
  { s with binds := s.binds.filter fun b => !(decide (b.src = src) && decide (b.dst = dst) && decide (b.tag = tag)) }

/-- The answer of package `src` to a request reaches its agent; a later one is discarded (R290). -/
def respond (src tag : Nat) (r : Resp) (s : State) : State :=
  { unbind s.pkg src tag s with reqs := s.reqs.map fun q =>
      if q.tag = tag ∧ q.dpkg = src ∧ q.res.isNone then { q with res := some r } else q }

/-- The response packet to a request of another package (R285, R290): flags in the op and fmt fields, the source package
in the address, the cause of a rejection under R65 and R66 beside status XLAT in the field of P (log entry 17). -/
def responseTo (s : State) (p : Packet) (r : Resp) : Packet :=
  { kind := match p.kind with | .readreq => .readdata | .atomic => .atomicdata | _ => .ack
    vc := p.vc, det := p.det, hops := 0, dctx := p.dctx, status := (recStatus r.status).1, len := r.data.length, srcPkg := s.pkg,
    srcCore := 0xFF, op := r.flags % 8, fmt := r.flags / 8 % 8, frac := (recStatus r.status).2, tag := p.tag, addr := p.srcPkg * 2 ^ 44,
    group := 0, payload := r.data }

/-- A performed request answers its source. -/
def reply (p : Packet) (r : Resp) (s : State) : State :=
  if p.srcPkg = s.pkg then respond s.pkg p.tag r s else { s with outbox := s.outbox ++ [responseTo s p r] }

/-- A request packet performs here, or is held at its window (R86, R291). -/
def arrive (p : Packet) (s : State) : State :=
  let own := decide (p.srcPkg = s.pkg) && s.reqs.any fun q => decide (q.tag = p.tag) && decide (q.dpkg = s.pkg)
  let sup := own && s.reqs.any fun q => decide (q.tag = p.tag) && q.sup
  match perform own sup p s with
  | .done s r => reply p r s
  | .hold x c => s.putWin x c { s.win x c with held := (s.win x c).held ++ [p] }
  | .later c =>
    let y := s.seat c
    match y.waitsFor true (winOffset (p.addr % 2 ^ 44)) (max p.len p.payload.length) with
    | some a => s.putSeat c (y.defer a (.packet p))
    | none => s

/-- What waited for an AMO of core `c` performs, in order (R220). -/
def releaseLate (c : Nat) : List Deferred → State → State
  | [], s => s
  | .packet p :: ds, s => releaseLate c ds (arrive p s)
  | d :: ds, s => releaseLate c ds (s.putSeat c ((s.seat c).releaseOne d))

/-- R220: reservations of core `c` that are over end, and what they held back performs. -/
def endResvs (ended : Resv → Bool) (s : State) (c : Nat) : State :=
  let x := s.seat c
  let gone := x.resv.filter ended
  if gone.isEmpty then s
  else releaseLate c (gone.flatMap Resv.late) (s.putSeat c { x with resv := x.resv.filter fun r => !ended r })

/-- What a request carries beside its address. -/
structure ReqInfo where
  agent : Agent
  kind  : PKind
  va    : Nat
  n     : Nat
  core  : Nat
  org   : Origin
  op    : Nat
  fmt   : Nat
  frac  : Nat
  data  : List Byte
  deriving DecidableEq, Repr

/-- The virtual channel of a kind (R285). -/
def kindVC (k : PKind) : Nat :=
  match k with
  | .reduce => 2
  | .atomic => 2
  | .atomicdata => 2
  | .time => 3
  | _ => 0

/-- A request leaves its agent (R290): to this package it performs at once, otherwise it is handed to the fabric. -/
def request (i : ReqInfo) (l : Xl) (s : State) : State :=
  let p : Packet :=
    { kind := i.kind, vc := kindVC i.kind, det := i.org.det, hops := 0, dctx := l.dctx, status := 0,
      len := if i.kind = .readreq then i.n else i.data.length, srcPkg := s.pkg, srcCore := i.core, op := i.op, fmt := i.fmt,
      frac := i.frac, tag := s.nextTag, addr := l.phys, group := 0, payload := i.data }
  let q : Req :=
    { tag := s.nextTag, agent := i.agent, kind := i.kind, va := i.va, n := i.n, sup := i.org.sup, cyc := s.cycle,
      dpkg := l.phys / 2 ^ 44, core := i.core, addr := l.phys, data := i.data,
      dig := l.dig && decide (rowOf (l.phys % 2 ^ 44) = some .hbm), port := none, res := none }
  let s := { s with nextTag := (s.nextTag + 1) % 2 ^ 32, reqs := s.reqs ++ [q], free := s.free + 1 }
  if l.phys / 2 ^ 44 = s.pkg then arrive p s else { s with outbox := s.outbox ++ [p] }

/-- The requests of an agent, those still open, and the machine without them. -/
def reqsOf (s : State) (a : Agent) : List Req := s.reqs.filter fun q => decide (q.agent = a)

def openReqs (s : State) (a : Agent) : Bool := (reqsOf s a).any fun q => q.res.isNone

def dropReqs (a : Agent) (s : State) : State := { s with reqs := s.reqs.filter fun q => decide (q.agent ≠ a) }

/-- The byte at `va` that answered reads hold. -/
def gotByte (rs : List Req) (va : Nat) : Byte :=
  match rs.find? fun q => decide (q.va ≤ va) && decide (va < q.va + q.n) with
  | some q => match q.res with | some r => nth 0 r.data (va - q.va) | none => 0
  | none => 0

def gotBytes (rs : List Req) (va n : Nat) : List Byte := (List.range n).map fun i => gotByte rs (va + i)

/-- The lowest nonzero status among answers, with its cause (R101, R347). -/
def worstOf : List Req → Nat × Nat
  | [] => (0, 0)
  | q :: qs => worse (match q.res with | some r => recStatus r.status | none => (0, 0)) (worstOf qs)

def flagsOf : List Req → Nat
  | [] => 0
  | q :: qs => fOr (match q.res with | some r => r.flags | none => 0) (flagsOf qs)

/-- Digested writes that performed add to the write digest (R404). -/
def digestReqs (x : Nat) : List Req → State → State
  | [], s => s
  | q :: qs, s =>
    digestReqs x qs (match q.res with
      | some r => if q.dig ∧ r.status = stOK then addDigest x q.va q.data s else s
      | none => s)

/-- The fault record of a failed command: one, of its first request with the translation or destination cause that its
status carries (R84, R85, R101). -/
def faultReqs (x c : Nat) (o : Origin) (kind unit : Nat) (rs : List Req) (s : State) : State :=
  let z := worstOf rs
  if z.1 = stXLAT then
    match rs.find? fun q => match q.res with | some r => decide (recStatus r.status = z) | none => false with
    | some q => postFault x c o (BitVec.ofNat 64 q.va) z.2 kind unit 0 s
    | none => s
  else s

/-! ## Pieces of a run of virtual bytes -/

/-- Cut `n` bytes at `va` at page ends and after at most 2,048 bytes (R284, R346). -/
def pieces : Nat → Nat → Nat → List (Nat × Nat)
  | 0, _, _ => []
  | f + 1, va, n =>
    if n = 0 then []
    else
      let k0 := 4096 - va % 4096
      let k := min n (min k0 2048)
      (va, k) :: pieces f (va + k) (n - k)

def piecesOf (va n : Nat) : List (Nat × Nat) := pieces (n / 2048 + n / 4096 + 2) va n

/-! ## Writing records (R102, R136) -/

/-- The cause code of a record whose write was answered badly (R84, R120). -/
def recCause (st : Nat) : Nat := if st = stGONE then cGONE else if st = stUNREACH then cUNREACH else cBADADDR

/-- Removes a record job. -/
def dropRec (n : Nat) (s : State) : State :=
  { dropReqs (.rcd n) s with recs := (dropReqs (.rcd n) s).recs.filter fun j => decide (j.n ≠ n) }

def putRec (j : RecJob) (s : State) : State := { s with recs := s.recs.map fun i => if i.n = j.n then j else i }

/-- The source that a record's writes name (R284): the collective engine writes its records, and is no core (R326). -/
def RecJob.source (j : RecJob) : Nat := match j.owner with | .coll _ => 0xFF | _ => j.core

/-- One move of a record: send its next half, or take the answer to the half under way (R84, R102). -/
def moveRec (j : RecJob) (s : State) : State :=
  if j.sent then
    match (reqsOf s (.rcd j.n)).head? with
    | none => s
    | some q =>
      match q.res with
      | none => s
      | some r =>
        if r.status ≠ stOK then
          postFault j.ctx j.core j.org (BitVec.ofNat 64 j.va) (recCause r.status) 3 j.unit 0 (dropRec j.n s)
        else if j.second then dropRec j.n s
        else putRec { j with second := true, sent := false } (dropReqs (.rcd j.n) s)
  else
    let va := if j.second then j.va + 8 else j.va
    match xlate s j.ctx j.org va .write with
    | .error c => postFault j.ctx j.core j.org (BitVec.ofNat 64 j.va) c 3 j.unit 0 (dropRec j.n s)
    | .ok l =>
      request ⟨.rcd j.n, .write, va, 8, j.source, j.org, 0, 0, 0, leBytes 8 (if j.second then j.hi else j.lo).toNat⟩ l
        (putRec { j with sent := true } s)

/-- Can the record move? -/
def recReady (s : State) (j : RecJob) : Bool :=
  if j.sent then !openReqs s (.rcd j.n)
  else match j.after with | none => true | some a => !openReqs s a

/-- Every record moves as far as it can; a record that lands may flip an arming whose record then moves too. -/
def flushRecs : Nat → State → State
  | 0, s => s
  | f + 1, s =>
    match s.recs.find? (recReady s) with
    | none => s
    | some j => flushRecs f (moveRec j s)

/-- Records move after a step that may have completed something. -/
def settle (s : State) : State := if s.recs.isEmpty then s else flushRecs 256 s

/-- Does the owner still have a record under way? -/
def recPending (s : State) (o : RecOwner) : Bool := s.recs.any fun j => decide (j.owner = o)

/-- Held accesses of a window perform in their order of arrival (R87). -/
def releaseHeld (x c : Nat) (s : State) : State :=
  let w := s.win x c
  w.held.foldl (fun s p => arrive p s) (s.putWin x c { w with held := [] })

end Sys2Proof.Machine
end

