-- ==== Sys2Proof/Machine/Geometry.lean ====
section
/-! DEFINITION. Geometry sets (R88 to R95): fields, checks, footprints, and the units a copy moves and converts (R91, R93). -/

namespace Sys2Proof.Machine

/-- The fields of a geometry set that a copy uses (R89). -/
structure Geo where
  sfmt : EFmt
  dfmt : EFmt
  ssp  : Nat
  dsp  : Nat
  rnd  : Rnd
  sat  : Bool
  crcen : Bool
  crcchk : Bool
  trans : Bool
  bgeo : Nat
  brow : Nat
  bcol : Nat
  spk  : Bool
  dpk  : Bool
  fxp  : Nat
  tensor : Nat
  iorg : Nat
  dident : Word
  crcexp : Nat
  shoff : Int
  dhoff : Int
  /-- (extent, source stride, destination stride) of each dimension -/
  dims : List (Nat × Int × Int)
  deriving DecidableEq, Repr

/-- Doubleword `n` of a captured set. -/
def setDw (set : List Word) (n : Nat) : Nat := (nth 0 set n).toNat

def rndOf (n : Nat) : Option Rnd :=
  match n with
  | 0 => some .rne
  | 1 => some .rtz
  | 2 => some .rdn
  | 3 => some .rup
  | 4 => some .rna
  | 5 => some .sr
  | _ => none

/-- The conditions of R338 on SCOPE, CRRING and the RSV bits of doublewords 0, 4 and 5. -/
def recOk (set : List Word) : Bool :=
  let w := setDw set 0
  decide (w / 2 ^ 44 % 8 ≤ 4) && decide (w / 2 ^ 12 % 16 ≤ 8) && decide (w / 2 ^ 61 = 0) && decide (w / 2 % 8 = 0)
    && decide (setDw set 4 / 2 ^ 56 = 0) && decide (setDw set 4 % 16 = 0)

/-- NOCR (R89). -/
def nocr (set : List Word) : Bool := bitN (setDw set 0) 0

/-- The record fields a command captures at issue (R100). -/
def recOf (set : List Word) : Rec :=
  let w := setDw set 0
  ⟨nocr set, setDw set 4 % 2 ^ 56 / 16 * 16 + 16 * (w / 2 ^ 4 % 256), nth 0 set 5, w / 2 ^ 44 % 8⟩

/-- R100: CRNEXT and STAMP after an issue; a set with NOCR = 1 advances neither. -/
def advanceSet (set : List Word) : List Word :=
  if nocr set then set
  else
    let w := setDw set 0
    let n := (w / 2 ^ 4 % 256 + 1) % 2 ^ (w / 2 ^ 12 % 16)
    setAt (setAt set 0 (BitVec.ofNat 64 (insBits w 4 8 n))) 5 (nth 0 set 5 + 1)

/-- Do the reserved fields read zero, for `n` dimensions (R89)? -/
def geoRsv (set : List Word) (n : Nat) : Bool :=
  recOk set && decide (setDw set 1 / 2 ^ 32 = 0) && decide (setDw set 6 % 2 ^ 32 = 0) && decide (setDw set 7 / 2 ^ 40 = 0)
    && decide (setDw set 8 / 2 ^ 40 = 0) && decide (setDw set 23 = 0)
    && (List.range 7).all fun d =>
      decide (setDw set (10 + 2 * d) / 2 ^ 40 = 0)
        && (decide (d < n) || (decide (setDw set (9 + 2 * d) = 0) && decide (setDw set (10 + 2 * d) = 0)))

/-- The fields, where every reserved field and code is as R89 and R90 allow. -/
def geoOf (set : List Word) : Option Geo :=
  let w := setDw set 0
  let n := w / 2 ^ 16 % 8
  match EFmt.ofCode (w / 2 ^ 56 % 32), EFmt.ofCode (w / 2 ^ 51 % 32), rndOf (w / 2 ^ 41 % 8) with
  | some sf, some df, some r =>
    if !geoRsv set n || decide (n = 0) || decide (2 ≤ w / 2 ^ 49 % 4) || decide (w / 2 ^ 47 % 4 = 3)
        || decide (5 ≤ w / 2 ^ 34 % 8) then none
    else
      some { sfmt := sf, dfmt := df, ssp := w / 2 ^ 49 % 4, dsp := w / 2 ^ 47 % 4, rnd := r, sat := bitN w 40,
             crcen := bitN w 39, crcchk := bitN w 38, trans := bitN w 37, bgeo := w / 2 ^ 34 % 8, brow := w / 2 ^ 31 % 8,
             bcol := w / 2 ^ 28 % 8, spk := bitN w 27, dpk := bitN w 26, fxp := w / 2 ^ 19 % 128,
             tensor := setDw set 1 % 2 ^ 32, iorg := setDw set 2, dident := nth 0 set 3, crcexp := setDw set 6 / 2 ^ 32,
             shoff := sextN 40 (setDw set 7), dhoff := sextN 40 (setDw set 8),
             dims := (List.range n).map fun d =>
               (setDw set (9 + 2 * d) / 2 ^ 40 + 1, sextN 40 (setDw set (9 + 2 * d)), sextN 40 (setDw set (10 + 2 * d))) }
  | _, _, _ => none

/-! ## Blocks of the iteration space (R24, R25, R27, R93) -/

/-- Is it a block format? -/
def EFmt.block (f : EFmt) : Bool := f.kbf.isSome || f.mx.isSome

/-- Bytes of one block: plane and header, or packed. -/
def EFmt.planeBytes (f : EFmt) : Nat := match f.kbf with | some k => kbfCodeBytes k | none => if f.mx.isSome then 32 else 0
def EFmt.headBytes (f : EFmt) : Nat := if f.kbf.isSome then 2 else if f.mx.isSome then 1 else 0

/-- Rows and columns of a block of format `f`. -/
def Geo.rect (g : Geo) (f : EFmt) : Nat × Nat :=
  if f.mx.isSome then (1, 32)
  else
    match g.bgeo with
    | 0 => (1, 16)
    | 1 => (2, 8)
    | 2 => (4, 4)
    | 3 => (8, 2)
    | _ => (16, 1)

/-- Block extent along dimension `d`. -/
def Geo.span (g : Geo) (f : EFmt) (d : Nat) : Nat :=
  let r := g.rect f
  (if d = g.brow ∧ f.mx.isNone then r.1 else 1) * (if d = g.bcol then r.2 else 1)

/-- Extents of the iteration space. -/
def Geo.exts (g : Geo) : List Nat := g.dims.map fun d => d.1

/-- Extents of the block grid of a side (R93): every dimension in blocks. -/
def Geo.grid (g : Geo) (f : EFmt) : List Nat := g.exts.mapIdx fun d e => (e + g.span f d - 1) / g.span f d

def prodOf (l : List Nat) : Nat := l.foldl (· * ·) 1

/-- Coordinates of a linear index, dimension 0 fastest. -/
def coords : List Nat → Nat → List Nat
  | [], _ => []
  | e :: es, i => i % e :: coords es (i / e)

/-- The linear index of coordinates. -/
def linear : List Nat → List Nat → Nat
  | e :: es, i :: is => i + e * linear es is
  | _, _ => 0

/-- Number of blocks or elements of a side. -/
def Geo.units (g : Geo) (f : EFmt) : Nat := if f.block then prodOf (g.grid f) else prodOf g.exts

/-- Coordinates of position `p` of the block with grid coordinates `b`; none for padding (R27). -/
def Geo.cellOf (g : Geo) (f : EFmt) (b : List Nat) (p : Nat) : Option (List Nat) :=
  let r := g.rect f
  let c := blockCell r.1 r.2 p
  let i := b.mapIdx fun d k =>
    k * g.span f d + (if d = g.brow ∧ f.mx.isNone then (if d = g.bcol then c.1 * r.2 else c.1) else 0) + (if d = g.bcol then c.2 else 0)
  if (i.zip g.exts).all fun e => decide (e.1 < e.2) then some i else none

/-- Exchange two elements of a list. -/
def swapAt (l : List Nat) (i j : Nat) : List Nat := setAt (setAt l i (nth 0 l j)) j (nth 0 l i)

/-- The block number and position that hold the element at coordinates `i` on the source side; with TRANS the source's
block grid is the transposed tensor's (R26, log entry 19). -/
def Geo.srcCell (g : Geo) (i : List Nat) : Nat × Nat :=
  let f := g.sfmt
  let r := g.rect f
  let b := i.mapIdx fun d k => k / g.span f d
  let lr := nth 0 i g.brow % g.span f g.brow
  let lc := nth 0 i g.bcol % g.span f g.bcol
  let cell := if f.mx.isSome then (0, lc) else if g.brow = g.bcol then (lr / r.2, lr % r.2) else (lr, lc)
  let cell := if g.trans then (cell.2, cell.1) else cell
  let p := ((List.range (if f.mx.isSome then 32 else 16)).find? fun p => decide (blockCell r.1 r.2 p = cell)).getD 0
  if g.trans then (linear (swapAt (g.grid f) g.brow g.bcol) (swapAt b g.brow g.bcol), p) else (linear (g.grid f) b, p)

/-! ## Addresses and footprints (R92 to R94) -/

/-- The address of block `b` of a side: plane and header. Packed KBF has both in one run. -/
def blockAddr (f : EFmt) (packed : Bool) (base : Int) (hoff : Int) (b : Nat) : Int × Int :=
  if packed ∧ f.kbf.isSome then (base + (b * (f.planeBytes + 2) : Nat) + 2, base + (b * (f.planeBytes + 2) : Nat))
  else (base + (b * f.planeBytes : Nat), base + hoff + (b * f.headBytes : Nat))

/-- The address of a scalar element. -/
def elemAddr (base : Int) (strides : List Int) : List Nat → Int
  | is => base + ((strides.zip is).map fun e => e.1 * (e.2 : Int)).foldl (· + ·) 0

/-- Lowest and highest byte of a side (R94). -/
def Geo.foot (g : Geo) (src : Bool) (base : Int) : Int × Int :=
  let f := if src then g.sfmt else g.dfmt
  let hoff := if src then g.shoff else g.dhoff
  let packed := if src then g.spk else g.dpk
  if f.block then
    let n := g.units f
    let lo := blockAddr f packed base hoff 0
    let hi := blockAddr f packed base hoff (n - 1)
    (min lo.1 lo.2, max (hi.1 + (f.planeBytes : Nat) - 1) (hi.2 + (f.headBytes : Nat) - 1))
  else
    let ss := g.dims.map fun d => ((d.1 : Int) - 1) * (if src then d.2.1 else d.2.2)
    (base + (ss.map fun x => min 0 x).foldl (· + ·) 0,
     base + (ss.map fun x => max 0 x).foldl (· + ·) 0 + (f.bytes : Nat) - 1)

/-- A side's own checks (R93, R95): strides, alignment, header plane. -/
def Geo.sideOk (g : Geo) (src : Bool) (base : Nat) : Bool :=
  let f := if src then g.sfmt else g.dfmt
  let hoff := if src then g.shoff else g.dhoff
  let packed := if src then g.spk else g.dpk
  let ss := g.dims.map fun d => if src then d.2.1 else d.2.2
  if f.block then
    (ss.all fun x => decide (x = 0)) && (!(packed && f.kbf.isSome) || decide (hoff = 0))
      && (f.kbf.isNone || packed || decide (((base : Int) + hoff) % 2 = 0))
  else decide (base % f.bytes = 0) && ss.all fun x => decide (x % (f.bytes : Int) = 0)

/-- Is the pair of formats convertible (R91)? -/
def Geo.pairOk (g : Geo) : Bool :=
  decide (g.sfmt = g.dfmt)
    || (decide (g.sfmt ≠ .e8m0) && decide (g.dfmt ≠ .e8m0) && decide (g.sfmt ≠ .cf32) && decide (g.dfmt ≠ .cf32)
        && decide (g.dsp ≠ 2))

/-- A LOCAL or IBANK side's operand and footprint (R92). -/
def Geo.placeOk (g : Geo) (src : Bool) (op : Nat) : Bool :=
  let sp := if src then g.ssp else g.dsp
  let ft := g.foot src op
  match sp with
  | 1 => decide (op < 2 ^ 23) && decide (0 ≤ ft.1) && decide (ft.2 < (spadSize : Int))
  | 2 => decide (op < 2 ^ 18) && decide (0 ≤ ft.1) && decide (ft.2 < 0x38000)
  | _ => true

/-- R95, with the operands `a` and `b`. -/
def Geo.ok (g : Geo) (a b : Nat) : Bool :=
  let n := g.dims.length
  decide (g.brow < n) && decide (g.bcol < n) && !(decide (g.brow = g.bcol) && decide (1 ≤ g.bgeo) && decide (g.bgeo ≤ 3))
    && !(g.crcchk && !g.crcen) && !(g.trans && (g.sfmt.kbf.isNone || decide (g.bgeo ≠ 2)))
    && g.sideOk true a && g.sideOk false b && g.pairOk && g.placeOk true a && g.placeOk false b

/-! ## Reading and converting (R91) -/

/-- Source bytes of the element at coordinates `i`: runs of (address, length). -/
def Geo.srcRuns (g : Geo) (base : Int) (i : List Nat) : List (Int × Nat) :=
  if g.sfmt.block then
    let c := blockAddr g.sfmt g.spk base g.shoff (g.srcCell i).1
    [(c.1, g.sfmt.planeBytes), (c.2, g.sfmt.headBytes)]
  else [(elemAddr base (g.dims.map fun d => d.2.1) i, g.sfmt.bytes)]

/-- The source element's code (for a block format, of its position) and exact value. -/
def Geo.srcVal (g : Geo) (rd : Int → Nat → List Byte) (base : Int) (i : List Nat) : Nat × XVal :=
  match g.sfmt.kbf, g.sfmt.mx with
  | some k, _ =>
    let c := g.srcCell i
    let ad := blockAddr g.sfmt g.spk base g.shoff c.1
    let b := kbfOfBytes k (rd ad.1 g.sfmt.planeBytes) (rd ad.2 2)
    (nth 0 b.codes c.2, kbfElem k b c.2)
  | none, some f =>
    let c := g.srcCell i
    let ad := blockAddr g.sfmt g.spk base g.shoff c.1
    let code := leNat (rd (ad.1 + (c.2 : Int)) 1)
    (code, mxElem f (leNat (rd ad.2 1)) code)
  | none, none =>
    let code := leNat (rd (elemAddr base (g.dims.map fun d => d.2.1) i) g.sfmt.bytes)
    (code, decodeElem g.sfmt g.fxp code)

/-- The keyed word of an element (R52): the set's index origin plus its linear position. -/
def Geo.word (g : Geo) (key : Nat) (i : List Nat) : Nat :=
  if g.rnd = .sr then roundWord key 0 (g.iorg + linear g.exts i) else 0

/-- One scalar element converted (R91, R37, R38): code and flags. -/
def Geo.conv (g : Geo) (key : Nat) (v : XVal) (i : List Nat) : Nat × Nat :=
  match g.sfmt.plainInt && g.dfmt.plainInt, g.dfmt.int, v with
  | true, some f, .fin neg m e => (resizeInt f g.sat (intAt neg m e 0), 0)
  | _, _, _ => encodeElem g.dfmt g.fxp g.rnd g.sat (g.word key i) v

/-- What a destination unit becomes: writes (address, bytes), its bytes for the CRC, flags. -/
structure UnitOut where
  writes : List (Int × List Byte)
  crc    : List Byte
  flags  : Nat

/-- Grid coordinates of block `u` on the destination side. -/
def Geo.dstBlock (g : Geo) (u : Nat) : List Nat := coords (g.grid g.dfmt) u

/-- The coordinates of the elements that unit `u` needs. -/
def Geo.unitCells (g : Geo) (u : Nat) : List (List Nat) :=
  if g.dfmt.block then (List.range (if g.dfmt.mx.isSome then 32 else 16)).filterMap (g.cellOf g.dfmt (g.dstBlock u))
  else [coords g.exts u]

/-- Source runs of unit `u`, without repetition. -/
def Geo.unitRuns (g : Geo) (base : Int) (u : Nat) : List (Int × Nat) := ((g.unitCells u).flatMap (g.srcRuns base)).eraseDups

/-- Writes of a KBF block. -/
def kbfWrites (f : EFmt) (k : Nat) (packed : Bool) (base hoff : Int) (u : Nat) (b : KBlock) : List (Int × List Byte) :=
  let ad := blockAddr f packed base hoff u
  [(ad.2, kbfHeader b), (ad.1, kbfPlane k b)]

/-- Unit `u` of a copy (R91, R93, R98): bits unchanged where the formats agree, otherwise each value converted once. -/
def Geo.unit (g : Geo) (rd : Int → Nat → List Byte) (sb db : Int) (key u : Nat) : UnitOut :=
  match g.dfmt.kbf, g.dfmt.mx with
  | some k, _ =>
    if g.sfmt = g.dfmt then
      let src := if g.trans then linear (swapAt (g.grid g.sfmt) g.brow g.bcol) (swapAt (g.dstBlock u) g.brow g.bcol) else u
      let ad := blockAddr g.sfmt g.spk sb g.shoff src
      let b0 := kbfOfBytes k (rd ad.1 g.sfmt.planeBytes) (rd ad.2 2)
      let b := if g.trans then kbfTranspose b0 else b0
      ⟨kbfWrites g.dfmt k g.dpk db g.dhoff u b, kbfHeader b ++ kbfPlane k b, 0⟩
    else
      let cells := (List.range 16).map (g.cellOf g.dfmt (g.dstBlock u))
      let vals := cells.map fun c => match c with | some i => (g.srcVal rd sb i).2 | none => XVal.zero
      let words := cells.map fun c => match c with | some i => g.word key i | none => 0
      let e := kbfEncode k g.rnd g.sat vals words
      ⟨kbfWrites g.dfmt k g.dpk db g.dhoff u e.1, kbfHeader e.1 ++ kbfPlane k e.1, e.2⟩
  | none, some f =>
    let ad := blockAddr g.dfmt false db g.dhoff u
    if g.sfmt = g.dfmt then
      let sa := blockAddr g.sfmt false sb g.shoff u
      let codes := rd sa.1 32
      let sc := rd sa.2 1
      ⟨[(ad.2, sc), (ad.1, codes)], sc ++ codes, 0⟩
    else
      let cells := (List.range 32).filterMap (g.cellOf g.dfmt (g.dstBlock u))
      let e := mxEncode f g.rnd (cells.map fun i => (g.srcVal rd sb i).2) (cells.map (g.word key))
      let codes := (e.2.1.map fun c => BitVec.ofNat 8 c) ++ List.replicate (32 - e.2.1.length) (0 : Byte)
      let sc : List Byte := [BitVec.ofNat 8 e.1]
      ⟨[(ad.2, sc), (ad.1, codes)], sc ++ codes, e.2.2⟩
  | none, none =>
    let i := coords g.exts u
    let v := g.srcVal rd sb i
    let e := if g.sfmt = g.dfmt then (v.1, 0) else g.conv key v.2 i
    let bs := leBytes g.dfmt.bytes e.1
    ⟨[(elemAddr db (g.dims.map fun d => d.2.2) i, bs)], bs, e.2⟩

/-- Source runs of unit `u` for bit copies of block formats take the block itself. -/
def Geo.needs (g : Geo) (sb : Int) (u : Nat) : List (Int × Nat) :=
  if g.sfmt = g.dfmt ∧ g.dfmt.block then
    let src := if g.trans then linear (swapAt (g.grid g.sfmt) g.brow g.bcol) (swapAt (g.dstBlock u) g.brow g.bcol) else u
    let ad := blockAddr g.sfmt g.spk sb g.shoff src
    [(ad.2, g.sfmt.headBytes), (ad.1, g.sfmt.planeBytes)]
  else g.unitRuns sb u

/-- Bytes of a destination unit. -/
def Geo.unitBytes (g : Geo) : Nat := if g.dfmt.block then g.dfmt.planeBytes + g.dfmt.headBytes else g.dfmt.bytes

/-- Units of one chunk: at most 4 KiB of destination bytes (R97). -/
def Geo.perChunk (g : Geo) : Nat := max 1 (4096 / g.unitBytes)

/-- Does no source block hold elements both of a unit before number `m` and of one from `m` on? -/
def Geo.wholeAt (g : Geo) (m : Nat) : Bool :=
  let dspan := fun d => if g.dfmt.block then g.span g.dfmt d else 1
  let cs := coords (if g.dfmt.block then g.grid g.dfmt else g.exts) m
  match cs.findIdx? (fun i => decide (i ≠ 0)) with
  | none => true
  | some d0 =>
    decide (nth 0 cs d0 * dspan d0 % g.span g.sfmt d0 = 0)
      && (List.range cs.length).all fun d => decide (d ≤ d0) || decide (dspan d % g.span g.sfmt d = 0)

/-- Units of the chunk that begins at unit `next`: as many as 4 KiB hold, up to the last place that cuts no source block (log
entry 73). -/
def Geo.chunkFrom (g : Geo) (next : Nat) : Nat :=
  let n := min g.perChunk (g.units g.dfmt - next)
  if g.sfmt.block ∧ g.sfmt ≠ g.dfmt ∧ next + n < g.units g.dfmt then
    match (List.range n).reverse.find? fun i => g.wholeAt (next + i + 1) with
    | some i => i + 1
    | none => n
  else n

/-! ### Copies between formats whose source blocks have several rows -/

/-- Elements of dimension `d` in a destination unit, and units of it in a source block. -/
def Geo.unitSpan (g : Geo) (d : Nat) : Nat := if g.dfmt.block then g.span g.dfmt d else 1

def Geo.cellSpan (g : Geo) (d : Nat) : Nat := max 1 (g.span g.sfmt d / g.unitSpan d)

/-- Do source blocks reach across rows of units, so that no cut in iteration order leaves them whole? -/
def Geo.tiled (g : Geo) : Bool :=
  g.sfmt.block && decide (g.sfmt ≠ g.dfmt)
    && (List.range g.dims.length).any fun d => decide (0 < d) && decide (1 < g.cellSpan d)

/-- The units of source block (or of the larger destination block) number `j`, in iteration order. -/
def Geo.cellUnits (g : Geo) (j : Nat) : List Nat :=
  let us := if g.dfmt.block then g.grid g.dfmt else g.exts
  let span := (List.range us.length).map g.cellSpan
  let at_ := coords (List.zipWith (fun u p => (u + p - 1) / p) us span) j
  ((List.range (span.foldl (· * ·) 1)).map fun i => List.zipWith (· + ·) (List.zipWith (· * ·) at_ span) (coords span i)).filterMap fun c =>
    if (c.zip us).all fun e => decide (e.1 < e.2) then some (linear us c) else none

/-- All of them. -/
def Geo.cells (g : Geo) : List (List Nat) :=
  let us := if g.dfmt.block then g.grid g.dfmt else g.exts
  (List.range ((List.zipWith (fun u p => (u + p - 1) / p) us ((List.range us.length).map g.cellSpan)).foldl (· * ·) 1)).map g.cellUnits

/-- The lists after those that hold the first `n` items. -/
def afterItems : Nat → List (List Nat) → List (List Nat)
  | _, [] => []
  | 0, ls => ls
  | n + 1, l :: ls => afterItems (n + 1 - l.length) ls

/-- The first list, and those after it that `n` items in all have room for. -/
def fewItems (n : Nat) : List (List Nat) → List Nat
  | [] => []
  | l :: ls => l ++ more (n - l.length) ls
where
  more (n : Nat) : List (List Nat) → List Nat
    | [] => []
    | l :: ls => if l.length ≤ n then l ++ more (n - l.length) ls else []

/-- The units of the chunk after `next` units are done (R97): at most 4 KiB, whole blocks on a block side; block by block where
source blocks reach across rows. -/
def Geo.chunkUnits (g : Geo) (next : Nat) : List Nat :=
  if g.tiled then fewItems g.perChunk (afterItems next g.cells) else (List.range (g.chunkFrom next)).map (next + ·)

/-- The CRC register after units that do not come in iteration order (R98): the register is linear in the bytes, and every unit
adds what it would in its place. -/
def crcPlaced (g : Geo) (us : List (Nat × List Byte)) (c : Nat) : Nat :=
  let zeros := fun (n c : Nat) => (List.range n).foldl (fun z _ => crcByte z 0) c
  us.foldl (fun c u => nxor c (zeros (g.unitBytes * (g.units g.dfmt - 1 - u.1)) (u.2.foldl crcByte 0))) c

/-- The CRC register of a copy after a chunk. -/
def Geo.crcAfter (g : Geo) (next : Nat) (us : List (Nat × List Byte)) (c : Nat) : Nat :=
  if g.tiled then
    crcPlaced g us (if next = 0 then (List.range (g.unitBytes * g.units g.dfmt)).foldl (fun z _ => crcByte z 0) c else c)
  else us.foldl (fun z u => u.2.foldl crcByte z) c

/-- The pages that `[lo, hi]` touches. -/
def pagesIn (lo hi : Int) : List Int := (List.range ((hi / 4096 - lo / 4096).toNat + 1)).map fun (i : Nat) => lo / 4096 + (i : Int)

end Sys2Proof.Machine
end

