-- ==== Sys2Proof/Machine/Takes.lean ====
section
/-! DEFINITION. Takes and releases of tiles by local commands (R117 to R119, R213, R126). -/

namespace Sys2Proof.Machine

/-- The bytes that a gang message reads, by offset and length (R349). -/
def msgReads (k : Cmd) : List (Nat × Nat) :=
  match geoOf k.set with
  | some g => (List.range (g.units g.dfmt)).flatMap fun i => (g.needs (k.a.toNat % 2 ^ 23 : Nat) i).map fun r => (r.1.toNat, r.2)
  | none => []

/-- (address, bytes) of an access's elements, those of a gang message's source among them. -/
def Seat.elemsOf (x : Seat) (op : AccOp) : List (Nat × Nat) :=
  match op with
  | .msgSample m => (match x.cmds.find? (fun (k : Cmd) => decide (k.id = m)) with | some k => msgReads k | none => [])
  | op => op.elems

/-- Core accesses with the cycle of their issue: pending, deferred (R220), or performed in the cycle under way. -/
def Seat.coreAccesses (x : Seat) : List (Nat × Nat × Nat) :=
  let held := fun (y : Stream) => match y.held with | some h => h.acc | none => []
  let of := fun (a : Access) => (x.elemsOf a.op).map fun e => (a.cyc, e.1, e.2)
  (x.prim.acc ++ x.sec.acc ++ held x.prim ++ held x.sec).flatMap of
    ++ (x.resv.flatMap Resv.late).flatMap (fun d =>
      match d with
      | .write (some _) cyc a bs => [(cyc, a, bs.length)]
      | .sample _ acc => of acc
      | _ => [])
    ++ x.just

/-- Does a core access that issued before cycle `cyc` perform on tile `t` in this cycle or later (R213)? -/
def Seat.oldAccess (x : Seat) (t cyc : Nat) : Bool :=
  x.coreAccesses.any fun e => decide (e.1 < cyc) && decide (e.2.1 < 4096 * (t + 1)) && decide (4096 * t < e.2.1 + e.2.2)

/-- Can a take be granted: no conflicting hold, no earlier pending take on the tile, no older core access (R118, R213)? -/
def Seat.grantable (x : Seat) (k : Take) (earlier : List Take) : Bool :=
  let clear :=
    match (x.tile k.tile).st with
    | .core => true
    | .engR => !k.dst
    | _ => false
  clear && !(earlier.any fun j => decide (j.tile = k.tile)) && !x.oldAccess k.tile k.cyc

/-- The tile passes to a take (R117, R119). -/
def Seat.grant (x : Seat) (k : Take) : Seat :=
  let y := x.tile k.tile
  x.putTile k.tile (if k.dst then { y with st := .engW, holds := 1 } else { y with st := .engR, holds := y.holds + 1 })

/-- Grant every pending take that can be granted, oldest first. -/
def grantAll : List Take → List Take → Seat → Seat
  | [], kept, x => { x with takes := kept }
  | k :: ks, kept, x =>
    if x.grantable k kept then grantAll ks kept (x.grant k) else grantAll ks (kept ++ [k]) x

def Seat.grants (x : Seat) : Seat := grantAll x.takes [] x

/-- A command's takes, in its issue tick (R126): pending until granted (R118). -/
def Seat.takeTiles (x : Seat) (id cyc : Nat) (ts : List (Nat × Bool)) : Seat :=
  Seat.grants { x with takes := x.takes ++ ts.map fun t => (⟨id, t.1, t.2, cyc⟩ : Take) }

/-- One hold ends (R117). -/
def Seat.endHold (x : Seat) (t : Nat × Bool) : Seat :=
  let y := x.tile t.1
  if y.st = .engW ∨ y.holds ≤ 1 then x.putTile t.1 { y with st := .core, holds := 0 }
  else x.putTile t.1 { y with holds := y.holds - 1 }

/-- A command ends its holds and drops what it still waits for; tiles pass to the oldest pending takes (R119). -/
def Seat.release (x : Seat) (id : Nat) (ts : List (Nat × Bool)) : Seat :=
  let waiting := x.takes.filter fun k => decide (k.id = id)
  let heldTs := ts.filter fun t => !(waiting.any fun k => decide (k.tile = t.1))
  (heldTs.foldl Seat.endHold { x with takes := x.takes.filter fun k => decide (k.id ≠ id) }).grants

/-- Has the command all its grants? -/
def Seat.granted (x : Seat) (id : Nat) : Bool := !(x.takes.any fun k => decide (k.id = id))

/-- Is some tile FAB or MBX (R94, R118)? -/
def Seat.barred (x : Seat) (ts : List Nat) : Bool :=
  ts.any fun t => match (x.tile t).st with | .fab => true | .mbx => true | _ => false

/-- Tiles of an inclusive range of offsets. -/
def tilesBetween (lo hi : Int) : List Nat := tilesOf lo.toNat ((hi - lo).toNat + 1)

/-- The tiles of a command: those it writes as destinations, those it only reads as sources (R117). -/
def operandTiles (src dst : List Nat) : List (Nat × Bool) :=
  (dst.map fun t => (t, true)) ++ (src.filter fun t => !(dst.any (· == t))).map fun t => (t, false)

/-- TAKE_GRANT (R119): pending takes whose conflicts have ended are granted. -/
def execTakeGrant (c : Nat) (s : State) : Host.Outcome State Fault Refusal := .next (s.putSeat c (s.seat c).grants)

end Sys2Proof.Machine
end

