-- ==== Sys2Proof/Machine/Commands.lean ====
section
/-! DEFINITION. Commands of the engine slot at issue (R335 to R358): what they capture, check and take. -/

namespace Sys2Proof.Machine

/-- What a command captures of its stream (R56, R335). -/
def originOf (s : State) : Origin :=
  let y := s.cst
  { sec := s.cur.sec, bundle := s.cur.pc, slot := s.cur.slot, launch := y.task.map Task.launch,
    wid := match y.task with | some t => t.wid | none => 0,
    kseed := y.sys.kseed, ktens := y.sys.ktens, kstep := y.sys.kstep, kwen := y.sys.kwen,
    det := match y.task with | some t => t.det | none => false,
    sup := y.sys.sup, replay := y.sys.replay, pairs := y.bankPairs, exb := y.sys.exb }

/-- The geometry set of the stream under way. -/
def curSet (s : State) (g : BitVec 4) : List Word := s.cst.regs.gset g.toNat

/-- Writes back CRNEXT and STAMP of a set (R100). -/
def putSet (s : State) (g : BitVec 4) (set : List Word) : State :=
  let y := s.cst
  let r := (y.regs.setG g.toNat 0 (nth 0 set 0)).setG g.toNat 5 (nth 0 set 5)
  s.putCst { y with regs := r }

/-- Places held on a core (R337): commands of its seat that count. -/
def placesHeld (s : State) (c : Nat) : Nat := ((s.seat c).cmds.filter Cmd.place).length

/-- A new command, not yet begun. -/
def newCmd (s : State) (kind : CKind) (set : List Word) (a b : Word) : Cmd :=
  { id := s.nextId, kind := kind, org := originOf s, set := set, a := a, b := b, x := 0, e := 0, bytes := [], tiles := [], cut := false, olds := [],
    crec := recOf set, place := true, after := [], next := 0, crc := 0xFFFFFFFF, flags := 0, status := 0, cause := 0,
    byte3 := 0, sum := 0, phase := 0 }

/-- The command joins its core's commands. -/
def addCmd (k : Cmd) (s : State) : State :=
  let c := s.cur.core
  let x := (s.seat c).takeTiles k.id s.cycle k.tiles
  { s.putSeat c { x with cmds := x.cmds ++ [k] } with nextId := s.nextId + 1 }

/-- The unit code of a command in fault records (R336). -/
def CKind.unit (k : CKind) : Nat :=
  match k with
  | .ratom _ _ => 3
  | .kilnw => 3
  | .efence => 3
  | _ => 0

/-- A command that completes at issue with a record (R94, R95). -/
def endNow (k : Cmd) (status : Nat) (s : State) : State :=
  if k.crec.none then s
  else
    settle (addRec (.cmd s.cur.core k.id) (s.ctxOf s.cur.core) s.cur.core k.org k.kind.unit k.crec.addr (recLo status 0 0 0 0) k.crec.stamp s)

/-- Commands of the stream under way whose records are not written yet, those that completed at issue among them: identity
and unit code. -/
def recIds (s : State) : List (Nat × Nat) :=
  s.recs.filterMap fun j =>
    match j.owner with
    | .cmd c id => if c = s.cur.core ∧ j.ctx = s.ctxOf c ∧ j.org.sec = s.cur.sec then some (id, j.unit) else none
    | _ => none

/-- The scratchpad tiles of a copy's sides (R94). -/
def copyTiles (g : Geo) (a b : Nat) (dst : Bool) : List (Nat × Bool) :=
  let side := fun src (op : Nat) => let f := g.foot src op; tilesBetween f.1 f.2
  operandTiles (if g.ssp = 1 then side true a else []) (if dst && decide (g.dsp = 1) then side false b else [])

/-- Commands of the stream that a CPYC waits for (R343). -/
def chainIds (s : State) : List Nat :=
  ((s.seat s.cur.core).cmds.filter fun k => decide (k.org.sec = s.cur.sec) &&
    match k.kind with
    | .cpy => true
    | .cpyc => true
    | .fsend => true
    | .fmcast => true
    | .fred _ _ => true
    | .gangMsg => true
    | .digest => true
    | _ => false).map Cmd.id ++ ((recIds s).filter fun e => decide (e.2 = 0)).map fun e => e.1

/-- R95, R94: a copy-like command issues: DESC, OWNER, or its takes. `extra` holds the command's own checks. -/
def issueCopy (kind : CKind) (a b : RegF) (g : BitVec 4) (extra : Geo → Word → Bool) (dst : Bool) (s : State) : State :=
  let set := curSet s g
  let va := rdS s a
  let vb := rdS s b
  let k := { newCmd s kind set va vb with after := if kind = .cpyc then chainIds s else [] }
  let s1 := putSet s g (advanceSet set)
  match geoOf set with
  | none => endNow k stDESC s1
  | some geo =>
    if geo.ok va.toNat (if dst then vb.toNat else 0) = false ∨ extra geo vb = false then endNow k stDESC s1
    else
      let ts := copyTiles geo (va.toNat % 2 ^ 23) (vb.toNat % 2 ^ 23) dst
      if (s.seat s.cur.core).barred (ts.map fun t => t.1) then endNow k stOWNER s1
      else addCmd { k with tiles := ts } s1

/-- CPY (R343). -/
def execCpy (a b : RegF) (g : BitVec 4) (s : State) : Host.Outcome State Fault Refusal :=
  runSlot [a, b] (.ok (issueCopy .cpy a b g (fun _ _ => true) true s)) s

/-- CPYC (R343): moves no byte until the earlier copies, sends and digests of its stream have completed. -/
def execCpyc (a b : RegF) (g : BitVec 4) (s : State) : Host.Outcome State Fault Refusal :=
  runSlot [a, b] (.ok (issueCopy .cpyc a b g (fun _ _ => true) true s)) s

/-! ## Gang messages (R349) -/

/-- The members of the issuing stream's gang, if it runs in one. -/
def gangOf (s : State) (c : Nat) : Option Gang :=
  match (s.seat c).prim.task with
  | some t => match t.gang with | some g => Tab.find s.gangs g | none => none
  | none => none

/-- The core and offset of the data-scratchpad window of the stream's own context that a virtual page reaches. -/
def windowPage (s : State) (p : Int) : Option (Nat × Int × Nat) :=
  match xlate s (s.ctxOf s.cur.core) (originOf s) (4096 * p % (2 ^ 64 : Int)).toNat .write with
  | .error _ => none
  | .ok l =>
    let a := l.phys % 2 ^ 44
    if l.phys / 2 ^ 44 = s.pkg ∧ rowOf a = some .data ∧ l.dctx = s.ctxOf s.cur.core then some (winCore a, p, winOffset a) else none

/-- The member whose data-scratchpad window the whole destination footprint reaches, and where its pages lie there (R349). -/
def gangTarget (s : State) (geo : Geo) (vb : Word) : Option (Nat × List (Int × Nat)) :=
  match gangOf s s.cur.core with
  | none => none
  | some gg =>
    let fs := geo.foot true 0
    let fd := geo.foot false (vb.toNat : Int)
    if s.cur.sec ∨ geo.sfmt ≠ geo.dfmt ∨ 256 ≤ fs.2 - fs.1 ∨ 256 ≤ fd.2 - fd.1 then none
    else
      let ps := (pagesIn fd.1 fd.2).map (windowPage s)
      match ps.head? with
      | some (some z) =>
        if gg.cores.any (· == z.1) ∧ ps.all fun p => decide (p.map (fun q => q.1) = some z.1) then some (z.1, ps.filterMap fun p => p.map fun q => q.2)
        else none
      | _ => none

/-- FSEND's own checks (R346). -/
def sendOk (geo : Geo) (_ : Word) : Bool := decide (geo.ssp = 1) && decide (geo.dsp = 0)

/-- Deterministic mode: the owner states a load's bytes must not meet (R121, R212). -/
def detBars (s : State) (a n : Nat) (store : Bool) : Bool :=
  let y := s.cst
  let det := match y.task with | some t => t.det | none => false
  let x := s.cur.ahead.getD (s.seat s.cur.core)
  det && !s.cur.trial && (tilesOf a n).any fun t =>
    match x.ownerFor t s.cycle with
    | .core => false
    | .mbx => false
    | .engR => store
    | _ => true

/-- A gang message joins the messages on their way: it samples at its sender's next tick and lands at the receiver's tick
sixteen after the sender's (R349). `d`: the receiver and the pages that the destination reaches. -/
def issueMsg (k : Cmd) (d : Nat × List (Int × Nat)) (s : State) : State :=
  let c := s.cur.core
  let x := s.seat c
  let y := x.prim
  let m : GMsg := ⟨k.id, c, d.1, d.2, y.sys.ticks - 1 + 16, [], false⟩
  let x := x.putSt false { y.pushAcc ⟨y.seq, 1, 1, false, s.cycle, s.cur.pc, 7, .msgSample k.id⟩ with seq := y.seq + 1 }
  { s.putSeat c { x with cmds := x.cmds ++ [{ k with kind := .gangMsg }], msgs := x.msgs ++ [m] } with nextId := s.nextId + 1 }

/-- FSEND (R346), or a gang message, whose source is sampled as a core load (R349). -/
def execFsend (a b : RegF) (g : BitVec 4) (s : State) : Host.Outcome State Fault Refusal :=
  let set := curSet s g
  let vb := rdS s b
  let msg := match geoOf set with
    | some geo => if geo.ok (rdS s a).toNat vb.toNat && sendOk geo vb then gangTarget s geo vb else none
    | none => none
  match msg with
  | some d =>
    let k := newCmd s .fsend set (rdS s a) vb
    runSlot [a, b]
      (if (msgReads k).any (fun e => detBars s e.1 e.2 false) then .error (tcOWNVIOL, 0)
       else .ok (issueMsg k d (putSet s g (advanceSet set)))) s
  | none => runSlot [a, b] (.ok (issueCopy .fsend a b g sendOk true s)) s

/-- FMCAST (R346): group number in S(b), destination footprint from base 0 of at most 1 MiB. -/
def mcastOk (geo : Geo) (vb : Word) : Bool :=
  let f := geo.foot false 0
  decide (geo.ssp = 1) && decide (vb.toNat < 64) && decide (f.2 - f.1 < 2 ^ 20)

def execFmcast (a b : RegF) (g : BitVec 4) (s : State) : Host.Outcome State Fault Refusal :=
  runSlot [a, b] (.ok (issueCopy .fmcast a b g mcastOk false s)) s

/-- The format code of an AFmt (R346). -/
def afmtElem (f : AFmt) : EFmt :=
  match f with
  | .fp32 => .fp32
  | .bf16 => .bf16
  | .int32 => .i32
  | .int64 => .i64
  | .fx128 => .fx128

/-- FRED's own checks (R346). -/
def fredOk (f : AFmt) (geo : Geo) (_ : Word) : Bool :=
  decide (geo.ssp = 1) && decide (geo.dsp = 0) && decide (geo.sfmt = afmtElem f) && decide (geo.dfmt = afmtElem f)
    && match geo.dims with
      | [d] => decide (d.2.2 = ((afmtSize f : Nat) : Int))
      | _ => false

/-- FRED (R346). -/
def execFred (a b : RegF) (op : AOp) (f : AFmt) (g : BitVec 4) (s : State) : Host.Outcome State Fault Refusal :=
  runSlot [a, b] (.ok (issueCopy (.fred op f) a b g (fredOk f) true s)) s

/-! ## RATOM, KILNW, DIGEST, EFENCE (R350, R354, R356, R357) -/

/-- R338: the check of a set's record fields. -/
def recCheck (set : List Word) (body : SlotRes) : SlotRes := if nocr set || recOk set then body else .error (tcILLI, 0)

/-- The field one above, for the odd half of a pair (R177). -/
def oddOf (b : RegF) : RegF := b + 1

/-- RATOM (R350). -/
def execRatom (a b : RegF) (op : AOp) (f : AFmt) (g : BitVec 4) (s : State) : Host.Outcome State Fault Refusal :=
  let set := curSet s g
  let va := rdS s a
  let size := afmtSize f
  let lo := (rdS s b).toNat
  let hi := (rdS s (oddOf b)).toNat
  let x := (if f = .fx128 then lo + hi * 2 ^ 64 else lo) % 2 ^ (8 * size)
  let k := { newCmd s (.ratom op f) set va (rdS s b) with x := x, e := hi % 2 ^ (8 * size) }
  let s1 := putSet s g (advanceSet set)
  let det := k.org.det && decide (op = .add) && (decide (f = .fp32) || decide (f = .bf16))
  let iorg := setDw set 2
  runSlot [a, b]
    (if va.toNat % size ≠ 0 then .error (tcALIGN, 0)
     else recCheck set
       (.ok (if det then endNow k stMISMATCH s1
             else if bitN iorg 63 = false ∧ iorg % size ≠ 0 then endNow k stDESC s1
             else addCmd k s1))) s

/-- The (entry, tag) pairs of a Kiln record: up to eight valid tagged entries in ascending index (R354). -/
def kilnPairs (y : Ctx) : List (Nat × Nat) :=
  ((List.range 64).filterMap fun i =>
    let w := y.rngDw i 0
    if bitN w 0 ∧ bitN w 5 then some (i, y.rngDw i 5 / 2 ^ (16 * b2n (bitN w 6)) % 2 ^ 16) else none).take 8

/-- The 256 bytes of a Kiln record (R402). -/
def kilnBytes (ts : List W32) (ktens kstep : W32) (ps : List (Nat × Nat)) : List Byte :=
  let pw := (List.range 8).flatMap fun i =>
    leBytes 4 (match ps[i]? with | some p => p.1 % 64 + 2 ^ 15 + p.2 % 2 ^ 16 * 2 ^ 16 | none => 0)
  let b := ts.flatMap (fun w => leBytes 4 w.toNat) ++ leBytes 4 ktens.toNat ++ leBytes 4 kstep.toNat ++ leBytes 1 ps.length
    ++ leBytes 7 0 ++ pw ++ leBytes 4 0x4E4C494B ++ leBytes 4 1 ++ List.replicate 132 (0 : Byte)
  b ++ leBytes 4 (crc32c b)

/-- KILNW (R354). -/
def execKilnw (a : RegF) (s : State) : Host.Outcome State Fault Refusal :=
  let va := rdS s a
  let y := s.cst
  let k := newCmd s .kilnw [] va 0
  let bs := kilnBytes ((List.range 16).map y.regs.getTs) y.sys.ktens y.sys.kstep (kilnPairs (s.ctx (s.ctxOf s.cur.core)))
  runSlot [a]
    (if va.toNat % 256 ≠ 0 then .error (tcALIGN, 0)
     else .ok (addCmd { k with bytes := bs, crec := ⟨true, 0, 0, 0⟩ } s)) s

/-- DIGEST (R356, R338). -/
def execDigest (a b : RegF) (g : BitVec 4) (s : State) : Host.Outcome State Fault Refusal :=
  let set := curSet s g
  let iorg := setDw set 2
  let k := newCmd s .digest set (rdS s a) (rdS s b)
  let s1 := putSet s g (advanceSet set)
  let bad := (!nocr set && !recOk set) || bitN iorg 63 || decide (iorg % 32 ≠ 0) || decide (2 ^ 40 < (rdS s b).toNat)
  runSlot [a, b] (.ok (if bad then endNow k stDESC s1 else addCmd k s1)) s

/-- Everything an EFENCE awaits of its stream (R358): its commands, routines, collectives and headers. -/
def fenceIds (s : State) : List Nat :=
  let c := s.cur.core
  let t := s.cur.sec
  let x := s.seat c
  ((x.cmds.filter fun k => decide (k.org.sec = t)).map Cmd.id) ++ ((recIds s).map fun e => e.1) ++ ((x.mxe.queue.filter fun r => decide (r.org.sec = t)).map Routine.id)
    ++ ((s.colls.filter fun k => decide (k.core = c) && decide (k.org.sec = t) && decide (k.ctx = s.ctxOf c)).map Coll.id)
    ++ ((s.spawns.filter fun k => decide (k.core = c) && decide (k.org.sec = t) && decide (k.ctx = s.ctxOf c)).map Spawn.id)

/-- EFENCE (R357): its own scope replaces the set's. -/
def execEfence (g : BitVec 4) (sc : Scope) (s : State) : Host.Outcome State Fault Refusal :=
  let set := curSet s g
  let k := newCmd s .efence set 0 0
  let sco := match sc with | .core => 0 | .die => 1 | .package => 2 | .group => 3 | .system => 4
  runSlot []
    (recCheck set (.ok (addCmd { k with after := fenceIds s, crec := { k.crec with scope := sco } } (putSet s g (advanceSet set))))) s

/-! ## GSTART, TARM (R344, R345) -/

/-- GSTART (R344). -/
def execGstart (a b : RegF) (q : BitVec 2) (s : State) : Host.Outcome State Fault Refusal :=
  let c := s.cur.core
  let x := s.seat c
  let n := q.toNat
  let gq := x.q n
  let va := (rdS s a).toNat
  let cnt := (rdS s b).toNat
  let tiles := tilesOf va (8 * cnt)
  let w := gq.gqc.toNat
  let gs : GStart := ⟨s.nextId, va, cnt, 0, gq.gqb, gq.gqc, gq.gql, tiles.map fun t => (t, false), originOf s⟩
  let x1 := x.takeTiles s.nextId s.cycle (tiles.map fun t => (t, false))
  runSlot [a, b]
    (if va % 8 ≠ 0 ∨ spadSize < va + 8 * cnt then .error (tcALIGN, 0)
     else if gq.en = false ∨ (bitN w 9 = false ∧ w / 2 ^ 10 % 64 ≠ 0) ∨ gq.gs.isSome then .error (tcQERR, 0)
     else if cnt = 0 then .ok s
     else if x.barred tiles then .error (tcOWNVIOL, 0)
     else .ok { s.putSeat c (x1.putQ n { gq with gs := some gs }) with nextId := s.nextId + 1 }) s

/-- TARM (R345). -/
def execTarm (a b : RegF) (g : BitVec 4) (s : State) : Host.Outcome State Fault Refusal :=
  let c := s.cur.core
  let x := s.seat c
  let set := curSet s g
  let va := (rdS s a).toNat
  let n := (rdS s b).toNat
  let t0 := va / 4096
  let cnt := (n + 4095) / 4096
  let tiles := (List.range cnt).map (t0 + ·)
  runSlot [a, b]
    (if va % 4096 ≠ 0 ∨ n = 0 ∨ 1536 < t0 + cnt then .error (tcALIGN, 0)
     else if tiles.any fun t => decide ((x.tile t).st ≠ .core) || x.takes.any fun k => decide (k.tile = t) then
       .error (tcOWNVIOL, 0)
     else if 64 ≤ x.armings.length then .error (tcQERR, 0)
     else recCheck set
       (.ok (let x := tiles.foldl (fun x t => x.putTile t { x.tile t with st := .fab }) x
             let s1 := s.putSeat c { x with armings := x.armings ++ [⟨t0, n, cnt, 0, recOf set, originOf s⟩] }
             putSet s1 g (advanceSet set)))) s

/-! ## GSET, CHW, KILNR (R342, R351, R355) -/

/-- GSET (R342). -/
def execGset (a : RegF) (g : BitVec 4) (s : State) : Host.Outcome State Fault Refusal :=
  let va := (rdS s a).toNat
  runSlot [a]
    (if va % 64 ≠ 0 ∨ spadSize < va + 192 then .error (tcALIGN, 0)
     else if detBars s va 192 false then .error (tcOWNVIOL, 0)
     else .ok (pend (.loadG g.toNat va) 1 2 false s)) s

/-- CHW (R351). -/
def execChw (a : RegF) (ch : BitVec 12) (s : State) : Host.Outcome State Fault Refusal :=
  let va := (rdS s a).toNat
  runSlot [a]
    (if va % 64 ≠ 0 ∨ spadSize < va + 64 then .error (tcALIGN, 0)
     else if detBars s va 64 false then .error (tcOWNVIOL, 0)
     else .ok (pend (.loadCh ch.toNat va) 1 2 false s)) s

/-- KILNR (R355): with bit 63 set, leaves replay at tick t + 2. -/
def execKilnr (a : RegF) (s : State) : Host.Outcome State Fault Refusal :=
  let w := rdS s a
  let va := w.toNat
  runSlot [a]
    (if bitN va 63 then .ok (land (.kiln none) 0 2 s)
     else if va % 256 ≠ 0 ∨ spadSize < va + 256 then .error (tcALIGN, 0)
     else if detBars s va 256 false then .error (tcOWNVIOL, 0)
     else .ok (pend (.loadKiln va) 1 2 false s)) s

/-! ## SPAWN (R353, R51) -/

/-- SPAWN. -/
def execSpawn (a : RegF) (s : State) : Host.Outcome State Fault Refusal :=
  let va := (rdS s a).toNat
  let y := s.cst
  let o := originOf s
  let c := krg (keyOf y.sys.kseed.toNat y.sys.ktens.toNat y.sys.kstep.toNat) (ctrSpawn o.wid.toNat y.sys.spawnc.toNat)
  let sp : Spawn := ⟨s.nextId, s.ctxOf s.cur.core, s.cur.core, o, va, BitVec.ofNat 64 c, y.sys.kstep⟩
  runSlot [a]
    (if va % 128 ≠ 0 then .error (tcALIGN, 0)
     else .ok { s.putCst { y with sys := { y.sys with spawnc := y.sys.spawnc + 1 } } with
                spawns := s.spawns ++ [sp], nextId := s.nextId + 1 }) s

end Sys2Proof.Machine
end

