-- ==== Sys2Proof/Machine/Fabric.lean ====
section
/-! DEFINITION. The fabric (11): flits, ports, packets, routes, responses, reduction rounds and the time base. -/

namespace Sys2Proof.Machine

/-! ## Packets on the wire (R284, R285) -/

def kindCode (k : PKind) : Nat :=
  match k with
  | .write => 1
  | .readreq => 2
  | .readdata => 3
  | .reduce => 4
  | .atomic => 5
  | .atomicdata => 6
  | .ack => 7
  | .mcwrite => 8
  | .chunk => 9
  | .time => 10

def kindOf (n : Nat) : Option PKind :=
  match n with
  | 1 => some .write
  | 2 => some .readreq
  | 3 => some .readdata
  | 4 => some .reduce
  | 5 => some .atomic
  | 6 => some .atomicdata
  | 7 => some .ack
  | 8 => some .mcwrite
  | 9 => some .chunk
  | 10 => some .time
  | _ => none

/-- Bytes 27:0 of the header. -/
def headBytes (p : Packet) : List Byte :=
  leBytes 1 (kindCode p.kind) ++ leBytes 1 (p.vc % 4 + b2n p.det * 4 + p.hops % 8 * 8) ++ leBytes 1 (p.dctx % 16)
    ++ leBytes 1 p.status ++ leBytes 2 p.len ++ leBytes 2 (p.srcPkg % 2 ^ 12) ++ leBytes 1 p.srcCore
    ++ leBytes 1 (p.op % 8 + p.fmt % 8 * 8) ++ leBytes 1 (p.frac % 128) ++ leBytes 1 0 ++ leBytes 4 p.tag ++ leBytes 8 p.addr
    ++ leBytes 4 (p.group % 64)

/-- The packet as it travels. -/
def packetBytes (p : Packet) : List Byte :=
  headBytes p ++ leBytes 4 (crc32c (headBytes p ++ p.payload)) ++ p.payload

/-- Is the kind one of R290's requests? -/
def isRequest (k : PKind) : Bool :=
  match k with
  | .write => true
  | .readreq => true
  | .reduce => true
  | .atomic => true
  | .mcwrite => true
  | _ => false

/-- R284: a packet read from its bytes; none for a KIND outside R285, a nonzero zero field or a bad check. -/
def parsePacket (bs : List Byte) : Option Packet :=
  let f := fun i n => leNat ((bs.drop i).take n)
  match kindOf (f 0 1) with
  | none => none
  | some k =>
    let n := if k = .readreq then 0 else f 4 2
    let pay := (bs.drop 32).take n
    if bs.length < 32 + n ∨ 2048 < f 4 2 ∨ f 1 1 / 64 ≠ 0 ∨ f 2 1 / 16 ≠ 0 ∨ f 6 2 / 2 ^ 12 ≠ 0 ∨ f 9 1 / 64 ≠ 0
        ∨ f 10 1 / 128 ≠ 0 ∨ f 11 1 ≠ 0 ∨ f 16 8 / 2 ^ 56 ≠ 0 ∨ f 24 4 / 64 ≠ 0
        ∨ (isRequest k ∧ f 3 1 ≠ 0) ∨ (k ≠ .mcwrite ∧ f 24 4 ≠ 0) ∨ crc32c (bs.take 28 ++ pay) ≠ f 28 4 then none
    else
      some { kind := k, vc := f 1 1 % 4, det := bitN (f 1 1) 2, hops := f 1 1 / 8 % 8, dctx := f 2 1, status := f 3 1,
             len := f 4 2, srcPkg := f 6 2, srcCore := f 8 1, op := f 9 1 % 8, fmt := f 9 1 / 8, frac := f 10 1,
             tag := f 12 4, addr := f 16 8, group := f 24 4, payload := pay }

/-- The step that a delivered packet is. -/
def packetStep (port : Nat) (p : Packet) : Instr :=
  match p.kind with
  | .write => .write p
  | .readreq => .readreq p
  | .readdata => .readdata p
  | .reduce => .reduce p
  | .atomic => .atomic p
  | .atomicdata => .atomicdata p
  | .ack => .ack p
  | .mcwrite => .mcwrite p
  | .time => .time port p
  | .chunk =>
    let w := leNat (p.payload.take 2)
    if bitN w 13 then .abortMarker p else if bitN w 14 then .creditReturn p else .chunk p

def State.drop1 (s : State) : State := s.bump oFSTAT 32 32 1

/-! ## Flits (R281, R282) -/

def State.port (s : State) (i : Nat) : Port := Tab.get Port.reset s.ports i

def State.putPort (s : State) (i : Nat) (q : Port) : State := { s with ports := Tab.put s.ports i q }

/-- A flit of R281. -/
def flitBytes (seq vc : Nat) (first last : Bool) (ackSeq : Nat) (nak : Bool) (bs : List Byte) : List Byte :=
  let b := leBytes 2 (seq % 4096 + vc % 4 * 2 ^ 12 + b2n first * 2 ^ 14 + b2n last * 2 ^ 15)
    ++ leBytes 2 (ackSeq % 4096 + b2n nak * 2 ^ 15) ++ bs ++ List.replicate (248 - bs.length) 0
  b ++ leBytes 4 (crc32c b)

/-- A packet cut into flits from sequence number `seq` on; NAK stands in the first. -/
def flitsOf (vc ackSeq : Nat) (nak : Bool) : Nat → Nat → Bool → List Byte → List (List Byte)
  | 0, _, _, _ => []
  | f + 1, seq, first, bs =>
    let last := decide (bs.length ≤ 248)
    flitBytes seq vc first last ackSeq nak (bs.take 248) ::
      (if last then [] else flitsOf vc ackSeq false f (seq + 1) false (bs.drop 248))

/-- Flits of a packet. -/
def flitCount (p : Packet) : Nat := (32 + p.payload.length + 247) / 248

/-- Has the port's replay buffer room for the packet (R282 item 1)? -/
def Port.room (q : Port) (p : Packet) : Bool := decide (q.replay.length + flitCount p ≤ 1024)

/-- A packet leaves through a port: its flits enter the replay buffer, the first carries a NAK that is due (R282). -/
def sendOn (i : Nat) (p : Packet) (s : State) : State :=
  let q := s.port i
  let fs := flitsOf p.vc ((q.recvSeq + 4095) % 4096) q.nak 10 q.sendSeq true (packetBytes p)
  s.putPort i { q with sendSeq := (q.sendSeq + fs.length) % 4096, replay := q.replay ++ fs, sent := q.sent + fs.length,
                       nak := false, ackCyc := if q.replay.isEmpty then s.cycle else q.ackCyc }

/-- The ACK field of an accepted flit (R282): acknowledged flits leave the replay buffer; NAK resends the others, and counts as
one more failure of the oldest. -/
def takeAck (q : Port) (w cyc : Nat) : Port :=
  let first := (q.sendSeq + 4096 - q.replay.length) % 4096
  let k := (w % 4096 + 1 + 4096 - first) % 4096
  let q := if 0 < k ∧ k ≤ q.replay.length then
      { q with replay := q.replay.drop k, sent := q.sent - k, fails := 0, ackCyc := cyc }
    else q
  if bitN w 15 then { q with sent := 0, fails := q.fails + 1 } else q

/-- Does a multicast of another group's package enter its destination group here (R292)? A copy that was made here or at another
member carries op 1 (log entry 18). -/
def entersGroup (s : State) (p : Packet) : Bool :=
  Config.twoLevel && decide (p.kind = .mcwrite) && decide (p.op = 0) && decide (p.srcPkg / 64 ≠ s.pkg / 64)
    && decide (p.addr / 2 ^ 44 / 64 = s.pkg / 64)

/-- R289: a packet that has crossed a link is delivered, forwarded, or discarded at its fourth hop. A delivered packet's step comes
next. A REDUCE of this package that comes back has found no room (R297). -/
def delivered (port : Nat) (p : Packet) (s : State) : State :=
  if p.kind = .time ∨ entersGroup s p = true ∨ (p.kind = .reduce ∧ p.srcPkg = s.pkg)
      ∨ bitN (s.reg (routeOff (p.addr / 2 ^ 44 % 4096))).toNat 30 = true then
    { s with agenda := packetStep port p :: s.agenda }
  else if 4 ≤ p.hops then s.drop1
  else { s with agenda := s.agenda ++ [.packetForward p], outbox := s.outbox ++ [p] }

/-- FLIT (R281, R282): accepted if its CRC is good and its SEQ is the next; otherwise discarded. The first discard asks for a NAK
in the next flit that leaves, and so does every flit that fails its CRC: it may be one that was sent again. A good flit out of
sequence after the first discard was on its way before the NAK and asks for none. -/
def execFlit (port : Nat) (bytes : List Byte) (s : State) : Host.Outcome State Fault Refusal :=
  let q := s.port port
  let w := leNat (bytes.take 2)
  let bad := decide (bytes.length ≠ 256) || decide (crc32c (bytes.take 252) ≠ leNat (bytes.drop 252))
  if q.up = false then .next s
  else if bad ∨ w % 4096 ≠ q.recvSeq then
    .next (s.putPort port { q with nak := q.nak || !q.gap || bad, gap := true })
  else
    let vc := w / 2 ^ 12 % 4
    let have_ := if bitN w 14 then [] else Tab.get [] q.asm vc
    let got := have_ ++ (bytes.drop 4).take 248
    let q := takeAck { q with recvSeq := (q.recvSeq + 1) % 4096, nak := false, gap := false } (leNat ((bytes.drop 2).take 2)) s.cycle
    let s' := s.putPort port { q with asm := if bitN w 15 then Tab.del q.asm vc else Tab.put q.asm vc got }
    if bitN w 15 then
      match parsePacket got with
      | none => .next s'.drop1
      | some p => .next (delivered port p s')
    else .next s'

/-- R282 item 5: has the port failed? -/
def Port.failed (q : Port) (cyc : Nat) : Bool :=
  decide (8 ≤ q.fails) || (!q.replay.isEmpty && decide (65536 ≤ cyc - q.ackCyc))

/-- PORT_DOWN (R283): what had not fully crossed is discarded at this end. -/
def execPortDown (port : Nat) (s : State) : Host.Outcome State Fault Refusal :=
  let q := s.port port
  if q.up && q.failed s.cycle then
    .next (s.putPort port { q with up := false, replay := [], sent := 0, asm := [], nak := false, gap := false, fails := 0, hop := none,
                                   timeDue := false })
  else .next s

/-- PORT_UP (R283): system software has retrained the port. -/
def execPortUp (port : Nat) (s : State) : Host.Outcome State Fault Refusal :=
  if (s.port port).up then .next s else .next (s.putPort port { Port.reset with up := true, ackCyc := s.cycle })

/-! ## Routes (R288, R289) -/

/-- The valid ports of a route entry that are up: PRI, ALT1, ALT2. -/
def routePorts (s : State) (d : Nat) : List Nat :=
  let w := (s.reg (routeOff d)).toNat
  let c := [w % 128] ++ (if bitN w 15 then [w / 2 ^ 8 % 128] else []) ++ (if bitN w 23 then [w / 2 ^ 16 % 128] else [])
  if bitN w 31 ∧ s.flag oFCFG 12 then c.filter fun i => (s.port i).up else []

/-- The port with the fewest queued flits, those of its replay buffer; of several the first of PRI, ALT1, ALT2 (log entry 81). -/
def leastPort (s : State) : List Nat → Option Nat
  | [] => none
  | i :: is =>
    match leastPort s is with
    | none => some i
    | some j => if (s.port i).replay.length ≤ (s.port j).replay.length then some i else some j

/-- The 256-byte lines that a packet is for: the first and the last. -/
def linesOf (p : Packet) : Nat × Nat := (p.addr / 256, (p.addr + max (max p.len p.payload.length) 1 - 1) / 256)

/-- Must a later packet of a request kind, for the lines `l`, follow an earlier one of its source core (R289)? A VC 0 packet
follows any to one of its lines. -/
def follows (src core vc dst : Nat) (l : Nat × Nat) (src' core' vc' dst' : Nat) (l' : Nat × Nat) : Bool :=
  decide (src = src') && decide (core = core')
    && (if vc = 0 then decide (l.1 ≤ l'.2) && decide (l'.1 ≤ l.2) else decide (vc = 2) && decide (vc' = 2) && decide (dst = dst'))

/-- The ways to which R289 binds a request: those of the earlier packets which are still unacknowledged. -/
def bindsOf (s : State) (p : Packet) : List Bind :=
  if isRequest p.kind then
    s.binds.filter fun b => decide (b.tag ≠ p.tag) && follows p.srcPkg p.srcCore p.vc (p.addr / 2 ^ 44) (linesOf p) b.src b.core b.vc b.dst (b.lo, b.hi)
  else []

/-- Does an older packet that must go first still stand before this one? -/
def behindOlder (s : State) (p : Packet) : Bool :=
  isRequest p.kind && (s.outbox.takeWhile (· != p)).any fun o =>
    isRequest o.kind && follows p.srcPkg p.srcCore p.vc (p.addr / 2 ^ 44) (linesOf p) o.srcPkg o.srcCore o.vc (o.addr / 2 ^ 44) (linesOf o)

/-- The port a packet takes (R289); none where it must wait: the packets it follows went through several ports, or through one
that is no longer up, and are not all acknowledged (R291). `c`: the valid ports that are up. -/
def choosePort (s : State) (c : List Nat) (p : Packet) : Option Nat :=
  match bindsOf s p with
  | [] => if p.vc = 0 then leastPort s c else c.head?
  | b :: bs => if c.any (· == b.port) && bs.all (fun e => decide (e.port = b.port)) then some b.port else none

/-- A packet leaves through port `i`. A request binds those that must follow it; a response frees them (R289). -/
def sendBound (i : Nat) (p : Packet) (s : State) : State :=
  let l := linesOf p
  let s := if isRequest p.kind then
      { s with binds := ⟨p.srcPkg, p.srcCore, p.tag, p.vc, p.addr / 2 ^ 44, l.1, l.2, i, s.cycle⟩ :: s.binds,
               reqs := s.reqs.map fun q => if q.tag = p.tag ∧ p.srcPkg = s.pkg ∧ q.res.isNone then { q with port := some i } else q }
    else unbind (p.addr / 2 ^ 44) p.srcPkg p.tag s
  sendOn i { p with hops := p.hops + 1 } s

/-- PACKET_FORWARD (R289): by the route entry of its destination package. A packet that has to wait keeps its place. -/
def execPacketForward (p : Packet) (s : State) : Host.Outcome State Fault Refusal :=
  let gone := { s with outbox := s.outbox.erase p }
  let c := routePorts s (p.addr / 2 ^ 44 % 4096)
  if bitN (s.reg (routeOff (p.addr / 2 ^ 44 % 4096))).toNat 30 then .next { gone with agenda := packetStep 0 p :: gone.agenda }
  else if c.isEmpty then .next gone.drop1
  else if behindOlder s p then .next s
  else
    match choosePort s c p with
    | none => .next s
    | some i => if (s.port i).room p then .next (sendBound i p gone) else .next s

/-! ## Requests that arrive and their answers (R290 to R293) -/

/-- WRITE (R291): checked, performed or rejected, and answered; a full arming flips (R124). -/
def execWrite (p : Packet) (s : State) : Host.Outcome State Fault Refusal := .next (settle (arrive { p with kind := .write } s))

/-- READREQ (R285). -/
def execReadreq (p : Packet) (s : State) : Host.Outcome State Fault Refusal := .next (settle (arrive { p with kind := .readreq } s))

/-- ATOMIC (R293). -/
def execAtomic (p : Packet) (s : State) : Host.Outcome State Fault Refusal := .next (settle (arrive { p with kind := .atomic } s))

/-- REDUCE (R297, R298, R300); one that this package sent and a Mash unit had no room for waits to be resent. -/
def execReduce (p : Packet) (s : State) : Host.Outcome State Fault Refusal :=
  if p.addr / 2 ^ 44 ≠ s.pkg then .next { s with returned := s.returned ++ [(s.cycle, p)] }
  else .next (settle (arrive { p with kind := .reduce } s))

/-- REDUCE_RESEND (R297): after at least 1 µs. -/
def execReduceResend (s : State) : Host.Outcome State Fault Refusal :=
  let due := s.returned.filter fun r => decide (r.1 + 1100 ≤ s.cycle)
  .next { s with returned := s.returned.filter (fun r => !decide (r.1 + 1100 ≤ s.cycle)),
                 outbox := s.outbox ++ due.map fun r => { r.2 with hops := 0 } }

/-- A response arrives (R290). -/
def response (p : Packet) (s : State) : State :=
  let st := if p.status = stXLAT ∧ p.frac ≠ 0 then 0x40 + p.frac else p.status
  settle (respond p.srcPkg p.tag ⟨st, p.op + 8 * p.fmt, p.payload⟩ s)

/-- READDATA (R101). -/
def execReaddata (p : Packet) (s : State) : Host.Outcome State Fault Refusal := .next (response p s)

/-- ACK (R290). -/
def execAck (p : Packet) (s : State) : Host.Outcome State Fault Refusal := .next (response p s)

/-- The response limit in cycles (R288, R290): RTMO microseconds; 0 acts as 1. -/
def rtmoCycles (s : State) : Nat := max (s.fld oFCFG 40 24) 1 * 1100

/-- A way older than the response limit binds no packet any longer, at the source or at a hop (R289). -/
def fadeBinds (s : State) : State := { s with binds := s.binds.filter fun b => decide (s.cycle < b.cyc + rtmoCycles s) }

/-- RESPONSE_TIMEOUT (R290): no response within the limit. A way that is older binds no packet any longer. -/
def execResponseTimeout (tag : Nat) (s : State) : Host.Outcome State Fault Refusal :=
  let rtmo := rtmoCycles s
  .next (settle (fadeBinds { s with reqs := s.reqs.map fun q =>
    if q.tag = tag ∧ q.res.isNone ∧ q.cyc + rtmo ≤ s.cycle then { q with res := some ⟨stUNREACH, 0, []⟩ } else q }))

/-! ## Multicast (R292) -/

/-- Member bit `n` of resident multicast entry `g` (bytes 64 to 575). -/
def Ctx.member (y : Ctx) (g n : Nat) : Bool := bitN (Tab.get 0 y.mgroups (128 * g + 8 + n / 64)).toNat (n % 64)

/-- The members of a multicast group in this package's own group of packages, by this package's own resident table of context
DCTX, whatever its EN and the entry's V and RSV bits say: the source's table was checked at issue (log entry 82). -/
def groupHere (s : State) (p : Packet) : List Nat :=
  ((List.range 64).map (64 * (s.pkg / 64) + ·)).filter ((s.ctx p.dctx).member p.group)

/-- The packet as it stands for member `n`: a copy made in the destination group. -/
def castTo (p : Packet) (n : Nat) : Packet := { p with kind := .mcwrite, op := 1, addr := n * 2 ^ 44 + p.addr % 2 ^ 44 }

/-- MCWRITE (R292): performs here. The first package that it reaches in its destination group copies it on to the members there,
and performs it only if it is one of them. -/
def execMcwrite (p : Packet) (s : State) : Host.Outcome State Fault Refusal :=
  let p := { p with kind := .mcwrite }
  if entersGroup s p then
    let ms := groupHere s p
    let s := { s with outbox := s.outbox ++ (ms.filter (· != s.pkg)).map (castTo p) }
    .next (settle (if ms.any (· == s.pkg) then arrive (castTo p s.pkg) s else s))
  else .next (settle (arrive p s))

/-! ## Rounds that expire (R301) -/

/-- The missing-rank map's doublewords. -/
def mapWords (g : Group) (miss : List Nat) : List Nat :=
  (List.range ((g.n + 63) / 64)).map fun d => (miss.filter fun k => decide (k / 64 = d)).foldl (fun w k => w + 2 ^ (k % 64)) 0

/-- The write of the map by the Mash unit, doubleword by doubleword. -/
def writeMap (x gi va : Nat) (o : Origin) : List Nat → State → State
  | [], s => s
  | w :: ws, s =>
    writeMap x gi (va + 8) o ws
      (match xlate s x o va .write with
        | .error c => postFault x 0 o (BitVec.ofNat 64 va) c 1 3 0 s
        | .ok l => request ⟨.coll (1024 * x + gi) 7, .write, va, 8, 0xFF, o, 0, 0, 0, leBytes 8 w⟩ l s)

/-- ROUND_TIMEOUT (R301): the round closes, the map is written, then the record with status TIMEOUT. -/
def execRoundTimeout (x g : Nat) (s : State) : Host.Outcome State Fault Refusal :=
  match Tab.find (s.ctx x).rounds g, (s.ctx x).group g with
  | some r, some e =>
    if r.start + e.tmo * 1100 ≤ s.cycle then
      let miss := r.missing e
      let o : Origin := ⟨false, 0, 0, none, 0, 0, 0, 0, false, false, false, false, [], false⟩
      let s := dropReqs (.coll (1024 * x + g) 7) s
      let s := closeRound x g e stTIMEOUT 0 miss.length (writeMap x g e.map o (mapWords e miss) s)
      .next (settle { s with recs := s.recs.map fun j =>
        if j.n + 1 = s.nextId then { j with after := some (.coll (1024 * x + g) 7) } else j })
    else .next s
  | _, _ => .next s

/-! ## The time base across packages (R302) -/

/-- The port followed: the fewest hops to the root, the lowest number on a tie. -/
def followed (s : State) : Option (Nat × Nat) :=
  (List.range 128).foldl (fun b i =>
    match (s.port i).hop with
    | none => b
    | some h => match b with | none => some (i, h) | some c => if h < c.2 then some (i, h) else b) none

/-- This package's distance from the root; 255 where it knows of none. -/
def myHops (s : State) : Nat :=
  if s.flag oFCFG 13 then 0 else match followed s with | some c => min (c.2 + 1) 255 | none => 255

/-- The payload of a TIME packet: GTB, then the distance (log entry 17). -/
def timePayload (s : State) : List Byte := leBytes 8 s.gtb.toNat ++ leBytes 1 (myHops s)

/-- The estimated delay of a port's link: half the measured round trip; a free value before the first measure (log entries 12
and 83). -/
def linkDelay (s : State) (i : Nat) : Nat := match (s.port i).rtt with | some n => n / 2 | none => Config.linkDelay i

/-- GTBOK: a TIME packet within the last 2^24 cycles, and an estimated error of at most 4 cycles (R302). -/
def gtbOk (s : State) : Bool :=
  decide (0 < s.timeCyc) && decide (s.cycle < s.timeCyc - 1 + 2 ^ 24) && decide (-4 ≤ s.timeErr) && decide (s.timeErr ≤ 4)

def noteGtbOk (s : State) : State := s.setFld oFSTAT 0 1 (b2n (gtbOk s))

/-- Does a context exist? -/
def anyContext (s : State) : Bool := (List.range 16).any fun x => decide (s.ctxState x ≠ 0) && decide (s.ctxState x ≠ 4)

/-- TIME (R302): updates the distance and the estimated error; the first sets the GTB at start-up, before any context exists. -/
def execTime (port : Nat) (p : Packet) (s : State) : Host.Outcome State Fault Refusal :=
  let theirs := leNat (p.payload.take 8)
  let h := leNat ((p.payload.drop 8).take 1)
  let s := { s.putPort port { s.port port with hop := if h = 255 then none else some h } with timeCyc := s.cycle + 1 }
  let goal := theirs + linkDelay s port
  if s.flag oFCFG 13 then .next (noteGtbOk { s with timeErr := 0 })
  else if (followed s).any fun c => decide (c.1 = port) then
    if s.timeSet = false ∧ anyContext s = false then
      .next (noteGtbOk { s with gtb := BitVec.ofNat 64 goal, timeSet := true, timeErr := 0 })
    else .next (noteGtbOk { s with timeErr := (goal : Int) - s.gtb.toNat, timeSet := true })
  else .next (noteGtbOk s)

/-- The TIME packet of this cycle. -/
def timePacket (s : State) : Packet :=
  { kind := .time, vc := 3, det := false, hops := 0, dctx := 0, status := 0, len := 9, srcPkg := s.pkg, srcCore := 0xFF,
    op := 0, fmt := 0, frac := 0, tag := 0, addr := 0, group := 0, payload := timePayload s }

/-- One port sends its TIME packet, or keeps it for a cycle with room in its replay buffer. -/
def sendTime (s : State) (i : Nat) : State :=
  let q := s.port i
  if q.up = false then s
  else if q.room (timePacket s) then sendOn i (timePacket s) (s.putPort i { q with timeDue := false })
  else s.putPort i { q with timeDue := true }

/-- TIME_SEND (R302): every 65,536 cycles each up port sends its GTB and distance. -/
def execTimeSend (s : State) : Host.Outcome State Fault Refusal :=
  .next (((List.range 128).filter fun i => decide (s.cycle % 65536 = 0) || (s.port i).timeDue).foldl sendTime s)

/-- GTB_CORRECTION (R302 item 4): the cycle adds 2 or 0, at most once every 1,024 cycles. -/
def execGtbCorrection (up : Bool) (s : State) : Host.Outcome State Fault Refusal :=
  if s.flag oFCFG 13 = false ∧ s.corrCyc ≤ s.cycle ∧ (if up then 0 < s.timeErr else s.timeErr < 0) then
    .next (noteGtbOk { s with gtbStep := if up then 2 else 0, corrCyc := s.cycle + 1024, timeErr := if up then s.timeErr - 1 else s.timeErr + 1 })
  else .next s

/-- GTBOK_LOSS (R302): no TIME packet within 2^24 cycles. -/
def execGtbokLoss (s : State) : Host.Outcome State Fault Refusal :=
  if s.flag oFSTAT 0 ∧ gtbOk s = false then .next (s.setFld oFSTAT 0 1 0) else .next s

/-- A port resends after a NAK: by the end of the cycle every flit of its replay buffer is on its way again (R282 item 3). -/
def resend (s : State) : State :=
  { s with ports := s.ports.map fun e => (e.1, { e.2 with sent := e.2.replay.length }) }

end Sys2Proof.Machine
end

