-- ==== Sys2Proof/Machine/Copy.lean ====
section
/-! DEFINITION. The engines of a core at work (04, 13): copies and sends chunk by chunk, atomics, Kiln records, digests and
fences, their completion records. -/

namespace Sys2Proof.Machine

/-! ## Finding a command -/

/-- The context whose seat on core `c` holds command `id`. -/
def cmdHome (s : State) (c id : Nat) : Option Nat :=
  let here := fun x => (s.seatOf x c).cmds.any fun k => decide (k.id = id)
  match (s.core c).owner with
  | some x => if here x then some x else (s.ctxs.map fun e => e.1).find? here
  | none => (s.ctxs.map fun e => e.1).find? here

def cmdOf (s : State) (x c id : Nat) : Option Cmd := (s.seatOf x c).cmds.find? fun k => decide (k.id = id)

def putCmd (x c : Nat) (k : Cmd) (s : State) : State :=
  let y := s.seatOf x c
  s.putSeatOf x c { y with cmds := y.cmds.map fun j => if j.id = k.id then k else j }

def delCmd (x c id : Nat) (s : State) : State :=
  let y := s.seatOf x c
  s.putSeatOf x c { y with cmds := y.cmds.filter fun j => decide (j.id ≠ id) }

/-- Is the context on the core, so that its engines act (R398)? -/
def onCore (s : State) (x c : Nat) : Bool := decide ((s.core c).owner = some x)

/-- A status met by a command (R101, R347). -/
def Cmd.meet (k : Cmd) (st : Nat × Nat) : Cmd := let w := worse (k.status, k.cause) st; { k with status := w.1, cause := w.2 }

/-- Does the command send requests that R341 keeps in issue order? -/
def CKind.ordered (k : CKind) : Bool :=
  match k with
  | .fsend => true
  | .fmcast => true
  | .fred _ _ => true
  | .ratom _ _ => true
  | _ => false

/-- Has the command still requests to send? -/
def Cmd.unsent (k : Cmd) : Bool :=
  match k.kind with
  | .ratom _ _ => decide (k.phase = 0)
  | _ => match geoOf k.set with | some g => decide (k.next < g.units g.dfmt) | none => false

/-- The destination packages of a sending command (R341). -/
def destPkgs (s : State) (x : Nat) (k : Cmd) : List Nat :=
  let of := fun (va : Nat) => match xlate s x k.org va .write with | .ok l => [l.phys / 2 ^ 44] | .error _ => []
  match k.kind with
  | .ratom _ _ => of k.a.toNat
  | .fmcast => (List.range 4096).filter ((s.ctx x).member k.b.toNat)
  | _ =>
    match geoOf k.set with
    | some g => let f := g.foot false k.b.toNat; (pagesIn f.1 f.2).flatMap fun p => of (4096 * (p % 2 ^ 52)).toNat
    | none => []

/-- Ordered commands issued earlier that have not sent everything (R341). Of a context that is out, whose sends have stopped,
only those to a package of its own hold a command back (R340). -/
def behind (s : State) (x c : Nat) (k : Cmd) : Bool :=
  k.kind.ordered && (s.seatOf x c).cmds.any fun j => decide (j.id < k.id) && j.kind.ordered && j.unsent
    && (onCore s x c || (destPkgs s x j).any fun p => (destPkgs s x k).any (· == p))

/-- May the command begin: tiles granted, the commands it waits for gone with their records written (R94, R343)? -/
def mayBegin (s : State) (x c : Nat) (k : Cmd) : Bool :=
  let y := s.seatOf x c
  y.granted k.id && !(y.cmds.any fun j => k.after.any (· == j.id))
    && !(k.after.any fun i => recPending s (.cmd c i)) && !behind s x c k

/-! ## Unspecified bytes (R10) -/

/-- One of two words, whole (R10). -/
def eitherWord (s : State) (old new : Nat) : Nat := if Config.freeBool s.free then old else new

/-- An unspecified word (R10): its earlier contents, or the data of the operation in question, for which a free word stands where
other packages, failed storage or an engine's work in progress determine it (log entry 3). -/
def anyWord (s : State) (old : Nat) : Nat := eitherWord s old (Config.freeWord s.free).toNat

/-- The places of the aligned doubleword at `w` that `[lo, hi]` covers. -/
def coveredIn (w lo hi : Nat) : List Nat := (List.range 8).filter fun i => decide (lo ≤ w + i) && decide (w + i ≤ hi)

/-- The bytes of a memory at places `is` of the doubleword at `a` become those of `v`. -/
def putPart (m : Mem) (a v : Nat) (is : List Nat) : Mem :=
  is.foldl (fun m i => Mem.setByte m (a + i) (BitVec.ofNat 8 (v / 2 ^ (8 * i)))) m

/-- The aligned doublewords that `[lo, hi]` touches. -/
def dwordsOf (lo hi : Nat) : List Nat := (List.range (hi / 8 - lo / 8 + 1)).map fun i => 8 * (lo / 8 + i)

/-- Where a doubleword of memory stands: HBM, or the data or the instruction scratchpad of (context, core) by window offset. -/
inductive DwPlace where
  | hbm (a : Nat)
  | spad (x c a : Nat)
  | bank (x c a : Nat)

/-- The doubleword there. -/
def DwPlace.get (p : DwPlace) (s : State) : Nat :=
  match p with
  | .hbm a => Mem.num s.hbm a 8
  | .spad x c a => Mem.num (s.seatOf x c).spad a 8
  | .bank x c a => Mem.num (s.seatOf x c).ispad (a - 0x600000) 8

/-- Bytes `is` of the doubleword there become those of `v`. -/
def DwPlace.put (p : DwPlace) (v : Nat) (is : List Nat) (s : State) : State :=
  match p with
  | .hbm a => { s with hbm := putPart s.hbm a v is }
  | .spad x c a => let y := s.seatOf x c; s.putSeatOf x c { y with spad := putPart y.spad a v is }
  | .bank x c a =>
    s.putSeatOf x c (is.foldl (fun y i => y.writeCode (a + i) [BitVec.ofNat 8 (v / 2 ^ (8 * i))]) (s.seatOf x c))

/-- The doubleword there is unspecified. -/
def DwPlace.blur (p : DwPlace) (is : List Nat) (s : State) : State := (p.put (anyWord s (p.get s)) is s).used

/-- Each aligned doubleword of `[lo, hi]` in the data scratchpad is unspecified. -/
def scramble (x c : Nat) (lo hi : Nat) (s : State) : State :=
  (dwordsOf lo hi).foldl (fun s w => DwPlace.blur (.spad x c w) (coveredIn w lo hi) s) s

/-- The doubleword at a global physical address: in this package's HBM, or in a window that would take the write. Bytes of other
packages, and of a window that holds its accesses, are as the requests leave them. -/
def placePhys (s : State) (l : Xl) : Option DwPlace :=
  let a := l.phys % 2 ^ 44
  if l.phys / 2 ^ 44 ≠ s.pkg then none
  else
    match rowCheck s true false true false l.dctx a 8 with
    | .ok .hbm => some (.hbm a)
    | .ok r =>
      let c := winCore a
      let off := winOffset a
      if r = .data ∧ !(s.seatIn l.dctx c (decide (lookup s l.dctx c = .live)) (tilesOf off 8)).admits off 8 then none
      else
        match lookup s l.dctx c with
        | .live => if r = .data then some (.spad l.dctx c off) else some (.bank l.dctx c off)
        | .image => some (.hbm (s.imgAddr l.dctx c + off))
        | _ => none
    | .error _ => none

/-- The same for the virtual bytes of `[lo, hi]` that `mine` names, under a translation: a doubleword is one, whichever of its
bytes are meant (R10). -/
def scrambleSet (tr : State → Nat → Except Nat Xl) (mine : Nat → Bool) (lo hi : Nat) (s : State) : State :=
  (dwordsOf lo hi).foldl (fun s w =>
    let is := (coveredIn w lo hi).filter fun i => mine (w + i)
    match (if is.isEmpty then none else (tr s w).toOption.bind (placePhys s)) with
    | some p => p.blur is s
    | none => s) s

/-- All bytes of `[lo, hi]`. -/
def scrambleRun (tr : State → Nat → Except Nat Xl) (lo hi : Nat) (s : State) : State := scrambleSet tr (fun _ => true) lo hi s

/-- The window offset of the bank that was idle when the copy issued (R92, log entry 71). -/
def idleBank (k : Cmd) : Nat := if k.org.exb then 0x610000 else 0x648000

/-- The footprint of a copy's destination, in its own space. -/
def destFoot (k : Cmd) (g : Geo) : Nat × Nat :=
  let f := g.foot false (if g.dsp = 0 then k.b.toNat else k.b.toNat % 2 ^ 23 : Nat)
  (f.1.toNat, f.2.toNat)

/-- Where doubleword `w` of the destination stands. -/
def destPlace (x c : Nat) (k : Cmd) (g : Geo) (s : State) (w : Nat) : Option DwPlace :=
  match g.dsp with
  | 0 => (xlate s x k.org w .write).toOption.bind (placePhys s)
  | 1 => some (.spad x c w)
  | _ => some (.bank x c (idleBank k + w))

/-- The destination's doublewords as they stand. -/
def destWords (x c : Nat) (k : Cmd) (g : Geo) (s : State) : List Nat :=
  let f := destFoot k g
  (dwordsOf f.1 f.2).map fun w => ((destPlace x c k g s w).map fun p => p.get s).getD 0

/-- A source byte of a copy as its place in the package gives it; a free value where it lies elsewhere or cannot be read. -/
def sourceByte (x c : Nat) (k : Cmd) (g : Geo) (s : State) (a : Nat) : Byte :=
  let any : Byte := (Config.freeWord (s.free + 1 + a)).truncate 8
  if g.ssp = 1 then Mem.byte (s.seatOf x c).spad a
  else
    match xlate s x k.org a .read with
    | .ok l =>
      let h := l.phys % 2 ^ 44
      if l.phys / 2 ^ 44 = s.pkg ∧ rowOf h = some .hbm ∧ s.poisoned h 1 = false then Mem.byte s.hbm h else any
    | .error _ => any

/-- The bytes that the copy has still to write. -/
def restWrites (x c : Nat) (k : Cmd) (g : Geo) (s : State) : List (Int × List Byte) :=
  let rd := fun (a : Int) n => (List.range n).map fun i => sourceByte x c k g s ((a % (2 ^ 64 : Int)).toNat + i)
  let sb : Int := if g.ssp = 1 then (k.a.toNat % 2 ^ 23 : Nat) else k.a.toNat
  let db : Int := if g.dsp = 0 then k.b.toNat else (k.b.toNat % 2 ^ 23 : Nat)
  let us := if g.tiled then (afterItems k.next g.cells).flatten else (List.range (g.units g.dfmt - k.next)).map (k.next + ·)
  us.flatMap fun u => (g.unit rd sb db (keyOf k.org.kseed.toNat g.tensor k.org.kstep.toNat) u).writes

/-- A doubleword with the bytes of writes in it. -/
def overWrites (ws : List (Int × List Byte)) (w v : Nat) : Nat :=
  leNat ((leBytes 8 v).mapIdx fun i b =>
    match ws.reverse.find? fun e => decide (e.1 ≤ (w : Int) + i) && decide ((w : Int) + i < e.1 + e.2.length) with
    | some e => nth 0 e.2 ((w : Int) + i - e.1).toNat
    | none => b)

/-- R84, R96, R10: every destination byte in the footprint of a copy is unspecified: each aligned doubleword holds what it held
before the copy, or what the copy has written there or would have written. -/
def scrambleDest (x c : Nat) (k : Cmd) (g : Geo) (s : State) : State :=
  match k.kind with
  | .cpy => go s
  | .cpyc => go s
  | _ => s
where
  go (s : State) : State :=
    let f := destFoot k g
    let now := destWords x c k g s
    let olds := if k.olds.isEmpty then now else k.olds
    let rest := restWrites x c k g s
    ((dwordsOf f.1 f.2).zip (olds.zip now)).foldl (fun s e =>
      match destPlace x c k g s e.1 with
      | some p => (p.put (eitherWord s e.2.1 (overWrites rest e.1 e.2.2)) (coveredIn e.1 f.1 f.2) s).used
      | none => s.used) s

/-! ## Footprints in memory (R96) -/

/-- Where bytes lie in memory: global physical address, length, and the context of a window's bytes. -/
abbrev PhysRun := Nat × Nat × Option Nat

/-- The bytes `[lo, hi]` of virtual memory, page by page. -/
def virtPlaces (s : State) (x : Nat) (o : Origin) (need : Need) (lo hi : Int) : List PhysRun :=
  (pagesIn lo hi).filterMap fun p =>
    let a := max lo (4096 * p)
    let b := min hi (4096 * p + 4095)
    match xlate s x o (a % (2 ^ 64 : Int)).toNat need with
    | .ok l => some (l.phys, (b - a).toNat + 1, if rowOf (l.phys % 2 ^ 44) = some .hbm then none else some l.dctx)
    | .error _ => none

/-- A side's footprint in memory: a LOCAL or IBANK side is its core's window (R62). -/
def footPlaces (s : State) (x c : Nat) (k : Cmd) (g : Geo) (src : Bool) : List PhysRun :=
  let op := if src then k.a else k.b
  let win := fun (base : Nat) (f : Int × Int) => [(s.pkg * 2 ^ 44 + winBase + c * 2 ^ 23 + base + f.1.toNat, (f.2 - f.1).toNat + 1, some x)]
  match (if src then g.ssp else g.dsp) with
  | 0 => let f := g.foot src op.toNat; virtPlaces s x k.org (if src then .read else .write) f.1 f.2
  | 1 => win 0 (g.foot src (op.toNat % 2 ^ 23 : Nat))
  | _ => win (idleBank k) (g.foot src (op.toNat % 2 ^ 23 : Nat))

/-- Do the footprints overlap in memory (R96): within one space, or by the bytes that the addresses reach? -/
def overlaps (s : State) (x c : Nat) (k : Cmd) (g : Geo) : Bool :=
  (decide (g.ssp = g.dsp) &&
    (let f := g.foot true k.a.toNat
     let d := g.foot false k.b.toNat
     decide (f.1 ≤ d.2) && decide (d.1 ≤ f.2)))
  || ((footPlaces s x c k g true).any fun p => (footPlaces s x c k g false).any fun q =>
      decide (p.2.2 = q.2.2) && decide (p.1 < q.1 + q.2.1) && decide (q.1 < p.1 + p.2.1))

/-! ## Chunks (R97) -/

/-- Virtual source runs as requests; the first failing translation ends the command (R84). -/
def readRuns (x c : Nat) (k : Cmd) (unit : Nat) : List (Nat × Nat) → State → State × Option (Nat × Nat)
  | [], s => (s, none)
  | (va, n) :: rs, s =>
    match xlate s x k.org va .read with
    | .error cause => (s, some (va, cause))
    | .ok l => readRuns x c k unit rs (request ⟨.cmd c k.id 0, .readreq, va, n, c, k.org, 0, 0, 0, []⟩ l s)

/-- Pages of runs that wait for a walk (R80). -/
def walksFor (s : State) (x : Nat) (rs : List (Nat × Nat)) : List Nat :=
  rs.filterMap fun r => if needsWalk s x r.1 then some r.1 else none

def askAll (x : Nat) : List Nat → State → State
  | [], s => s
  | v :: vs, s => askAll x vs (askWalk x v s)

/-- Join writes that follow each other. -/
def joinRuns : List (Int × List Byte) → List (Int × List Byte)
  | [] => []
  | (a, bs) :: rs =>
    match joinRuns rs with
    | (b, cs) :: qs => if b = a + bs.length then (a, bs ++ cs) :: qs else (a, bs) :: (b, cs) :: qs
    | [] => [(a, bs)]

/-- Insert by address. -/
def insRun (r : Int × List Byte) : List (Int × List Byte) → List (Int × List Byte)
  | [] => [r]
  | q :: qs => if q.1 ≤ r.1 then q :: insRun r qs else r :: q :: qs

/-- Destination runs of virtual writes in ascending order, cut into requests (R346). -/
def virtRuns (ws : List (Int × List Byte)) : List (Nat × List Byte) :=
  (joinRuns (ws.foldl (fun l r => insRun r l) [])).flatMap fun r =>
    let va := (r.1 % (2 ^ 64 : Int)).toNat
    (piecesOf va r.2.length).map fun p => (p.1, (r.2.drop (p.1 - va)).take p.2)

/-- The packet kind and codes of a sending command. -/
def sendKind (k : CKind) : PKind × Nat × Nat :=
  match k with
  | .fred op f =>
    (.reduce, (match op with | .add => 0 | .max => 1 | .min => 2 | .swap => 3 | .cas => 4),
      match f with | .fp32 => 0 | .bf16 => 1 | .int32 => 2 | .int64 => 3 | .fx128 => 4)
  | _ => (.write, 0, 0)

/-- Virtual destination runs as requests. -/
def writeRuns (x c : Nat) (k : Cmd) (frac : Nat) : List (Nat × List Byte) → State → State × Option (Nat × Nat)
  | [], s => (s, none)
  | (va, bs) :: rs, s =>
    let z := sendKind k.kind
    match xlate s x k.org va (if z.1 = .reduce then .remote else .write) with
    | .error cause => (s, some (va, cause))
    | .ok l =>
      writeRuns x c k frac rs (request ⟨.cmd c k.id 1, z.1, va, bs.length, c, k.org, z.2.1, z.2.2, frac, bs⟩ l s)

/-- Members of a multicast group (R292): every package whose bit is set. -/
def members (y : Ctx) (g : Nat) : List Nat := (List.range 4096).filter (y.member g)

/-- Does the entry apply: V = 1 and no nonzero RSV field (R292)? -/
def mcastValid (y : Ctx) (g : Nat) : Bool :=
  let w := fun n => (Tab.get 0 y.mgroups (128 * g + n)).toNat
  bitN (w 0) 0 && decide (w 0 &&& (bitsMask 63 12 + bitsMask 7 1) = 0) && decide (w 1 / 2 ^ 44 = 0)
    && ((List.range 6).all fun n => decide (w (2 + n) = 0)) && (List.range 56).all fun n => decide (w (72 + n) = 0)

/-- One request per member under one tag; in a two-level system one copy per other group, to its lowest member (R292). -/
def castRuns (x c : Nat) (k : Cmd) : List (Nat × List Byte) → State → State
  | [], s => s
  | (off, bs) :: rs, s =>
    let y := s.ctx x
    let g := k.b.toNat
    let w := fun n => (Tab.get 0 y.mgroups (128 * g + n)).toNat
    let a := (w 1 + off) % 2 ^ 44
    let ms := members y g
    let direct := fun m => !Config.twoLevel || decide (m / 64 = s.pkg / 64) || !(ms.any fun n => decide (n / 64 = m / 64) && decide (n < m))
    let tag := s.nextTag
    let mk : Nat → Packet := fun m =>
      { kind := .mcwrite, vc := 0, det := k.org.det, hops := 0, dctx := w 0 / 2 ^ 8 % 16, status := 0, len := bs.length,
        srcPkg := s.pkg, srcCore := c, op := 0, fmt := 0, frac := 0, tag := tag, addr := m * 2 ^ 44 + a, group := g,
        payload := bs }
    let rq : Nat → Req := fun m =>
      { tag := tag, agent := .cmd c k.id 1, kind := .mcwrite, va := off, n := bs.length, sup := k.org.sup, cyc := s.cycle,
        dpkg := m, core := c, addr := m * 2 ^ 44 + a, data := bs, dig := false, port := none, res := none }
    let s := { s with nextTag := (s.nextTag + 1) % 2 ^ 32, reqs := s.reqs ++ ms.map rq,
                      outbox := s.outbox ++ (ms.filter fun m => decide (m ≠ s.pkg) && direct m).map mk }
    castRuns x c k rs (if ms.any (· == s.pkg) then arrive (mk s.pkg) s else s)

/-- Has a write of a copy to this package, through no window, failed at its destination? -/
def failsHere (s : State) (q : Req) : Bool :=
  decide (q.kind = .write) && decide (q.dpkg = s.pkg) && (match rowOf (q.addr % 2 ^ 44) with
    | some .data => false
    | some .code => false
    | _ => true) && (match q.res with | some r => decide (r.status = stBADADDR) || decide (r.status = stGONE) | none => false)

/-- The answers to a chunk's writes are taken (R101, R347): digested writes that have performed, but for a FRED's
contributions, join the digest (R99, R404). A write to the package's own memory that fails at its destination ends a copy (R84);
one that crosses the fabric or a window leaves its own bytes (R101). The destination of a copy that failed, or whose footprints
overlap, is unspecified at its end (R84, R96). -/
def takeWrites (x c : Nat) (k : Cmd) (g : Geo) (s : State) : State :=
  let rs := reqsOf s (.cmd c k.id 1)
  let reduce := decide ((sendKind k.kind).1 = .reduce)
  let s := if k.kind = .fmcast ∨ reduce then s else digestReqs x rs s
  let s := if k.status = stXLAT then s else faultReqs x c k.org (if reduce then 2 else 1) 0 rs s
  let k := { k.meet (worstOf rs) with flags := fOr k.flags (flagsOf rs), phase := 0 }
  let k := if rs.any (failsHere s) then { k with next := g.units g.dfmt, cut := true } else k
  let s := dropReqs (.cmd c k.id 1) (putCmd x c k s)
  if g.units g.dfmt ≤ k.next ∧ (k.cut ∨ overlaps s x c k g) then scrambleDest x c k g s else s

/-- Ends a command's moving part with a status (R84, R101). It completes once every request that it has sent is answered. -/
def failCmd (x c : Nat) (k : Cmd) (g : Geo) (st : Nat × Nat) (s : State) : State :=
  let k := { k.meet st with next := g.units g.dfmt, cut := true, phase := 2 }
  let s := putCmd x c k (dropReqs (.cmd c k.id 0) s)
  if openReqs s (.cmd c k.id 1) then s else takeWrites x c k g s

/-- Does the chunk's destination bytes at `sp` space perform now, or leave as requests? -/
def putChunk (x c : Nat) (k : Cmd) (g : Geo) (ws : List (Int × List Byte)) (s : State) : State × Option (Nat × Nat) :=
  if k.kind = .fmcast then (castRuns x c k (virtRuns ws) s, none)
  else
    match g.dsp with
    | 0 => writeRuns x c k g.fxp (virtRuns ws) s
    | 1 =>
      (s.putSeatOf x c (ws.foldl (fun y w => y.writeWords w.1.toNat (w.2.length + 1) w.2) (s.seatOf x c)), none)
    | _ =>
      (s.putSeatOf x c (ws.foldl (fun y w => y.writeCode (idleBank k + w.1.toNat) w.2) (s.seatOf x c)), none)

/-- The second half of a chunk: the sources are there; values convert once and are written (R91, R98). -/
def convertChunk (x c : Nat) (k : Cmd) (g : Geo) (s : State) : State :=
  let rs := reqsOf s (.cmd c k.id 0)
  let st := worstOf rs
  if st.1 ≠ 0 then failCmd x c k g st (faultReqs x c k.org 0 0 rs s)
  else
    let y := s.seatOf x c
    let sb : Int := if g.ssp = 1 then (k.a.toNat % 2 ^ 23 : Nat) else k.a.toNat
    let db : Int := if k.kind = .fmcast then 0 else if g.dsp = 0 then k.b.toNat else (k.b.toNat % 2 ^ 23 : Nat)
    let rd := fun (a : Int) n => if g.ssp = 1 then Mem.bytes y.spad a.toNat n else gotBytes rs (a % (2 ^ 64 : Int)).toNat n
    let key := keyOf k.org.kseed.toNat g.tensor k.org.kstep.toNat
    let ns := g.chunkUnits k.next
    let us := ns.map (g.unit rd sb db key)
    let ws := us.flatMap fun u => u.writes
    let vpages := if g.dsp = 0 ∧ k.kind ≠ .fmcast then (virtRuns ws).map fun r => (r.1, 0) else []
    match walksFor s x vpages with
    | w :: more => askAll x (w :: more) s
    | [] =>
      let bad := decide (g.ssp = 1) && (ns.any fun u => (g.needs sb u).any fun r => y.isBad r.1.toNat r.2)
      -- a doubleword that an AMO has reserved is written after it (R220)
      if g.dsp = 1 ∧ k.kind ≠ .fmcast ∧ ws.any fun w => y.reserved w.1.toNat w.2.length then s
      else if bad then failCmd x c k g (stMEMERR, 0) s.setUE
      else
        let crc := g.crcAfter k.next (ns.zip (us.map UnitOut.crc)) k.crc
        let keyed := decide (k.next = 0) && decide (g.rnd = .sr) && decide (g.sfmt ≠ g.dfmt)
        let k := { k with olds := if k.next = 0 then destWords x c k g s else k.olds, next := k.next + ns.length, crc := crc, flags := us.foldl (fun f u => fOr f u.flags) k.flags, phase := 2 }
        let s := dropReqs (.cmd c k.id 0) (putCmd x c k s)
        let s := if keyed then postKey x c 0 k.org (BitVec.ofNat 32 g.tensor) k.org.kstep g.dident s else s
        let r := putChunk x c k g ws s
        match r.2 with
        | some f => failCmd x c k g (stXLAT, f.2) (postFault x c k.org (BitVec.ofNat 64 f.1) f.2 (if (sendKind k.kind).1 = .reduce then 2 else 1) 0 0 r.1)
        | none =>
          let s := if k.kind.ordered ∧ g.units g.dfmt ≤ k.next then
              -- every request of a send has left: its source tiles return (R346)
              let y := r.1.seatOf x c
              putCmd x c { k with tiles := [] } (r.1.putSeatOf x c (y.release k.id k.tiles))
            else r.1
          if openReqs s (.cmd c k.id 1) then s
          else match cmdOf s x c k.id with | some k => takeWrites x c k g s | none => s

/-- One chunk of a copy or send (R97): its source requests, then, once they are answered, its conversion and writes. -/
def moveCopy (x c : Nat) (k : Cmd) (s : State) : State :=
  match geoOf k.set with
  | none => s
  | some g =>
    if k.phase = 2 then (if openReqs s (.cmd c k.id 1) then s else takeWrites x c k g s)
    else if k.phase = 1 then (if openReqs s (.cmd c k.id 0) then s else convertChunk x c k g s)
    else if g.units g.dfmt ≤ k.next ∨ mayBegin s x c k = false then s
    else if k.kind = .fmcast ∧ (s.flag (trOff x + 0x28) 0 = false ∨ mcastValid (s.ctx x) k.b.toNat = false) then
      putCmd x c { k.meet (stNOGROUP, 0) with next := g.units g.dfmt } s
    else if g.ssp = 0 then
      let runs := ((g.chunkUnits k.next).flatMap fun u => g.needs k.a.toNat u).eraseDups.flatMap fun r =>
        piecesOf (r.1 % (2 ^ 64 : Int)).toNat r.2
      match walksFor s x runs with
      | w :: more => askAll x (w :: more) s
      | [] =>
        let r := readRuns x c k 0 runs s
        match r.2 with
        | some f => failCmd x c k g (stXLAT, f.2) (postFault x c k.org (BitVec.ofNat 64 f.1) f.2 0 0 0 r.1)
        | none =>
          let s := putCmd x c { k with phase := 1 } r.1
          if openReqs s (.cmd c k.id 0) then s else convertChunk x c { k with phase := 1 } g s
    else convertChunk x c k g s

/-! ## Completion records (R100, R102) -/

/-- Bytes 7:4 of a copy's record (R100); after an unanswered read, the CRC of what was converted (log entry 72). -/
def crcWord (k : Cmd) : Nat :=
  match geoOf k.set with
  | some g => if g.crcen ∧ (k.status = 0 ∨ k.status = stCRCBAD ∨ 5 < k.status) then nxor k.crc 0xFFFFFFFF else 0
  | none => 0

/-- R98: the CRC differs from the expected one. A command that ended early has none to compare. -/
def crcBad (k : Cmd) : Bool :=
  match geoOf k.set with
  | some g => g.crcchk && !k.cut && decide (nxor k.crc 0xFFFFFFFF ≠ g.crcexp)
  | none => false

/-- The command is done: tiles return, then its record is written, and it leaves (R94, R100, R103). -/
def finishCmd (x c : Nat) (k : Cmd) (word : Nat) (s : State) : State :=
  let s := s.putSeatOf x c ((s.seatOf x c).release k.id k.tiles)
  if k.crec.none then delCmd x c k.id s
  else
    let s := putCmd x c { k with tiles := [], phase := 3 } s
    let s := settle (addRec (.cmd c k.id) x c k.org k.kind.unit k.crec.addr (recLo k.status k.cause k.flags k.byte3 word) k.crec.stamp s)
    if recPending s (.cmd c k.id) then s else delCmd x c k.id s

/-- A command whose record is written leaves. -/
def leaveCmd (x c : Nat) (k : Cmd) (s : State) : State := if recPending s (.cmd c k.id) then s else delCmd x c k.id s

/-! ## RATOM (R350) -/

/-- The old value is written, or the record follows at once. -/
def ratomOld (x c : Nat) (k : Cmd) (f : AFmt) (old : List Byte) (s : State) : State :=
  let iorg := setDw k.set 2
  if bitN iorg 63 ∨ k.status ≠ 0 then finishCmd x c k 0 s
  else
    match xlate s x k.org iorg .write with
    | .error cause => finishCmd x c { k with byte3 := 1 } 0 (postFault x c k.org (BitVec.ofNat 64 iorg) cause 1 3 0 s)
    | .ok l =>
      let s := request ⟨.cmd c k.id 1, .write, iorg, afmtSize f, c, k.org, 0, 0, 0, old⟩ { l with dig := false }
        (putCmd x c { k with phase := 2 } s)
      ratomEnd x c { k with phase := 2 } s
where
  ratomEnd (x c : Nat) (k : Cmd) (s : State) : State :=
    if openReqs s (.cmd c k.id 1) then s
    else
      match (reqsOf s (.cmd c k.id 1)).head? with
      | some q =>
        match q.res with
        | some r =>
          if r.status = stOK then finishCmd x c k 0 (dropReqs (.cmd c k.id 1) s)
          else
            finishCmd x c { k with byte3 := 1 } 0
              (postFault x c k.org (BitVec.ofNat 64 q.va) (recCause r.status) 1 3 0 (dropReqs (.cmd c k.id 1) s))
        | none => s
      | none => s

/-- RATOM: its request, then on the answer the old value, then the record. -/
def moveRatom (x c : Nat) (k : Cmd) (op : AOp) (f : AFmt) (s : State) : State :=
  match k.phase with
  | 0 =>
    if behind s x c k then s
    else if needsWalk s x k.a.toNat then askWalk x k.a.toNat s
    else
      match xlate s x k.org k.a.toNat .remote with
      | .error cause =>
        finishCmd x c (k.meet (stXLAT, cause)) 0 (postFault x c k.org k.a cause 2 3 0 s)
      | .ok l =>
        let z := sendKind (.fred op f)
        let pay := leBytes (afmtSize f) k.x ++ (if op = .cas then leBytes (afmtSize f) k.e else [])
        let s := request ⟨.cmd c k.id 0, .atomic, k.a.toNat, afmtSize f, c, k.org, z.2.1, z.2.2, setDw k.set 0 / 2 ^ 19 % 128, pay⟩
          { l with dig := false } (putCmd x c { k with phase := 1 } s)
        answered s { k with phase := 1 }
  | 1 => answered s k
  | 2 => ratomOld.ratomEnd x c k s
  | _ => leaveCmd x c k s
where
  answered (s : State) (k : Cmd) : State :=
    if openReqs s (.cmd c k.id 0) then s
    else
      match (reqsOf s (.cmd c k.id 0)).head? with
      | some q =>
        match q.res with
        | some r =>
          let s := faultReqs x c k.org 2 3 [q] (dropReqs (.cmd c k.id 0) s)
          let k := { k.meet (recStatus r.status) with flags := r.flags }
          ratomOld x c k f r.data (putCmd x c k s)
        | none => s
      | none => s

/-! ## KILNW and DIGEST (R354, R356) -/

/-- KILNW: its 256 bytes; failures are posted. -/
def moveKilnw (x c : Nat) (k : Cmd) (s : State) : State :=
  match k.phase with
  | 0 =>
    if needsWalk s x k.a.toNat then askWalk x k.a.toNat s
    else
      match xlate s x k.org k.a.toNat .write with
      | .error cause => delCmd x c k.id (postFault x c k.org k.a cause 1 3 0 s)
      | .ok l =>
        fin (request ⟨.cmd c k.id 1, .write, k.a.toNat, 256, c, k.org, 0, 0, 0, k.bytes⟩ l (putCmd x c { k with phase := 1 } s))
  | _ => fin s
where
  fin (s : State) : State :=
    if openReqs s (.cmd c k.id 1) then s
    else
      let rs := reqsOf s (.cmd c k.id 1)
      delCmd x c k.id (dropReqs (.cmd c k.id 1) (rs.foldl (fun s q =>
        match q.res with
        | some r => if r.status = stOK then digestReqs x [q] s else postFault x c k.org k.a (recCause r.status) 1 3 0 s
        | none => s) s))

/-- One run of a DIGEST's range: up to 4 KiB, ending at a word boundary. -/
def digestPart (k : Cmd) : Nat × Nat :=
  let va := k.a.toNat + k.next
  let n := k.b.toNat - k.next
  (va, min n (4096 - va % 4))

/-- DIGEST: reads its range; each word's term joins the sum (R57). -/
def moveDigest (x c : Nat) (k : Cmd) (s : State) : State :=
  let p := digestPart k
  if k.phase = 1 then take s
  else if k.phase = 0 ∧ k.next < k.b.toNat ∧ k.status = 0 then
    let runs := piecesOf p.1 p.2
    match walksFor s x runs with
    | w :: more => askAll x (w :: more) s
    | [] =>
      let r := readRuns x c k 0 runs s
      match r.2 with
      | some f =>
        putCmd x c (k.meet (stXLAT, f.2)) (postFault x c k.org (BitVec.ofNat 64 f.1) f.2 0 0 0 (dropReqs (.cmd c k.id 0) r.1))
      | none => take (putCmd x c { k with phase := 1 } r.1)
  else s
where
  take (s : State) : State :=
    if openReqs s (.cmd c k.id 0) then s
    else
      let rs := reqsOf s (.cmd c k.id 0)
      let p := digestPart k
      let d := digestRun p.1 (gotBytes rs p.1 p.2)
      putCmd x c { k.meet (worstOf rs) with next := k.next + p.2, sum := (k.sum + d) % 2 ^ 256, phase := 0 }
        (dropReqs (.cmd c k.id 0) (faultReqs x c k.org 0 0 rs s))

/-- DIGEST_COMPLETE (R356): the digest at IORG, then the record. -/
def execDigestComplete (c id : Nat) (s : State) : Host.Outcome State Fault Refusal :=
  match cmdHome s c id with
  | none => .next s
  | some x =>
    match cmdOf s x c id with
    | none => .next s
    | some k =>
      let iorg := setDw k.set 2
      if k.kind ≠ .digest then .next s
      else if k.phase = 3 then .next (leaveCmd x c k s)
      else if onCore s x c = false then .next s
      else if k.phase = 2 then .next (last x k s)
      else if k.phase = 1 ∨ (k.next < k.b.toNat ∧ k.status = 0) then .next s
      else if k.status ≠ 0 then .next (finishCmd x c k 0 s)
      else
        match xlate s x k.org iorg .write with
        | .error cause => .next (finishCmd x c (k.meet (stXLAT, cause)) 0 (postFault x c k.org (BitVec.ofNat 64 iorg) cause 1 0 0 s))
        | .ok l =>
          .next (last x { k with phase := 2 }
            (request ⟨.cmd c id 1, .write, iorg, 32, c, k.org, 0, 0, 0, leBytes 32 k.sum⟩ l (putCmd x c { k with phase := 2 } s)))
where
  last (x : Nat) (k : Cmd) (s : State) : State :=
    if openReqs s (.cmd c k.id 1) then s
    else
      let rs := reqsOf s (.cmd c k.id 1)
      finishCmd x c (k.meet (worstOf rs)) 0 (faultReqs x c k.org 1 0 rs (digestReqs x rs (dropReqs (.cmd c k.id 1) s)))

/-! ## The steps -/

/-- COPY_CHUNK (R97): one move of a command of core `c`. A context that is off its core moves only what continues (R340). -/
def execCopyChunk (c id : Nat) (s : State) : Host.Outcome State Fault Refusal :=
  match cmdHome s c id with
  | none => .next s
  | some x =>
    match cmdOf s x c id with
    | none => .next s
    | some k =>
      let live := onCore s x c && !(s.ctx x).leaving
      match k.kind with
      | .ratom op f => .next (moveRatom x c k op f s)
      | .kilnw => .next (moveKilnw x c k s)
      | .efence => .next s
      | .gangMsg => .next s
      | .digest => if live ∨ 0 < k.phase then .next (moveDigest x c k s) else .next s
      | _ => if live ∨ 0 < k.phase then .next (moveCopy x c k s) else .next s

/-- COPY_COMPLETE (R100, R102). -/
def execCopyComplete (c id : Nat) (s : State) : Host.Outcome State Fault Refusal :=
  match cmdHome s c id with
  | none => .next s
  | some x =>
    match cmdOf s x c id with
    | none => .next s
    | some k =>
      let done : Bool := match geoOf k.set with | some g => decide (g.units g.dfmt ≤ k.next) | none => true
      match k.kind with
      | .ratom _ _ => .next s
      | .kilnw => .next s
      | .efence => .next s
      | .digest => .next s
      | _ =>
        if k.phase = 3 then .next (leaveCmd x c k s)
        else if k.phase = 0 ∧ done = true ∧ onCore s x c = true then
          let k := if crcBad k then k.meet (stCRCBAD, 0) else k
          .next (finishCmd x c k (crcWord k) s)
        else .next s

/-- Is one of the awaited identities still in flight (R358)? -/
def fenceWaits (s : State) (y : Seat) (ids : List Nat) : Bool :=
  let has := fun i => ids.any (· == i)
  (y.cmds.any fun k => has k.id) || (y.mxe.queue.any fun r => has r.id) || (s.colls.any fun k => has k.id)
    || (s.spawns.any fun k => has k.id)
    || s.recs.any fun j => match j.owner with | .cmd _ i => has i | _ => false

/-- EFENCE_COMPLETE (R358): its record, once every earlier effect of its stream is visible. -/
def execEfenceComplete (c id : Nat) (s : State) : Host.Outcome State Fault Refusal :=
  match cmdHome s c id with
  | none => .next s
  | some x =>
    match cmdOf s x c id with
    | none => .next s
    | some k =>
      if k.kind ≠ .efence then .next s
      else if k.phase = 3 then .next (leaveCmd x c k s)
      else if fenceWaits s (s.seatOf x c) k.after then .next s
      else .next (finishCmd x c k 0 s)

/-- ATOMICDATA (R350): the answer to an atomic; its old value is written at IORG and then its record. -/
def execAtomicdata (p : Packet) (s : State) : Host.Outcome State Fault Refusal :=
  let s1 := response p s
  match (s.reqs.find? fun q => decide (q.tag = p.tag) && decide (q.dpkg = p.srcPkg)).map Req.agent with
  | some (.cmd c id _) => execCopyChunk c id s1
  | _ => .next s1

end Sys2Proof.Machine
end

