-- ==== Sys2Proof/Machine/Gather.lean ====
section
/-! DEFINITION. The gather engine (R106 to R110, R344), the key-use log (R58, R59), fault records (R85, R401) and walks (R80). -/

namespace Sys2Proof.Machine

/-! ## Rows -/

/-- The data entry of a row (R108): a scalar, or lanes with zeros beyond the row. -/
def rowEntry (gqc : Nat) (bs : List Byte) : DEntry :=
  if bitN gqc 9 then ⟨true, bs ++ List.replicate (512 - bs.length) 0⟩ else ⟨false, bs⟩

/-- Row length in bytes: 8 * (ROWB + 1). -/
def rowBytes (gqc : Nat) : Nat := 8 * (gqc / 2 ^ 10 % 64 + 1)

/-- The head index leaves the address queue and its entry joins the data. -/
def deliver (x c q : Nat) (bs : List Byte) (oob xf : Bool) (s : State) : State :=
  let y := s.seatOf x c
  let g := y.q q
  match g.aq with
  | [] => s
  | e :: es =>
    let g := { g with aq := es, dq := g.dq ++ [rowEntry e.gqc.toNat bs], oob := g.oob || oob, xf := g.xf || xf }
    dropReqs (.row c q 0) (s.putSeatOf x c (y.putQ q g))

/-- The requests of a row; the first failing translation fails the row (R108). -/
def rowReqs (x c q : Nat) (o : Origin) : List (Nat × Nat) → State → State × Option (Nat × Nat)
  | [], s => (s, none)
  | (va, n) :: rs, s =>
    match xlate s x o va .read with
    | .error cause => (s, some (va, cause))
    | .ok l => rowReqs x c q o rs (request ⟨.row c q 0, .readreq, va, n, c, o, 0, 0, 0, []⟩ l s)

/-- The answers of a row are taken: its bytes, or zeros with XF and a fault record (R108). -/
def takeRow (x c q : Nat) (e : AEntry) (va : Nat) (s : State) : State :=
  if openReqs s (.row c q 0) then s
  else
    let rs := reqsOf s (.row c q 0)
    let n := rowBytes e.gqc.toNat
    let st := worstOf rs
    if st.1 = 0 then deliver x c q (gotBytes rs va n) false false s
    else
      let cause := if st.2 ≠ 0 then st.2 else if st.1 = stUNREACH then cUNREACH else cWALKERR
      deliver x c q (List.replicate n 0) false true (postFault x c e.org (BitVec.ofNat 64 va) cause 0 1 0 s)

/-- GATHER_ROW_DELIVERY (R108): one move of queue `q`'s oldest index. -/
def execGatherRowDelivery (c q : Nat) (s : State) : Host.Outcome State Fault Refusal :=
  match (s.core c).owner with
  | none => .next s
  | some x =>
    let g := (s.seat c).q q
    match g.aq with
    | [] => .next s
    | e :: _ =>
      let w := e.gqc.toNat
      let n := rowBytes w
      let va := (e.gqb.toNat % 2 ^ 56 + e.index.toNat * (w / 2 ^ 32)) % 2 ^ 56
      let lim := e.gql.toNat % 2 ^ 32
      if 16 ≤ g.dq.length then .next s
      else if !(reqsOf s (.row c q 0)).isEmpty then .next (takeRow x c q e va s)
      else if lim ≠ 0 ∧ lim ≤ e.index.toNat then .next (deliver x c q (List.replicate n 0) true false s)
      else
        let runs := piecesOf va n
        match walksFor s x runs with
        | v :: more => .next (askAll x (v :: more) s)
        | [] =>
          let r := rowReqs x c q e.org runs s
          match r.2 with
          | some f =>
            .next (deliver x c q (List.replicate n 0) false true (postFault x c e.org (BitVec.ofNat 64 f.1) f.2 0 1 0 r.1))
          | none => .next (takeRow x c q e va r.1)

/-- GSTART_INDEX_ENTRY (R344): the next index of the array enters the address queue once there is room. -/
def execGstartIndexEntry (c q : Nat) (s : State) : Host.Outcome State Fault Refusal :=
  let x := s.seat c
  let g := x.q q
  match g.gs with
  | none => .next s
  | some a =>
    if (s.core c).owner.isNone ∨ x.granted a.id = false ∨ 32 ≤ g.aq.length then .next s
    else
      let addr := a.addr + 8 * a.next
      let bad := x.isBad addr 8
      let v := if bad then Config.freeWord s.free else x.dword addr
      let last := decide (a.n ≤ a.next + 1)
      let g := { g with aq := g.aq ++ [⟨v, a.gqb, a.gqc, a.gql, a.org⟩],
                        gs := if last then none else some { a with next := a.next + 1 } }
      let x := x.putQ q g
      .next (if bad then (s.putSeat c (if last then x.release a.id a.tiles else x)).used.setUE
             else s.putSeat c (if last then x.release a.id a.tiles else x))

/-! ## Who issued -/

/-- Does the stream that issued still hold the task that issued (R195, R268)? -/
def issuerHolds (s : State) (x c : Nat) (o : Origin) : Bool :=
  match ((s.seatOf x c).st o.sec).task with
  | some t => decide (some t.launch = o.launch) && decide (t.wid = o.wid)
  | none => false

/-- Does it come to a further boundary of that task (R59, R85, R195)? -/
def issuerAlive (s : State) (x c : Nat) (o : Origin) : Bool :=
  let y := (s.seatOf x c).st o.sec
  issuerHolds s x c o && (!y.ending || y.sys.sup)

/-- Updates the pending conditions of the stream that issued. -/
def onIssuer (x c : Nat) (o : Origin) (f : Stream → Stream) (s : State) : State :=
  let y := s.seatOf x c
  s.putSeatOf x c (y.putSt o.sec (f (y.st o.sec)))

/-- A record goes to the context's fault ring (R401). -/
def toRing (x : Nat) (r : FRec) (s : State) : State :=
  let o := ccbOff x
  let n := s.fld (o + 0x38) 0 64
  let base := (s.reg (o + 0x30)).toNat % 2 ^ 44 / 2 ^ 12 * 2 ^ 12
  let a := base + 32 * (n % 2 ^ (s.fld (o + 0x30) 0 4 + 4))
  let s := if a + 32 ≤ hbmSize then hbmWrite a (r.words.flatMap fun w => leBytes 8 w.toNat) s else s
  s.setFld (o + 0x38) 0 64 (n + 1)

/-- A record of a launch's ended task counts in its launch record (R368). -/
def countRec (o : Origin) (cause : Nat) (s : State) : State :=
  { s with launches := s.launches.map fun l =>
      if some l.id = o.launch ∧ cause ≠ cKEYWARN then
        { l with status := if l.status = 0 then stXLAT else min l.status stXLAT, cause := if l.nrec = 0 then cause else l.cause,
                 nrec := if l.nrec < 2 ^ 32 - 1 then l.nrec + 1 else l.nrec }
      else l }

/-- Is the context being killed: nothing is posted after step 1 (R400)? -/
def killed (s : State) (x : Nat) : Bool := decide (s.ctxState x = 3) || decide (s.ctxState x = 4)

/-- A record reaches its stream: a routine fault is pending there (R269), another joins its queue (R85). -/
def Stream.takeRec (t : Stream) (f : FRec) : Stream :=
  if f.cause = cROUTINE then
    let a : Async := ⟨f.code, f.bundle, f.slot, f.va.toNat, some f⟩
    { t with pend := if a.code = tcECC then { t.pend with ecc := t.pend.ecc ++ [a] } else { t.pend with routine := t.pend.routine ++ [a] } }
  else if t.pend.faults.length < 8 then { t with pend := { t.pend with faults := t.pend.faults ++ [f] } }
  else { t with trap := { t.trap with flost := (t.trap.flost + 1) % 2 ^ 32 }, pend := { t.pend with lost := true } }

/-- A record reaches its stream, or the fault ring if its task has ended (R85, R401). -/
def deliverRec (x : Nat) (p : FPost) (s : State) : State :=
  if killed s x then s
  else if issuerAlive s x p.core p.org then onIssuer x p.core p.org (fun t => t.takeRec p.frec) s
  else countRec p.org p.frec.cause (toRing x p.frec s)

/-- FAULT_RECORD_POST (R85): the oldest record reaches its stream's queue, or the fault ring if its task has ended. -/
def execFaultRecordPost (x : Nat) (s : State) : Host.Outcome State Fault Refusal :=
  let y := s.ctx x
  match y.posts with
  | [] => .next s
  | p :: ps => .next (deliverRec x p (s.putCtx x { y with posts := ps }))

/-- KEY_USE_REPORT (R58, R59): the oldest report enters the log, matches an entry, or conflicts with one. -/
def execKeyUseReport (x : Nat) (s : State) : Host.Outcome State Fault Refusal :=
  let y := s.ctx x
  match y.keyReps with
  | [] => .next s
  | r :: rs =>
    let y := { y with keyReps := rs }
    match y.keylog.find? fun e => decide (e.1 = r.ktens) && decide (e.2.1 = r.kstep) with
    | none =>
      let log := if 64 ≤ y.keylog.length then y.keylog.drop 1 else y.keylog
      .next (s.putCtx x { y with keylog := log ++ [(r.ktens, r.kstep, r.ident)] })
    | some e =>
      let s := s.putCtx x y
      let warn : FRec := ⟨r.ident, r.org.bundle, r.org.slot, cKEYWARN, 1, r.unit, 0, s.gtb⟩
      if e.2.2 = r.ident ∨ r.org.kwen = false then .next s
      else if issuerAlive s x r.core r.org then
        .next (onIssuer x r.core r.org (fun t =>
          { t with pend := { t.pend with keywarns := t.pend.keywarns ++ [warn] } }) s)
      else if killed s x then .next s
      else .next (toRing x warn s)

/-- PAGE_WALK (R78, R80): a free walker takes the oldest request; its result is cached. -/
def execPageWalk (x : Nat) (s : State) : Host.Outcome State Fault Refusal :=
  let y := s.ctx x
  match y.walks with
  | [] => .next s
  | r :: rs =>
    let e := walk s x (r.va / 2 ^ 12)
    let s := if e.fault = cWALKERR then s.setUE else s
    .next (s.putCtx x { y with walks := rs, tlb := y.tlb ++ [e] })

end Sys2Proof.Machine
end

