-- ==== Sys2Proof/Machine/Collective.lean ====
section
/-! DEFINITION. The collective engine (12): tables, commands at issue, chunks, credits, landings, the optimiser stage, aborts. -/

namespace Sys2Proof.Machine

/-! ## Entries (R306 to R309) -/

def cdw (e : List Word) (n : Nat) : Nat := (nth 0 e n).toNat
def cPeer (e : List Word) : Nat := cdw e 0 / 2 ^ 52 % 2 ^ 12
def cPch (e : List Word) : Nat := cdw e 0 / 2 ^ 40 % 2 ^ 12
def cPctx (e : List Word) : Nat := cdw e 0 / 2 ^ 36 % 16
def cMfmt (e : List Word) : Nat := cdw e 0 / 2 ^ 27 % 32
def cWfmt (e : List Word) : Nat := cdw e 0 / 2 ^ 22 % 32
def cRnd (e : List Word) : Nat := cdw e 0 / 2 ^ 19 % 8
def cSat (e : List Word) : Bool := bitN (cdw e 0) 18
def cOp (e : List Word) : Nat := cdw e 0 / 2 ^ 16 % 4
def cOpt (e : List Word) : Nat := cdw e 0 / 2 ^ 14 % 4
def cPri (e : List Word) : Bool := bitN (cdw e 0) 13
def cCel (e : List Word) : Nat := 32 * (cdw e 0 / 2 ^ 7 % 64 + 1)
def cDepth (e : List Word) : Nat := cdw e 0 / 2 % 64 + 1
def cTensor (e : List Word) : W32 := BitVec.ofNat 32 (cdw e 1 / 2 ^ 32)
/-- TMO in microseconds; 0 means 20,000 (R306, R308). -/
def tmoOf (w : Nat) : Nat := if w = 0 then 20000 else w

def rSch (r : List Word) : Nat := cdw r 0 / 2 ^ 52 % 2 ^ 12
def rRch (r : List Word) : Nat := cdw r 0 / 2 ^ 40 % 2 ^ 12
def rM (r : List Word) : Nat := cdw r 0 / 2 ^ 28 % 2 ^ 12 + 1
def rRank (r : List Word) : Nat := cdw r 0 / 2 ^ 16 % 2 ^ 12
def rScope (r : List Word) : Nat := cdw r 0 / 2 ^ 13 % 8
def rPb (r : List Word) : Nat := cdw r 0 / 2 ^ 9 % 16
def rPj (r : List Word) : Nat := cdw r 0 / 2 ^ 3 % 64
def rRoot (r : List Word) : Nat := cdw r 1 / 2 ^ 32 % 2 ^ 12
def rSlot (r : List Word) : Nat := cdw r 1 % 2 ^ 32

/-- Bytes of a chunk of `n` elements (R311). -/
def wireBytes (wf n : Nat) : Nat :=
  match EFmt.ofCode wf with
  | none => 0
  | some f =>
    match f.kbf, f.mx with
    | some k, _ => (n + 15) / 16 * (kbfCodeBytes k + 2)
    | none, some _ => (n + 31) / 32 * 33
    | none, none => n * f.bytes

/-- A valid channel entry (R307). -/
def chanOk (e : List Word) : Bool :=
  let w := cdw e 0
  bitN w 0 && decide (w / 2 ^ 32 % 16 = 0) && decide (cdw e 1 / 2 ^ 20 % 2 ^ 12 = 0) && decide (cdw e 2 / 2 ^ 56 = 0)
    && decide (cdw e 2 % 64 = 0) && decide (cdw e 3 / 2 ^ 56 = 0) && decide (cdw e 3 % 16 = 0) && decide (cdw e 5 / 8 = 0)
    && decide (cdw e 6 = 0) && decide (cdw e 7 = 0) && decide (2 ≤ cMfmt e) && decide (cMfmt e ≤ 5)
    && (decide (2 ≤ cWfmt e ∧ cWfmt e ≤ 5) || decide (12 ≤ cWfmt e ∧ cWfmt e ≤ 16)) && (rndOf (cRnd e)).isSome
    && decide (cOpt e ≠ 3) && decide (cdw e 1 % 2 ^ 20 ≤ 1000000) && decide (wireBytes (cWfmt e) (cCel e) ≤ 2032)

/-- The conditions of R309 on a descriptor itself. -/
def ringDescOk (r : List Word) : Bool :=
  let w := cdw r 0
  bitN w 0 && decide (w / 2 % 4 = 0) && decide (cdw r 2 / 2 ^ 56 = 0) && decide (cdw r 2 % 16 = 0)
    && ([4, 5, 6, 7].all fun i => decide (cdw r i = 0)) && decide (2 ≤ rM r) && decide (rRank r < rM r)
    && decide (rRoot r < rM r) && decide (rScope r ≤ 4) && decide (cdw r 1 / 2 ^ 44 ≤ 1000000) && decide (rPb r ≤ 11)
    && decide (rPj r ≤ 47)

/-- R309: the two channels of a ring agree. -/
def ringChansOk (se re : List Word) : Bool :=
  chanOk se && chanOk re && decide (cMfmt se = cMfmt re) && decide (cWfmt se = cWfmt re) && decide (cOp se = cOp re)
    && decide (cOpt se = cOpt re) && decide (cPri se = cPri re) && decide (cCel se = cCel re)

def Ctx.chan (y : Ctx) (c : Nat) : List Word := Tab.getRun 0 y.chans (8 * c) 8
def Ctx.ringDesc (y : Ctx) (r : Nat) : List Word := Tab.getRun 0 y.rings (8 * r) 8

/-- Credits and sequence number of a channel; a channel that no load or reload has set holds the DEPTH of its entry. -/
def Ctx.chst_ (y : Ctx) (c : Nat) : Nat × Nat := (Tab.find y.chst c).getD (cDepth (y.chan c), 0)

/-- Is `a` later than `b` (R310)? -/
def seqLater (a b : Nat) : Bool := let d := (a + 65536 - b % 65536) % 65536; decide (1 ≤ d) && decide (d ≤ 32767)

/-- Is `a` earlier than `b` (R310)? -/
def seqEarlier (a b : Nat) : Bool := decide (32768 ≤ (a + 65536 - b % 65536) % 65536)

/-! ## Commands -/

def Coll.p2p (k : Coll) : Bool := decide (6 ≤ k.kind)
/-- The entry that governs conversions: the ring's SCH entry, or the channel's own. -/
def Coll.gov (k : Coll) : List Word := k.se
def Coll.wf (k : Coll) : Nat := cWfmt k.gov
def Coll.mf (k : Coll) : EFmt := (EFmt.ofCode (cMfmt k.gov)).getD .fp32
def Coll.cel (k : Coll) : Nat := cCel k.gov
def Coll.mode (k : Coll) : Rnd := (rndOf (cRnd k.gov)).getD .rne
def Coll.m (k : Coll) : Nat := if k.p2p then 1 else rM k.ring
def Coll.r (k : Coll) : Nat := if k.p2p then 0 else rRank k.ring
def Coll.d (k : Coll) : Nat := (k.r + k.m - rRoot k.ring) % k.m
def Coll.slot (k : Coll) : Nat := if k.kind = 2 then rSlot k.ring else 0
def Coll.tmo (k : Coll) : Nat := 1100 * (if k.p2p then tmoOf (cdw k.se 1 % 2 ^ 20) else tmoOf (cdw k.ring 1 / 2 ^ 44))
/-- Kinds that combine (R317). -/
def Coll.combines (k : Coll) : Bool := decide (k.kind = 0) || decide (k.kind = 1) || decide (k.kind = 4)
/-- R314: the bits travel unchanged. -/
def Coll.plain (k : Coll) : Bool := !k.combines && decide (k.wf = cMfmt k.gov)
def Coll.wireKind (k : Coll) : Nat := if k.p2p then 7 else k.kind

/-- Offset and length of segment `i` (R315); no length where only its owner knows it. -/
def Coll.seg (k : Coll) (i : Nat) : Nat × Option Nat :=
  if k.slot ≠ 0 then (i * k.slot, if i = k.r then some k.n else none)
  else (i * (k.n / k.m) + min i (k.n % k.m), some (k.n / k.m + b2n (decide (i < k.n % k.m))))

/-- What a member receives at a step: offset, length, and whether it combines (R316). -/
def Coll.recvAt (k : Coll) (st : Nat) : Option (Nat × Option Nat × Bool) :=
  let m := k.m
  let sg := fun i c => let z := k.seg (i % m); some (z.1, z.2, c)
  match k.kind with
  | 0 => if st + 1 < m then sg (k.r + 2 * m - 2 - st) true else if st ≤ 2 * m - 3 then sg (k.r + 2 * m - 2 - st) false else none
  | 1 => if st + 1 < m then sg (k.r + 2 * m - 2 - st) true else none
  | 2 => if st + 1 < m then sg (k.r + 2 * m - 1 - st) false else none
  | 3 => if 1 ≤ k.d ∧ st + 1 = k.d then some (0, some k.n, false) else none
  | 4 => if (2 ≤ k.d ∧ st + 2 = k.d) ∨ (k.d = 0 ∧ st + 2 = m) then some (0, some k.n, true) else none
  | 5 => if st = 0 then some (0, some (k.n / 2), false) else none
  | 6 => if st = 0 then some (0, some k.n, false) else none
  | _ => none

/-- Steps of a command. -/
def Coll.steps (k : Coll) : Nat :=
  match k.kind with
  | 0 => 2 * k.m - 2
  | 5 => 1
  | 6 => 1
  | 7 => 1
  | _ => k.m - 1

/-- Does the member send at a step (R316)? -/
def Coll.sendsAt (k : Coll) (st : Nat) : Bool :=
  match k.kind with
  | 3 => decide (st = k.d) && decide (k.d + 2 ≤ k.m)
  | 4 => decide (1 ≤ k.d) && decide (st + 1 = k.d)
  | 6 => false
  | _ => decide (st < k.steps)

/-- The segment of own elements sent at step 0, if any: offset and length. -/
def Coll.ownSeg (k : Coll) : Option (Nat × Nat) :=
  let m := k.m
  let sg := fun i => let z := k.seg (i % m); some (z.1, z.2.getD 0)
  match k.kind with
  | 0 => sg (k.r + m - 1)
  | 1 => sg (k.r + m - 1)
  | 2 => sg k.r
  | 3 => if k.d = 0 then some (0, k.n) else none
  | 4 => if k.d = 1 then some (0, k.n) else none
  | 5 => some (0, k.n / 2)
  | 7 => some (0, k.n)
  | _ => none

/-- Chunk `j` of a segment: offset, count, LAST (R311). -/
def Coll.cut (k : Coll) (o n j : Nat) : Option (Nat × Nat × Bool) :=
  if j * k.cel < n then some (o + j * k.cel, min k.cel (n - j * k.cel), decide (n ≤ (j + 1) * k.cel)) else none

/-- The element of the local buffer at logical offset `i` (PXCH counts positions within the sent half, R321). -/
def Coll.elem (k : Coll) (i : Nat) : Nat :=
  if k.kind = 5 then
    let b := 1 - k.r / 2 ^ rPb k.ring % 2
    i / 2 ^ rPj k.ring * 2 ^ (rPj k.ring + 1) + b * 2 ^ rPj k.ring + i % 2 ^ rPj k.ring
  else i

/-- Is element `e` of the local buffer one that a PXCH exchanges (R321)? -/
def Coll.exchanged (k : Coll) (e : Nat) : Bool := decide (e / 2 ^ rPj k.ring % 2 = 1 - k.r / 2 ^ rPb k.ring % 2)

/-! ## Values on the wire (R314) -/

/-- A keyed word where the entry rounds by SR (R52). -/
def Coll.word (k : Coll) (stage e : Nat) : Nat :=
  if k.mode = .sr then roundWord (keyOf k.org.kseed.toNat (cTensor k.gov).toNat k.org.kstep.toNat) stage e else 0

/-- Blocks of `b` consecutive values with the element each starts at. -/
def blocksOf (b : Nat) : Nat → Nat → List XVal → List (Nat × List XVal)
  | 0, _, _ => []
  | f + 1, e, vs => if vs.isEmpty then [] else (e, vs.take b) :: blocksOf b f (e + b) (vs.drop b)

/-- enc of R314 for a chunk whose first element is `e`: bytes and flags. -/
def Coll.enc (k : Coll) (stage e : Nat) (vs : List XVal) : List Byte × Nat :=
  match EFmt.ofCode k.wf with
  | none => ([], 0)
  | some f =>
    match f.kbf, f.mx with
    | some b, _ =>
      let rs := (blocksOf 16 vs.length e vs).map fun z =>
        let pad := z.2 ++ List.replicate (16 - z.2.length) XVal.zero
        let c := kbfEncode b k.mode (cSat k.gov) pad ((List.range 16).map fun i => k.word stage (z.1 + i))
        (kbfHeader c.1 ++ kbfPlane b c.1, c.2)
      (rs.flatMap fun z => z.1, rs.foldl (fun a z => fOr a z.2) 0)
    | none, some ff =>
      let rs := (blocksOf 32 vs.length e vs).map fun z =>
        let c := mxEncode ff k.mode z.2 ((List.range 32).map fun i => k.word stage (z.1 + i))
        ((BitVec.ofNat 8 c.1 :: c.2.1.map fun v => BitVec.ofNat 8 v) ++ List.replicate (32 - z.2.length) (0 : Byte), c.2.2)
      (rs.flatMap fun z => z.1, rs.foldl (fun a z => fOr a z.2) 0)
    | none, none =>
      let rs := vs.mapIdx fun i v => encodeElem f 0 k.mode (cSat k.gov) (k.word stage (e + i)) v
      (rs.flatMap fun z => leBytes f.bytes z.1, rs.foldl (fun a z => fOr a z.2) 0)

/-- dec of R314: the exact values of a chunk of `n` elements. -/
def decWire (wf n : Nat) (bs : List Byte) : List XVal :=
  match EFmt.ofCode wf with
  | none => []
  | some f =>
    (List.range n).map fun i =>
      match f.kbf, f.mx with
      | some b, _ =>
        let p := bs.drop (i / 16 * (kbfCodeBytes b + 2))
        kbfElem b (kbfOfBytes b (p.drop 2 |>.take (kbfCodeBytes b)) (p.take 2)) (i % 16)
      | none, some ff =>
        let p := bs.drop (i / 32 * 33)
        mxElem ff (nth 0 p 0).toNat (nth 0 p (1 + i % 32)).toNat
      | none, none => decodeElem f 0 (leNat ((bs.drop (i * f.bytes)).take f.bytes))

/-- f of R317 on exact values, `y` earlier: one FP32 operation (R293, R229, R230). -/
def foldVal (op : Nat) (y x : XVal) : XVal × Nat :=
  if op = 1 then
    let r := fpRound (xadd .rne y x)
    (f32Val r.1, r.2)
  else
    let fl := nvIf (y.isSig || x.isSig)
    if y.isNan && x.isNan then (.nan false, fl)
    else if y.isNan then (x, fl)
    else if x.isNan then (y, fl)
    else
      let lt : Bool := match xcmp y x with | .lt => true | .gt => false | .eq => y.isNeg && !x.isNeg
      (if lt = decide (op = 2) then x else y, fl)

/-! ## The optimiser stage (R324, R325) -/

/-- Word `n` of the descriptor's low or high half. -/
def Coll.optw (k : Coll) (n : Nat) (hi : Bool) : Nat := if hi then cdw k.opt n / 2 ^ 32 else cdw k.opt n % 2 ^ 32

/-- The base of the words of kind `q`: 1 WBASE, 2 MBASE, 3 VBASE. -/
def Coll.optBase (k : Coll) (q : Nat) : Nat := cdw k.opt (4 + q)

def seqOp (r : Nat × Nat) (f : Nat → Nat × Nat) : Nat × Nat := let z := f r.1; (z.1, fOr r.2 z.2)
def seqOp2 (r t : Nat × Nat) (f : Nat → Nat → Nat × Nat) : Nat × Nat := let z := f r.1 t.1; (z.1, fOr (fOr r.2 t.2) z.2)

/-- R325: gradient, weight and moments to the new weight and moments, with flags. -/
def Coll.optimise (k : Coll) (g w m v : Nat) : Nat × Nat × Nat × Nat :=
  let c := k.optw
  let g1 := fMul g (c 4 true)
  if cOpt k.gov = 1 then
    let g2 := seqOp2 g1 (fMul (c 0 true) w) fAdd
    let m' := seqOp2 (fMul (c 1 false) m) g2 fAdd
    let w' := seqOp (seqOp m' (fMul (c 0 false))) (fSub w)
    (w'.1, m'.1, v, w'.2)
  else
    let m' := seqOp2 (fMul (c 1 false) m) (seqOp g1 (fMul (c 1 true))) fAdd
    let v' := seqOp2 (fMul (c 2 false) v) (seqOp (seqOp2 g1 g1 fMul) (fMul (c 2 true))) fAdd
    let root := seqOp (seqOp (seqOp v' fun a => fMul a (c 3 true)) fSqrt) fun a => fAdd a (c 4 false)
    let u := seqOp2 (seqOp m' fun a => fMul a (c 3 false)) root fDiv
    let w1 := seqOp (seqOp (fMul (c 0 true) w) (fMul (c 0 false))) (fSub w)
    let w' := seqOp2 w1 (seqOp u (fMul (c 0 false))) fSub
    (w'.1, m'.1, v'.1, w'.2)

/-! ## Machine state of commands -/

def collOf (s : State) (id : Nat) : Option Coll := s.colls.find? fun k => decide (k.id = id)

def putColl (k : Coll) (s : State) : State := { s with colls := s.colls.map fun j => if j.id = k.id then k else j }

/-- CLSTAT.INFL (R304). -/
def setInfl (x : Nat) (s : State) : State := s.setFld (clOff x + 0x18) 0 11 (s.colls.filter fun k => decide (k.ctx = x)).length

/-- A packet of kind CHUNK for context `dctx` of package `pkg`: through the fabric, or at once where that is this package. Of the
destination address only the package is not zero: R289 routes by it (log entry 17). -/
def sendTo (pkg dctx : Nat) (pri : Bool) (pay : List Byte) (s : State) : State :=
  let p : Packet :=
    { kind := .chunk, vc := b2n pri, det := false, hops := 0, dctx := dctx, status := 0, len := pay.length,
      srcPkg := s.pkg, srcCore := 0xFF, op := 0, fmt := 0, frac := 0, tag := 0, addr := pkg * 2 ^ 44, group := 0,
      payload := pay }
  if pkg = s.pkg then { s with agenda := s.agenda ++ [packetStep 0 p] } else { s with outbox := s.outbox ++ [p] }

/-- A packet for the other end of a channel. -/
def sendChunk (e : List Word) (pri : Bool) (pay : List Byte) (s : State) : State := sendTo (cPeer e) (cPctx e) pri pay s

/-- The 16-byte chunk header (R312). -/
def chunkHead (ch : Nat) (last abt crd : Bool) (wf kind step seq low : Nat) : List Byte :=
  leBytes 2 (ch % 4096 + b2n last * 2 ^ 12 + b2n abt * 2 ^ 13 + b2n crd * 2 ^ 14) ++ leBytes 1 (wf % 32) ++ leBytes 1 kind
    ++ leBytes 2 step ++ leBytes 2 seq ++ leBytes 8 low

/-- One credit goes back for a chunk of the command numbered `seq` (R313). -/
def giveCredit (e : List Word) (wf kind step seq : Nat) (s : State) : State :=
  sendChunk e (cPri e) (chunkHead (cPch e) false false true wf kind step seq 1) s

/-- Abort markers (R331). -/
def sendMarker (e : List Word) (k : Coll) (a : Nat × Nat × Nat × Nat) (s : State) : State :=
  let why := if a.1 = 1 then a.2.1 else a.1
  sendChunk e (cPri e) (chunkHead (cPch e) false true false k.wf k.wireKind a.2.2.1 k.seq (a.2.2.2 % 2 ^ 12 + why % 8 * 2 ^ 12)) s

/-- Has every chunk of what is received at a step arrived (R316, R430)? -/
def Coll.recvDone (k : Coll) (st : Nat) : Bool :=
  match k.recvAt st with
  | none => true
  | some (o, ln, _) =>
    let mine := k.got.filter fun g => decide (g.1 = st)
    let have_ := (mine.map fun g => g.2.2.1).foldl (· + ·) 0
    match ln with
    | some n => decide (have_ = n)
    | none => match mine.find? fun g => g.2.2.2 with
      | some g => decide (have_ = g.2.1 + g.2.2.1 - o)
      | none => false

/-- Number of own chunks. -/
def Coll.ownChunks (k : Coll) : Nat := match k.ownSeg with | none => 0 | some (_, n) => (n + k.cel - 1) / k.cel

/-- A step is complete (R316). -/
def Coll.stepDone (k : Coll) (st : Nat) : Bool :=
  k.recvDone st && (!k.sendsAt st ||
    ((if st = 0 then decide (k.ownChunks ≤ k.own) else k.recvDone (st - 1)) && !(k.toSend.any fun w => decide (w.step = st))
      && decide ((k.sent.filter (· == st)).length = (k.back.filter (· == st)).length)))

/-- The lowest incomplete step and the suspected peer (R330). -/
def Coll.blame (k : Coll) : Nat × Nat :=
  let st := ((List.range k.steps).find? fun i => !k.stepDone i).getD 0
  (st, if k.recvDone st then cPeer k.se else cPeer k.re)

/-- Drop the requests of a command except its writes. -/
def dropColl (id : Nat) (s : State) : State := [1, 4, 5, 6, 8].foldl (fun s w => dropReqs (.coll id w) s) s

/-- R331: a command aborts once; `from_` is the channel a marker came from. Credits go back for what it held, of which it notes
what has come (R430). -/
def abortColl (k : Coll) (reason cause : Nat) (at_ : Option (Nat × Nat)) (from_ : Option Nat) (s : State) : State :=
  if k.abort.isSome ∨ k.phase = 3 then s
  else
    let b := at_.getD k.blame
    let a := (reason, cause, b.1, b.2)
    let got := k.got ++ k.early.map fun w => (w.step, w.off, w.n, w.last)
    let s := dropColl k.id (putColl { k with abort := some a, toSend := [], early := [], got := got } s)
    let s := k.early.foldl (fun s w => giveCredit k.re k.wf k.wireKind w.step k.seq s) s
    let s := if k.kind ≠ 6 ∧ from_ ≠ some k.sch then sendMarker k.se k a s else s
    if k.kind ≠ 7 ∧ from_ ≠ some k.rch ∧ (k.kind = 6 ∨ k.sch ≠ k.rch) then sendMarker k.re k a s else s

/-- The abort reason for an answer: REJECT, XLAT, MEMERR or UNREACH (R319, R330). -/
def abortReason (z : Nat × Nat) : Nat × Nat :=
  if z.1 = stMEMERR then (4, 0) else if z.1 = stUNREACH then (7, 0) else if z.2 = cWALKERR then (3, z.2) else (2, 0)

/-! ## Issue (R310, R329, R352) -/

/-- Elements of the local buffer. -/
def Coll.span (k : Coll) : Nat := if k.slot ≠ 0 then k.m * k.slot else k.n

/-- The status of R329 at issue; 0 where the command may run. -/
def Coll.check (k : Coll) (en1 en2 : Bool) : Nat :=
  let size := k.mf.bytes
  let opOk := if k.combines then decide (cOp k.gov ≠ 0) else decide (cOp k.gov = 0)
  let optOk := decide (cOpt k.gov = 0) || ((decide (k.kind = 0) || decide (k.kind = 1)) && decide (cOp k.gov = 1))
  let valid := if k.p2p then en1 && chanOk k.se else en1 && en2 && ringDescOk k.ring && ringChansOk k.se k.re
  if !valid || !opOk || !optOk then 17
  else
    let slot := if k.p2p then 0 else rSlot k.ring
    let tooBig := cPri k.gov && decide (65536 < k.span * size)
    let bad := decide (k.n = 0) || decide (2 ^ 40 ≤ k.n) || decide (k.addr.toNat % size ≠ 0) || tooBig
      || (decide (k.kind ≤ 2) && decide (slot = 0) && decide (k.n < k.m)) || (decide (k.kind = 2) && decide (slot ≠ 0) && decide (slot < k.n))
      || (!k.p2p && decide (slot ≠ 0) && decide (k.kind ≠ 2))
      || (decide (k.kind = 5) && (decide (k.wf ≠ cMfmt k.gov) || decide (k.m ≤ nxor k.r (2 ^ rPb k.ring)) || decide (k.n % 2 ^ (rPj k.ring + 1) ≠ 0)))
    if bad then 18 else 0

/-- The record half of a collective (R327). -/
def collLo (st cause flags reason step peer : Nat) : Word := recLo st cause flags reason (step % 65536 + peer % 65536 * 65536)

/-- A collective command issues. -/
def issueColl (kind : Nat) (a b : RegF) (ch : Nat) (s : State) : State :=
  let c := s.cur.core
  let x := s.ctxOf c
  let y := s.ctx x
  let p2p := decide (6 ≤ kind)
  let ring := if p2p then [] else y.ringDesc ch
  let sch := if p2p then ch else rSch ring
  let rch := if p2p then ch else rRch ring
  let k : Coll :=
    { id := s.nextId, ctx := x, core := c, org := originOf s, kind := kind, sch := sch, rch := rch, se := y.chan sch,
      re := y.chan rch, ring := ring, addr := rdS s a, n := (rdS s b).toNat,
      scope := if p2p then cdw (y.chan ch) 5 % 8 else rScope ring,
      va := (if p2p then cdw (y.chan ch) 3 else cdw ring 2) % 2 ^ 56 / 16 * 16,
      stamp := if p2p then nth 0 (y.chan ch) 4 else nth 0 ring 3, seq := 0, timer := 0, own := 0, sent := [], back := [],
      got := [], toSend := [], early := [], loc := [], opt := [], optEnt := [], flags := 0, keyed := false, abort := none,
      phase := 0 }
  let en1 := s.flag (clOff x) 0
  let en2 := s.flag (clOff x + 8) 0
  let st := k.check en1 en2
  let descValid := if p2p then en1 && chanOk k.se else en2 && ringDescOk ring
  let advance := fun (s : State) =>
    let y := s.ctx x
    s.putCtx x (if p2p then { y with chans := Tab.set 0 y.chans (8 * ch + 4) (k.stamp + 1) }
      else { y with rings := Tab.set 0 y.rings (8 * ch + 3) (k.stamp + 1) })
  if st = 0 then setInfl x { advance s with colls := s.colls ++ [k], nextId := s.nextId + 1 }
  else if descValid then
    let s := { advance s with colls := s.colls ++ [{ k with phase := 3 }], nextId := s.nextId + 1 }
    let s := settle (addRec (.coll k.id) x c k.org 2 k.va (collLo st 0 0 0 0xFFFF 0xFFFF) k.stamp s)
    setInfl x (if recPending s (.coll k.id) then s else { s with colls := s.colls.filter fun j => decide (j.id ≠ k.id) })
  else postFault x c k.org k.addr cDESC 3 2 0 s

/-- CSEND (R321, R352). -/
def execCsend (a b : RegF) (ch : BitVec 12) (s : State) : Host.Outcome State Fault Refusal :=
  runSlot [a, b] (.ok (issueColl 7 a b ch.toNat s)) s

/-- CRECV (R321, R352). -/
def execCrecv (a b : RegF) (ch : BitVec 12) (s : State) : Host.Outcome State Fault Refusal :=
  runSlot [a, b] (.ok (issueColl 6 a b ch.toNat s)) s

/-- CCOLL ALLRED (R316, R352). -/
def execCcollAllred (a b : RegF) (r : BitVec 10) (s : State) : Host.Outcome State Fault Refusal :=
  runSlot [a, b] (.ok (issueColl 0 a b r.toNat s)) s

/-- CCOLL REDSCAT (R316, R352). -/
def execCcollRedscat (a b : RegF) (r : BitVec 10) (s : State) : Host.Outcome State Fault Refusal :=
  runSlot [a, b] (.ok (issueColl 1 a b r.toNat s)) s

/-- CCOLL ALLGATH (R316, R352). -/
def execCcollAllgath (a b : RegF) (r : BitVec 10) (s : State) : Host.Outcome State Fault Refusal :=
  runSlot [a, b] (.ok (issueColl 2 a b r.toNat s)) s

/-- CCOLL BCAST (R316, R352). -/
def execCcollBcast (a b : RegF) (r : BitVec 10) (s : State) : Host.Outcome State Fault Refusal :=
  runSlot [a, b] (.ok (issueColl 3 a b r.toNat s)) s

/-- CCOLL REDUCE (R316, R352). -/
def execCcollReduce (a b : RegF) (r : BitVec 10) (s : State) : Host.Outcome State Fault Refusal :=
  runSlot [a, b] (.ok (issueColl 4 a b r.toNat s)) s

/-- CCOLL PXCH (R321, R352). -/
def execCcollPxch (a b : RegF) (r : BitVec 10) (s : State) : Host.Outcome State Fault Refusal :=
  runSlot [a, b] (.ok (issueColl 5 a b r.toNat s)) s

/-! ## Reads and writes of the local buffer (R319) -/

/-- Base address and word size of the words of kind `q`: 0 the local buffer, 1 to 3 the optimiser's. -/
def Coll.base (k : Coll) (q : Nat) : Nat := if q = 0 then k.addr.toNat else k.optBase q
def Coll.wsize (k : Coll) (q : Nat) : Nat := if q = 0 then k.mf.bytes else 4
def whatOf (q : Nat) : Nat := if q = 0 then 1 else 3 + q

/-- Runs of consecutive elements of a rising list. -/
def elemRuns : List Nat → List (Nat × Nat)
  | [] => []
  | e :: es =>
    match elemRuns es with
    | (f, n) :: rs => if f = e + 1 then (e, n + 1) :: rs else (e, 1) :: (f, n) :: rs
    | [] => [(e, 1)]

/-- Requests the words of kind `q` of the elements, the optimiser's under the CURRENT selector (R325); a failing translation
answers its cause. -/
def Coll.ask (k : Coll) (q : Nat) (es : List Nat) (s : State) : State × Option Nat :=
  let runs := (elemRuns es).flatMap fun r => piecesOf (k.base q + r.1 * k.wsize q) (r.2 * k.wsize q)
  runs.foldl (fun z r =>
    match z.2 with
    | some _ => z
    | none =>
      match (if q = 0 then xlate z.1 k.ctx k.org r.1 .read else translate z.1 k.ctx r.1 .current k.org.pairs .read) with
      | .error c => (z.1, some c)
      | .ok l => (request ⟨.coll k.id (whatOf q), .readreq, r.1, r.2, 0xFF, k.org, 0, 0, 0, []⟩ l z.1, none)) (s, none)

/-- The words that answered reads of kind `q` hold enter the command. -/
def Coll.absorb (k : Coll) (q : Nat) (rs : List Req) : Coll :=
  { k with loc := rs.foldl (fun t r =>
      let e0 := (r.va - k.base q) / k.wsize q
      match r.res with
      | none => t
      | some a => (List.range (r.n / k.wsize q)).foldl (fun t i =>
          Tab.put t (4 * (e0 + i) + q) (leNat ((a.data.drop (i * k.wsize q)).take (k.wsize q)))) t) k.loc }

/-- Elements of a chunk whose words of kind `q` have not been read. -/
def Coll.missing (k : Coll) (q o n : Nat) : List Nat :=
  ((List.range n).map fun i => k.elem (o + i)).filter fun e => !Tab.has k.loc (4 * e + q)

def Coll.val (k : Coll) (e : Nat) : XVal := decodeElem k.mf 0 (Tab.get 0 k.loc (4 * e))

/-- Writes words of kind `q` (bytes per element); optimiser words go to the OTHER generation (R325, R326). -/
def Coll.put (k : Coll) (q : Nat) (ws : List (Nat × List Byte)) (s : State) : State × Option Nat × List Nat :=
  ws.foldl (fun z w =>
    match z.2.1 with
    | some _ => z
    | none =>
      let va := k.base q + w.1 * k.wsize q
      let x := if q = 0 then xlate z.1 k.ctx k.org va .write else translate z.1 k.ctx va .other k.org.pairs .write
      match x with
      | .error c => (z.1, some c, z.2.2)
      | .ok l =>
        let s := request ⟨.coll k.id 2, .write, va, w.2.length, 0xFF, k.org, 0, 0, 0, w.2⟩ l z.1
        (s, none, match l.entry with | some i => if q = 0 then z.2.2 else i :: z.2.2 | none => z.2.2)) (s, none, [])

/-! ## Producing, taking and sending chunks -/

/-- The command notes flags, and a keyed use once (R314). -/
def Coll.note (k : Coll) (fl : Nat) (converts : Bool) (s : State) : Coll × State :=
  let use := converts && decide (k.mode = .sr) && !k.keyed
  ({ k with flags := fOr k.flags fl, keyed := k.keyed || use },
   if use then postKey k.ctx k.core 2 k.org (cTensor k.gov) k.org.kstep k.addr s else s)

/-- Landing of a chunk's bits in the local buffer (R318, R319): writes, flags. -/
def Coll.landing (k : Coll) (o n : Nat) (data : List Byte) : List (Nat × List Byte) × Nat :=
  let size := k.mf.bytes
  if k.plain then ((List.range n).map fun i => (k.elem (o + i), (data.drop (i * size)).take size), 0)
  else
    let rs := (decWire k.wf n data).mapIdx fun i v =>
      (k.elem (o + i), encodeElem k.mf 0 k.mode (cSat k.gov) (k.word 2 (o + i)) v)
    (rs.map fun z => (z.1, leBytes size z.2.1), rs.foldl (fun a z => fOr a z.2.2) 0)

/-- A chunk of final values lands here. -/
def landChunk (k : Coll) (o n : Nat) (data : List Byte) (s : State) : State :=
  let w := k.landing o n data
  let z := k.note w.2 (!k.plain) s
  let r := z.1.put 0 w.1 (putColl z.1 z.2)
  match r.2.1 with
  | some c => abortColl z.1 3 c none none r.1
  | none => r.1

/-- The next own chunk of step 0 is formed from the local elements; the kinds whose origin keeps the value land it. -/
def produceOwn (k : Coll) (o n : Nat) (last : Bool) (s : State) : State :=
  let vals := (List.range n).map fun i => k.val (k.elem (o + i))
  let e := if k.plain then
      (((List.range n).flatMap fun i => leBytes k.mf.bytes (Tab.get 0 k.loc (4 * k.elem (o + i)))), 0)
    else k.enc 1 o vals
  let z := k.note e.2 (!k.plain) s
  let k1 := { z.1 with own := k.own + 1, toSend := k.toSend ++ [⟨0, o, n, last, e.1⟩] }
  let s := putColl k1 z.2
  if k.kind = 2 ∨ k.kind = 3 then landChunk k1 o n e.1 s else s

/-- A chunk of final values at the owner, the optimiser stage first (R317, R318, R325). -/
def finalChunk (k : Coll) (w : Wire) (vs : List XVal) (s : State) : State :=
  let opt := decide (cOpt k.gov ≠ 0)
  let outs := vs.mapIdx fun i v =>
    let e := w.off + i
    let t := fun q => Tab.get 0 k.loc (4 * e + q)
    (e, k.optimise (f32Rne v).1 (t 1) (t 2) (t 3))
  let vals := if opt then outs.map fun z => f32Val z.2.1 else vs
  let fl := if opt then outs.foldl (fun a z => fOr a z.2.2.2.2) 0 else 0
  let en := k.enc (if opt then 3 else 1) w.off vals
  let z := k.note (fOr fl en.2) true s
  let k1 := if k.kind = 0 then { z.1 with toSend := z.1.toSend ++ [{ w with step := w.step + 1, data := en.1 }] } else z.1
  let s := putColl k1 z.2
  if opt then
    let put := fun q (f : Nat × Nat × Nat × Nat → Nat) (s : State) => k1.put q (outs.map fun z => (z.1, leBytes 4 (f z.2))) s
    let a := put 1 (fun z => z.1) s
    let b := if a.2.1.isSome then a else put 2 (fun z => z.2.1) a.1
    let c := if b.2.1.isSome ∨ cOpt k.gov = 1 then (b.1, b.2.1, []) else put 3 (fun z => z.2.2.1) b.1
    match c.2.1 with
    | some cause => abortColl k1 3 cause none none c.1
    | none =>
      let k2 := { k1 with optEnt := (k1.optEnt ++ a.2.2 ++ b.2.2 ++ c.2.2).eraseDups }
      landChunk k2 w.off w.n en.1 (putColl k2 c.1)
  else landChunk k1 w.off w.n en.1 s

/-- A received chunk is combined, landed, forwarded (R316 to R318) and its credit goes back. -/
def takeWire (k : Coll) (w : Wire) (combines : Bool) (s : State) : State :=
  let k := { k with early := k.early.filter (fun v => decide (v ≠ w)), got := k.got ++ [(w.step, w.off, w.n, w.last)] }
  let s := giveCredit k.re k.wf k.wireKind w.step k.seq (putColl k s)
  if combines then
    let rs := (decWire k.wf w.n w.data).mapIdx fun i y => foldVal (cOp k.gov) y (k.val (w.off + i))
    let z := k.note (rs.foldl (fun a r => fOr a r.2) 0) false s
    let vs := rs.map fun r => r.1
    if k.sendsAt (w.step + 1) ∧ ¬ (k.kind = 0 ∧ w.step + 2 = k.m) then
      let e := z.1.enc 1 w.off vs
      let y := z.1.note e.2 true (putColl z.1 z.2)
      putColl { y.1 with toSend := y.1.toSend ++ [{ w with step := w.step + 1, data := e.1 }] } y.2
    else finalChunk z.1 w vs (putColl z.1 z.2)
  else
    let k1 := if k.kind ≠ 5 ∧ k.sendsAt (w.step + 1) then
        { k with toSend := k.toSend ++ [{ w with step := w.step + 1 }] } else k
    landChunk k1 w.off w.n w.data (putColl k1 s)

/-- The local and optimiser words that a received chunk needs: (kind, elements). -/
def Coll.wants (k : Coll) (w : Wire) (combines : Bool) : List (Nat × List Nat) :=
  let final := combines && (!k.sendsAt (w.step + 1) || (decide (k.kind = 0) && decide (w.step + 2 = k.m)))
  let l := if combines ∨ k.kind = 5 then [(0, k.missing 0 w.off w.n)] else []
  let o := if final ∧ cOpt k.gov ≠ 0 then
      [(1, k.missing 1 w.off w.n), (2, k.missing 2 w.off w.n)] ++ (if cOpt k.gov = 2 then [(3, k.missing 3 w.off w.n)] else [])
    else []
  (l ++ o).filter fun z => !z.2.isEmpty

/-- Reads of the command are out. -/
def reading (s : State) (id : Nat) : Bool := [1, 4, 5, 6, 8].any fun w => !(reqsOf s (.coll id w)).isEmpty

/-- Asks for words; a failing translation aborts with XLAT. -/
def askWords (k : Coll) (ws : List (Nat × List Nat)) (s : State) : State :=
  let r := ws.foldl (fun (z : State × Option Nat) w => if z.2.isSome then z else k.ask w.1 w.2 z.1) (s, none)
  match r.2 with
  | some c => abortColl k 3 c none none r.1
  | none => r.1

/-- Is the command's bulk traffic held by a priority command on its way out (R323)? -/
def heldByShadow (s : State) (k : Coll) : Bool := !cPri k.gov && (routePorts s (cPeer k.se)).any fun i => (s.port i).shadow

/-- One move of a running command, if there is one: answers in, a chunk out, an own chunk formed, a chunk taken.
A chunk that waits for a credit holds up no arrival (R313). -/
def moveColl (k : Coll) (s : State) : Option State :=
  let rd := [0, 1, 2, 3].find? fun q => !(reqsOf s (.coll k.id (whatOf q))).isEmpty && !openReqs s (.coll k.id (whatOf q))
  match rd with
  | some q =>
    let rs := reqsOf s (.coll k.id (whatOf q))
    let z := worstOf rs
    let s := dropReqs (.coll k.id (whatOf q)) s
    if z.1 ≠ 0 then let a := abortReason z; some (abortColl k a.1 a.2 none none s) else some (putColl (k.absorb q rs) s)
  | none =>
    let ws := reqsOf s (.coll k.id 2)
    if !ws.isEmpty ∧ !openReqs s (.coll k.id 2) then
      let z := worstOf ws
      let s := digestReqs k.ctx ws (dropReqs (.coll k.id 2) s)
      if z.1 ≠ 0 ∧ k.abort.isNone then let a := abortReason z; some (abortColl k a.1 a.2 none none s) else some s
    else if k.abort.isSome then none
    else
      let cr := ((s.ctx k.ctx).chst_ k.sch)
      let held := decide (cr.1 = 0) || heldByShadow s k
      match k.toSend, held with
      | w :: more, false =>
        let y := s.ctx k.ctx
        let s := s.putCtx k.ctx { y with chst := Tab.put y.chst k.sch (cr.1 - 1, cr.2) }
        let h := chunkHead (cPch k.se) w.last false false k.wf k.wireKind w.step k.seq (w.off % 2 ^ 40 + (w.n - 1) % 2 ^ 11 * 2 ^ 40)
        some (sendChunk k.se (cPri k.gov) (h ++ w.data) (putColl { k with toSend := more, sent := k.sent ++ [w.step] } s))
      | waiting, _ =>
        if reading s k.id then none
        else
          match (if waiting.isEmpty then k.ownSeg.bind fun z => k.cut z.1 z.2 k.own else none) with
          | some (o, n, last) =>
            let ms := k.missing 0 o n
            if ms.isEmpty then some (produceOwn k o n last s) else some (askWords k [(0, ms)] s)
          | none =>
            match k.early with
            | [] => none
            | w :: _ =>
              let cb := match k.recvAt w.step with | some z => z.2.2 | none => false
              let ws := k.wants w cb
              if ws.isEmpty then some (takeWire k w cb s) else some (askWords k ws s)

/-- A running command moves until it must wait. -/
def pump : Nat → Nat → State → State
  | 0, _, s => s
  | f + 1, id, s =>
    match collOf s id with
    | none => s
    | some k =>
      if k.phase ≠ 2 then s
      else match moveColl k s with | none => s | some s' => pump f id s'

/-- Moves enough for what one step can bring. -/
def pumped (id : Nat) (s : State) : State := settle (pump 4096 id s)

/-! ## Packets of channels (R313, R330, R331) -/

/-- A chunk's header fields: channel, LAST, WFMT, kind, step, sequence number, bytes 15:8. -/
structure CHead where
  ch   : Nat
  last : Bool
  wf   : Nat
  kind : Nat
  step : Nat
  seq  : Nat
  low  : Nat
  deriving DecidableEq, Repr

def headOf (p : Packet) : CHead :=
  let f := fun i n => leNat ((p.payload.drop i).take n)
  ⟨f 0 2 % 4096, bitN (f 0 2) 12, f 2 1 % 32, f 3 1, f 4 2, f 6 2, f 8 8⟩

/-- The running command of a channel. -/
def onChannel (s : State) (x ch : Nat) (send : Bool) : Option Coll :=
  s.colls.find? fun k => decide (k.ctx = x) && decide (k.phase = 1 ∨ k.phase = 2) && decide ((if send then k.sch else k.rch) = ch)

/-- The chunks of a step that have come: offset, count, LAST. -/
def Coll.came (k : Coll) (st : Nat) : List (Nat × Nat × Bool) :=
  ((k.got.filter fun g => decide (g.1 = st)).map fun g => g.2) ++ ((k.early.filter fun w => decide (w.step = st)).map fun w => (w.off, w.n, w.last))

/-- R321, R330, SHAPE: does a chunk agree with the command? LAST stands in the chunk that ends what the step brings. A CRECV cuts
by its own entry's CSH, also where the sender's differs (the model's choice, log entry 92). -/
def Coll.shape (k : Coll) (h : CHead) (len : Nat) : Bool :=
  let o := h.low % 2 ^ 40
  let n := h.low / 2 ^ 40 % 2 ^ 11 + 1
  decide (h.kind = k.wireKind) && decide (h.wf = k.wf) && decide (len = 16 + wireBytes k.wf n) &&
    match k.recvAt h.step with
    | none => false
    | some (so, some ln, _) => decide (so ≤ o) && decide ((o - so) % k.cel = 0) && decide (o < so + ln) && decide (n = min k.cel (so + ln - o))
        && (h.last == decide (so + ln ≤ o + n))
    | some (so, none, _) => decide (so ≤ o) && decide ((o - so) % k.cel = 0) && decide (n ≤ k.cel) && decide (o + n ≤ so + k.slot)
        && (h.last || decide (n = k.cel)) && (k.came h.step).all fun g => if g.2.2 then decide (o + n ≤ g.1 + g.2.1) else !h.last || decide (g.1 + g.2.1 ≤ o)

/-- The command notes a chunk that has come (R430). -/
def Coll.noteGot (k : Coll) (h : CHead) : Coll :=
  { k with got := k.got ++ [(h.step, h.low % 2 ^ 40, h.low / 2 ^ 40 % 2 ^ 11 + 1, h.last)] }

/-- A data chunk reaches its context's channel. -/
def takeChunk (p : Packet) (s : State) : State :=
  let h := headOf p
  let x := p.dctx
  let y := s.ctx x
  let e := y.chan h.ch
  if killed s x then
    sendTo p.srcPkg (cPctx e) (bitN p.vc 0) (chunkHead (cPch e) false true false h.wf h.kind h.step h.seq (s.pkg + 6 * 2 ^ 12)) s
  else if s.ctxState x = 0 then s
  else
    let back := giveCredit e h.wf h.kind h.step h.seq
    match onChannel s x h.ch false with
    | some k =>
      if h.seq = k.seq then
        if k.abort.isSome then
          giveCredit k.re h.wf h.kind h.step h.seq (if k.shape h p.payload.length then putColl (k.noteGot h) s else s)
        else if k.shape h p.payload.length = false then
          abortColl k 5 0 none none (giveCredit k.re h.wf h.kind h.step h.seq s)
        else
          let w : Wire := ⟨h.step, h.low % 2 ^ 40, h.low / 2 ^ 40 % 2 ^ 11 + 1, h.last, p.payload.drop 16⟩
          if (k.got.any fun g => decide (g.1 = w.step ∧ g.2.1 = w.off)) ∨ (k.early.any fun v => decide (v.step = w.step ∧ v.off = w.off)) then
            giveCredit k.re h.wf h.kind h.step h.seq s
          else pumped k.id (putColl { k with early := k.early ++ [w], timer := 0 } s)
      else if seqLater h.seq k.seq then s.putCtx x { y with chHeld := y.chHeld ++ [p] }
      else back s
    | none =>
      let next := (y.chst_ h.ch).2
      if h.seq = next ∨ seqLater h.seq next then s.putCtx x { y with chHeld := y.chHeld ++ [p] } else back s

/-- CHUNK (R313): held, discarded, combined, landed or forwarded by its sequence number and offset. -/
def execChunk (p : Packet) (s : State) : Host.Outcome State Fault Refusal := .next (takeChunk p s)

/-- An abort marker reaches its context's channel. -/
def takeMarker (p : Packet) (s : State) : State :=
  let h := headOf p
  let x := p.dctx
  let y := s.ctx x
  let hit := match onChannel s x h.ch false with
    | some k => if h.seq = k.seq then some k else none
    | none => none
  let hit := match hit with
    | some k => some k
    | none => match onChannel s x h.ch true with
      | some k => if h.seq = k.seq then some k else none
      | none => none
  match hit with
  | some k => pumped k.id (abortColl k 1 (h.low / 2 ^ 12 % 8) (some (h.step, h.low % 2 ^ 12)) (some h.ch) s)
  | none =>
    let next := (y.chst_ h.ch).2
    if s.ctxState x ≠ 0 ∧ killed s x = false ∧ (h.seq = next ∨ seqLater h.seq next) then s.putCtx x { y with chHeld := y.chHeld ++ [p] } else s

/-- ABORT_MARKER (R331). -/
def execAbortMarker (p : Packet) (s : State) : Host.Outcome State Fault Refusal := .next (takeMarker p s)

/-- CREDIT_RETURN (R313, R433): credits come back; those numbered before a reload are ignored. -/
def execCreditReturn (p : Packet) (s : State) : Host.Outcome State Fault Refusal :=
  let h := headOf p
  let x := p.dctx
  let y := s.ctx x
  let n := h.low % 128
  let old := match Tab.find y.chNum h.ch with | some q => seqEarlier h.seq q | none => false
  if old then .next s
  else
    let c := y.chst_ h.ch
    let s := s.putCtx x { y with chst := Tab.put y.chst h.ch (c.1 + n, c.2) }
    match onChannel s x h.ch true with
    | some k =>
      if h.seq = k.seq then .next (pumped k.id (putColl { k with back := k.back ++ List.replicate n h.step, timer := 0 } s))
      else .next (pumped k.id s)
    | none => .next s

/-! ## Start and end (R310, R326, R327) -/

/-- Channels of a command. -/
def Coll.chansOf (k : Coll) : List Nat := if k.sch = k.rch then [k.sch] else [k.sch, k.rch]

/-- Do two commands share a channel? -/
def shares (j k : Coll) : Bool := decide (j.ctx = k.ctx) && j.chansOf.any fun c => k.chansOf.any (· == c)

/-- May the command start (R310, R323)? -/
def mayStart (s : State) (k : Coll) : Bool :=
  !(s.colls.any fun j => decide (j.id < k.id) && (shares j k
      || (cPri j.gov && cPri k.gov && decide (j.phase ≤ 2) && (routePorts s (cPeer j.se)).any fun i => (routePorts s (cPeer k.se)).any (· == i))))

/-- Is a held packet one for the command? -/
def Coll.heldFor (k : Coll) (p : Packet) : Bool := let h := headOf p; (k.chansOf.any (· == h.ch)) && decide (h.seq = k.seq)

/-- Held packets that are no longer held. -/
def unhold (x : Nat) (mine : Packet → Bool) (s : State) : State :=
  s.putCtx x { s.ctx x with chHeld := (s.ctx x).chHeld.filter fun p => !mine p }

/-- Is the packet an abort marker? -/
def isMarker (p : Packet) : Bool := bitN (leNat (p.payload.take 2)) 13

/-- The chunks and markers that waited for the command. -/
def releaseChunks (k : Coll) (s : State) : State :=
  ((s.ctx k.ctx).chHeld.filter k.heldFor).foldl (fun s p => if isMarker p then takeMarker p s else takeChunk p s) (unhold k.ctx k.heldFor s)

/-- The chunks that waited for a command that aborts as it starts: discarded, with their credits returned (R331). -/
def discardHeld (k : Coll) (s : State) : State :=
  ((s.ctx k.ctx).chHeld.filter fun p => k.heldFor p && !isMarker p).foldl (fun s p =>
    let h := headOf p
    giveCredit ((s.ctx k.ctx).chan h.ch) h.wf h.kind h.step h.seq s) (unhold k.ctx k.heldFor s)

/-- The optimiser descriptor is asked for and taken (R324). -/
def readOpt (k : Coll) (s : State) : State :=
  let a := Agent.coll k.id 8
  if (reqsOf s a).isEmpty then
    match xlate s k.ctx k.org (cdw k.gov 2 % 2 ^ 56 / 64 * 64) .read with
    | .error c => abortColl k 3 c none none (putColl { k with phase := 2 } s)
    | .ok l => request ⟨a, .readreq, cdw k.gov 2 % 2 ^ 56 / 64 * 64, 64, 0xFF, k.org, 0, 0, 0, []⟩ l s
  else s

def takeOpt (k : Coll) (s : State) : State :=
  let a := Agent.coll k.id 8
  let rs := reqsOf s a
  if rs.isEmpty ∨ openReqs s a then s
  else
    let z := worstOf rs
    let k1 := { k with phase := 2 }
    let s := dropReqs a (putColl k1 s)
    if z.1 ≠ 0 then let r := abortReason z; abortColl k1 r.1 r.2 none none s
    else
      let w := (List.range 8).map fun i => BitVec.ofNat 64 (leNat ((gotBytes rs (cdw k.gov 2 % 2 ^ 56 / 64 * 64) 64).drop (8 * i) |>.take 8))
      -- a reserved bit of a base counts as XLAT with NONCANON, a reason that R324 does not name: log entry 76
      let bad := [5, 6, 7].any fun i => decide (i - 4 ≤ cOpt k.gov + 1) && decide (cdw w i / 2 ^ 56 ≠ 0 ∨ cdw w i % 4 ≠ 0)
      if bad then abortColl k1 3 cNONCANON none none s else putColl { k1 with opt := w } s

/-- The sequence number that a starting command takes, and the channels' numbers after it (R310). -/
def startSeq (k : Coll) (s : State) : Nat × State :=
  let y := s.ctx k.ctx
  let st := k.chansOf.foldl (fun t c => let z := y.chst_ c; Tab.put t c (z.1, (z.2 + 1) % 65536)) y.chst
  ((y.chst_ k.sch).2, s.putCtx k.ctx { y with chst := st })

/-- COLLECTIVE_START (R310): every earlier command on its channels has completed; the sequence numbers advance. -/
def execCollectiveStart (id : Nat) (s : State) : Host.Outcome State Fault Refusal :=
  match collOf s id with
  | none => .next s
  | some k =>
    if k.phase = 0 then
      if mayStart s k then
        let z := startSeq k s
        let k := { k with seq := z.1, phase := if cOpt k.gov = 0 then 2 else 1 }
        let s := releaseChunks k (putColl k z.2)
        let s := match collOf s id with
          | some k => if k.phase = 1 ∧ k.abort.isNone then readOpt k s else s
          | none => s
        let s := match collOf s id with
          | some k => if k.phase = 1 ∧ k.abort.isNone then takeOpt k s else s
          | none => s
        .next (pumped id s)
      else .next s
    else if k.phase = 1 then
      .next (pumped id (if k.abort.isSome then putColl { k with phase := 2 } s else takeOpt k s))
    else .next s

/-- STEP_TIMEOUT (R330). -/
def execStepTimeout (id : Nat) (s : State) : Host.Outcome State Fault Refusal :=
  match collOf s id with
  | none => .next s
  | some k =>
    if (k.phase = 1 ∨ k.phase = 2) ∧ k.abort.isNone ∧ k.tmo ≤ k.timer then
      .next (pumped id (abortColl { k with phase := 2 } 0 0 none none (putColl { k with phase := 2 } s)))
    else .next s

/-- The elements that member `i` issued, as far as this member can know: its own count, what the chunk marked LAST tells, otherwise
a free count of at least what has come (R430). -/
def Coll.count (k : Coll) (s : State) (i : Nat) : Nat :=
  let o := i * k.slot
  let came := (k.got.filter fun g => decide (o ≤ g.2.1) && decide (g.2.1 < o + k.slot)).map fun g => (g.2.1 + g.2.2.1 - o, g.2.2.2)
  let low := (came.map fun g => g.1).foldl max 1
  if i = k.r then k.n
  else if came.any fun g => g.2 then low
  else low + (Config.freeWord (s.free + i)).toNat % (k.slot - low + 1)

/-- R332: the local elements and OTHER-generation words that an aborted command would have written are unspecified. -/
def scrambleColl (k : Coll) (s : State) : State :=
  let size := k.mf.bytes
  let tr := fun (s : State) w => xlate s k.ctx k.org w .write
  let writes : List (Nat × Nat) :=
    match k.kind with
    | 1 => let z := k.seg k.r; [(z.1, z.2.getD 0)]
    | 2 => if k.slot ≠ 0 then (List.range k.m).map fun i => (i * k.slot, k.count s i) else [(0, k.n)]
    | 4 => if k.d = 0 then [(0, k.n)] else []
    | 5 => if 0 < k.n then [(0, k.n)] else []
    | 7 => []
    | _ => [(0, k.n)]
  let s := { s with free := s.free + k.m }
  -- of a PXCH only the elements of the exchanged half are written (R321)
  let mine := fun (a : Nat) => decide (k.kind ≠ 5) || k.exchanged ((a - k.addr.toNat) / size)
  let s := writes.foldl (fun s w =>
    if w.2 = 0 then s
    else scrambleSet tr mine (k.addr.toNat + w.1 * size) (k.addr.toNat + (w.1 + w.2) * size - 1) s) s
  if cOpt k.gov = 0 ∨ k.opt = [] then s
  else
    let z := k.seg k.r
    let n := z.2.getD 0
    if n = 0 then s
    else
      (if cOpt k.gov = 1 then [1, 2] else [1, 2, 3]).foldl (fun s q =>
        scrambleRun (fun s va => translate s k.ctx va .other k.org.pairs .write) (k.optBase q + 4 * z.1) (k.optBase q + 4 * (z.1 + n) - 1) s) s

/-- R74: the flip of a range entry, in the range store and in the table in HBM. Where the two differ, the table takes the range
store's flipped doublewords (the model's choice, log entry 89). -/
def flipEntry (x i : Nat) (s : State) : State :=
  let y := s.ctx x
  let w := y.rngDw i 0
  let cur := b2n (bitN w 6)
  let tags := y.rngDw i 5
  let t := tags / 2 ^ (16 * cur) % 2 ^ 16
  let new := insBits tags (16 * (1 - cur)) 16 (if t = 0xFFFF then 1 else t + 1)
  let w' := insBits w 6 1 (1 - cur)
  let s := s.putCtx x { y with rng := Tab.set 0 (Tab.set 0 y.rng (8 * i) (BitVec.ofNat 64 w')) (8 * i + 5) (BitVec.ofNat 64 new) }
  let base := pageOf (s.reg (trOff x + 8)).toNat * 2 ^ 12
  if s.ownHbm base 4096 then
    hbmWrite (base % 2 ^ 44 + 64 * i + 40) (leBytes 8 new) (hbmWrite (base % 2 ^ 44 + 64 * i) (leBytes 8 w') s)
  else s

/-- A number inserted in a rising list. -/
def insNat (n : Nat) : List Nat → List Nat
  | [] => [n]
  | m :: ms => if n ≤ m then n :: m :: ms else m :: insNat n ms

/-- The record of a command, then its departure. -/
def endColl (k : Coll) (lo : Word) (s : State) : State :=
  let s := putColl { k with phase := 3 } s
  let s := settle (addRec (.coll k.id) k.ctx k.core k.org 2 k.va lo k.stamp s)
  setInfl k.ctx (if recPending s (.coll k.id) then s else { s with colls := s.colls.filter fun j => decide (j.id ≠ k.id) })

/-- COLLECTIVE_COMPLETE (R326, R327, R331): all steps complete, or aborted with no write pending. -/
def execCollectiveComplete (id : Nat) (s : State) : Host.Outcome State Fault Refusal :=
  let s := pumped id s
  match collOf s id with
  | none => .next s
  | some k =>
    if k.phase = 3 then
      .next (if recPending s (.coll id) then s
        else setInfl k.ctx { s with colls := s.colls.filter fun j => decide (j.id ≠ id) })
    else if k.phase ≠ 2 ∨ openReqs s (.coll id 2) then .next s
    else
      match k.abort with
      | some a =>
        let s := scrambleColl k s
        let gone := fun (s : State) => setInfl k.ctx { s with colls := s.colls.filter fun j => decide (j.id ≠ id) }
        if a.1 = 6 ∧ killed s k.ctx then .next (gone s)
        else .next (endColl k (collLo 16 a.2.1 k.flags a.1 a.2.2.1 a.2.2.2) (s.bump (clOff k.ctx + 0x18) 32 32 1))
      | none =>
        if ((List.range k.steps).all k.stepDone) && k.toSend.isEmpty && k.early.isEmpty then
          let s := (k.optEnt.foldr insNat []).foldl (fun s i => flipEntry k.ctx i s) s
          .next (endColl k (collLo stOK 0 k.flags 0 0xFFFF 0xFFFF) s)
        else .next s

/-- PRIORITY_SWITCH (R323): the port's sequencer enters or leaves its shadow set. -/
def execPrioritySwitch (port : Nat) (s : State) : Host.Outcome State Fault Refusal :=
  let want := s.colls.any fun k => cPri k.gov && decide (k.phase = 1 ∨ k.phase = 2) && (routePorts s (cPeer k.se)).any (· == port)
  .next (s.putPort port { s.port port with shadow := want })

/-- R323, R330: the step timers of commands with an incomplete step advance by one cycle; those of held bulk commands stand still. -/
def tickTimers (s : State) : State :=
  { s with colls := s.colls.map fun k =>
      if (k.phase = 1 ∨ k.phase = 2) ∧ heldByShadow s k = false ∧ ((List.range k.steps).all k.stepDone) = false then { k with timer := k.timer + 1 } else k }

/-- A kill aborts one command with reason KILL. One that has not started takes its number first; one that has aborted already
only writes no record any more. -/
def killColl (k : Coll) (s : State) : State :=
  if k.phase = 3 then s
  else if k.abort.isSome then putColl { k with phase := 2, abort := some (6, 0, 0, 0) } s
  else
    let z := if k.phase = 0 then startSeq k s else (k.seq, s)
    let k := { k with phase := 2, seq := z.1 }
    abortColl k 6 0 none none (discardHeld k (putColl k z.2))

/-- R333: a kill aborts the context's commands with reason KILL. Chunks held for commands that have not issued are answered as
those that come from now on. -/
def killColls (x : Nat) (s : State) : State :=
  let s := (s.colls.filter fun k => decide (k.ctx = x)).foldl (fun s k => killColl k s) s
  ((s.ctx x).chHeld.filter fun p => !isMarker p).foldl (fun s p => takeChunk p s) (unhold x (fun _ => true) s)

end Sys2Proof.Machine
end

