-- ==== Sys2Proof/Machine/Debug.lean ====
section
/-! DEFINITION. The debug block (16): records, the ring, deviation runs, samples. -/

namespace Sys2Proof.Machine

/-- A debug record (R407). Slot 8 stands for NOSLOT. -/
structure DRec where
  gtb    : Nat
  value  : Nat
  bundle : Nat
  typ    : Nat
  code   : Nat
  slot   : Nat
  sec    : Bool
  sup    : Bool
  core   : Nat
  wid    : Word
  deriving DecidableEq, Repr

/-- Its 32 bytes. -/
def DRec.bytes (r : DRec) : List Byte :=
  leBytes 8 r.gtb ++ leBytes 8 r.value ++ leBytes 4 (r.bundle % 2 ^ 19) ++ leBytes 1 (r.typ % 8 + r.code % 32 * 8)
    ++ leBytes 1 ((if r.slot < 8 then r.slot else 16) + b2n r.sec * 8 + b2n r.sup * 32) ++ leBytes 1 r.core ++ leBytes 1 0
    ++ leBytes 8 r.wid.toNat

/-- R406, R408: the record is written where its type is enabled, or dropped at a full ring. -/
def debugRec (x : Nat) (r : DRec) (s : State) : State :=
  let o := dbgOff x
  if (s.ctx x).dbga = false ∨ s.flag o (r.typ - 1) = false then s
  else
    let head := s.fld (o + 0x10) 0 64
    let tail := s.fld (o + 0x18) 0 64
    let cap := 2 ^ (s.fld (o + 0x08) 0 4 + 8)
    if (head + 2 ^ 64 - tail) % 2 ^ 64 = cap then s.bump (o + 0x20) 0 64 1
    else
      let a := (s.reg (o + 0x08)).toNat % 2 ^ 44 / 2 ^ 12 * 2 ^ 12 + 32 * (head % cap)
      let s := if a + 32 ≤ hbmSize then hbmWrite a r.bytes s else s
      s.setFld (o + 0x10) 0 64 (head + 1)

/-- R409: a run ends: its record and its counters. -/
def endDev (x c : Nat) (t : Bool) (s : State) : State :=
  let y := s.st c t
  match y.dev with
  | none => s
  | some d =>
    let s := s.putSt c t { y with dev := none }
    let s := debugRec x ⟨d.first, d.len, d.bundle, 1, d.cause, d.slot, t, d.sup, c, d.wid⟩ s
    let o := dbgOff x + 8 * (d.cause - 1)
    (s.bump (o + 0x80) 0 64 d.len).bump (o + 0xC0) 0 64 1

/-- What a stream that holds a task loses the cycle for (R409, R410): cause, bundle, slot. -/
def lossOf (s : State) (c : Nat) (t : Bool) : Option (Nat × Nat × Nat) :=
  let k := s.core c
  let y := s.st c t
  if y.task.isNone then none
  else
    match k.frozen with
    | some f =>
      match f.named.find? fun n => decide (n.1 = t) with
      | some n => some (f.cause, n.2.1, n.2.2)
      | none => some (f.cause, y.pc, 8)
    | none =>
      match y.ph with
      | .held => some (8, y.pc, 8)
      | .sleep => y.wait.map fun w => (if w.isA then 5 else 6, w.bundle, 0)
      | _ => none

/-- R409: one more lost cycle: the run grows, or another begins. -/
def lose (x c : Nat) (t : Bool) (l : Nat × Nat × Nat) (s : State) : State :=
  let fresh := fun (s : State) =>
    let y := s.st c t
    s.putSt c t { y with dev := some ⟨l.1, s.gtb.toNat, l.2.1, l.2.2, y.sys.sup, 1, y.wid⟩ }
  let y := s.st c t
  match y.dev with
  | some d => if d.cause = l.1 then s.putSt c t { y with dev := some { d with len := d.len + 1 } } else fresh (endDev x c t s)
  | none => fresh s

/-- R409: the run of a stream grows, ends or begins at the end of a cycle. -/
def devCycle (c : Nat) (t : Bool) (s : State) : State :=
  match (s.core c).owner with
  | none => s
  | some x => match lossOf s c t with | none => endDev x c t s | some l => lose x c t l s

/-- The state of a stream in the cycle under way (R411): code and deviation cause. A sleep that a test has just ended with
OWNVIOL is still one. -/
def sampleState (s : State) (c : Nat) (t : Bool) : Nat × Nat :=
  let y := s.st c t
  match lossOf s c t with
  | some l => (if l.1 = 5 ∨ l.1 = 6 then 2 else 1, l.1)
  | none =>
    match (if y.ph = .sleep then y.dev else none) with
    | some d => (2, d.cause)
    | none => if (y.ph = .issue ∨ y.ph = .reissue) ∧ y.sys.sup = false then (0, 0) else (3, 0)

/-- The sample of one stream. -/
def sampleOf (x c : Nat) (t : Bool) (s : State) : State :=
  let y := s.st c t
  if y.task.isNone then s
  else
    let v := sampleState s c t
    debugRec x ⟨s.gtb.toNat, v.1 + v.2 * 2 ^ 8, y.pc, 2, 0, 8, t, y.sys.sup, c, y.wid⟩ s

/-- SAMPLE_RECORD (R411): in a cycle whose GTB is a multiple of the sample period. -/
def execSampleRecord (x : Nat) (s : State) : Host.Outcome State Fault Refusal :=
  let per := s.fld (dbgOff x) 32 16 * 1024
  if per = 0 ∨ s.gtb.toNat % per ≠ 0 then .next s
  else
    .next ((s.setCores x).foldl (fun s c =>
      if (s.core c).owner = some x then sampleOf x c true (sampleOf x c false s) else s) s)

/-- A taken transfer of the slot under way (R411): kind and target. -/
def branchRec (kind target : Nat) (s : State) : State :=
  let k := s.cur
  match (s.core k.core).owner with
  | none => s
  | some x => debugRec x ⟨s.gtb.toNat, target, k.pc, 3, kind, 0, k.sec, s.cst.sys.sup, k.core, s.cst.wid⟩ s

/-- A trap entry (R411), with the work id that the stream's task had and SUP as the entry sets it (R387, R407). -/
def trapRec (c : Nat) (t : Bool) (code cause top slot : Nat) (wid : Word) (s : State) : State :=
  match (s.core c).owner with
  | none => s
  | some x => debugRec x ⟨s.gtb.toNat, cause, top, 4, code, slot, t, true, c, wid⟩ s

end Sys2Proof.Machine
end

