-- ==== Sys2Proof/Machine/Firmware.lean ====
section
/-! DEFINITION. Firmware images: SHA3-512, the check of an image, and the identity that an image gives the device (R421, R422). -/

namespace Sys2Proof.Machine

/-! ## SHA3-512

The spec names the function and does not give it: it is that of FIPS 202 (log entry 12). -/

/-- The 25 lanes of the Keccak state: lane (x, y) is number x + 5 y. -/
abbrev Lanes := List Word

def Lanes.at_ (a : Lanes) (x y : Nat) : Word := nth 0 a (x % 5 + 5 * (y % 5))

/-- Rotation of lane (x, y), by its number. -/
def keccakTurns : List Nat :=
  [0, 1, 62, 28, 27, 36, 44, 6, 55, 20, 3, 10, 43, 25, 39, 41, 45, 15, 21, 8, 18, 2, 61, 56, 14]

/-- Round constants. -/
def keccakConsts : List Word :=
  [0x0000000000000001, 0x0000000000008082, 0x800000000000808A, 0x8000000080008000, 0x000000000000808B, 0x0000000080000001,
   0x8000000080008081, 0x8000000000008009, 0x000000000000008A, 0x0000000000000088, 0x0000000080008009, 0x000000008000000A]
  ++
  [0x000000008000808B, 0x800000000000008B, 0x8000000000008089, 0x8000000000008003, 0x8000000000008002, 0x8000000000000080,
   0x000000000000800A, 0x800000008000000A, 0x8000000080008081, 0x8000000000008080, 0x0000000080000001, 0x8000000080008008]

/-- A lane for each number. -/
def lanesOf (f : Nat → Nat → Word) : Lanes := (List.range 25).map fun i => f (i % 5) (i / 5)

/-- One round of Keccak-f[1600]: theta, rho and pi, chi, iota. -/
def keccakRound (a : Lanes) (k : Word) : Lanes :=
  let c := (List.range 5).map fun x => a.at_ x 0 ^^^ a.at_ x 1 ^^^ a.at_ x 2 ^^^ a.at_ x 3 ^^^ a.at_ x 4
  let d := (List.range 5).map fun x => nth 0 c ((x + 4) % 5) ^^^ (nth 0 c ((x + 1) % 5)).rotateLeft 1
  let t := a.mapIdx fun i w => (w ^^^ nth 0 d (i % 5)).rotateLeft (nth 0 keccakTurns i)
  let b := lanesOf fun x y => Lanes.at_ t (x + 3 * y) x
  let e := lanesOf fun x y => Lanes.at_ b x y ^^^ (~~~ Lanes.at_ b (x + 1) y &&& Lanes.at_ b (x + 2) y)
  e.mapIdx fun i w => if i = 0 then w ^^^ k else w

def keccak (a : Lanes) : Lanes := keccakConsts.foldl keccakRound a

/-- A block of 72 bytes enters the first nine lanes. -/
def enterBlock (a : Lanes) (bs : List Byte) : Lanes :=
  a.mapIdx fun i w => if i < 9 then w ^^^ BitVec.ofNat 64 (leNat ((bs.drop (8 * i)).take 8)) else w

/-- The sponge over whole blocks; the first argument bounds their number. -/
def absorb : Nat → Lanes → List Byte → Lanes
  | 0, a, _ => a
  | n + 1, a, bs => if bs.isEmpty then a else absorb n (keccak (enterBlock a (bs.take 72))) (bs.drop 72)

/-- The message with its padding to a multiple of 72 bytes. -/
def sha3Pad (bs : List Byte) : List Byte :=
  let n := 72 - bs.length % 72
  bs ++ (if n = 1 then [0x86] else (0x06 : Byte) :: List.replicate (n - 2) 0 ++ [0x80])

/-- The 64 bytes of the SHA3-512 digest. -/
def sha3 (bs : List Byte) : List Byte :=
  let m := sha3Pad bs
  (absorb (m.length / 72) (List.replicate 25 0) m).take 8 |>.flatMap fun w => leBytes 8 w.toNat

/-! ## The check of an image, and identity (R421, R422) -/

/-- The longest firmware image: 4 MiB. -/
def imageLimit : Nat := 0x400000

/-- Is the header of an image well formed: an image of the length it names, within the limit? -/
def fwHeader (img : List Byte) : Option Config.FwHeader :=
  match Config.firmwareHeader img with
  | some h => if h.len ≤ imageLimit ∧ h.len ≤ img.length ∧ h.size ≤ h.len then some h else none
  | none => none

/-- The image after its header. -/
def fwBody (img : List Byte) (h : Config.FwHeader) : List Byte := (img.drop h.size).take (h.len - h.size)

/-- What the check of an image finds (R418, R421): 0 accepted, otherwise LASTERR. The order of the checks: log entry 12. -/
def firmwareCheck (img : List Byte) : Nat :=
  match fwHeader img with
  | none => 1
  | some h =>
    if sha3 (fwBody img h) ≠ h.digest then 2
    else if Config.mldsaVerify Config.firmwareKey h.fields h.sig = false then 3
    else if h.svn < Config.fusedSvn then 4
    else 0

/-- The security version and the digest of an image. -/
def fwSvn (img : List Byte) : Nat := match fwHeader img with | some h => h.svn | none => 0
def fwDigest (img : List Byte) : List Byte := match fwHeader img with | some h => sha3 (fwBody img h) | none => sha3 []

/-- The seed of the alias key: SHA3-512 of the secret and the firmware digest (R422). -/
def aliasSeed (img : List Byte) : List Byte := sha3 (Config.deviceSecret ++ fwDigest img)

/-- The device key, derived from the secret alone, signs the alias key's public half (R422). -/
def aliasCert (img : List Byte) : List Byte :=
  leBytes 4627 (Config.mldsaSign Config.deviceSecret (leBytes 2592 (Config.mldsaPublic (aliasSeed img))))

end Sys2Proof.Machine
end

