-- ==== Sys2Proof/Machine/Launch.lean ====
section
/-! DEFINITION. Launches (R359 to R372): queues, acceptance, readiness, dispatch, image loads, completion. -/

namespace Sys2Proof.Machine

/-! ## Reads of the launch manager -/

/-- What a read gives: still under way, a failure (status, cause), or its bytes. -/
inductive Fetch where
  | wait
  | fail (status cause : Nat)
  | got (bs : List Byte)
  deriving DecidableEq, Repr

/-- The origin of what the launch manager does for itself. -/
def noOrigin : Origin := ⟨false, 0, 0, none, 0, 0, 0, 0, false, false, false, false, [], false⟩

/-- The requests of a read, translated as the commands of `o` are (R73). -/
def fetchRuns (x : Nat) (o : Origin) (a : Agent) : List (Nat × Nat) → State → State × Option Nat
  | [], s => (s, none)
  | (va, n) :: rs, s =>
    match xlate s x o va .read with
    | .error cause => (s, some cause)
    | .ok l => fetchRuns x o a rs (request ⟨a, .readreq, va, n, 0xFF, noOrigin, 0, 0, 0, []⟩ l s)

/-- A read's answers so far. -/
def fetched (s : State) (a : Agent) (va n : Nat) : Fetch :=
  let rs := reqsOf s a
  if openReqs s a then .wait
  else
    let st := worstOf rs
    if st.1 ≠ 0 then .fail st.1 st.2 else .got (gotBytes rs va n)

/-- Reads `n` bytes of context virtual memory with RD: asks, or takes what has come (R363, R372). -/
def fetchVirt (x : Nat) (o : Origin) (a : Agent) (va n : Nat) (s : State) : State × Fetch :=
  if n = 0 then (s, .got [])
  else if !(reqsOf s a).isEmpty then (s, fetched s a va n)
  else
    let runs := piecesOf va n
    match walksFor s x runs with
    | w :: more => (askAll x (w :: more) s, .wait)
    | [] =>
      let r := fetchRuns x o a runs s
      match r.2 with
      | some cause => (dropReqs a r.1, .fail stXLAT cause)
      | none => (r.1, fetched r.1 a va n)

/-! ## Header fields (R361) -/

def hdw (h : List Word) (n : Nat) : Nat := (nth 0 h n).toNat
def hImage (h : List Word) : Nat := hdw h 0 % 2 ^ 56 / 64 * 64
def hNpred (h : List Word) : Nat := hdw h 1 / 2 ^ 32 % 8
def hColvl (h : List Word) : Nat := hdw h 1 / 2 ^ 27 % 8
def hSkew (h : List Word) : Nat := hdw h 1 / 2 ^ 24 % 8
def hGsm1 (h : List Word) : Nat := hdw h 1 / 2 ^ 20 % 16
def hCtx (h : List Word) : Nat := hdw h 1 / 2 ^ 16 % 16
def hReload (h : List Word) : Bool := bitN (hdw h 1) 15
def hDet (h : List Word) : Bool := bitN (hdw h 1) 14
def hPrio (h : List Word) : Nat := hdw h 1 / 2 ^ 12 % 4
def hTask (h : List Word) : Nat := hdw h 1 % 2 ^ 10
/-- W_f and X_f + 1. -/
def hWidth (h : List Word) (f : Nat) : Nat := hdw h 2 / 2 ^ (7 * f) % 128
def hExt (h : List Word) (f : Nat) : Nat := hdw h (3 + f / 2) / 2 ^ (32 * (f % 2)) % 2 ^ 32 + 1
def hLid (h : List Word) : Word := nth 0 h 12
def hRec (h : List Word) : Nat := hdw h 13 % 2 ^ 56 / 16 * 16
def hNorec (h : List Word) : Bool := bitN (hdw h 15) 3

/-- off_f of R359. -/
def hOff (h : List Word) (f : Nat) : Nat := ((List.range f).map (hWidth h)).foldl (· + ·) 0

/-- Number of tasks in a group at level `l`, and of groups at that level. -/
def groupSize (h : List Word) (l : Nat) : Nat := prodOf ((List.range l).map (hExt h))
def groupCount (h : List Word) (l : Nat) : Nat := prodOf ((List.range (6 - l)).map fun i => hExt h (l + i))

/-- The work id of task `t` of unit `u` (R359, R360). -/
def workId (h : List Word) (u t : Nat) : Nat :=
  let l := hColvl h
  let lo := coords ((List.range l).map (hExt h)) t
  let hi := coords ((List.range (6 - l)).map fun i => hExt h (l + i)) u
  ((lo ++ hi).mapIdx fun f v => v * 2 ^ hOff h f).foldl (· + ·) 0

/-- Cores of the set on one die. -/
def dieCores (s : State) (x d : Nat) : List Nat := (s.setCores x).filter fun c => decide (c / 48 = d)

/-- R363: what the header alone must satisfy, for a header submitted by context `x`. -/
def headerOk (s : State) (x : Nat) (h : List Word) : Bool :=
  let rsv := decide (hdw h 0 / 2 ^ 56 = 0) && decide (hdw h 0 % 64 = 0)
    && decide (hdw h 1 &&& (bitsMask 63 35 + bitsMask 31 30 + bitsMask 11 10) = 0) && decide (hdw h 2 / 2 ^ 42 = 0)
    && decide (hdw h 7 / 2 ^ 32 = 0) && decide (hdw h 13 / 2 ^ 56 = 0) && decide (hdw h 13 % 16 = 0) && decide (hdw h 15 / 16 = 0)
  let codes := decide (hNpred h ≤ 4) && decide (hColvl h ≤ 6) && decide (hdw h 15 % 8 ≤ 4)
  let widths := decide (hOff h 6 ≤ 64) && (List.range 6).all fun f => decide (hExt h f ≤ 2 ^ hWidth h f)
  let l := hColvl h
  rsv && codes && widths && decide (groupSize h 6 ≤ 2 ^ 40) && decide (hCtx h = x)
    && (decide (hGsm1 h = 0) || (decide (hExt h 0 = hGsm1 h + 1) && decide (l ≠ 0)))
    && decide (groupSize h l ≤ 2 * (s.setCores x).length)
    && (decide (hGsm1 h = 0)
        || decide (groupSize h l / (hGsm1 h + 1) ≤ (((List.range 4).map fun d => (dieCores s x d).length).foldl max 0)))

/-- The image descriptor (R362): CLEN, ALEN, NTASK. -/
def descOk (d : List Byte) (task : Nat) : Option (Nat × Nat) :=
  let w := leNat (d.take 8)
  let v := leNat ((d.drop 8).take 8)
  let cl := w % 2 ^ 32
  let al := w / 2 ^ 32
  if cl % 4 = 0 ∧ al % 4 = 0 ∧ cl ≤ 32768 ∧ al ≤ 229376 ∧ 1 ≤ v ∧ v ≤ 1024 ∧ leNat (d.drop 16) = 0 ∧ task < v then some (cl, al)
  else none

/-- Is the entry address aligned and in the common region or a bank (R363)? -/
def entryOk (e : Nat) : Bool := decide (e % 4 = 0) && decide (0x8000 ≤ e) && decide (e ≤ 0x47FFF)

/-! ## Acceptance (R363, R366, R353) -/

/-- A launch completes at acceptance with a status (R363). -/
def endLaunch (x : Nat) (h : List Word) (status cause : Nat) (s : State) : State :=
  if hNorec h then s
  else settle (addRec .other x 0xFF noOrigin 3 (hRec h) (recLo status cause 0 0 0) (nth 0 h 14) s)

/-- An accepted launch. -/
def addLaunch (x : Nat) (h : List Word) (entry cl al : Nat) (s : State) : State :=
  { s with launches := s.launches ++ [⟨s.nextId, x, h, entry, cl, al, 0, 0, 0, 0, false, [], 0, 0, 0, false, false⟩],
           nextId := s.nextId + 1 }

/-- The header is there: its checks, its descriptor and its task entry (R363). `n` numbers the reads. The answer tells
whether the acceptance is over. -/
def acceptHeader (x n : Nat) (h : List Word) (s : State) : State × Bool :=
  if headerOk s x h = false then (endLaunch x h stDESC 0 s, true)
  else
    let r := fetchVirt x noOrigin (.hdr n 1) (hImage h) 64 s
    match r.2 with
    | .wait => (r.1, false)
    | .fail st cause => (endLaunch x h st cause r.1, true)
    | .got d =>
      match descOk d (hTask h) with
      | none => (endLaunch x h stDESC 0 r.1, true)
      | some (cl, al) =>
        let z := fetchVirt x noOrigin (.hdr n 2) (hImage h + 64 + cl + al + 4 * hTask h) 4 r.1
        match z.2 with
        | .wait => (z.1, false)
        | .fail st cause => (endLaunch x h st cause z.1, true)
        | .got e =>
          if entryOk (leNat e) then (addLaunch x h (leNat e) cl al z.1, true) else (endLaunch x h stDESC 0 z.1, true)

/-- The reads of an acceptance are forgotten. -/
def dropHdr (n : Nat) (s : State) : State := dropReqs (.hdr n 0) (dropReqs (.hdr n 1) (dropReqs (.hdr n 2) s))

/-- Doublewords of bytes. -/
def wordsOf (bs : List Byte) (n : Nat) : List Word := (List.range n).map fun i => BitVec.ofNat 64 (leNat ((bs.drop (8 * i)).take 8))

/-- May the launch manager accept for a context (R366)? -/
def takesLaunches (s : State) (x : Nat) : Bool := decide (s.ctxState x = 1) || decide (s.ctxState x = 2)

/-- Entries that the queue's ring holds (R364). -/
def lqCap (s : State) (q : Nat) : Nat := 2 ^ (s.fld (lqOff q) 4 4 + 4)

/-- Is queue `q` served (R366)? -/
def lqServed (s : State) (q : Nat) : Bool :=
  s.flag (lqOff q) 0 && !(s.stopped.any (· == q)) && takesLaunches s (s.fld (lqOff q) 8 4)
    && decide ((Tab.get 0 s.tails q).toNat ≠ s.fld (lqOff q + 0x10) 0 64)

/-- The acceptance of a queue's entry is over, or given up. -/
def dropHead (q : Nat) (s : State) : State := { dropHdr (4 * q) s with heads := Tab.del s.heads q }

/-- The header `h` of a queue's entry HEAD is accepted, or its acceptance goes on in a later cycle with the words read now. -/
def acceptWords (q : Nat) (h : List Word) (s : State) : State :=
  let r := acceptHeader (s.fld (lqOff q) 8 4) (4 * q) h s
  if r.2 then { (dropHead q r.1).setFld (lqOff q + 0x10) 0 64 (s.fld (lqOff q + 0x10) 0 64 + 1) with robin := (q + 1) % 64 }
  else { r.1 with heads := Tab.put r.1.heads q h }

/-- A queue's entry HEAD is accepted; it is read once (R363). -/
def acceptQueue (q : Nat) (s : State) : State :=
  match Tab.find s.heads q with
  | some h => acceptWords q h s
  | none =>
    let a := (s.reg (lqOff q)).toNat % 2 ^ 44 / 2 ^ 12 * 2 ^ 12 + 128 * (s.fld (lqOff q + 0x10) 0 64 % lqCap s q)
    if s.poisoned a 128 then { (s.setUE.setFld (lqOff q + 0x18) 1 1 1) with stopped := q :: s.stopped }
    else acceptWords q (wordsOf (hbmRead s a 128) 16) s

/-- The oldest SPAWN's header is read, checked and accepted; seed and step are replaced, the reserved bits beside the step are
checked as they are (R353, R366, R378). -/
def acceptSpawn (p : Spawn) (ps : List Spawn) (s : State) : State :=
  let n := 4 * p.id + 1
  if takesLaunches s p.ctx = false then { dropHdr n s with spawns := ps }
  else
    let r : State × Fetch :=
      match (if (reqsOf s (.hdr n 0)).isEmpty then (xlate s p.ctx p.org p.va .read).map fun _ => () else .ok ()) with
      | .error cause => (s, .fail stXLAT cause)
      | .ok _ => fetchVirt p.ctx p.org (.hdr n 0) p.va 128 s
    match r.2 with
    | .wait => r.1
    | .fail st cause =>
      let cause := if st = stXLAT then cause else if st = stUNREACH then cUNREACH else cWALKERR
      { dropHdr n (postFault p.ctx p.core p.org (BitVec.ofNat 64 p.va) cause 0 3 0 r.1) with spawns := ps }
    | .got bs =>
      let ws := wordsOf bs 16
      let h := setAt (setAt ws 6 p.kseed) 7 (BitVec.ofNat 64 (hdw ws 7 / 2 ^ 32 * 2 ^ 32 + p.kstep.toNat))
      let z := acceptHeader p.ctx n h r.1
      if z.2 then { dropHdr n z.1 with spawns := ps } else z.1

/-- LAUNCH_ACCEPT (R363, R366): the next entry of a queue, or the oldest SPAWN. -/
def execLaunchAccept (q : Option Nat) (s : State) : Host.Outcome State Fault Refusal :=
  if 4096 ≤ s.launches.length then .next s
  else
    match q with
    | some q => if lqServed s q then .next (acceptQueue q s) else .next s
    | none => match s.spawns with | [] => .next s | p :: ps => .next (acceptSpawn p ps s)

/-- LAUNCH_QUEUE_POLL (R365): the tail is read again; past the capacity the queue stops with OVF. -/
def execLaunchQueuePoll (q : Nat) (s : State) : Host.Outcome State Fault Refusal :=
  let g := (s.reg (lqOff q + 8)).toNat
  if s.flag (lqOff q) 0 = false ∨ s.ownHbm g 8 = false ∨ s.stopped.any (· == q) then .next s
  else
    let tail := Mem.num s.hbm (g % 2 ^ 44) 8
    let n := (tail + 2 ^ 64 - s.fld (lqOff q + 0x10) 0 64) % 2 ^ 64
    let s := { s with tails := Tab.put s.tails q (BitVec.ofNat 64 tail) }
    if lqCap s q < n then .next { s.setFld (lqOff q + 0x18) 0 1 1 with stopped := q :: s.stopped } else .next s

/-- LQBASE_WRITE (R364, R365): EN going from 0 to 1 restarts the queue with HEAD at 0; an acceptance under way is given up. -/
def execLqbaseWrite (q : Nat) (v : Word) (s : State) : Host.Outcome State Fault Refusal :=
  let on := s.flag (lqOff q) 0
  let s := s.setReg (lqOff q) (regAfter s (lqOff q) 0 (leBytes 8 v.toNat)).1
  if bitN v.toNat 0 ∧ on = false then
    .next { (dropHead q s).setFld (lqOff q + 0x10) 0 64 0 with
              stopped := s.stopped.filter (· != q), tails := Tab.put s.tails q 0,
              agenda := .launchQueuePoll q :: s.agenda }
  else .next s

/-! ## Readiness and choice (R367, R369, R370) -/

/-- Are all predecessors satisfied (R367)? -/
def ready (s : State) (l : Launch) : Bool :=
  (List.range (hNpred l.hdr)).all fun i =>
    !(s.launches.any fun m => decide (m.ctx = l.ctx) && decide (m.id < l.id) && !m.closing && decide (hLid m.hdr = nth 0 l.hdr (8 + i)))

/-- Ready, with a unit still to dispatch. -/
def waiting (s : State) (l : Launch) : Bool :=
  !l.closing && !l.stop && decide (l.unit < groupCount l.hdr (hColvl l.hdr)) && ready s l

/-- The class of R369 as R370 changes it: an aged launch is of class 3 and goes before the unaged ones of that class, as the bound
that R370 ends with asks (log entry 46). -/
def effClass (l : Launch) : Nat := if l.aged then 4 else hPrio l.hdr

/-- Ready launches of a context in the order of R369. -/
def insLaunch (l : Launch) : List Launch → List Launch
  | [] => [l]
  | m :: ms =>
    if effClass m < effClass l ∨ (effClass m = effClass l ∧ l.id < m.id) then l :: m :: ms else m :: insLaunch l ms

def ordered (s : State) (x : Nat) : List Launch :=
  ((s.launches.filter fun l => decide (l.ctx = x) && waiting s l).foldl (fun ls l => insLaunch l ls) [])

/-- A stream that holds no task. -/
def freeStream (s : State) (c : Nat) (t : Bool) : Bool := decide ((s.st c t).task = none) && !(s.st c t).sys.sup

/-- Is the launch's image loaded in the core (R372)? -/
def imageThere (s : State) (c : Nat) (l : Launch) : Bool :=
  decide ((s.seat c).image = some (hImage l.hdr)) && (!hReload l.hdr || l.loaded.any (· == c))

/-- Free streams of cores, in their order. -/
def freeStreams (s : State) (cores : List Nat) : List (Nat × Bool) :=
  cores.flatMap fun c => (if freeStream s c false then [(c, false)] else []) ++ (if freeStream s c true then [(c, true)] else [])

/-- Cores of one die with a free primary, `n` of them, among those given. -/
def gangCores (free : List Nat) (n : Nat) : Option (List Nat) :=
  ((List.range 4).map fun d => (free.filter fun c => decide (c / 48 = d)).take n).find? fun l => decide (l.length = n)

/-- Places for `k` gangs of `n` members. -/
def placeGangs (n : Nat) : Nat → List Nat → Option (List (List Nat))
  | 0, _ => some []
  | k + 1, free =>
    match gangCores free n with
    | none => none
    | some g => (placeGangs n k (free.filter fun c => !(g.any (· == c)))).map fun gs => g :: gs

/-- Free streams among `cores` for the launch's next unit, in ascending work id; none where there are too few (R369, R374). -/
def placeOn (s : State) (l : Launch) (cores : List Nat) : Option (List (Nat × Bool)) :=
  let n := groupSize l.hdr (hColvl l.hdr)
  if hGsm1 l.hdr = 0 then
    let f := (freeStreams s cores).take n
    if f.length = n then some f else none
  else
    let m := hGsm1 l.hdr + 1
    (placeGangs m (n / m) (cores.filter fun c => freeStream s c false)).map fun gs => gs.flatMap fun g => g.map fun c => (c, false)

/-- The streams that the launch's next unit is to take (R369): on cores with its image if they suffice, otherwise on any free
streams, those of cores that can load the image at once before the others. None where the unit does not fit. -/
def planned (s : State) (l : Launch) : Option (List (Nat × Bool)) :=
  let cs := s.setCores l.ctx
  let has := cs.filter fun c => imageThere s c l
  let rest := cs.filter fun c => !imageThere s c l
  let idle := fun c => freeStream s c false && freeStream s c true
  match placeOn s l has with
  | some ps => some ps
  | none => placeOn s l (has ++ rest.filter idle ++ rest.filter fun c => !idle c)

/-- The streams of the launch's next unit, every core of them with its image (R372). -/
def placement (s : State) (l : Launch) : Option (List (Nat × Bool)) :=
  match planned s l with
  | some ps => if ps.all fun p => imageThere s p.1 l then some ps else none
  | none => none

/-- The launch whose unit dispatches next (R369, R370): the first for which there are free streams, unless an aged one waits for
room. -/
def chosen (s : State) (x : Nat) : Option Launch :=
  let ls := ordered s x
  if ls.any fun l => l.aged && (planned s l).isNone then none else ls.find? fun l => (planned s l).isSome

/-- Does the context hold its cores and may its tasks start? -/
def holdsSet (s : State) (x : Nat) : Bool :=
  decide (s.ctxState x = 1) && !(s.ctx x).leaving && (s.setCores x).all fun c => decide ((s.core c).owner = some x)

/-! ## Starting a task (R50, R371, R374) -/

/-- The state a stream's task starts with. -/
def startTask (s : State) (l : Launch) (wid : Nat) (gang : Option Nat) (gidx lead : Nat) (y : Stream) : Stream :=
  let ks := nth 0 l.hdr 6
  { Stream.reset with
    trap := y.trap
    stale := y.stale
    pc := l.entry
    sys := { SysRegs.reset with kseed := if ks = 0 then (s.ctx l.ctx).cseed else ks, kstep := BitVec.ofNat 32 (hdw l.hdr 7) }
    task := some { launch := l.id, wid := BitVec.ofNat 64 wid,
                   fields := (List.range 6).map fun f => (hOff l.hdr f, hWidth l.hdr f),
                   det := hDet l.hdr, gang := gang, gidx := gidx, gsize := hGsm1 l.hdr, lead := lead } }

/-- Tasks of unit `u` from number `t` on, on their streams. -/
def startAll (l : Launch) (gid0 : Nat) : Nat → List (Nat × Bool) → State → State
  | _, [], s => s
  | t, (c, b) :: rest, s =>
    let m := hGsm1 l.hdr + 1
    let gang := if hGsm1 l.hdr = 0 then none else some (gid0 + t / m)
    let lead := match gang with
      | some g => match Tab.find s.gangs g with | some e => e.cores.headD c | none => c
      | none => c
    startAll l gid0 (t + 1) rest (s.putSt c b (startTask s l (workId l.hdr l.unit t) gang (t % m) lead (s.st c b)))

/-- Gangs of a unit, `m` cores each (R374, R375). -/
def makeGangs (skew m : Nat) : Nat → List (Nat × Bool) → State → State
  | 0, _, s => s
  | f + 1, ps, s =>
    if ps.isEmpty then s
    else
      makeGangs skew m f (ps.drop m)
        { s with gangs := Tab.put s.gangs s.nextId ⟨(ps.take m).map fun p => p.1, skew, s.cycle, none⟩, nextId := s.nextId + 1 }

/-- UNIT_DISPATCH (R369): the unit of launch `l` claims its streams in one cycle and its tasks start. -/
def execUnitDispatch (l : Nat) (s : State) : Host.Outcome State Fault Refusal :=
  match s.launches.find? fun m => decide (m.id = l) with
  | none => .next s
  | some m =>
    if holdsSet s m.ctx = false ∨ (chosen s m.ctx).map (fun k => k.id) ≠ some l then .next s
    else
      match placement s m with
      | none => .next s
      | some ps =>
        let gid0 := s.nextId
        let s1 := if hGsm1 m.hdr = 0 then s else makeGangs (hSkew m.hdr) (hGsm1 m.hdr + 1) ps.length ps s
        let s2 := startAll m gid0 0 ps s1
        .next { s2 with launches := s2.launches.map fun k =>
          if k.id = l then { k with unit := k.unit + 1, running := k.running + ps.length, age := 0, aged := false }
          else if k.ctx = m.ctx ∧ waiting s k ∧ k.ageCyc ≠ s.cycle + 1 then { k with age := k.age + 1, ageCyc := s.cycle + 1 } else k }

/-- LAUNCH_AGED (R370). -/
def execLaunchAged (l : Nat) (s : State) : Host.Outcome State Fault Refusal :=
  .next { s with launches := s.launches.map fun k => if k.id = l ∧ 2 ^ 20 ≤ k.age ∧ waiting s k then { k with aged := true } else k }

/-! ## Image loads (R372) -/

/-- The launch for which core `c` loads an image: the one whose unit dispatches next, where it is to take a stream of the core
and the core has not its image (R372). -/
def loadFor (s : State) (x c : Nat) : Option Launch :=
  match chosen s x with
  | some l =>
    match planned s l with
    | some ps => if (ps.any fun p => decide (p.1 = c)) ∧ imageThere s c l = false then some l else none
    | none => none
  | none => none

/-- Section reads of core `c` for a load of another launch than `keep` are forgotten: a load reads the sections at its own time
(R372). -/
def dropLoads (c : Nat) (keep : Option Nat) (s : State) : State :=
  { s with reqs := s.reqs.filter fun q =>
      match q.agent with
      | .hdr n _ => !(decide (n % 4 = 2) && decide (n / 4 % 256 = c) && decide (some (n / 4 / 256) ≠ keep))
      | _ => true }

/-- Each doubleword of the regions a failed load was writing: its earlier contents or a free value (R10). -/
def scrambleCode (lo n : Nat) (c : Nat) (s : State) : State :=
  (List.range ((n + 7) / 8)).foldl (fun s i =>
    let y := s.seat c
    if Config.freeBool s.free then s.used
    else
      let bs := (leBytes 8 (Config.freeWord s.free).toNat).take (n - 8 * i)
      (s.putSeat c { y with ispad := Mem.setBytes y.ispad (lo + 8 * i) bs }).used) s

/-- IMAGE_LOAD (R372): both streams free, the sections read with RD and written from the start of their regions. -/
def execImageLoad (c : Nat) (s : State) : Host.Outcome State Fault Refusal :=
  match (s.core c).owner with
  | none => .next s
  | some x =>
    match loadFor s x c with
    | none => .next (dropLoads c none s)
    | some l =>
      let s := dropLoads c (some l.id) s
      if holdsSet s x = false ∨ freeStream s c false = false ∨ freeStream s c true = false then .next s
      else
        let n := 4 * (256 * l.id + c) + 2
        let r := fetchVirt x noOrigin (.hdr n 1) (hImage l.hdr + 64) l.clen s
        let z := fetchVirt x noOrigin (.hdr n 2) (hImage l.hdr + 64 + l.clen) l.alen r.1
        let failed := fun st (s : State) =>
          let s := scrambleCode 0x10000 l.alen c (scrambleCode 0x8000 l.clen c (dropHdr n s))
          let s := s.putSeat c { s.seat c with image := none }
          { s with launches := s.launches.map fun k =>
              if k.id = l.id then { k with stop := true, status := if k.status = 0 then st else min k.status st } else k }
        match r.2, z.2 with
        | .fail st _, _ => .next (failed st z.1)
        | _, .fail st _ => .next (failed st z.1)
        | .got cb, .got ab =>
          let s := dropHdr n z.1
          let y := s.seat c
          let fresh := fun (t : Stream) => { t with stale := t.stale.filter fun e =>
            !(decide (0x8000 ≤ e.1) && decide (e.1 < 0x8000 + l.clen)) && !(decide (0x10000 ≤ e.1) && decide (e.1 < 0x10000 + l.alen)) }
          let s := s.putSeat c { y with ispad := Mem.setBytes (Mem.setBytes y.ispad 0x8000 cb) 0x10000 ab,
                                        image := some (hImage l.hdr)
                                        ibad := leftBad 0x10000 ab.length (leftBad 0x8000 cb.length y.ibad), prim := fresh y.prim, sec := fresh y.sec }
          .next { s with launches := s.launches.map fun k =>
            if k.id = l.id ∧ !(k.loaded.any (· == c)) then { k with loaded := c :: k.loaded } else k }
        | _, _ => .next z.1

/-! ## Completion (R368) -/

/-- Does any command, record or fault of the launch's tasks remain? -/
def launchBusy (s : State) (l : Launch) : Bool :=
  let mine := fun (o : Origin) => decide (o.launch = some l.id)
  let seatBusy := fun (y : Seat) =>
    (y.cmds.any fun k => mine k.org) || y.mxe.queue.any fun r => mine r.org
  ((s.cores.any fun e => seatBusy e.2.seat) || (s.ctx l.ctx).saved.any fun e => seatBusy e.2)
    || (s.colls.any fun k => mine k.org) || (s.spawns.any fun k => mine k.org) || (s.recs.any fun j => mine j.org)
    || (s.ctx l.ctx).posts.any fun p => mine p.org

/-- LAUNCH_COMPLETE (R368): all tasks ended and their commands done; the record is written and the launch leaves. -/
def execLaunchComplete (l : Nat) (s : State) : Host.Outcome State Fault Refusal :=
  match s.launches.find? fun m => decide (m.id = l) with
  | none => .next s
  | some m =>
    let gone := fun (s : State) => { s with launches := s.launches.filter fun k => decide (k.id ≠ l) }
    if m.closing then (if recPending s (.launch l) then .next s else .next (gone s))
    else if (m.stop = false ∧ m.unit < groupCount m.hdr (hColvl m.hdr)) ∨ 0 < m.running ∨ ready s m = false ∨ launchBusy s m then
      .next s
    else if hNorec m.hdr then .next (gone s)
    else
      let s := { s with launches := s.launches.map fun k => if k.id = l then { k with closing := true } else k }
      let s := settle (addRec (.launch l) m.ctx 0xFF noOrigin 3 (hRec m.hdr) (recLo m.status m.cause 0 0 m.nrec) (nth 0 m.hdr 14) s)
      if recPending s (.launch l) then .next s else .next (gone s)

end Sys2Proof.Machine
end

