-- ==== Sys2Proof/Machine/Special.lean ====
section
/-! DEFINITION. The special functions of the vector unit (R241 to R246) on FP32 codes. VEXP2, VLOG2, VSIN and VCOS are
evaluated in fixed point with more than 200 bits and rounded once: log entry 4. -/

namespace Sys2Proof.Machine

/-- ln 2 times 2^256, and half of pi times 2^360. -/
def ln2Fix : Nat := 0xb17217f7d1cf79abc9e3b39803f2f6af40f343267298b62d8a0d175b8baafa2b
def halfPiFix : Nat := 0x1921fb54442d18469898cc51701b839a252049c1114cf98e804177d4c76273644a29410f31c6809bbdf2a33679a

/-- Sum of `t, t * y / (k + 1), ...` in fixed point with `p` bits: the exponential series. -/
def expSeries (p y : Nat) : Nat → Nat → Nat → Nat
  | 0, _, _ => 0
  | f + 1, k, t => t + expSeries p y f (k + 1) (t * y / 2 ^ p / (k + 1))

/-- The alternating series of sine (from `k = 1`) or cosine (from `k = 0`); `y` is the square of the argument. -/
def trigSeries (p y : Nat) : Nat → Nat → Nat → Int
  | 0, _, _ => 0
  | f + 1, k, t => (t : Int) - trigSeries p y f (k + 2) (t * y / 2 ^ p / ((k + 1) * (k + 2)))

/-- z + z^3/3 + z^5/5 + ...: the inverse hyperbolic tangent; `y` is the square of z. -/
def atanhSeries (p y : Nat) : Nat → Nat → Nat → Nat
  | 0, _, _ => 0
  | f + 1, k, t => t / k + atanhSeries p y f (k + 2) (t * y / 2 ^ p)

/-- A value just above `m * 2^e` (an irrational result cut off). -/
def above (neg : Bool) (m : Nat) (e : Int) : XVal := .fin neg (2 * m + 1) (e - 1)

/-- Decides the NaN row and leaves the rest to `f`. -/
def nanOr (x : XVal) (f : XVal × Nat) : Nat × Nat :=
  match x with
  | .nan sig => (fmtF32.dnan, nvIf sig)
  | _ => fpRound f

/-- VEXP2 (R242). -/
def vexp2 (w : Nat) : Nat × Nat :=
  let x := f32Val w
  nanOr x (match x with
    | .nan _ => (x, 0)
    | .inf neg => (if neg then .fin false 0 0 else .inf false, 0)
    | .fin neg m e =>
      if m = 0 then (.fin false 1 0, 0)
      else if 8 ≤ ilog m e then (if neg then above false 1 (-300) else .fin false 1 300, 0)
      else if ilog m e < -40 then
        (if neg then .fin false (2 ^ 64 - 1) (-64) else .fin false (2 ^ 64 + 1) (-64), 0)
      else
        let v := intAt neg m e (-80)
        let n := v / 2 ^ 80
        let f := (v % 2 ^ 80).toNat
        if f = 0 then (.fin false 1 n, 0)
        else (above false (expSeries 256 (f * ln2Fix / 2 ^ 80) 70 0 (2 ^ 256)) (n - 256), 0))

/-- VLOG2 (R242). -/
def vlog2 (w : Nat) : Nat × Nat :=
  let x := f32Val w
  nanOr x (match x with
    | .nan _ => (x, 0)
    | .inf neg => if neg then (.nan false, fNV) else (.inf false, 0)
    | .fin neg m e =>
      if m = 0 then (.inf true, fDZ)
      else if neg then (.nan false, fNV)
      else
        let l := Nat.log2 m
        let n := (l : Int) + e
        if m = 2 ^ l then (XVal.ofInt n 0, 0)
        else
          let z := (m - 2 ^ l) * 2 ^ 256 / (m + 2 ^ l)
          let a : Nat := 2 * atanhSeries 256 (z * z / 2 ^ 256) 90 1 z * 2 ^ 256 / ln2Fix
          let v := n * 2 ^ 256 + (a : Int)
          (.fin (decide (v < 0)) (2 * v.natAbs + 1) (-257), 0))

/-- The sine of a finite x of magnitude below 2^20, cos where `c`; `x` is not zero. -/
def trig (c neg : Bool) (m : Nat) (e : Int) : XVal :=
  if ilog m e < -60 then (if c then .fin false (2 ^ 64 - 1) (-64) else .fin neg (m * 2 ^ 64 - 1) (e - 64))
  else
    let v := (intAt false m e (-360)).toNat
    let q := v / halfPiFix + (if c then 1 else 0)
    let r := v % halfPiFix
    let y := r * r / 2 ^ 360
    let s := if q % 2 = 0 then trigSeries 360 y 60 1 r else trigSeries 360 y 60 0 (2 ^ 360)
    let flip := decide (2 ≤ q % 4)
    .fin ((neg && !c) != (flip != decide (s < 0))) (2 * s.natAbs + 1) (-361)

/-- VSIN and VCOS (R243). -/
def vtrig (c : Bool) (w : Nat) : Nat × Nat :=
  let x := f32Val w
  match x with
  | .nan sig => (fmtF32.dnan, nvIf sig)
  | .inf _ => (fmtF32.dnan, fNV)
  | .fin neg m e =>
    if m = 0 then (if c then 0x3F800000 else w % 2 ^ 32, 0)
    else if 20 ≤ ilog m e then (fmtF32.dnan, fRG)
    else f32Rne (trig c neg m e)

/-- The exponent and the 23-bit fraction of a nonzero finite value (R244). -/
def expFrac (m : Nat) (e : Int) : Int × Nat :=
  let l := Nat.log2 m
  ((l : Int) + e, m * 2 ^ (23 - l) - 2 ^ 23)

/-- VRCP (R244). -/
def vrcp (w : Nat) : Nat × Nat :=
  match f32Val w with
  | .nan sig => (fmtF32.dnan, nvIf sig)
  | .inf neg => ((f32Rne (.fin neg 0 0)).1, 0)
  | .fin neg m e =>
    if m = 0 then ((f32Rne (.inf neg)).1, fDZ)
    else
      let z := expFrac m e
      if z.1 ≤ -129 then ((f32Rne (.inf neg)).1, fOr fOF fNX)
      else
        let d := 257 + 2 * (z.2 / 2 ^ 16)
        let t := (2 * (2 ^ 20 - 2 ^ 11 * d) + d) / (2 * d)
        ((f32Rne (.fin neg (2 ^ 11 + t) (-z.1 - 12))).1, 0)

/-- VRSQ (R245). -/
def vrsq (w : Nat) : Nat × Nat :=
  match f32Val w with
  | .nan sig => (fmtF32.dnan, nvIf sig)
  | .inf neg => if neg then (fmtF32.dnan, fNV) else (0, 0)
  | .fin neg m e =>
    if m = 0 then ((f32Rne (.inf neg)).1, fDZ)
    else if neg then (fmtF32.dnan, fNV)
    else
      let z := expFrac m e
      let o := (z.1 % 2).toNat
      let d := (1 + o) * (129 + 2 * (z.2 / 2 ^ 17))
      let r := (isqrt 20 (2 ^ 33 / d) + 1) / 2
      ((f32Rne (.fin false r (-((z.1 - o) / 2) - 12))).1, 0)

/-- One Newton step (R246): the two rounded expressions; `p` is the exact product with its flags. -/
def newton (y : XVal) (p : XVal × Nat) (half : Int) : Nat × Nat :=
  let a := xadd .rne (.fin false 1 0) p.1.neg
  let e := fpRound (a.1, fOr p.2 a.2)
  let b := xmul y (f32Val e.1)
  let c := xadd .rne y (b.1.scale half)
  let r := fpRound (c.1, fOr b.2 c.2)
  (r.1, fOr e.2 r.2)

/-- A seed that is returned unchanged (R246). -/
def deadSeed (y : XVal) : Bool := y.isNan || y.isInf || y.isZero

/-- VRCPR (R246). -/
def vrcpr (w yw : Nat) : Nat × Nat :=
  let y := f32Val yw
  if deadSeed y then (yw % 2 ^ 32, 0) else newton y (xmul (f32Val w) y) 0

/-- VRSQR (R246). -/
def vrsqr (w yw : Nat) : Nat × Nat :=
  let y := f32Val yw
  if deadSeed y then (yw % 2 ^ 32, 0)
  else
    let p := xmul (f32Val w) y
    let q := xmul p.1 y
    newton y (q.1, fOr p.2 q.2) (-1)

end Sys2Proof.Machine
end

