-- ==== Sys2Proof/Machine/Flags.lean ====
section
/-! DEFINITION. The flag computations: FFLAGS (R40, R42) and the flags of lanes (R227). -/

namespace Sys2Proof.Machine

/-- Flags join FFLAGS; the register has six bits (R40, R42). -/
def joinFlags (f add : Nat) : Nat := fOr f (add % 64)

/-- A SYSW writes the six flag bits (R40). -/
def writeFflags (v : Word) : Nat := v.toNat % 64

/-- The OR of the flags of lanes (R227). -/
def lanesFlags : List (Nat × Nat × Nat) → Nat
  | [] => 0
  | e :: es => fOr e.2.2 (lanesFlags es)

end Sys2Proof.Machine
end

