-- ==== Sys2Proof/Machine/Sys.lean ====
section
/-! DEFINITION. System registers (R143, R144, R388): which numbers exist, reading, and writing at the landing tick; the tile
control register (R115, R123). -/

namespace Sys2Proof.Machine

/-- Assigned numbers (R143, R388). -/
def sysAssigned (n : Nat) : Bool :=
  decide (n ≤ 5) || (decide (8 ≤ n) && decide (n ≤ 0x0A)) || (decide (0x10 ≤ n) && decide (n ≤ 0x17))
    || (decide (0x20 ≤ n) && decide (n ≤ 0x2F)) || (decide (0x30 ≤ n) && decide (n ≤ 0x32))
    || (decide (0x40 ≤ n) && decide (n ≤ 0x53)) || (decide (0x100 ≤ n) && decide (n ≤ 0x109) && decide (n ≠ 0x103))
    || (decide (0x110 ≤ n) && decide (n ≤ 0x118))

def word (n : Nat) : Word := BitVec.ofNat 64 n

/-- SSTAT (R144). -/
def sstat (s : State) (c : Nat) (t : Bool) : Nat :=
  let y := s.st c t
  let k := match y.task with
    | some k => k.gsize % 16 * 2 ^ 12 + k.gidx % 16 * 2 ^ 8 + b2n k.det * 2 ^ 4
    | none => 0
  k + b2n (s.ctx (s.ctxOf c)).dbga * 2 ^ 5 + b2n y.sys.replay * 2 ^ 3 + b2n y.sys.exb * 2 ^ 2 + b2n y.sys.sup * 2 + b2n t

def ownerCode : Owner → Nat
  | .core => 0
  | .engR => 1
  | .engW => 2
  | .fab => 3
  | .mbx => 4

/-- TSTAT (R123). -/
def tstat (x : Seat) (tile : Nat) : Nat :=
  if 1536 ≤ tile then 0
  else
    let t := x.tile tile
    ownerCode t.st + b2n t.skew * 2 ^ 3 + t.holds % 2 ^ 10 * 2 ^ 8 + (x.takes.filter fun k => decide (k.tile = tile)).length % 2 ^ 10 * 2 ^ 18

/-- TCAUSE (R388). -/
def TrapRegs.cause (r : TrapRegs) : Nat :=
  r.code % 32 + b2n r.asy * 2 ^ 5 + r.slot % 8 * 2 ^ 8 + r.done.toNat * 2 ^ 16 + r.arg.toNat * 2 ^ 32

/-- GQS (R106). -/
def GQueue.status (q : GQueue) : Nat := b2n q.oob + b2n q.xf * 2 + q.aq.length % 64 * 2 ^ 4 + q.dq.length % 64 * 2 ^ 10

/-- PWRLIM (R381). -/
def Core.pwrlim (k : Core) : Nat := k.tok % 2 ^ 13 + 64 * k.tok % 2 ^ 20 * 2 ^ 32

/-- The value of a system register as stream `t` of core `c` reads it. -/
def sysRead (s : State) (c : Nat) (t : Bool) (n : Nat) : Word :=
  let x := s.seat c
  let y := x.st t
  let z := y.sys
  if n = 0 then word z.fflags
  else if n = 1 then word (sstat s c t)
  else if n = 2 then word (z.ticks - 1)
  else if n = 3 then z.clma.zeroExtend 64
  else if n = 4 then z.clmb.zeroExtend 64
  else if n = 5 then z.scoll
  else if n = 8 then s.gtb
  else if n = 9 then (s.core c).pwrfz
  else if n = 0x0A then word (s.core c).pwrlim
  else if n = 0x10 then z.kseed
  else if n = 0x11 then z.ktens.zeroExtend 64
  else if n = 0x12 then z.kstep.zeroExtend 64
  else if n = 0x13 then z.drawc.zeroExtend 64
  else if n = 0x14 then z.kidx
  else if n = 0x15 then z.kdest
  else if n = 0x16 then z.spawnc.zeroExtend 64
  else if n = 0x17 then word (b2n z.kwen)
  else if 0x20 ≤ n ∧ n ≤ 0x2F then (y.regs.getTs (n - 0x20)).zeroExtend 64
  else if n = 0x30 then 0
  else if n = 0x31 then z.tsel.zeroExtend 64
  else if n = 0x32 then word (tstat x z.tsel.toNat)
  else if 0x40 ≤ n ∧ n ≤ 0x43 then (x.q (n % 4)).gqb
  else if 0x44 ≤ n ∧ n ≤ 0x47 then (x.q (n % 4)).gqc
  else if 0x48 ≤ n ∧ n ≤ 0x4B then (x.q (n % 4)).gql
  else if 0x4C ≤ n ∧ n ≤ 0x4F then word (x.q (n % 4)).status
  else if 0x50 ≤ n ∧ n ≤ 0x53 then Tab.get 0 y.regs.xf (n - 0x50)
  else if n = 0x100 then word y.trap.cause
  else if n = 0x101 then word y.trap.tpc
  else if n = 0x102 then word y.trap.top
  else if 0x104 ≤ n ∧ n ≤ 0x107 then nth 0 y.trap.tfr (n - 0x104)
  else if n = 0x109 then word y.trap.flost
  else if 0x110 ≤ n ∧ n ≤ 0x117 then Tab.get 0 y.trap.sscr (n - 0x110)
  else if n = 0x118 then word (s.fld (ccbOff (s.ctxOf c) + 0x40) 0 48)
  else 0

/-- The side effect of a read: FLOST clears (R388). -/
def sysReadEffect (n : Nat) (y : Stream) : Stream := if n = 0x109 then { y with trap := { y.trap with flost := 0 } } else y

/-- Bits of a value. -/
def low (n : Nat) (v : Word) : Nat := v.toNat % 2 ^ n

/-- A SYSW's effect on its own stream at its landing tick (R9, R143, R197, R389). -/
def sysWriteStream (n : Nat) (v : Word) (y : Stream) : Stream :=
  let z := y.sys
  let sys := fun (z : SysRegs) => { y with sys := z }
  if n = 0 then sys { z with fflags := writeFflags v }
  else if n = 3 then sys { z with clma := v.truncate 8 }
  else if n = 4 then sys { z with clmb := v.truncate 8 }
  else if n = 0x10 then sys { z with kseed := v }
  else if n = 0x11 then sys { z with ktens := v.truncate 32 }
  else if n = 0x12 then sys { z with kstep := v.truncate 32 }
  else if n = 0x13 then { y with sys := { z with drawc := v.truncate 32 }, drawSet := true }
  else if n = 0x14 then sys { z with kidx := v }
  else if n = 0x15 then sys { z with kdest := v }
  else if n = 0x17 then sys { z with kwen := bitN v.toNat 0 }
  else if 0x20 ≤ n ∧ n ≤ 0x2F then { y with regs := { y.regs with ts := Tab.set tsDefault y.regs.ts (n - 0x20) (v.truncate 32) } }
  else if n = 0x31 then sys { z with tsel := v.truncate 11 }
  else if n = 0x100 then { y with trap := { y.trap with done := BitVec.ofNat 8 (v.toNat / 2 ^ 16) } }
  else if n = 0x101 then { y with trap := { y.trap with tpc := low 19 v } }
  else if n = 0x108 then { y with ret := some (bitN v.toNat 16, BitVec.ofNat 8 (v.toNat / 2 ^ 8)) }
  else if 0x110 ≤ n ∧ n ≤ 0x117 then { y with trap := { y.trap with sscr := Tab.set 0 y.trap.sscr (n - 0x110) v } }
  else y

/-- A SYSW's effect on the core's registers (R106, R143). -/
def sysWriteSeat (n : Nat) (v : Word) (x : Seat) : Seat :=
  let q := x.q (n % 4)
  if 0x40 ≤ n ∧ n ≤ 0x43 then x.putQ (n % 4) { q with gqb := word (low 56 v) }
  else if 0x44 ≤ n ∧ n ≤ 0x47 then
    x.putQ (n % 4) { q with gqc := word (v.toNat &&& (bitsMask 63 32 + bitsMask 15 9 + 1)) }
  else if 0x48 ≤ n ∧ n ≤ 0x4B then x.putQ (n % 4) { q with gql := word (low 32 v) }
  else if 0x4C ≤ n ∧ n ≤ 0x4F then
    x.putQ (n % 4) { q with oob := q.oob && !bitN v.toNat 0, xf := q.xf && !bitN v.toNat 1 }
  else x

/-- A SYSW lands (R197): its stream, its core, and the key-use log that a change of KSTEP empties (R60). -/
def sysLand (c : Nat) (t : Bool) (n : Nat) (v : Word) (s : State) : State :=
  let x := s.seat c
  let y := x.st t
  let y' := sysWriteStream n v y
  let s := if n = 0x12 ∧ y'.sys.kstep ≠ y.sys.kstep then
      let k := s.ctxOf c
      s.putCtx k { s.ctx k with keylog := [] }
    else s
  s.putSeat c (sysWriteSeat n v (x.putSt t y'))

/-! ## TCTL (R115, R123) -/

/-- Bytes of a tile whose 256-byte rows of sixteen 16-byte units are turned; `set`: SKEW becomes 1. -/
def turnTile (m : Mem) (t : Nat) (set : Bool) : Mem :=
  let src := fun (i : Nat) =>
    let r := i / 256
    let u := i / 16 % 16
    256 * r + 16 * (if set then (r + u) % 16 else (u + 16 - r % 16) % 16) + i % 16
  Tab.setRun 0 m (4096 * t) ((List.range 4096).map fun i => Mem.byte m (4096 * t + src i))

/-- Where the change of SKEW takes the byte at offset `i` of its tile. -/
def turnTo (set : Bool) (i : Nat) : Nat :=
  let r := i / 256
  let u := i / 16 % 16
  256 * r + 16 * (if set then (u + 16 - r % 16) % 16 else (r + u) % 16) + i % 16

/-- SKEW of one tile becomes `v`; a tile that has it already is unchanged. Every bank word stays in place, its error with it. -/
def Seat.turn (x : Seat) (v : Bool) (t : Nat) : Seat :=
  let y := x.tile t
  if y.skew = v then x
  else { x.putTile t { y with skew := v } with
         spad := turnTile x.spad t v
         bad := x.bad.map fun w => if w / 4096 = t then 4096 * t + turnTo v (w % 4096) else w }

/-- Fields of a TCTL value. -/
def tctlOp (v : Word) : Nat := low 4 v
def tctlTile (v : Word) : Nat := v.toNat / 2 ^ 16 % 2 ^ 11
def tctlCount (v : Word) : Nat := v.toNat / 2 ^ 32 % 2 ^ 11
def tctlTiles (v : Word) : List Nat := (List.range (tctlCount v)).map (tctlTile v + ·)

/-- The trap of a TCTL write, if it takes one. -/
def tctlTrap (x : Seat) (v : Word) : Option Nat :=
  let op := tctlOp v
  if 6 ≤ op ∨ tctlCount v = 0 ∨ 1536 < tctlTile v + tctlCount v then some tcILLI
  else
    let need : Option Owner := if op = 0 then none else if op ≤ 3 then some .core else if op = 4 then some .mbx else some .fab
    let bad := fun t => (match need with | none => false | some o => decide ((x.tile t).st ≠ o)) || x.takes.any fun k => decide (k.tile = t)
    let part := decide (op = 5) && !(x.armings.any fun r => decide (r.tile = tctlTile v) && decide (r.count = tctlCount v))
    if (tctlTiles v).any bad ∨ part then some tcOWNVIOL else none

/-- The shared frame of the TCTL steps: the trap, or the operation `f` on the seat. -/
def tctl (c : Nat) (v : Word) (f : Seat → Seat) (s : State) : Except (Nat × Nat) State :=
  match tctlTrap (s.seat c) v with
  | some code => .error (code, 0)
  | none => .ok (s.putSeat c (f (s.seat c)))

/-- A step that is not the slot under way: a trap leaves the machine as it is. -/
def tctlStep (r : Except (Nat × Nat) State) (s : State) : Host.Outcome State Fault Refusal :=
  match r with
  | .ok s' => .next s'
  | .error _ => .next s

def tilesTo (v : Word) (o : Owner) (x : Seat) : Seat :=
  (tctlTiles v).foldl (fun x t => x.putTile t { x.tile t with st := o }) x

def doTctlNone (c : Nat) (_t : Bool) (v : Word) (s : State) : SlotRes := tctl c v id s
def doTctlSetSkew (c : Nat) (_t : Bool) (v : Word) (s : State) : SlotRes := tctl c v (fun x => (tctlTiles v).foldl (Seat.turn · true) x) s
def doTctlClearSkew (c : Nat) (_t : Bool) (v : Word) (s : State) : SlotRes := tctl c v (fun x => (tctlTiles v).foldl (Seat.turn · false) x) s
def doTctlMakeMailbox (c : Nat) (_t : Bool) (v : Word) (s : State) : SlotRes := tctl c v (tilesTo v .mbx) s
def doTctlReleaseMailbox (c : Nat) (_t : Bool) (v : Word) (s : State) : SlotRes := tctl c v (fun x => (tilesTo v .core x).grants) s

/-- Disarm (R124): the arming whose tiles the op names is cancelled; its tiles return to CORE. -/
def doTctlDisarm (c : Nat) (_t : Bool) (v : Word) (s : State) : SlotRes :=
  tctl c v (fun x =>
    let hit := fun (r : Arming) => (tctlTiles v).any fun t => decide (r.tile ≤ t) && decide (t < r.tile + r.count)
    let x := { x with armings := x.armings.filter fun r => !hit r }
    (tilesTo v .core x).grants) s

/-- TCTL by its OP field, for the SYSW that issues it. -/
def doTctl (c : Nat) (t : Bool) (v : Word) (s : State) : SlotRes :=
  match tctlOp v with
  | 1 => doTctlSetSkew c t v s
  | 2 => doTctlClearSkew c t v s
  | 3 => doTctlMakeMailbox c t v s
  | 4 => doTctlReleaseMailbox c t v s
  | 5 => doTctlDisarm c t v s
  | _ => doTctlNone c t v s

/-- TCTL with OP 0 (R123). -/
def execTctlNone (c : Nat) (t : Bool) (v : Word) (s : State) : Host.Outcome State Fault Refusal := tctlStep (doTctlNone c t v s) s

/-- TCTL set SKEW (R115, R123). -/
def execTctlSetSkew (c : Nat) (t : Bool) (v : Word) (s : State) : Host.Outcome State Fault Refusal := tctlStep (doTctlSetSkew c t v s) s

/-- TCTL clear SKEW (R115, R123). -/
def execTctlClearSkew (c : Nat) (t : Bool) (v : Word) (s : State) : Host.Outcome State Fault Refusal := tctlStep (doTctlClearSkew c t v s) s

/-- TCTL make-mailbox (R123). -/
def execTctlMakeMailbox (c : Nat) (t : Bool) (v : Word) (s : State) : Host.Outcome State Fault Refusal := tctlStep (doTctlMakeMailbox c t v s) s

/-- TCTL release-mailbox (R123). -/
def execTctlReleaseMailbox (c : Nat) (t : Bool) (v : Word) (s : State) : Host.Outcome State Fault Refusal := tctlStep (doTctlReleaseMailbox c t v s) s

/-- TCTL disarm (R123, R124). -/
def execTctlDisarm (c : Nat) (t : Bool) (v : Word) (s : State) : Host.Outcome State Fault Refusal := tctlStep (doTctlDisarm c t v s) s

end Sys2Proof.Machine
end

