-- ==== Sys2Proof/Machine/Vector.lean ====
section
/-! DEFINITION. The VA and VB slots (09). -/

namespace Sys2Proof.Machine

/-! ## Landing lanes (R224, R227) -/

/-- Lanes with values and flags land after `lat` ticks; none where nothing is written. -/
def landLanes (d : RegF) (lat : Nat) (rs : List (Nat × Nat × Nat)) (s : State) : State :=
  if rs.isEmpty then s
  else land (.v d.toNat (rs.map fun r => (r.1, BitVec.ofNat 32 r.2.1))) (lanesFlags rs) lat s

/-- The written lanes take the values and flags that `f` gives their positions. -/
def lanewise (fs : List RegF) (d : RegF) (k : F3) (c : CSet) (lat : Nat) (f : Nat → Nat × Nat) (s : State) :
    Host.Outcome State Fault Refusal :=
  runSlot fs (.ok (landLanes d lat ((writtenLanes s k c).map fun p => (p, f p)) s)) s

/-- A lane as a number. -/
def vn (s : State) (f : RegF) (p : Nat) : Nat := (rdV s f p).toNat

/-- A lane-by-lane operation of two registers. -/
def vec2 (d a b : RegF) (k : F3) (c : CSet) (lat : Nat) (f : Nat → Nat → Nat × Nat) (s : State) : Host.Outcome State Fault Refusal :=
  lanewise [a, b] d k c lat (fun p => f (vn s a p) (vn s b p)) s

/-- A lane-by-lane operation of one register. -/
def vec1 (d a : RegF) (k : F3) (c : CSet) (lat : Nat) (f : Nat → Nat × Nat) (s : State) : Host.Outcome State Fault Refusal :=
  lanewise [a] d k c lat (fun p => f (vn s a p)) s

/-- An operation without flags on lanes as bit vectors. -/
def bits2 (f : W32 → W32 → W32) (x y : Nat) : Nat × Nat := ((f (BitVec.ofNat 32 x) (BitVec.ofNat 32 y)).toNat, 0)

def bits1 (f : W32 → W32) (x : Nat) : Nat × Nat := ((f (BitVec.ofNat 32 x)).toNat, 0)

/-! ## Integer operations (R228) -/

def execVaddI32 (d a b : RegF) (k : F3) (c : CSet) (s : State) : Host.Outcome State Fault Refusal :=
  vec2 d a b k c 2 (bits2 fun x y => x + y) s
def execVsubI32 (d a b : RegF) (k : F3) (c : CSet) (s : State) : Host.Outcome State Fault Refusal :=
  vec2 d a b k c 2 (bits2 fun x y => x - y) s
def execVmulI32 (d a b : RegF) (k : F3) (c : CSet) (s : State) : Host.Outcome State Fault Refusal :=
  vec2 d a b k c 3 (bits2 fun x y => x * y) s
def execVmulh (d a b : RegF) (k : F3) (c : CSet) (s : State) : Host.Outcome State Fault Refusal :=
  vec2 d a b k c 3 (bits2 fun x y => BitVec.ofInt 32 (x.toInt * y.toInt / 2 ^ 32)) s
def execVand (d a b : RegF) (k : F3) (c : CSet) (s : State) : Host.Outcome State Fault Refusal :=
  vec2 d a b k c 2 (bits2 fun x y => x &&& y) s
def execVor (d a b : RegF) (k : F3) (c : CSet) (s : State) : Host.Outcome State Fault Refusal :=
  vec2 d a b k c 2 (bits2 fun x y => x ||| y) s
def execVxor (d a b : RegF) (k : F3) (c : CSet) (s : State) : Host.Outcome State Fault Refusal :=
  vec2 d a b k c 2 (bits2 fun x y => x ^^^ y) s
def execVabsI32 (d a : RegF) (k : F3) (c : CSet) (s : State) : Host.Outcome State Fault Refusal :=
  vec1 d a k c 2 (bits1 fun x => if x.toInt < 0 then -x else x) s
def execVshl (d a b : RegF) (k : F3) (c : CSet) (s : State) : Host.Outcome State Fault Refusal :=
  vec2 d a b k c 2 (bits2 fun x y => x <<< (y.toNat % 32)) s
def execVshr (d a b : RegF) (k : F3) (c : CSet) (s : State) : Host.Outcome State Fault Refusal :=
  vec2 d a b k c 2 (bits2 fun x y => x >>> (y.toNat % 32)) s
def execVsar (d a b : RegF) (k : F3) (c : CSet) (s : State) : Host.Outcome State Fault Refusal :=
  vec2 d a b k c 2 (bits2 fun x y => x.sshiftRight (y.toNat % 32)) s

/-- The lesser or the greater of signed lanes. -/
def iMinMax (isMax : Bool) (x y : W32) : W32 := if decide (x.toInt < y.toInt) = isMax then y else x

def execVminI32 (d a b : RegF) (k : F3) (c : CSet) (s : State) : Host.Outcome State Fault Refusal := vec2 d a b k c 2 (bits2 (iMinMax false)) s
def execVmaxI32 (d a b : RegF) (k : F3) (c : CSet) (s : State) : Host.Outcome State Fault Refusal := vec2 d a b k c 2 (bits2 (iMinMax true)) s
def execVminU32 (d a b : RegF) (k : F3) (c : CSet) (s : State) : Host.Outcome State Fault Refusal :=
  vec2 d a b k c 2 (bits2 fun x y => if x.toNat ≤ y.toNat then x else y) s
def execVmaxU32 (d a b : RegF) (k : F3) (c : CSet) (s : State) : Host.Outcome State Fault Refusal :=
  vec2 d a b k c 2 (bits2 fun x y => if y.toNat ≤ x.toNat then x else y) s

/-! ## Floating point (R229 to R232) -/

def execVaddF32 (d a b : RegF) (k : F3) (c : CSet) (s : State) : Host.Outcome State Fault Refusal := vec2 d a b k c 3 fAdd s
def execVsubF32 (d a b : RegF) (k : F3) (c : CSet) (s : State) : Host.Outcome State Fault Refusal := vec2 d a b k c 3 fSub s
def execVmulF32 (d a b : RegF) (k : F3) (c : CSet) (s : State) : Host.Outcome State Fault Refusal := vec2 d a b k c 3 fMul s

/-- VFMA (R229): the destination is also read. -/
def execVfmaF32 (d a b : RegF) (k : F3) (c : CSet) (s : State) : Host.Outcome State Fault Refusal :=
  lanewise [a, b] d k c 4 (fun p => fFma (vn s d p) (vn s a p) (vn s b p)) s

def execVminF32 (d a b : RegF) (k : F3) (c : CSet) (s : State) : Host.Outcome State Fault Refusal := vec2 d a b k c 3 (fMinMax fmtF32 false) s
def execVmaxF32 (d a b : RegF) (k : F3) (c : CSet) (s : State) : Host.Outcome State Fault Refusal := vec2 d a b k c 3 (fMinMax fmtF32 true) s

/-- VDOT2 of one lane (R231): an exact sum of two products, rounded once. -/
def dot2 (x y : Nat) : Nat × Nat :=
  let v := fun (w i : Nat) => decodeFloat fmtBf16 (w / 2 ^ (16 * i) % 2 ^ 16)
  let p := xmul (v x 0) (v y 0)
  let q := xmul (v x 1) (v y 1)
  let r := xadd .rne p.1 q.1
  fpRound (r.1, fOr (fOr p.2 q.2) r.2)

def execVdot2Bf16 (d a b : RegF) (k : F3) (c : CSet) (s : State) : Host.Outcome State Fault Refusal := vec2 d a b k c 4 dot2 s

def execVabsF32 (d a : RegF) (k : F3) (c : CSet) (s : State) : Host.Outcome State Fault Refusal :=
  vec1 d a k c 1 (fun x => (x % 2 ^ 31, 0)) s
def execVnegF32 (d a : RegF) (k : F3) (c : CSet) (s : State) : Host.Outcome State Fault Refusal :=
  vec1 d a k c 1 (bits1 fun x => x ^^^ 0x80000000) s
def execVcpysF32 (d a b : RegF) (k : F3) (c : CSet) (s : State) : Host.Outcome State Fault Refusal :=
  vec2 d a b k c 1 (fun x y => (x % 2 ^ 31 + y / 2 ^ 31 * 2 ^ 31, 0)) s

/-! ## Compares (R233) -/

/-- The outcome of an FP32 compare. -/
def fcond (f : FCond) (x y : Nat) : Bool × Nat :=
  let a := f32Val x
  let b := f32Val y
  let un := a.isNan || b.isNan
  let o := xcmp a b
  let r : Bool :=
    match f with
    | .eq => !un && decide (o = .eq)
    | .ne => un || decide (o ≠ .eq)
    | .lt => !un && decide (o = .lt)
    | .le => !un && decide (o ≠ .gt)
    | .gt => !un && decide (o = .gt)
    | .ge => !un && decide (o ≠ .lt)
    | .un => un
    | .or => !un
  (r, nvIf (a.isSig || b.isSig))

/-- The outcome of an integer compare. -/
def icond (f : ICond) (x y : W32) : Bool :=
  match f with
  | .eq => decide (x = y)
  | .ne => decide (x ≠ y)
  | .lt => decide (x.toInt < y.toInt)
  | .le => decide (x.toInt ≤ y.toInt)
  | .gt => decide (y.toInt < x.toInt)
  | .ge => decide (y.toInt ≤ x.toInt)
  | .ltu => decide (x.toNat < y.toNat)
  | .geu => decide (y.toNat ≤ x.toNat)

/-- Mask bits with flags land after 2 ticks. -/
def landMask (d : F3) (rs : List (Nat × Bool × Nat)) (s : State) : State :=
  if rs.isEmpty then s
  else land (.k d.toNat (rs.map fun r => (r.1, r.2.1))) (lanesFlags (rs.map fun r => (r.1, 0, r.2.2))) 2 s

def execVcmpF32 (d : F3) (a b : RegF) (k : F3) (c : CSet) (f : FCond) (s : State) : Host.Outcome State Fault Refusal :=
  runSlot [a, b] (.ok (landMask d ((writtenLanes s k c).map fun p => (p, fcond f (vn s a p) (vn s b p))) s)) s

def execVcmpI32 (d : F3) (a b : RegF) (k : F3) (c : CSet) (f : ICond) (s : State) : Host.Outcome State Fault Refusal :=
  runSlot [a, b] (.ok (landMask d ((writtenLanes s k c).map fun p => (p, icond f (rdV s a p) (rdV s b p), 0)) s)) s

/-! ## Moves (R234, R235) -/

def execVmov (d a : RegF) (k : F3) (c : CSet) (s : State) : Host.Outcome State Fault Refusal := vec1 d a k c 1 (fun x => (x, 0)) s

/-- VSEL: the mask selects; every lane of the set is written. -/
def execVsel (d a b : RegF) (k : F3) (c : CSet) (s : State) : Host.Outcome State Fault Refusal :=
  let m := rdK s k
  runSlot [a, b] (.ok (landLanes d 1 ((setLanes s c).map fun p => (p, if m.getLsbD p then vn s a p else vn s b p, 0)) s)) s

def execVbcast (d a : RegF) (k : F3) (c : CSet) (s : State) : Host.Outcome State Fault Refusal :=
  let v := low 32 (rdS s a)
  lanewise [a] d k c 1 (fun _ => (v, 0)) s

/-- VEXTR: a scalar result at tick t + 2, if the lane is admitted. -/
def execVextr (d a b : RegF) (k : F3) (c : CSet) (s : State) : Host.Outcome State Fault Refusal :=
  let i := (rdS s b).toNat % 128
  runSlot [a, b] (.ok (if (writtenLanes s k c).any (· == i) then land (.s d.toNat (word (vn s a i))) 0 2 s else s)) s

def execVins (d a b : RegF) (k : F3) (c : CSet) (s : State) : Host.Outcome State Fault Refusal :=
  let i := (rdS s b).toNat % 128
  let v := low 32 (rdS s a)
  runSlot [a, b] (.ok (landLanes d 2 (((writtenLanes s k c).filter (· == i)).map fun p => (p, v, 0)) s)) s

def execVperm (d a b : RegF) (k : F3) (c : CSet) (s : State) : Host.Outcome State Fault Refusal :=
  lanewise [a, b] d k c 3 (fun p => (vn s a (p / 16 * 16 + vn s b p % 16), 0)) s

def execVxcl (d a : RegF) (r : F3) (k : F3) (c : CSet) (s : State) : Host.Outcome State Fault Refusal :=
  lanewise [a] d k c 6 (fun p => (vn s a ((p / 16 + r.toNat) % 8 * 16 + p % 16), 0)) s

def execViota (d : RegF) (k : F3) (c : CSet) (s : State) : Host.Outcome State Fault Refusal := lanewise [] d k c 1 (fun p => (p, 0)) s

/-! ## Reductions (R236) -/

/-- comb of R236. -/
def comb (op : Nat → Nat → Nat × Nat) (a b : Option Nat × Nat) : Option Nat × Nat :=
  match a.1, b.1 with
  | none, _ => (b.1, fOr a.2 b.2)
  | _, none => (a.1, fOr a.2 b.2)
  | some x, some y => let r := op x y; (some r.1, fOr (fOr a.2 b.2) r.2)

/-- One level of the tree: neighbours combine. -/
def combPairs (op : Nat → Nat → Nat × Nat) : List (Option Nat × Nat) → List (Option Nat × Nat)
  | a :: b :: l => comb op a b :: combPairs op l
  | l => l

/-- The reduction of a cluster's sixteen lanes. -/
def redTree (op : Nat → Nat → Nat × Nat) (ident : Nat) (ls : List (Option Nat)) : Nat × Nat :=
  let r := (combPairs op (combPairs op (combPairs op (combPairs op (ls.map fun x => (x, 0)))))).headD (none, 0)
  (r.1.getD ident, r.2)

/-- A VRED form: lane 0 of each cluster in the set. -/
def vred (d a : RegF) (k : F3) (c : CSet) (op : Nat → Nat → Nat × Nat) (ident : Nat) (s : State) : Host.Outcome State Fault Refusal :=
  let m := rdK s k
  let lanes := fun cl => (List.range 16).map fun l => if m.getLsbD (16 * cl + l) then some (vn s a (16 * cl + l)) else none
  runSlot [a] (.ok (landLanes d 8 ((clustersOf (clusterSet s c)).map fun cl => (16 * cl, redTree op ident (lanes cl))) s)) s

def execVredaddF32 (d a : RegF) (k : F3) (c : CSet) (s : State) : Host.Outcome State Fault Refusal := vred d a k c fAdd 0 s
def execVredaddI32 (d a : RegF) (k : F3) (c : CSet) (s : State) : Host.Outcome State Fault Refusal := vred d a k c (bits2 fun x y => x + y) 0 s
def execVredmaxF32 (d a : RegF) (k : F3) (c : CSet) (s : State) : Host.Outcome State Fault Refusal := vred d a k c (fMinMax fmtF32 true) 0xFF800000 s
def execVredmaxI32 (d a : RegF) (k : F3) (c : CSet) (s : State) : Host.Outcome State Fault Refusal := vred d a k c (bits2 (iMinMax true)) 0x80000000 s
def execVredminF32 (d a : RegF) (k : F3) (c : CSet) (s : State) : Host.Outcome State Fault Refusal := vred d a k c (fMinMax fmtF32 false) 0x7F800000 s
def execVredminI32 (d a : RegF) (k : F3) (c : CSet) (s : State) : Host.Outcome State Fault Refusal := vred d a k c (bits2 (iMinMax false)) 0x7FFFFFFF s

/-! ## Conversions (R237 to R240) -/

/-- The key of the stream under way (R46, R52). -/
def streamKey (s : State) : Nat := let z := s.cst.sys; keyOf z.kseed.toNat z.ktens.toNat z.kstep.toNat

/-- The keyed word of result position `p` under SR (R239). -/
def srWord (s : State) (p : Nat) : Nat := if s.cur.rnd = .sr then roundWord (streamKey s) 0 (s.cst.sys.kidx.toNat + p) else 0

/-- One report to the key-use log (R58, R239, R248). -/
def reportKey (s : State) : State :=
  let z := s.cst.sys
  postKey (s.ctxOf s.cur.core) s.cur.core 3 (originOf s) z.ktens z.kstep z.kdest s

/-- Reports under SR where the cluster set is not empty. -/
def srReport (c : CSet) (s : State) : State := if s.cur.rnd = .sr ∧ clusterSet s c ≠ 0 then reportKey s else s

/-- The element format of a VCVT format. -/
def vfmtElem (f : VFmt) : EFmt :=
  match f with
  | .f32 => .fp32
  | .bf16 => .bf16
  | .e4m3 => .e4m3
  | .e5m2 => .e5m2
  | .kbf7 => .kbf7
  | .kbf4 => .kbf4
  | .kbf2 => .kbf2
  | .i32 => .i32

/-- dec of R238: the exact value of lane `l` of a cluster. -/
def decLane (f : VFmt) (l w : Nat) : XVal :=
  let e := vfmtElem f
  match e.kbf with
  | some k => kbfElem k ⟨w / 2 ^ 8 % 2 ^ 8, w / 2 ^ 16 % 2 ^ 8, List.replicate 16 (w % 2 ^ (k + 1))⟩ l
  | none => decodeElem e 0 (w % 2 ^ (8 * e.bytes))

/-- VCVT (R238) of one cluster into KBF. -/
def cvtBlock (s : State) (a : RegF) (src : VFmt) (kb : Nat) (m : BitVec 128) (cl : Nat) : List (Nat × Nat × Nat) :=
  let xs := (List.range 16).map fun l => if m.getLsbD (16 * cl + l) then decLane src l (vn s a (16 * cl + l)) else XVal.zero
  let b := kbfEncode kb s.cur.rnd s.cur.sat xs ((List.range 16).map fun l => srWord s (16 * cl + l))
  (List.range 16).map fun l => (16 * cl + l, nth 0 b.1.codes l + 2 ^ 8 * b.1.exp + 2 ^ 16 * b.1.mu, b.2)

def execVcvt (d a : RegF) (src dst : VFmt) (k : F3) (c : CSet) (s : State) : Host.Outcome State Fault Refusal :=
  let fe := vfmtElem dst
  let lat := if fe.kbf.isSome ∨ (vfmtElem src).kbf.isSome then 6 else 4
  let rs :=
    match fe.kbf with
    | some kb => (clustersOf (clusterSet s c)).flatMap (cvtBlock s a src kb (rdK s k))
    | none => (writtenLanes s k c).map fun p => (p, encodeElem fe 0 s.cur.rnd s.cur.sat (srWord s p) (decLane src (p % 16) (vn s a p)))
  runSlot [a] (.ok (srReport c (landLanes d lat rs s))) s

/-- VCVT.F32.FX128 (R240): result lane j of cluster c has position 4c + j for its keyed word. -/
def cvtFx128 (d a : RegF) (p : Nat) (k : F3) (c : CSet) (s : State) : Host.Outcome State Fault Refusal :=
  let m := rdK s k
  let rs := (clustersOf (clusterSet s c)).flatMap fun cl =>
    ((List.range 4).filter fun j => m.getLsbD (16 * cl + j)).map fun j =>
      let w := fun i => vn s a (16 * cl + 4 * j + i)
      let v := w 0 + w 1 * 2 ^ 32 + w 2 * 2 ^ 64 + w 3 * 2 ^ 96
      (16 * cl + j, encodeFloat fmtF32 s.cur.rnd s.cur.sat (srWord s (4 * cl + j)) (decodeElem .fx128 p v))
  runSlot [a] (.ok (srReport c (landLanes d 4 rs s))) s

def execVcvtF32Fx128Lo (d a : RegF) (p : BitVec 6) (k : F3) (c : CSet) (s : State) : Host.Outcome State Fault Refusal :=
  cvtFx128 d a p.toNat k c s
def execVcvtF32Fx128Hi (d a : RegF) (p : BitVec 6) (k : F3) (c : CSet) (s : State) : Host.Outcome State Fault Refusal :=
  cvtFx128 d a (64 + p.toNat) k c s

/-! ## Special functions (R241 to R246) -/

def execVrcp (d a : RegF) (k : F3) (c : CSet) (s : State) : Host.Outcome State Fault Refusal := vec1 d a k c 3 vrcp s
def execVrcpr (d a b : RegF) (k : F3) (c : CSet) (s : State) : Host.Outcome State Fault Refusal := vec2 d a b k c 5 vrcpr s
def execVrsq (d a : RegF) (k : F3) (c : CSet) (s : State) : Host.Outcome State Fault Refusal := vec1 d a k c 3 vrsq s
def execVrsqr (d a b : RegF) (k : F3) (c : CSet) (s : State) : Host.Outcome State Fault Refusal := vec2 d a b k c 5 vrsqr s
def execVsqrt (d a : RegF) (k : F3) (c : CSet) (s : State) : Host.Outcome State Fault Refusal := vec1 d a k c 12 fSqrt s
def execVexp2 (d a : RegF) (k : F3) (c : CSet) (s : State) : Host.Outcome State Fault Refusal := vec1 d a k c 12 vexp2 s
def execVlog2 (d a : RegF) (k : F3) (c : CSet) (s : State) : Host.Outcome State Fault Refusal := vec1 d a k c 12 vlog2 s
def execVsin (d a : RegF) (k : F3) (c : CSet) (s : State) : Host.Outcome State Fault Refusal := vec1 d a k c 16 (vtrig false) s
def execVcos (d a : RegF) (k : F3) (c : CSet) (s : State) : Host.Outcome State Fault Refusal := vec1 d a k c 16 (vtrig true) s

/-! ## Keyed draws (R54, R247, R248) -/

/-- The word a lane draws: DRAWC is the stream's plus the drawing slots below in the bundle (R54). -/
def drawWord (s : State) (p : Nat) : Nat :=
  let y := s.cst
  krg (streamKey s) (ctrDraw p y.wid.toNat (y.sys.drawc.toNat + (s.cur.drawers.filter fun k => decide (k < s.cur.slot)).length)) % 2 ^ 32

/-- VRAND (R247). -/
def execVrand (d : RegF) (k : F3) (c : CSet) (s : State) : Host.Outcome State Fault Refusal :=
  lanewise [] d k c 4 (fun p => (drawWord s p, 0)) s

/-- VRANDF (R247): the top 24 bits of the word over 2^24. -/
def execVrandf (d : RegF) (k : F3) (c : CSet) (s : State) : Host.Outcome State Fault Refusal :=
  lanewise [] d k c 4 (fun p => f32Rne (.fin false (drawWord s p / 2 ^ 8) (-24))) s

/-- VDROP (R248). -/
def execVdrop (d a b : RegF) (k : F3) (c : CSet) (s : State) : Host.Outcome State Fault Refusal :=
  let t := min (rdS s b).toNat (2 ^ 24)
  let keep := fun p => decide (dropWord (streamKey s) (s.cst.sys.kidx.toNat + p) / 2 ^ 8 < t)
  let s1 := landLanes d 4 ((writtenLanes s k c).map fun p => (p, if keep p then vn s a p else 0, 0)) s
  runSlot [a, b] (.ok (if clusterSet s c = 0 then s1 else reportKey s1)) s

/-! ## Top-k (R249) -/

/-- Does a value rank above another? -/
def ranksAbove (x y : Nat) : Bool :=
  let a := f32Val x
  let b := f32Val y
  !a.isNan && (b.isNan || decide (xcmp a b = .gt))

/-- Insert behind every entry that it does not rank above. -/
def insRank (e : Nat × Nat) : List (Nat × Nat) → List (Nat × Nat)
  | [] => [e]
  | f :: l => if ranksAbove e.2 f.2 then e :: f :: l else f :: insRank e l

/-- Tags by rank of their values, equal values by ascending tag. -/
def rankOrder (vs : List (Nat × Nat)) : List Nat := (vs.foldl (fun l e => insRank e l) []).map fun e => e.1

/-- VTOPK (R249). -/
def execVtopk (d a b : RegF) (k : F3) (c : CSet) (s : State) : Host.Outcome State Fault Refusal :=
  let o := fun cl => rankOrder ((List.range 16).map fun l => (l, vn s a (16 * cl + l)))
  let tb := (List.range 8).map o
  lanewise [a, b] d k c 8 (fun p => (vn s b (p / 16 * 16 + nth 0 (nth [] tb (p / 16)) (p % 16)), 0)) s

/-- VMERGEK (R249). -/
def execVmergek (d a b : RegF) (k : F3) (c : CSet) (s : State) : Host.Outcome State Fault Refusal :=
  let o := fun cl => rankOrder (((List.range 16).map fun l => (l, vn s a (16 * cl + l))) ++ (List.range 16).map fun l => (16 + l, vn s b (16 * cl + l)))
  let tb := (List.range 8).map o
  lanewise [a, b] d k c 8 (fun p => (nth 0 (nth [] tb (p / 16)) (p % 16), 0)) s

end Sys2Proof.Machine
end

