-- ==== Sys2Proof/Machine/Mxe.lean ====
section
/-! DEFINITION. The matrix engine (10): MPSET and MCALL, the micro-operations and routines, and VACCRD (R250). -/

namespace Sys2Proof.Machine

/-! ## The Almanac (R255) -/

/-- A published profile: stream and stationary operand formats, plane depth, K-group size, alignment window. -/
structure Profile where
  stream : EFmt
  stat   : EFmt
  depth  : Nat
  group  : Nat
  window : Option Nat
  deriving DecidableEq, Repr

def almanac (n : Nat) : Profile :=
  match n with
  | 0 => ⟨.kbf7, .kbf7, 128, 16, some 40⟩
  | 1 => ⟨.kbf4, .kbf4, 256, 32, some 40⟩
  | 2 => ⟨.kbf2, .kbf2, 512, 64, some 40⟩
  | 3 => ⟨.kbf4, .kbf7, 128, 16, some 40⟩
  | 4 => ⟨.mxE4m3, .mxE4m3, 128, 32, some 40⟩
  | 5 => ⟨.e5m2, .e4m3, 128, 16, some 40⟩
  | 6 => ⟨.bf16, .bf16, 64, 16, some 64⟩
  | 7 => ⟨.i8, .i8, 128, 128, none⟩
  | 8 => ⟨.fp32, .fp32, 32, 8, some 96⟩
  | 9 => ⟨.cf32, .cf32, 16, 4, some 96⟩
  | 10 => ⟨.fp32, .fp32, 32, 8, some 96⟩
  | _ => ⟨.kbf7, .e4m3, 128, 16, some 40⟩

/-! ## Dense runs of tables -/

/-- `n` values from key `k` of a table that lists no key below `k`. -/
def dense {α : Type} (d : α) : Tab α → Nat → Nat → List α
  | _, _, 0 => []
  | [], k, n + 1 => d :: dense d [] (k + 1) n
  | (i, x) :: t, k, n + 1 => if i = k then x :: dense d t (k + 1) n else d :: dense d ((i, x) :: t) (k + 1) n

/-- `n` values from key `k`. -/
def Tab.run {α : Type} (d : α) (t : Tab α) (k n : Nat) : List α := dense d (Tab.slice t k (k + n)) k n

/-- Listed entries of values at rising keys. -/
def sparse {α : Type} [DecidableEq α] (d : α) : Nat → List α → Tab α
  | _, [] => []
  | k, x :: xs => if x = d then sparse d (k + 1) xs else (k, x) :: sparse d (k + 1) xs

/-- The table with a run of values from key `k` replaced. -/
def Tab.putRun {α : Type} [DecidableEq α] (d : α) (t : Tab α) (k : Nat) (xs : List α) : Tab α :=
  t.filter (fun e => decide (e.1 < k)) ++ sparse d k xs ++ t.filter (fun e => decide (k + xs.length ≤ e.1))

/-- Cut a list into pieces of `n` elements. -/
def cut {α : Type} (n : Nat) : Nat → List α → List (List α)
  | 0, _ => []
  | f + 1, l => if l.isEmpty then [] else l.take n :: cut n f (l.drop n)

/-! ## Values (R256) -/

/-- An exact value as a plane element. -/
def PVal.ofX : XVal → PVal
  | .nan sig => .nan sig
  | .inf _ => .nan true
  | .fin neg m e => if m = 0 then .num 0 0 else .num (if neg then -(m : Int) else m) e

/-- Does a used element raise NV? -/
def PVal.loud : PVal → Bool
  | .nan l => l
  | _ => false

def PVal.neg : PVal → PVal
  | .nan l => .nan l
  | .num m e => .num (-m) e

/-- trunc0 of `m * 2^e / 2^q`. -/
def truncAt (m e q : Int) : Int := if q ≤ e then m * 2 ^ (e - q).toNat else Int.tdiv m (2 ^ (q - e).toNat)

/-- limb6 of R256, of two nonzero FP32 values: the products of limbs i and k with i + k at least 2. -/
def limb6 (m1 e1 m2 e2 : Int) : PVal :=
  let l := fun (m : Int) (i : Nat) => m.natAbs / 2 ^ (8 * i) % 256
  let n : Nat := l m1 0 * l m2 2 * 2 ^ 16 + l m1 1 * l m2 1 * 2 ^ 16 + l m1 2 * l m2 0 * 2 ^ 16
    + l m1 1 * l m2 2 * 2 ^ 24 + l m1 2 * l m2 1 * 2 ^ 24 + l m1 2 * l m2 2 * 2 ^ 32
  .num (if decide (m1 < 0) = decide (m2 < 0) then (n : Int) else -(n : Int)) (e1 + e2)

/-- prod of R256 under profile `prof`. -/
def prod (prof : Nat) : PVal → PVal → PVal
  | .nan _, _ => .nan false
  | _, .nan _ => .nan false
  | .num m1 e1, .num m2 e2 =>
    if m1 = 0 ∨ m2 = 0 then .num 0 0 else if prof = 10 then limb6 m1 e1 m2 e2 else .num (m1 * m2) (e1 + e2)

/-- The numbers among values, zeros left out; none if one is NAN. -/
def nums : List PVal → Option (List (Int × Int))
  | [] => some []
  | .nan _ :: _ => none
  | .num m e :: l =>
    match nums l with
    | none => none
    | some r => if m = 0 then some r else some ((m, e) :: r)

/-- gsum of R256. -/
def gsum (w : Option Nat) (ps : List PVal) : PVal :=
  match nums ps with
  | none => .nan false
  | some [] => .num 0 0
  | some (p :: ns) =>
    let q : Int :=
      match w with
      | none => ns.foldl (fun q n => min q n.2) p.2
      | some w => ns.foldl (fun x n => max x (ilog n.1.natAbs n.2)) (ilog p.1.natAbs p.2) + 1 - (w : Int)
    .num ((p :: ns).foldl (fun a n => a + truncAt n.1 n.2 q) 0) q

/-! ## Accumulator units (R252 to R254) -/

/-- A tile, or the pair of a tile and the next. -/
structure AUnit where
  tile : Nat
  wide : Bool
  deriving DecidableEq, Repr

/-- The tiles or pairs of the unit that `t` names under a profile; none where `t` is not allowed (R253). -/
def unitOf (prof t : Nat) : Option (List AUnit) :=
  if prof = 8 ∨ prof = 10 then (if t % 2 = 0 then some [⟨t, true⟩] else none)
  else if prof = 9 then (if t % 4 = 0 then some [⟨t, true⟩, ⟨t + 2, true⟩] else none)
  else some [⟨t, false⟩]

def AUnit.bits (u : AUnit) : Nat := if u.wide then 96 else 48
def AUnit.tiles (u : AUnit) : List Nat := if u.wide then [u.tile, u.tile + 1] else [u.tile]

/-- Contents of a tile or pair: mantissas row by row, none for the NAN code, and the exponent; flags raised. -/
structure Acc where
  bits : Nat
  rows : List (List (Option Int))
  e    : Int
  flags : Nat
  deriving DecidableEq, Repr

/-- Mantissas of a tile. -/
def Mxe.tile (x : Mxe) (t : Nat) : List (BitVec 48) := Tab.run 0 x.acc (32768 * t) 32768

/-- A mantissa under a profile: the NAN code is none except under profile 7 (R252). -/
def mant (bits : Nat) (p7 : Bool) (v : Int) : Option Int := if p7 = false ∧ v = -(2 ^ (bits - 1)) then none else some v

/-- A unit as a routine of a profile reads it. -/
def Mxe.load (x : Mxe) (p7 : Bool) (u : AUnit) : Acc :=
  let vs : List Int :=
    if u.wide then List.zipWith (fun (l h : BitVec 48) => h.toInt * 2 ^ 48 + (l.toNat : Int)) (x.tile u.tile) (x.tile (u.tile + 1))
    else (x.tile u.tile).map BitVec.toInt
  ⟨u.bits, cut 256 128 (vs.map (mant u.bits p7)), Tab.get 0 x.accE u.tile, 0⟩

/-- The tile with mantissas from `vs`, shifted down by `sh` bits. -/
def Mxe.putTile (x : Mxe) (t sh : Nat) (vs : List Int) : Mxe :=
  { x with acc := Tab.putRun 0 x.acc (32768 * t) (vs.map fun v => BitVec.ofInt 48 (v / 2 ^ sh)) }

/-- The unit back in the file; a pair has one exponent in both tiles (R253). -/
def Mxe.store (x : Mxe) (u : AUnit) (a : Acc) : Mxe :=
  let vs := a.rows.flatten.map fun m => m.getD (-(2 ^ (a.bits - 1)))
  let x := if u.wide then (x.putTile u.tile 0 vs).putTile (u.tile + 1) 48 vs else x.putTile u.tile 0 vs
  { x with accE := u.tiles.foldl (fun t i => Tab.set 0 t i a.e) x.accE }

/-- ZERO of one tile or pair (R273). -/
def Mxe.zero (x : Mxe) (p7 : Bool) (u : AUnit) : Mxe :=
  { x with acc := u.tiles.foldl (fun t i => Tab.clear t (32768 * i) (32768 * (i + 1))) x.acc,
           accE := u.tiles.foldl (fun t i => Tab.set 0 t i (if p7 then 0 else -32768)) x.accE }

/-- rne (x / 2^s) of R254. -/
def rneShift (s : Nat) (x : Int) : Int :=
  let n : Int := roundMag false x.natAbs 0 s .rne 0
  if x < 0 then -n else n

/-- The largest magnitude among mantissas. -/
def maxMant (rows : List (List (Option Int))) : Nat :=
  rows.foldl (fun m r => r.foldl (fun m v => match v with | some x => max m x.natAbs | none => m) m) 0

/-- The renormalisation of acc_add (R254). -/
def Acc.renorm (a : Acc) : Acc :=
  let m := maxMant a.rows
  let b := a.bits - 1
  if m < 2 ^ b then a
  else
    let s0 := Nat.log2 m + 1 - b
    let s := if 1 ≤ s0 ∧ (rneShift s0 m).natAbs < 2 ^ b then s0 else s0 + 1
    if 32767 < a.e + (s : Int) then { a with rows := a.rows.map fun r => r.map fun _ => none, flags := fOr a.flags fNV }
    else { a with rows := a.rows.map fun r => r.map fun v => v.map (rneShift s), e := a.e + s }

/-- acc_add (R254). -/
def Acc.add (a : Acc) (r : Nat) (c : List PVal) : Acc :=
  let row := List.zipWith (fun (m : Option Int) (v : PVal) =>
    match m, v with
    | some x, .num n k => some (x + truncAt n k a.e)
    | _, _ => none) (nth [] a.rows r) c
  Acc.renorm { a with rows := setAt a.rows r row }

/-- wrap48 of R254. -/
def wrap48 (v : Int) : Int := sextN 48 (wrapN 48 v)

/-- acc_add7 (R254). -/
def Acc.add7 (a : Acc) (r : Nat) (c : List PVal) : Acc :=
  let sums := List.zipWith (fun (m : Option Int) (v : PVal) =>
    match v with
    | .num n k => m.getD 0 + truncAt n k a.e
    | .nan _ => m.getD 0) (nth [] a.rows r) c
  { a with rows := setAt a.rows r (sums.map fun v => some (wrap48 v)),
           flags := if sums.any fun v => decide (wrap48 v ≠ v) then fOr a.flags fOF else a.flags }

/-! ## Operands in the scratchpad (R259, R260, R264) -/

/-- How an operand of the engine lies: format, header offset, rectangle, transposed blocks, extents of dimensions 0 and 1,
and whether the rectangle's rows and the runs of MXFP8 lie along dimension 0. -/
structure MLay where
  f : EFmt
  hoff : Int
  rect : Nat × Nat
  trans : Bool
  d0 : Nat
  d1 : Nat
  row0 : Bool
  run0 : Bool
  deriving DecidableEq, Repr

/-- The rectangles of R89, rows and columns. -/
def rectOf (bgeo : Nat) : Option (Nat × Nat) :=
  match bgeo with
  | 0 => some (1, 16)
  | 1 => some (2, 8)
  | 2 => some (4, 4)
  | 3 => some (8, 2)
  | 4 => some (16, 1)
  | _ => none

/-- Fields of a format register (R199). -/
def xfHoff (w : Nat) : Int := sextN 24 (w / 2 ^ 16)
def xfTsi (w : Nat) : Nat := w / 2 ^ 12 % 16
def xfTsen (w : Nat) : Bool := bitN w 11
def xfTrans (w : Nat) : Bool := bitN w 10
def xfBgeo (w : Nat) : Nat := w / 2 ^ 7 % 8
def xfScsrc (w : Nat) : Nat := w / 2 ^ 5 % 4

/-- The layout that a format register gives an operand of format `f`; none where R264 makes it a fault. `src`: an operand
of xf0 or xf1. -/
def layOf (w : Nat) (f : EFmt) (src : Bool) (d0 d1 : Nat) (row0 run0 : Bool) : Option MLay :=
  let ok := !src || (decide (EFmt.ofCode (w % 32) = some f) && decide (xfScsrc w = b2n f.mx.isSome) && !xfTsen w)
  let tok := !xfTrans w || (f.kbf.isSome && decide (xfBgeo w = 2))
  match (if f.kbf.isSome then rectOf (xfBgeo w) else some (1, 1)) with
  | none => none
  | some r => if ok && tok then some ⟨f, xfHoff w, r, xfTrans w, d0, d1, row0, run0⟩ else none

/-- Extents of a block along dimensions 0 and 1. -/
def MLay.spans (l : MLay) : Nat × Nat := if l.row0 then l.rect else (l.rect.2, l.rect.1)

/-- Do whole blocks and runs fill the operand (R259, R260)? -/
def MLay.whole (l : MLay) : Bool :=
  if l.f.kbf.isSome then decide (l.d0 % l.spans.1 = 0) && decide (l.d1 % l.spans.2 = 0)
  else if l.f.mx.isSome then decide ((if l.run0 then l.d0 else l.d1) % 32 = 0)
  else true

/-- Bytes of one element of a scalar layout. -/
def MLay.size (l : MLay) : Nat := if l.f.mx.isSome then 1 else l.f.bytes

def MLay.blocks (l : MLay) : Nat := (l.d0 / l.spans.1) * (l.d1 / l.spans.2)

/-- Bytes of the element plane and of the header or scale plane. -/
def MLay.planeLen (l : MLay) : Nat := match l.f.kbf with | some k => l.blocks * kbfCodeBytes k | none => l.d0 * l.d1 * l.size
def MLay.headLen (l : MLay) : Nat := if l.f.kbf.isSome then 2 * l.blocks else if l.f.mx.isSome then l.d0 * l.d1 / 32 else 0

/-- The runs of bytes of an operand at `x`: (address, length). -/
def MLay.runs (l : MLay) (x : Nat) : List (Int × Nat) :=
  ((x : Int), l.planeLen) :: (if l.headLen = 0 then [] else [((x : Int) + l.hoff, l.headLen)])

/-- ALIGN of R269; a header or scale plane whose address x + HOFF is negative too (the model's choice, log entry 52). -/
def MLay.misaligned (l : MLay) (x : Nat) : Bool :=
  decide (x % 64 ≠ 0) || (l.f.kbf.isSome && decide (((x : Int) + l.hoff) % 2 ≠ 0))
    || (l.runs x).any fun r => decide (r.1 < 0) || decide ((spadSize : Int) < r.1 + (r.2 : Nat))

/-- The block and the position in it of the element at coordinates (i0, i1). -/
def MLay.cell (l : MLay) (i0 i1 : Nat) : Nat × Nat :=
  let s := l.spans
  let a := i0 % s.1
  let b := i1 % s.2
  let rc := if l.row0 then (a, b) else (b, a)
  let rc := if l.trans then (rc.2, rc.1) else rc
  (i0 / s.1 + l.d0 / s.1 * (i1 / s.2), ((List.range 16).find? fun p => decide (blockCell l.rect.1 l.rect.2 p = rc)).getD 0)

/-- Bytes from place `i` of a list. -/
def cutAt (bs : List Byte) (i n : Nat) : List Byte := (bs.drop i).take n

/-- decode of R256 at coordinates (i0, i1): the value, and the imaginary part of a complex one. -/
def MLay.val (l : MLay) (pl hd : List Byte) (i0 i1 : Nat) : PVal × PVal :=
  match l.f.kbf, l.f.mx with
  | some k, _ =>
    let c := l.cell i0 i1
    (PVal.ofX (kbfElem k (kbfOfBytes k (cutAt pl (c.1 * kbfCodeBytes k) (kbfCodeBytes k)) (cutAt hd (2 * c.1) 2)) c.2), .zero)
  | none, some f =>
    let sc := if l.run0 then i1 * (l.d0 / 32) + i0 / 32 else i1 / 32 * l.d0 + i0
    (PVal.ofX (mxElem f (leNat (cutAt hd sc 1)) (leNat (cutAt pl (i1 * l.d0 + i0) 1))), .zero)
  | none, none =>
    let w := leNat (cutAt pl ((i1 * l.d0 + i0) * l.size) l.size)
    if l.f = .cf32 then (PVal.ofX (f32Val w), PVal.ofX (f32Val (w / 2 ^ 32)))
    else (PVal.ofX (decodeElem l.f 0 w), .zero)

/-- Bytes of the data scratchpad. -/
def Seat.run (x : Seat) (a n : Nat) : List Byte := Tab.run 0 x.spad a n

/-- An operand read whole: the value at each pair of coordinates. -/
def MLay.read (l : MLay) (x : Seat) (a : Nat) : Nat → Nat → PVal × PVal :=
  l.val (x.run a l.planeLen) (x.run ((a : Int) + l.hoff).toNat l.headLen)

/-! ## Routines (R263, R265 to R269) -/

/-- The routine that dispatches microwords. -/
def Mxe.running (x : Mxe) : Option Routine := x.queue.find? fun r => r.begun && !r.mended

def Mxe.putRoutine (x : Mxe) (r : Routine) : Mxe := { x with queue := x.queue.map fun q => if q.id = r.id then r else q }

/-- VAL of parameter `p` in the routine's copy (R261). -/
def Routine.val (r : Routine) (p : F3) : Nat := (nth 0 r.mp p.toNat).toNat % 2 ^ 48

def Routine.setVal (r : Routine) (p : F3) (v : Nat) : Routine :=
  let w := (nth 0 r.mp p.toNat).toNat
  { r with mp := setAt r.mp p.toNat (word (w / 2 ^ 48 * 2 ^ 48 + v % 2 ^ 48)) }

def Routine.xfw (r : Routine) (i : Nat) : Nat := (nth 0 r.xf i).toNat

/-- Does the routine hold the tiles of a run of bytes; as destinations where `w`? -/
def Routine.holds (r : Routine) (w : Bool) (run : Int × Nat) : Bool :=
  (tilesOf run.1.toNat run.2).all fun t => r.tiles.any fun k => decide (k.1 = t) && (k.2 || !w)

/-- The accumulator tiles of open micro-operations of a stopped routine: each element keeps its value or has a free one, and
the exponents are free (R181). -/
def scrambleAcc (s : State) (x : Mxe) (tiles : List Nat) : Mxe :=
  tiles.foldl (fun x t =>
    let at_ := fun (i : Nat) => s.free + 64 + 32769 * t + i
    let vs := (x.tile t).mapIdx fun i v => if Config.freeBool (at_ i) then v else BitVec.ofNat 48 (Config.freeWord (at_ i)).toNat
    { x with acc := Tab.putRun 0 x.acc (32768 * t) vs,
             accE := Tab.set 0 x.accE t (sextN 16 ((Config.freeWord (at_ 32768)).toNat % 2 ^ 16)) }) x

/-- A free plane element. -/
def freeVal (i : Nat) : PVal :=
  if Config.freeBool i then .nan false else .num (Config.freeWord i).toInt ((Config.freeWord i).toNat % 4096 - 2048)

/-- A plane that an open LDS was to fill: each element keeps its value or has a free one (R269). -/
def scramblePlane (s : State) (i : Nat) (p : Plane) : Plane :=
  let any := fun (j : Nat) (t : Tab PVal) =>
    sparse PVal.zero 0 ((Tab.run PVal.zero t 0 (256 * p.kl)).mapIdx fun k v =>
      if Config.freeBool (s.free + i + j + 2 * k) then v else freeVal (s.free + i + j + 2 * k))
  { p with re := any 0 p.re, im := any 1 p.im }

/-- The planes where micro-operations of the stopped routine had not finished (R269): the shadow plane after an LDS, both where
a SWAP is open too (log entry 52). -/
def scramblePlanes (s : State) (os : List MOp) (x : Mxe) : Mxe :=
  let has := fun (k : MKind) => os.any fun o => decide (o.kind = k)
  if has .lds then
    { x with shadow := scramblePlane s 300000 x.shadow, active := if has .swap then scramblePlane s 600000 x.active else x.active }
  else x

/-- Does a micro-operation depend on an earlier one (R266)? -/
def MOp.needs (f e : MOp) : Bool :=
  match f.kind with
  | .lds => decide (e.kind = .swap)
  | .swap => decide (e.kind ≠ .acc)
  | .strm => decide (e.kind = .swap) || e.tiles.any fun t => f.tiles.any (· == t)
  | .acc => e.tiles.any fun t => f.tiles.any (· == t)

/-- The micro-operations that have surely finished once those that `w` names have: also every one that such an operation depends
on (R266). Finished and others, each in program order. -/
def surely (w : MOp → Bool) : List MOp → List MOp × List MOp
  | [] => ([], [])
  | e :: es =>
    let r := surely w es
    if w e || r.1.any fun f => f.needs e then (e :: r.1, r.2) else (r.1, e :: r.2)

/-- An MWAIT for the micro-operations that `w` names is over: the flags of those that have finished are sure (R181, R277). -/
def Routine.waited (r : Routine) (w : MOp → Bool) : Routine :=
  let z := surely w r.open_
  { r with flags := z.1.foldl (fun f o => fOr f o.flags) r.flags, open_ := z.2 }

/-- Flags of the micro-operations that have not surely finished. -/
def Routine.loose (r : Routine) : Nat := r.open_.foldl (fun f o => fOr f o.flags) 0

/-- Flags of micro-operations that a fault may have stopped partway: each joins or not (R181). -/
def someFlags (s : State) (f : Nat) : Nat :=
  (List.range 8).foldl (fun g i => if bitN f i && Config.freeBool (s.free + i) then fOr g (2 ^ i) else g) 0

/-- Flags on their way to the stream that issued, unless its task has ended (R268). -/
def flagsTo (x c : Nat) (o : Origin) (f : Nat) (s : State) : State :=
  if f ≠ 0 ∧ issuerHolds s x c o then
    onIssuer x c o (fun t => { t with pend := { t.pend with flagsNew := fOr t.pend.flagsNew f } }) s
  else s

/-- R181, R269: a routine fault of the running routine; its stream takes the trap at its next boundary. An uncorrectable error is
reported in UE too (R424). The shadow plane of an LDS that was not complete is unspecified like those elements: R181 names accumulator and
destination elements, R269 each element not completed (the model's choice, log entry 52). -/
def routineFault (c code : Nat) (r : Routine) (s : State) : State :=
  let x := s.ctxOf c
  let y := s.seat c
  let upc := y.mxe.upc
  let m := scrambleAcc s (scramblePlanes s r.open_ y.mxe) (r.open_.flatMap MOp.tiles).eraseDups
  let y := { y with mxe := { m with queue := m.queue.filter fun q => decide (q.id ≠ r.id), ecc := false } }
  let fl := fOr r.flags (someFlags s r.loose)
  let s := { s.putSeat c y with free := s.free + 2 ^ 20 }
  let s := if code = tcECC then s.setUE else s
  let s := (r.open_.flatMap MOp.runs).foldl (fun s d => scramble x c d.1 (d.1 + d.2 - 1) s) s
  let s := s.putSeat c ((s.seat c).release r.id r.tiles)
  flagsTo x c r.org fl (deliverRec x ⟨c, r.org, ⟨word upc, r.org.bundle, r.org.slot, cROUTINE, 0, 3, code, s.gtb⟩⟩ s)

/-- What a dispatched microword gives: the seat, the routine, the next address, and the identity of a keyed drain. -/
structure MicroOut where
  seat : Seat
  r    : Routine
  next : Nat
  key  : Option Word

/-- One microword of the running routine of core `c`: a routine fault, or its effect. -/
def micro (c : Nat) (f : Routine → Seat → Except Nat MicroOut) (s : State) : State :=
  let y := s.seat c
  match y.mxe.running with
  | none => s
  | some r =>
    if y.mxe.ecc then routineFault c tcECC r s
    else
      match f r y with
      | .error code => routineFault c code r s
      | .ok o =>
        let m := o.seat.mxe.putRoutine o.r
        let s := s.putSeat c { o.seat with mxe := { m with upc := o.next } }
        match o.key with
        | some i => postKey (s.ctxOf c) c 3 r.org r.org.ktens r.org.kstep i s
        | none => s

/-- A micro-operation that changes the seat: it goes on to the next address. -/
def onSeat (r : Routine) (y : Seat) : Except Nat MicroOut := .ok ⟨y, r, y.mxe.upc + 1, none⟩

/-- The units of an array cycle of a profile (R379). -/
def profWeight (p : Nat) : Nat :=
  match p with
  | 1 => 85
  | 2 => 112
  | 6 => 60
  | 7 => 72
  | 8 => 64
  | 9 => 64
  | 10 => 48
  | _ => 80

/-- Cycles that a pass spends on an activation row (R255). -/
def rowCycles (p : Nat) : Nat := match p with | 8 => 4 | 9 => 8 | 10 => 4 | _ => 1

/-- The MXE is to start `n` more cycles that charge `w` units each. -/
def Seat.runs (y : Seat) (n w : Nat) : Seat := { y with mxe := { y.mxe with left := n, units := w } }

/-- A micro-operation dispatches on units of the accumulator file. -/
def Routine.opens (r : Routine) (k : MKind) (us : List AUnit) (runs : List (Nat × Nat)) (flags : Nat) : Routine :=
  { r with open_ := r.open_ ++ [⟨k, us.flatMap AUnit.tiles, runs, flags⟩] }

/-- Checks of R269 on an operand that is read. -/
def readable (r : Routine) (y : Seat) (l : MLay) (a : Nat) (body : Except Nat MicroOut) : Except Nat MicroOut :=
  if l.misaligned a then .error tcALIGN
  else if (l.runs a).any fun run => !r.holds false run then .error tcOWNVIOL
  else if (l.runs a).any fun run => y.isBad run.1.toNat run.2 then .error tcECC
  else body

/-! ## LDS, SWAP (R271) -/

/-- A plane of profile `prof` and depth `kl` from the values of its weights. -/
def planeOf (prof kl : Nat) (w : Nat → Nat → PVal × PVal) : Plane :=
  let vs := (List.range kl).flatMap fun kk => (List.range 256).map fun j => w kk j
  ⟨prof, kl, sparse PVal.zero 0 (vs.map fun v => v.1), sparse PVal.zero 0 (vs.map fun v => v.2)⟩

/-- The cycles of an LDS (R114, R270): 256 bytes of the element plane a cycle, a quarter of that in column orientation on a tile
with SKEW = 0; 128 bytes of the header or scale plane beside them. -/
def ldsCycles (y : Seat) (l : MLay) (a : Nat) (o : Bool) : Nat :=
  let plane := (List.range ((l.planeLen + 255) / 256)).foldl (fun n i =>
    n + (if o && !(y.tile (tileOf (a + 256 * i))).skew then 4 else 1)) 0
  max plane ((l.headLen + 127) / 128)

def doLds (pa : F3) (o : Bool) (n : BitVec 7) (r : Routine) (y : Seat) : Except Nat MicroOut :=
  let p := almanac r.prof
  let k := (n.toNat + 1) * p.depth
  let kl := k / 128
  let a := r.val pa
  match layOf (r.xfw 0) p.stat true (if o then kl else 256) (if o then 256 else kl) o o with
  | none => .error tcILLI
  | some l =>
    if k % 128 ≠ 0 ∨ l.whole = false then .error tcILLI
    else
      readable r y l a
        (let w := l.read y a
         let pl := planeOf r.prof kl (fun kk j => if o then w kk j else w j kk)
         onSeat (r.opens .lds [] [] 0) ({ y with mxe := { y.mxe with shadow := pl } }.runs (ldsCycles y l a o) 8))

/-- LDS (R271). -/
def execLds (c : Nat) (pa : F3) (o : Bool) (n : BitVec 7) (s : State) : Host.Outcome State Fault Refusal :=
  .next (micro c (doLds pa o n) s)

/-- SWAP (R271). -/
def execSwap (c : Nat) (s : State) : Host.Outcome State Fault Refusal :=
  .next (micro c (fun r y =>
    onSeat (r.opens .swap [] [] 0) { y with mxe := { y.mxe with active := y.mxe.shadow, shadow := y.mxe.active } }) s)

/-! ## STRM, STRMC (R272) -/

/-- Columns of rows of products: one list per column. -/
def columns (rows : List (List PVal)) : List (List PVal) :=
  rows.foldr (fun row acc => List.zipWith List.cons row acc) (List.replicate 256 [])

/-- The contributions of one K-group: activations times rows of the plane. -/
def groupRow (prof : Nat) (w : Option Nat) (as : List PVal) (ps : List (List PVal)) : List PVal :=
  (columns (List.zipWith (fun a row => row.map (prod prof a)) as ps)).map (gsum w)

/-- The contributions of one K-group of complex values: real and imaginary parts. -/
def groupRow9 (w : Option Nat) (as : List (PVal × PVal)) (re im : List (List PVal)) : List PVal × List PVal :=
  let rr := List.zipWith (fun (a : PVal × PVal) row => row.map (prod 9 a.1)) as re
  let ii := List.zipWith (fun (a : PVal × PVal) row => row.map fun v => (prod 9 a.2 v).neg) as im
  let ri := List.zipWith (fun (a : PVal × PVal) row => row.map (prod 9 a.1)) as im
  let ir := List.zipWith (fun (a : PVal × PVal) row => row.map (prod 9 a.2)) as re
  ((columns (rr ++ ii)).map (gsum w), (columns (ri ++ ir)).map (gsum w))

/-- pass of R256: activation rows ascending, K-groups ascending. -/
def passRows (prof : Nat) (p : Profile) (re im : List (List (List PVal))) :
    Nat → List (List (PVal × PVal)) → List Acc → List Acc
  | _, [], us => us
  | i, as :: rest, us =>
    let gs := cut p.group 512 as
    let us :=
      if prof = 9 then
        ((gs.zip (re.zip im)).foldl (fun us g =>
          let c := groupRow9 p.window g.1 g.2.1 g.2.2
          match us with
          | [u, v] => [u.add i c.1, v.add i c.2]
          | _ => us) us)
      else
        ((gs.zip re).foldl (fun us g =>
          let c := groupRow prof p.window (g.1.map fun v => v.1) g.2
          us.map fun u => if prof = 7 then u.add7 i c else u.add i c) us)
    passRows prof p re im (i + 1) rest us

/-- A stream pass into the unit of `t`; `clear`: STRMC. -/
def doStrm (clear : Bool) (t pa : F3) (n : BitVec 7) (r : Routine) (y : Seat) : Except Nat MicroOut :=
  let p := almanac r.prof
  let pl := y.mxe.active
  let a := r.val pa
  match unitOf r.prof t.toNat, layOf (r.xfw 1) p.stream true pl.kl (n.toNat + 1) false true with
  | some us, some l =>
    if pl.prof ≠ r.prof ∨ l.whole = false then .error tcILLI
    else
      readable r y l a
        (let p7 := decide (r.prof = 7)
         let m := if clear then us.foldl (fun m u => m.zero p7 u) y.mxe else y.mxe
         let rd := l.read y a
         let acts := (List.range (n.toNat + 1)).map fun i => (List.range pl.kl).map fun kk => rd kk i
         let pre := Tab.run PVal.zero pl.re 0 (256 * pl.kl)
         let pim := Tab.run PVal.zero pl.im 0 (256 * pl.kl)
         let rows := fun (v : List PVal) => cut p.group 512 (cut 256 512 v)
         let out := passRows r.prof p (rows pre) (rows pim) 0 acts (us.map (m.load p7))
         let nv := (acts.any fun row => row.any fun v => v.1.loud || v.2.loud) || pre.any PVal.loud || pim.any PVal.loud
         let m := (us.zip out).foldl (fun m e => m.store e.1 e.2) m
         let fl := out.foldl (fun f u => fOr f u.flags) (nvIf nv)
         onSeat (r.opens .strm us [] fl) ({ y with mxe := m }.runs ((n.toNat + 1) * rowCycles r.prof) (profWeight r.prof)))
  | _, _ => .error tcILLI

/-- STRM (R272). -/
def execStrm (c : Nat) (t pa : F3) (n : BitVec 7) (s : State) : Host.Outcome State Fault Refusal :=
  .next (micro c (doStrm false t pa n) s)

/-- STRMC (R272). -/
def execStrmc (c : Nat) (t pa : F3) (n : BitVec 7) (s : State) : Host.Outcome State Fault Refusal :=
  .next (micro c (doStrm true t pa n) s)

/-! ## ZERO, SCALE (R273) -/

def doZero (t : F3) (r : Routine) (y : Seat) : Except Nat MicroOut :=
  match unitOf r.prof t.toNat with
  | none => .error tcILLI
  | some us => onSeat (r.opens .acc us [] 0) { y with mxe := us.foldl (fun m u => m.zero (decide (r.prof = 7)) u) y.mxe }

/-- ZERO (R273). -/
def execZero (c : Nat) (t : F3) (s : State) : Host.Outcome State Fault Refusal := .next (micro c (doZero t) s)

/-- One tile or pair of SCALE: its exponent moves, or every element becomes the NAN code. -/
def scaleUnit (i : Int) (m : Mxe × Nat) (u : AUnit) : Mxe × Nat :=
  let e := Tab.get 0 m.1.accE u.tile + i
  if e < -32768 ∨ 32767 < e then
    let a := m.1.load false u
    (m.1.store u { a with rows := a.rows.map fun r => r.map fun _ => none }, fOr m.2 fNV)
  else ({ m.1 with accE := u.tiles.foldl (fun t i => Tab.set 0 t i e) m.1.accE }, m.2)

def doScale (t : F3) (i : BitVec 16) (r : Routine) (y : Seat) : Except Nat MicroOut :=
  match unitOf r.prof t.toNat with
  | none => .error tcILLI
  | some us =>
    if r.prof = 7 then .error tcILLI
    else
      let m := us.foldl (scaleUnit i.toInt) (y.mxe, 0)
      onSeat (r.opens .acc us [] m.2) { y with mxe := m.1 }

/-- SCALE (R273). -/
def execScale (c : Nat) (t : F3) (i : BitVec 16) (s : State) : Host.Outcome State Fault Refusal := .next (micro c (doScale t i) s)

/-! ## LDACC (R274) -/

/-- The exponent and mantissas that hold 128 rows of values. -/
def accOf (bits : Nat) (rows : List (List PVal)) : Acc :=
  let fit := fun (e : Int) (v : PVal) =>
    match v with
    | .num m k => some (let n : Int := roundMag false m.natAbs k e .rne 0; if m < 0 then -n else n)
    | .nan _ => none
  let logs := rows.flatten.filterMap fun v => match v with | .num m k => if m = 0 then none else some (ilog m.natAbs k) | _ => none
  let e : Int :=
    match logs with
    | [] => -32768
    | l :: ls =>
      let e0 := max (-32768) (ls.foldl max l + 2 - (bits : Int))
      if maxMant (rows.map fun r => r.map (fit e0)) < 2 ^ (bits - 1) then e0 else e0 + 1
  ⟨bits, rows.map fun r => r.map (fit e), e, nvIf (rows.any fun r => r.any PVal.loud)⟩

def doLdacc (t pa : F3) (r : Routine) (y : Seat) : Except Nat MicroOut :=
  let f : EFmt := if r.prof = 7 then .i32 else if r.prof = 9 then .cf32 else .fp32
  let a := r.val pa
  let l : MLay := ⟨f, 0, (1, 1), false, 256, 128, false, false⟩
  match unitOf r.prof t.toNat with
  | none => .error tcILLI
  | some us =>
    if EFmt.ofCode (r.xfw 3 % 32) ≠ some f then .error tcILLI
    else
      readable r y l a
        (let rd := l.read y a
         let rows := fun (g : PVal × PVal → PVal) => (List.range 128).map fun i => (List.range 256).map fun j => g (rd j i)
         let out : List (AUnit × Acc) := us.mapIdx fun k u =>
           let v := rows (fun e => if k = 0 then e.1 else e.2)
           (u, if r.prof = 7 then ⟨48, v.map fun q => q.map fun e => match e with | .num m k => some (truncAt m k 0) | _ => some 0, 0, 0⟩
               else accOf u.bits v)
         let m := out.foldl (fun m e => m.store e.1 e.2) y.mxe
         onSeat (r.opens .acc us [] (out.foldl (fun f e => fOr f e.2.flags) 0)) { y with mxe := m })

/-- LDACC (R274). -/
def execLdacc (c : Nat) (t pa : F3) (s : State) : Host.Outcome State Fault Refusal := .next (micro c (doLdacc t pa) s)

/-! ## DRAIN, AMAX (R275, R276) -/

/-- A unit element's exact value times a tensor scale; +0 for a mantissa 0 (R252). -/
def accVal (e : Int) (ts : XVal) : Option Int → XVal
  | none => .nan false
  | some m => if m = 0 then .fin false 0 0 else (xmul (XVal.ofInt m e) ts).1

/-- The write of a scalar run, or of the blocks of a KBF drain: (address, bytes), and flags. -/
def drainOut (r : Routine) (l : MLay) (us : List Acc) (ts : XVal) (bad : Bool) (a : Nat) (word : Nat → Nat) :
    List (Nat × List Byte) × Nat :=
  let val := fun (u : Acc) (v : Option Int) => if bad then XVal.nan false else accVal u.e ts v
  let cells := us.map fun u => u.rows.map fun row => row.map (val u)
  match l.f.kbf with
  | some k =>
    let rows := cells.headD []
    let at_ := fun i => nth [] rows (i / 256) |> fun row => nth XVal.zero row (i % 256)
    let blocks := (List.range l.blocks).map fun b =>
      let g := l.d0 / l.spans.1
      let is := (List.range 16).map fun p =>
        let rc := blockCell l.rect.1 l.rect.2 p
        256 * (b / g * l.rect.1 + rc.1) + b % g * l.rect.2 + rc.2
      let e := kbfEncode k r.rnd r.sat (is.map at_) (is.map word)
      (if l.trans then kbfTranspose e.1 else e.1, e.2)
    ([(a, blocks.flatMap fun b => kbfPlane k b.1), (((a : Int) + l.hoff).toNat, blocks.flatMap fun b => kbfHeader b.1)],
     blocks.foldl (fun f b => fOr f b.2) 0)
  | none =>
    let enc := fun (i : Nat) (v : XVal) => encodeElem (if l.f = .cf32 then .fp32 else l.f) 0 r.rnd r.sat (word i) v
    let n := if l.f = .cf32 then 4 else l.f.bytes
    let es : List (Nat × Nat) :=
      match cells with
      | [re, im] => ((re.flatten.zip im.flatten).mapIdx fun i v => [enc (2 * i) v.1, enc (2 * i + 1) v.2]).flatten
      | _ => (cells.headD []).flatten.mapIdx enc
    ([(a, es.flatMap fun e => leBytes n e.1)], es.foldl (fun f e => fOr f e.2) 0)

/-- The keyed word of element `i` of a drain; parts of complex elements follow R53. -/
def drainWord (r : Routine) (pb : F3) (complex : Bool) (i : Nat) : Nat :=
  if r.rnd = .sr then
    let o := r.org
    roundWord (keyOf o.kseed.toNat o.ktens.toNat o.kstep.toNat) 0 (if complex then 2 * r.val pb + i else r.val pb + i)
  else 0

/-- Writes of the engine perform in aligned doublewords (R125). -/
def putRuns (y : Seat) (ws : List (Nat × List Byte)) : Seat := ws.foldl (fun y w => y.writeWords w.1 (w.2.length + 1) w.2) y

/-- The microword waits for an AMO that has reserved a doubleword of its destination (R220): it dispatches again. -/
def waits (r : Routine) (y : Seat) : MicroOut := ⟨y, r, y.mxe.upc, none⟩

def doDrain (t pa pb pc : F3) (fmt : BitVec 5) (r : Routine) (y : Seat) : Except Nat MicroOut :=
  let p9 := decide (r.prof = 9)
  let a := r.val pa
  match unitOf r.prof t.toNat, EFmt.ofCode fmt.toNat with
  | some us, some f =>
    match layOf (r.xfw 2) (if p9 then .cf32 else f) false 256 128 false false with
    | none => .error tcILLI
    | some l =>
      if p9 ∧ f ≠ .fp32 then .error tcILLI
      else if l.misaligned a then .error tcALIGN
      else if (l.runs a).any fun run => !r.holds true run then .error tcOWNVIOL
      else
        let ts := if xfTsen (r.xfw 2) then f32Val (nth tsDefault r.ts (xfTsi (r.xfw 2))).toNat else .fin false 1 0
        let bad := ts.isNan || ts.isInf
        let out := drainOut r l (us.map (y.mxe.load (decide (r.prof = 7)))) ts bad a (drainWord r pb p9)
        if out.1.any fun w => y.reserved w.1 w.2.length then .ok (waits r y)
        else
        let y := putRuns y out.1
        let r' := r.opens .acc us (out.1.map fun w => (w.1, w.2.length)) (fOr out.2 (nvIf bad))
        .ok ⟨y, r', y.mxe.upc + 1, if r.rnd = .sr then some (word (r.val pc)) else none⟩
  | _, _ => .error tcILLI

/-- DRAIN (R275). -/
def execDrain (c : Nat) (t pa pb pc : F3) (fmt : BitVec 5) (s : State) : Host.Outcome State Fault Refusal :=
  .next (micro c (doDrain t pa pb pc fmt) s)

/-- The FP32 code of the largest magnitude of units (R276). -/
def amaxOf (us : List Acc) : Nat :=
  if us.any fun u => u.rows.any fun r => r.any Option.isNone then 0x7FC00000
  else
    let best := us.foldl (fun b u =>
      let v := XVal.fin false (maxMant u.rows) u.e
      if xcmp b v = .lt then v else b) XVal.zero
    (encodeFloat fmtF32 .rup false 0 best).1

def doAmax (t pb : F3) (r : Routine) (y : Seat) : Except Nat MicroOut :=
  let a := r.val pb
  match unitOf r.prof t.toNat with
  | none => .error tcILLI
  | some us =>
    if a % 4 ≠ 0 ∨ spadSize < a + 4 then .error tcALIGN
    else if r.holds true ((a : Int), 4) = false then .error tcOWNVIOL
    else if y.reserved a 4 then .ok (waits r y)
    else
      let y := putRuns y [(a, leBytes 4 (amaxOf (us.map (y.mxe.load (decide (r.prof = 7))))))]
      onSeat (r.opens .acc us [(a, 4)] 0) y

/-- AMAX (R276). -/
def execAmax (c : Nat) (t pb : F3) (s : State) : Host.Outcome State Fault Refusal := .next (micro c (doAmax t pb) s)

/-! ## Sequencing (R277) -/

/-- MADD (R277): VAL moves, TK and TCNT are those of the source. -/
def execMadd (c : Nat) (pd pa : F3) (i : BitVec 32) (s : State) : Host.Outcome State Fault Refusal :=
  .next (micro c (fun r y =>
    let r := { r with mp := setAt r.mp pd.toNat (nth 0 r.mp pa.toNat) }
    onSeat (r.setVal pd (wrapN 48 ((r.val pd : Int) + i.toInt))) y) s)

/-- MLOOP (R277). -/
def execMloop (c : Nat) (p : F3) (target : BitVec 12) (s : State) : Host.Outcome State Fault Refusal :=
  .next (micro c (fun r y =>
    let v := (r.val p + 2 ^ 48 - 1) % 2 ^ 48
    .ok ⟨y, r.setVal p v, if v = 0 then y.mxe.upc + 1 else target.toNat, none⟩) s)

/-- MBRZ (R277). -/
def execMbrz (c : Nat) (p : F3) (target : BitVec 12) (s : State) : Host.Outcome State Fault Refusal :=
  .next (micro c (fun r y => .ok ⟨y, r, if r.val p = 0 then target.toNat else y.mxe.upc + 1, none⟩) s)

/-- MWAIT (R277): earlier micro-operations of the classes have finished, with their flags. -/
def execMwait (c : Nat) (cls : BitVec 2) (s : State) : Host.Outcome State Fault Refusal :=
  .next (micro c (fun r y =>
    onSeat (r.waited fun o => if o.kind = .lds then cls.getLsbD 0 else cls.getLsbD 1) y) s)

/-- MEND (R277): the routine's dispatch ends. -/
def execMend (c : Nat) (s : State) : Host.Outcome State Fault Refusal :=
  .next (micro c (fun r y =>
    .ok ⟨y, { r.waited fun _ => true with mended := true }, y.mxe.upc, none⟩) s)

/-! ## The microprogram store (R265, R278) -/

/-- The DRAIN format of a library index (R278). -/
def libFmt (f : Nat) : BitVec 5 :=
  match f with
  | 0 => 2 | 1 => 3 | 2 => 4 | 3 => 5 | 4 => 8 | 5 => 12 | 6 => 13 | _ => 14

/-- The microword of the standard library at an address below 0x800, as a step of core `c` (R278). -/
def libOp (c a : Nat) : Instr :=
  let t : F3 := BitVec.ofNat 3 (a / 4)
  let u : F3 := BitVec.ofNat 3 (a / 2)
  if a = 0x000 then .lds c 0 false 127
  else if a = 0x001 ∨ a = 0x005 ∨ a = 0x008 then .swap c
  else if a = 0x004 then .lds c 0 true 127
  else if 0x040 ≤ a ∧ a < 0x060 then (if a % 4 = 0 then .strmc c t 1 127 else .mend c)
  else if 0x060 ≤ a ∧ a < 0x080 then (if a % 4 = 0 then .strm c t 1 127 else .mend c)
  else if 0x080 ≤ a ∧ a < 0x0C0 then
    (if a % 4 = 0 then .lds c 0 false 127
     else if a % 4 = 1 then (if a < 0x0A0 then .strm c t 1 127 else .strmc c t 1 127)
     else if a % 4 = 2 then .swap c else .mend c)
  else if 0x100 ≤ a ∧ a < 0x180 then (if a % 2 = 0 then .drain c u 2 3 4 (libFmt (a / 16 % 8)) else .mend c)
  else if 0x180 ≤ a ∧ a < 0x190 then (if a % 2 = 0 then .amax c u 5 else .mend c)
  else if 0x190 ≤ a ∧ a < 0x1A0 then (if a % 2 = 0 then .zero c u else .mend c)
  else if 0x1A0 ≤ a ∧ a < 0x1B0 then (if a % 2 = 0 then .ldacc c u 2 else .mend c)
  else .mend c

/-- The microword at an address as a step of core `c`; none where the check of R181 fails. -/
def microAt (x : Mxe) (c a : Nat) : Option Instr :=
  if a < 0x800 then some (libOp c a) else if a < 4096 then decodeMicro c (Tab.get 0 x.ucode a).toNat else none

/-! ## Steps of routines (R266, R268) -/

/-- The routine that may begin: it holds all its tiles and every earlier one has dispatched its MEND. -/
def nextRoutine (y : Seat) : Option Routine :=
  match y.mxe.queue.find? fun r => !r.mended with
  | some r => if r.begun = false ∧ y.granted r.id then some r else none
  | none => none

/-- ROUTINE_BEGIN (R266). -/
def execRoutineBegin (c : Nat) (s : State) : Host.Outcome State Fault Refusal :=
  let y := s.seat c
  match nextRoutine y with
  | some r => .next (s.putSeat c { y with mxe := { y.mxe.putRoutine { r with begun := true } with upc := r.entry } })
  | none => .next s

/-- ROUTINE_FINISH (R268): the oldest routine whose MEND has dispatched; or a running one whose microword fails the check
of R181 stops, unless the context leaves its cores (R270). -/
def execRoutineFinish (c : Nat) (s : State) : Host.Outcome State Fault Refusal :=
  let y := s.seat c
  match y.mxe.queue.find? fun r => r.mended with
  | some r =>
    let y := { y with mxe := { y.mxe with queue := y.mxe.queue.filter fun q => decide (q.id ≠ r.id) } }
    .next (flagsTo (s.ctxOf c) c r.org r.flags (s.putSeat c (y.release r.id r.tiles)))
  | none =>
    match y.mxe.running with
    | some r =>
      if (microAt y.mxe c y.mxe.upc).isNone ∧ y.mxe.left = 0 ∧ (s.ctx (s.ctxOf c)).leaving = false then .next (routineFault c tcILLI r s)
      else .next s
    | none => .next s

/-- ROUTINE_FLAGS_JOIN (R268): at the start of a tick of the stream, flags of routines that finished before this cycle. -/
def execRoutineFlagsJoin (c : Nat) (t : Bool) (s : State) : Host.Outcome State Fault Refusal :=
  let y := s.st c t
  .next (s.putSt c t { y with sys := { y.sys with fflags := joinFlags y.sys.fflags y.pend.flagsIn }, pend := { y.pend with flagsIn := 0 } })

/-! ## MPSET, MCALL (R262, R263) -/

/-- MPSET (R262): bits 50:48 cleared. -/
def execMpset (a : RegF) (n : F3) (s : State) : Host.Outcome State Fault Refusal :=
  let v := (rdS s a).toNat
  runSlot [a] (.ok (land (.mp n.toNat (word (v / 2 ^ 51 * 2 ^ 51 + v % 2 ^ 48))) 0 1 s)) s

/-- Fields of a parameter register (R261). -/
def mpTk (w : Word) : Nat := w.toNat / 2 ^ 62
def mpTcnt (w : Word) : Nat := w.toNat / 2 ^ 51 % 2 ^ 11
def mpVal (w : Word) : Nat := w.toNat % 2 ^ 48

/-- The tiles of a parameter's run. -/
def mpRun (w : Word) : List Nat := (List.range (mpTcnt w + 1)).map (mpVal w / 4096 + ·)

/-- MCALL (R263). -/
def execMcall (e : BitVec 12) (s : State) : Host.Outcome State Fault Refusal :=
  let c := s.cur.core
  let x := s.seat c
  let y := s.cst
  let mps := (List.range 8).map (Tab.get 0 x.mxe.mp)
  let used := mps.filter fun w => decide (mpTk w ≠ 0)
  let bad := fun w => decide (mpTk w = 3) || decide (spadSize ≤ mpVal w) || decide (1536 ≤ mpVal w / 4096 + mpTcnt w)
  let runs := fun k => ((used.filter fun w => decide (mpTk w = k)).flatMap mpRun).eraseDups
  let tiles := operandTiles (runs 1) (runs 2)
  let r : Routine :=
    { id := s.nextId, entry := e.toNat, prof := s.cur.prof, rnd := s.cur.rnd, sat := s.cur.sat, mp := mps,
      xf := (List.range 4).map (Tab.get 0 y.regs.xf),
      ts := if y.sys.replay then y.bankTs else (List.range 16).map y.regs.getTs,
      org := originOf s, tiles := tiles, cyc := s.cycle, begun := false, mended := false, flags := 0,
      open_ := [] }
  let x1 := x.takeTiles r.id s.cycle tiles
  runSlot []
    (if used.any bad then .error (tcALIGN, 0)
     else if x.barred (tiles.map fun t => t.1) then .error (tcOWNVIOL, 0)
     else .ok { s.putSeat c { x1 with mxe := { x1.mxe with queue := x1.mxe.queue ++ [r] } } with nextId := s.nextId + 1 }) s

/-! ## VACCRD (R250, R251) -/

/-- acc_value of a selector and a column. -/
def accRead (m : Mxe) (p7 : Bool) (sel col : Nat) : XVal :=
  let tile := if bitN sel 11 then sel % 8 / 2 * 2 else sel % 8
  let k := 256 * (sel / 8 % 128) + 128 * b2n (bitN sel 10) + col
  let lo := Tab.get 0 m.acc (32768 * tile + k)
  let hi := Tab.get 0 m.acc (32768 * (tile + 1) + k)
  let bits := if bitN sel 11 then 96 else 48
  let v : Int := if bitN sel 11 then hi.toInt * 2 ^ 48 + (lo.toNat : Int) else lo.toInt
  accVal (Tab.get 0 m.accE tile) (.fin false 1 0) (mant bits p7 v)

/-- The slot under way has met an error in the accumulators (R392); its free values are used up. -/
def accEcc (bad : Bool) (s : State) : State :=
  if bad then eccAt s.cur.core s.cur.sec (s.cur.pc, s.cur.slot) { s with free := s.free + 128 } else s

/-- VACCRD (R250): in deterministic mode it traps while a routine issued earlier has not finished (R251). -/
def execVaccrd (d a : RegF) (k : F3) (cl : CSet) (s : State) : Host.Outcome State Fault Refusal :=
  let m := (s.seat s.cur.core).mxe
  let sel := (rdS s a).toNat
  let det := match s.cst.task with | some t => t.det | none => false
  let p7 := decide (s.cur.prof = 7)
  let rs := (writtenLanes s k cl).map fun p => (p, encodeFloat fmtF32 s.cur.rnd s.cur.sat (srWord s p) (accRead m p7 sel p))
  -- an error in the accumulators gives free lanes, and ECC is pending (R392)
  let bad := m.ecc && !rs.isEmpty
  let rs := if bad then rs.map fun e => (e.1, ((Config.freeWord (s.free + e.1)).toNat % 2 ^ 32, e.2.2)) else rs
  runSlot [a]
    (if det && !s.cur.trial && !(writtenLanes s k cl).isEmpty && m.queue.any (fun r => decide (r.cyc < s.cycle)) then .error (tcOWNVIOL, 0)
     else .ok (accEcc bad (srReport cl (landLanes d 6 rs s)))) s

end Sys2Proof.Machine
end

