-- ==== Sys2Proof/Machine/Reload.lean ====
section
/-! DEFINITION. Loads and reloads of range, group, channel and ring tables, and translation invalidation (R75, R81, R295,
R296, R305, R433). A GO sets BUSY; everything it asks for takes place in one step when BUSY clears. -/

namespace Sys2Proof.Machine

/-! ## Ranges and translations (R75, R81) -/

/-- Loads the named range entries (R75): REJ where one is bad, or where the table does not lie in this package's HBM. -/
def loadRanges (x : Nat) (is : List Nat) (s : State) : State :=
  let base := rngTable s x
  let y := { s.ctx x with rng := loadedRng s x is }
  let rej := base.isNone || is.any fun i => badRange (y.rngDw i)
  let s := match base with
    | some b => is.foldl (fun s i => hbmSeen (b + 64 * i) 64 s) (s.putCtx x y)
    | none => s.putCtx x y
  if rej then s.setFld (trOff x + 0x18) 4 1 1 else s

/-- A GO of XINV with a kind other than 3: BUSY reads 1 until the invalidation is complete (R81). -/
def xinvGo (x kind : Nat) (s : State) : State :=
  if xinvBusy s x then s else (s.setFld (trOff x + 0x18) 2 2 kind).setFld (trOff x + 0x18) 1 1 1

/-- XINV_CONTEXT (R81). -/
def execXinvContext (x : Nat) (s : State) : Host.Outcome State Fault Refusal := .next (xinvGo x 0 s)

/-- XINV_PAGES (R81). -/
def execXinvPages (x : Nat) (s : State) : Host.Outcome State Fault Refusal := .next (xinvGo x 1 s)

/-- XINV_RANGES (R75). -/
def execXinvRanges (x : Nat) (s : State) : Host.Outcome State Fault Refusal := .next (xinvGo x 2 s)

/-- XINV_NOP (R81): changes nothing. -/
def execXinvNop (_x : Nat) (s : State) : Host.Outcome State Fault Refusal := .next s

/-- The pages of a KIND 1 invalidation: first page and count (R70). -/
def xinvPages (s : State) (x : Nat) : Nat × Nat :=
  let n := s.fld (trOff x + 0x18) 16 16
  ((s.reg (trOff x + 0x10)).toNat / 2 ^ 12, if n = 0 then 65536 else n)

/-- A translation that covers a page of the run is removed. -/
def dropPages (p n : Nat) (l : List TlbEntry) : List TlbEntry := l.filter fun e => !(decide (e.vpn < p + n) && decide (p < e.vpn + e.len))

/-- XINV_COMPLETE (R75, R81): no removed translation is held any longer, named range entries hold their new values, and
BUSY clears. XINVA and RNGBASE are read here, as they then stand, and not at the write of GO (the model's choice, log entry
69). -/
def execXinvComplete (x : Nat) (s : State) : Host.Outcome State Fault Refusal :=
  if xinvBusy s x = false then .next s
  else
    let y := s.ctx x
    let s1 :=
      match xinvKind s x with
      | 0 => loadRanges x (List.range 64) (s.putCtx x { y with tlb := [] })
      | 1 => let r := xinvPages s x; s.putCtx x { y with tlb := dropPages r.1 r.2 y.tlb }
      | 2 => loadRanges x (xinvNamed s x) s
      | _ => s
    .next (s1.setFld (trOff x + 0x18) 1 1 0)

/-! ## Group tables (R295, R296) -/

def oMGCTL (x : Nat) : Nat := trOff x + 0x30

/-- A reduction entry that breaks no rule of R296, whatever its V. -/
def groupOk (e : List Word) : Bool :=
  let w := fun n => (nth 0 e n).toNat
  let fmt := w 0 / 2 ^ 18 % 8
  let len := w 2 + 1
  let align := match fmt with | 1 => 2 | 3 => 8 | 4 => 16 | _ => 4
  let part := match fmt with | 3 => 8 | 4 => 16 | _ => 4
  decide (w 0 / 2 ^ 40 ≠ 0) && decide (fmt ≤ 4) && decide (w 0 / 2 ^ 16 % 4 ≤ 2) && decide (w 0 / 2 ^ 2 % 2 ^ 14 = 0)
        && decide (w 1 / 2 ^ 44 = 0) && decide (w 1 % align = 0) && decide (w 2 / 2 ^ 24 = 0) && decide (w 3 / 2 ^ 44 = 0)
        && decide (w 3 % 4 = 0) && decide (w 4 / 2 ^ 56 = 0) && decide (w 4 % 8 = 0) && decide (w 5 / 2 ^ 56 = 0)
        && decide (w 5 % 16 = 0) && decide (w 7 = 0) && decide (len * part ≤ 262144)
        && decide (w 1 + len * align ≤ hbmSize) && decide (w 3 + 4 * (w 0 / 2 ^ 28 % 2 ^ 12 + 1) ≤ hbmSize)

/-- One entry of a group table: its reload, or ERR. -/
def reloadGroup (x : Nat) (base : Option Nat) (mc : Bool) (i : Nat) (s : State) : State :=
  let y := s.ctx x
  let err := s.setFld (oMGCTL x) 2 1 1
  match base with
  | none => err
  | some b =>
    if mc then
      if 64 ≤ i then err
      else hbmSeen (b + 1024 * i) 1024 (s.putCtx x { y with mgroups := Tab.setRun 0 y.mgroups (128 * i) (hbmWords s (b + 1024 * i) 128) })
    else
      let e := hbmWords s (b + 64 * i) 8
      if 1024 ≤ i ∨ (Tab.has y.rounds i) then err
      else if groupOk e = false then hbmSeen (b + 64 * i) 64 err
      else hbmSeen (b + 64 * i) 64 (s.putCtx x { y with groups := Tab.setRun 0 y.groups (8 * i) e })

/-- A GO of MGCTL. -/
def mgctlGo (x tbl : Nat) (s : State) : State :=
  if s.flag (oMGCTL x) 1 then s else (s.setFld (oMGCTL x) 3 1 tbl).setFld (oMGCTL x) 1 1 1

/-- MGCTL_RELOAD_REDUCTION (R295). -/
def execMgctlReloadReduction (x : Nat) (s : State) : Host.Outcome State Fault Refusal := .next (mgctlGo x 0 s)

/-- MGCTL_RELOAD_MULTICAST (R295). -/
def execMgctlReloadMulticast (x : Nat) (s : State) : Host.Outcome State Fault Refusal := .next (mgctlGo x 1 s)

/-- The base of a 64 KiB table named by bits 55:16 of a register, if it lies in this package's HBM. -/
def tableBase (s : State) (o size : Nat) : Option Nat :=
  let g := (s.reg o).toNat % 2 ^ 56 / size * size
  if s.ownHbm g size then some (g % 2 ^ 44) else none

/-- MGCTL_RELOAD_DONE (R295): the entries take effect and BUSY clears. -/
def execMgctlReloadDone (x : Nat) (s : State) : Host.Outcome State Fault Refusal :=
  let o := oMGCTL x
  if s.flag o 1 = false then .next s
  else
    let mc := s.flag o 3
    let base := tableBase s (trOff x + (if mc then 0x28 else 0x20)) 0x10000
    let is := (List.range (s.fld o 12 10 + 1)).map (s.fld o 22 10 + ·)
    .next ((is.foldl (fun s i => reloadGroup x base mc i s) s).setFld o 1 1 0)

/-! ## Channel and ring tables (R305, R433) -/

def oCLCTL (x : Nat) : Nat := clOff x + 0x10

/-- Has the context a command in flight that uses channel `c`? -/
def chanInUse (s : State) (x c : Nat) : Bool := s.colls.any fun k => decide (k.ctx = x) && k.chansOf.any (· == c)

/-- A channel entry is loaded; its credits become the new DEPTH unless a command in flight uses it, and its sequence number
is kept (R433). -/
def loadChan (x b i : Nat) (s : State) : State :=
  let y := s.ctx x
  let e := hbmWords s (b + 64 * i) 8
  let st := y.chst_ i
  hbmSeen (b + 64 * i) 64 (s.putCtx x { y with
    chans := Tab.setRun 0 y.chans (8 * i) e
    chst := Tab.put y.chst i (if chanInUse s x i then st.1 else cDepth e, st.2)
    chNum := Tab.put y.chNum i st.2 })

/-- A ring descriptor is loaded. -/
def loadRing (x b i : Nat) (s : State) : State :=
  let y := s.ctx x
  hbmSeen (b + 64 * i) 64 (s.putCtx x { y with rings := Tab.setRun 0 y.rings (8 * i) (hbmWords s (b + 64 * i) 8) })

/-- Channel entries and ring descriptors of the tables (R304). -/
def clBase (s : State) (x : Nat) (ring : Bool) : Option Nat :=
  if ring then tableBase s (clOff x + 8) 0x10000 else tableBase s (clOff x) 0x40000

/-- A GO of CLCTL: a range that passes the table's end is not copied (R305). -/
def clctlGo (x tbl : Nat) (s : State) : State :=
  let o := oCLCTL x
  if s.flag o 1 then s
  else
    let s := s.setFld o 3 1 tbl
    if (if tbl = 1 then 1024 else 4096) ≤ s.fld o 32 12 + s.fld o 20 12 then s.setFld o 2 1 1 else s.setFld o 1 1 1

/-- CLCTL_RELOAD_CHANNELS (R305, R433). -/
def execClctlReloadChannels (x : Nat) (s : State) : Host.Outcome State Fault Refusal := .next (clctlGo x 0 s)

/-- CLCTL_RELOAD_RINGS (R305). -/
def execClctlReloadRings (x : Nat) (s : State) : Host.Outcome State Fault Refusal := .next (clctlGo x 1 s)

/-- CLCTL_RELOAD_DONE (R305): the resident copies hold the new entries and BUSY clears. -/
def execClctlReloadDone (x : Nat) (s : State) : Host.Outcome State Fault Refusal :=
  let o := oCLCTL x
  if s.flag o 1 = false then .next s
  else
    let ring := s.flag o 3
    let is := (List.range (s.fld o 20 12 + 1)).map (s.fld o 32 12 + ·)
    let s1 :=
      match clBase s x ring with
      | none => s.setFld o 2 1 1
      | some b => is.foldl (fun s i => if ring then loadRing x b i s else loadChan x b i s) s
    .next (s1.setFld o 1 1 0)

end Sys2Proof.Machine
end

