-- ==== Sys2Proof/Machine/Context.lean ====
section
/-! DEFINITION. Contexts (15): the save image, creation, kill, the other commands, quantum end, switch-out and switch-in. -/

namespace Sys2Proof.Machine

/-! ## The save image (R396, R397) -/

/-- A memory with the entries of another below `len` in place of its own `len` entries from `base` on. -/
def Tab.graft {α : Type} (t : Tab α) (base len : Nat) (u : Tab α) : Tab α :=
  t.filter (fun e => decide (e.1 < base)) ++ (Tab.slice u 0 len).map (fun e => (base + e.1, e.2)) ++ t.filter (fun e => decide (base + len ≤ e.1))

/-- The entries of a memory from `base` on, by their place in it. -/
def Tab.part {α : Type} (t : Tab α) (base len : Nat) : Tab α := (Tab.slice t base (base + len)).map fun e => (e.1 - base, e.2)

/-- Bytes of HBM from a list, in one pass. -/
def imgPut (a : Nat) (bs : List Byte) (s : State) : State := { s with hbm := Tab.putRun 0 s.hbm a bs }

/-- Bytes in the KD-192's own format: any values (R396, R397). -/
def imgOwn (a n : Nat) (s : State) : State :=
  { imgPut a (((List.range (n / 8)).flatMap fun i => leBytes 8 (Config.freeWord (s.free + i)).toNat)) s with free := s.free + n / 8 }

/-- The bytes of a stream block at its start, and where R397 places them. -/
def streamBlock (s : State) (c : Nat) (t : Bool) : List (Nat × List Byte) :=
  let y := s.st c t
  let r := y.regs
  let sys := fun n => leBytes 8 (sysRead s c t n).toNat
  let w8 := fun (l : List Word) => l.flatMap fun w => leBytes 8 w.toNat
  [(0x0000, (List.range 56).flatMap fun i => leBytes 8 (r.getS i).toNat),
   (0x01C0, (List.range 8).flatMap fun i => leBytes 1 (b2n (r.getP i))),
   (0x01C8, w8 ((List.range 4).map (Tab.get 0 r.xf))),
   (0x0200, (List.range 6).flatMap sys),
   (0x0280, (List.range 8).flatMap fun i => sys (0x10 + i)),
   (0x0300, (List.range 16).flatMap fun i => sys (0x20 + i)),
   (0x0380, (List.range 3).flatMap fun i => sys (0x30 + i)),
   (0x0480, (List.range 4).flatMap fun i => sys (0x50 + i)),
   (0x0500, (List.range 10).flatMap fun i => sys (0x100 + i)),
   (0x0580, (List.range 9).flatMap fun i => sys (0x110 + i)),
   (0x0800, (List.range 8).flatMap fun i => leBytes 16 (r.getK i).toNat),
   (0x1000, (List.range 7168).flatMap fun i => leBytes 4 (Tab.get 0 r.v i).toNat),
   (0x8000, w8 ((List.range 384).map (Tab.get 0 r.g))),
   (0x8C00, w8 y.bank)]

/-- Every run of a core image beside the memories of the core. -/
def coreBlock (s : State) (c : Nat) : List (Nat × List Byte) :=
  let x := s.seat c
  let block := fun (t : Bool) (o : Nat) => (streamBlock s c t).map fun e => (o + e.1, e.2)
  block false 0x800000 ++ block true 0x810000
    ++ [(imgTiles, (List.range 1536).flatMap fun t => leBytes 4 (tileWord (x.tile t))),
        (0x821800, (List.range 8).flatMap fun t => leBytes 2 (wrapN 16 (Tab.get 0 x.mxe.accE t))),
        (0x821810, (List.range 8).flatMap fun i => leBytes 8 (Tab.get 0 x.mxe.mp i).toNat),
        (0x822000, (List.range 512).flatMap fun i => leBytes 8 (Tab.get 0 x.mxe.ucode (0x800 + i)).toNat),
        (0x830000, (List.range 1536).flatMap fun i => leBytes 8 (Tab.get 0 x.mxe.ucode (0xA00 + i)).toNat)]
    ++ (List.range 8).map fun t => (0x680000 + 0x30000 * t, (x.mxe.tile t).flatMap fun m => leBytes 6 m.toNat)

/-- The image of core `c` is written from the core's state (R396). -/
def writeImage (x c : Nat) (s : State) : State :=
  let b := s.imgAddr x c
  let y := s.seat c
  let s1 := { s with hbm := Tab.graft (Tab.graft s.hbm b 0x600000 y.spad) (b + 0x608000) 0x78000 (Tab.part y.ispad 0x8000 0x78000) }
  let s2 := (coreBlock s c).foldl (fun s e => imgPut (b + e.1) e.2 s) s1
  let upc := y.mxe.upc % 4096 + 4096 * ((Config.freeWord s2.free).toNat % 16)
  let s3 := (imgPut (b + 0x821850) (leBytes 2 upc) s2).used
  let s4 := imgOwn (b + 0x821852) 14 (imgOwn (b + 0x808D00) 0x7300 (imgOwn (b + 0x818D00) 0x7300 (imgOwn (b + 0x823000) 0xD000 s3)))
  { s4 with poison := s4.poison.filter fun l => !((decide (b ≤ 64 * l) && decide (64 * l < b + 0x600000))
      || (decide (b + 0x608000 ≤ 64 * l) && decide (64 * l < b + imgSize))) }

/-- Doublewords of a memory area that lie in poisoned lines, by their place in it. -/
def badIn (s : State) (b lo n : Nat) : List Nat :=
  (s.poison.filter fun l => decide (b + lo ≤ 64 * l) && decide (64 * l < b + lo + n)).flatMap fun l =>
    (List.range 8).map fun i => 64 * l + 8 * i - b

/-- R435: the tile that a tile-state word restores. -/
def restoreTile (s : State) (x c t : Nat) : Tile :=
  let w := s.imgTile x c t
  if (s.ctx x).odd.any (fun e => decide (e = (c, t))) then ⟨if Config.freeBool (s.free + t) then .core else .mbx, bitN w 3, 0⟩
  else tileOfWord w

/-- Do the accumulators, or the microprograms, of an image at `b` hold an uncorrectable error (R392, R424)? -/
def imgMxeBad (s : State) (b : Nat) : Bool :=
  s.poisoned (b + 0x680000) 0x180000 || s.poisoned (b + 0x821800) 0x1800 || s.poisoned (b + 0x830000) 0x3000

/-- The memories of a core come from the image (R399, R435). -/
def restoreMem (x c : Nat) (y : Seat) (s : State) : Seat :=
  let b := s.imgAddr x c
  let uc := (List.range 2048).map fun i => hbmWord s (b + (if i < 512 then 0x822000 + 8 * i else 0x830000 + 8 * (i - 512)))
  { y with
    spad := Tab.part s.hbm b 0x600000
    ispad := (Tab.part s.hbm (b + 0x608000) 0x78000).map fun e => (0x8000 + e.1, e.2)
    tiles := sparse Tile.free 0 ((List.range 1536).map (restoreTile s x c))
    bad := y.bad ++ badIn s b 0 0x600000
    ibad := y.ibad ++ (badIn s b 0x608000 0x78000).map (· - 0x600000)
    mxe := { y.mxe with ucode := sparse 0 0x800 uc, ecc := y.mxe.ecc || imgMxeBad s b } }

/-- A stream whose saved state may hold any value: its task stays, and it does not gain supervisor mode (R435). -/
def freeStream_ (f y : Stream) : Stream :=
  { f with task := y.task, sys := { f.sys with sup := false }, held := none, ret := none, dev := none, entered := false, ph := .rest }

/-- A memory of the bytes that a list gives, at offsets `[lo, lo + n)`. -/
def remade (lo n : Nat) (m : Mem) : Mem := m.foldl (fun m e => Mem.setByte m (lo + e.1 % n) e.2) []

/-- The seat of a core whose image was written elsewhere than R435 allows: any registers, landing buffers, queues, scratchpads,
microprograms and engine progress. Its messages to other cores stay, no command of it has a supervisor's rights, none stands for
a launch but those `own` of its context, and their numbers, from `n` on, are no other command's. -/
def freeSeat_ (own : List Nat) (n : Nat) (f y : Seat) : Seat :=
  let low := fun (o : Origin) => { o with sup := false, launch := o.launch.filter fun l => own.any (· == l) }
  let m := n + f.cmds.length
  { f with prim := freeStream_ f.prim y.prim, sec := freeStream_ f.sec y.sec, resv := [], just := [], drops := [],
           spad := remade 0 0x600000 f.spad, ispad := remade 0x8000 0x78000 f.ispad,
           armings := f.armings.map fun a => { a with org := low a.org }
           mxe := { f.mxe with queue := f.mxe.queue.mapIdx fun i r => { r with org := low r.org, id := m + i } }
           gq := f.gq.map fun e => (e.1, { e.2 with aq := e.2.aq.map (fun a => { a with org := low a.org }),
                                                    gs := e.2.gs.map fun g => { g with org := low g.org } })
           cmds := ((f.cmds.mapIdx fun i k => { k with org := low k.org, id := n + i }).filter fun k => decide (k.kind ≠ .gangMsg))
             ++ y.cmds.filter fun k => decide (k.kind = .gangMsg)
           msgs := y.msgs, image := y.image, bad := y.bad, ibad := y.ibad }

/-! ## Creation (R393) -/

/-- CDIS names a core of the set (R425). -/
def hasDisabled (s : State) (x : Nat) : Bool :=
  (s.setCores x).any fun c => bitN (s.reg (oCDIS + 8 * (c / 64))).toNat (c % 64)

/-- Does context `y` exist? -/
def ctxLives (s : State) (y : Nat) : Bool := decide (s.ctxState y ≠ 0) && decide (s.ctxState y ≠ 4)

/-- The refusals of R393 and R425. -/
def createRefused (s : State) (x : Nat) : Bool :=
  let set := s.coreSet x
  ctxLives s x || decide (set = 0) || hasDisabled s x
    || ((List.range 16).any fun y => decide (y ≠ x) && ctxLives s y && decide (s.coreSet y ≠ set) && decide (s.coreSet y &&& set ≠ 0))
    || !s.ownHbm ((s.reg (ccbOff x + 0x28)).toNat % 2 ^ 56 / 2 ^ 16 * 2 ^ 16) (imgSize * (s.setCores x).length)
    || !s.ownHbm ((s.reg (ccbOff x + 0x30)).toNat % 2 ^ 56 / 2 ^ 12 * 2 ^ 12) 1

/-- CREATE (R393): refused with ERR, or under way. -/
def execCreate (x : Nat) (s : State) : Host.Outcome State Fault Refusal :=
  if s.ctxBusy x then .next s
  else if createRefused s x then .next (s.setCtxErr x)
  else .next (s.setCtxBusy x true)

/-- A stream block of zeros (R393): no register has its value at dispatch yet. -/
def Stream.zero : Stream :=
  { Stream.reset with
    regs := { Regs.reset with ts := (List.range 16).map fun i => (i, 0) }
    sys := { SysRegs.reset with clma := 0, clmb := 0, kwen := false } }

/-- The per-core state that a CREATE writes (R393). -/
def Seat.zero : Seat := { Seat.reset with prim := Stream.zero, sec := Stream.zero }

/-- The image of a core at creation: zeros, but for what the KD-192's own format holds. -/
def zeroImage (x c : Nat) (s : State) : State :=
  let b := s.imgAddr x c
  let s1 := { s with hbm := Tab.clear (Tab.clear s.hbm b (b + 0x600000)) (b + 0x608000) (b + imgSize) }
  let s2 := imgOwn (b + 0x823000) 0xD000 s1
  { s2 with poison := s2.poison.filter fun l => !(decide (b ≤ 64 * l) && decide (64 * l < b + imgSize)) }

/-- Channel and ring tables at creation (R305): whole, where their EN is 1; a loaded channel has its DEPTH of credits and
sequence number 0. -/
def loadTables (x : Nat) (s : State) : State :=
  let y := s.ctx x
  let cb := if s.flag (clOff x) 0 then clBase s x false else none
  let rb := if s.flag (clOff x + 8) 0 then clBase s x true else none
  let y := match cb with
    | some b =>
      let y := { y with chans := sparse 0 0 (hbmWords s b 32768), chNum := [] }
      { y with chst := (List.range 4096).map fun c => (c, (cDepth (y.chan c), 0)) }
    | none => y
  let y := match rb with
    | some b => { y with rings := sparse 0 0 (hbmWords s b 8192) }
    | none => y
  let s := match cb with | some b => hbmSeen b 0x40000 (s.putCtx x y) | none => s.putCtx x y
  match rb with | some b => hbmSeen b 0x10000 s | none => s

/-- What CXL.io has written to a core that no context holds is gone (R442). -/
def bareless (c : Nat) (s : State) : State :=
  if (s.core c).bare.isEmpty then s else s.putCore c { s.core c with bare := [] }

/-- Headers that the launch manager has read of a context's queues are read again (R366). -/
def dropHeads (x : Nat) (s : State) : State :=
  { s with heads := s.heads.filter fun e => decide (s.fld (lqOff e.1) 8 4 ≠ x) }

/-- CREATE_COMPLETE (R393): tables loaded, images written, STATE OUT. -/
def execCreateComplete (x : Nat) (s : State) : Host.Outcome State Fault Refusal :=
  if s.ctxBusy x = false ∨ ctxLives s x then .next s
  else
    let cs := s.setCores x
    let y := s.ctx x
    let y := { y with dbga := s.flag (ccbOff x) 32, cseed := s.reg (ccbOff x + 8), keylog := [], keyReps := [], posts := [],
                      wins := cs.map fun c => (c, ⟨.image, []⟩), saved := cs.map fun c => (c, Seat.zero), taint := [], odd := [],
                      drain := [], chHeld := [], tookAt := 0, leaving := false }
    let s := loadTables x (loadRanges x (List.range 64) ({ s with gone := s.gone.filter fun z => decide (z ≠ x) }.putCtx x y))
    let s := dropHeads x (cs.foldl (fun s c => bareless c (zeroImage x c s)) s)
    let s := s.setReg (ccbOff x + 0x38) 0
    let o := dbgOff x
    let s := ([0x10, 0x20] ++ (List.range 16).map fun i => 0x80 + 8 * i).foldl (fun (s : State) r => s.setReg (o + r) 0) s
    .next (((s.setCtxState x 2).setCtxBusy x false).msi 1)

/-! ## Kill (R400) -/

/-- Gangs that some task still names. -/
def dropGangs (s : State) : State :=
  let names := fun (y : Seat) (g : Nat) => match y.prim.task with | some t => decide (t.gang = some g) | none => false
  { s with gangs := s.gangs.filter fun e =>
      (s.cores.any fun k => names k.2.seat e.1) || s.ctxs.any fun x => x.2.saved.any fun k => names k.2 e.1 }

/-- Is the request one of context `x`? -/
def reqOfCtx (s : State) (x : Nat) (q : Req) : Bool :=
  match q.agent with
  | .cmd c id _ => (s.seatOf x c).cmds.any fun k => decide (k.id = id)
  | .row c _ _ => decide ((s.core c).owner = some x)
  | .rcd n => s.recs.any fun j => decide (j.n = n) && decide (j.ctx = x)
  | .coll id _ => s.colls.any fun k => decide (k.id = id) && decide (k.ctx = x)
  | .hdr n _ =>
    if n % 4 = 0 then decide (s.fld (lqOff (n / 4)) 8 4 = x)
    else if n % 4 = 1 then s.spawns.any fun p => decide (p.id = n / 4) && decide (p.ctx = x)
    else s.launches.any fun l => decide (l.id = n / 4 / 256) && decide (l.ctx = x)

/-- What a killed context has on a core: nothing of it goes on. -/
def Seat.killed (y : Seat) : Seat :=
  { y.haltBoth with
    takes := [], armings := [], just := [], gq := [], drops := [], cmds := [], msgs := [],
    mxe := { y.mxe with queue := [] } }

/-- The windows of a context become REVOKED; what they held is answered GONE. -/
def revokeWins (x : Nat) (s : State) : State :=
  (s.setCores x).foldl (fun s c => releaseHeld x c (s.putWin x c { s.win x c with st := .revoked })) s

/-- KILL (R400): steps 1 and 2, and the start of the drain. -/
def execKill (x : Nat) (s : State) : Host.Outcome State Fault Refusal :=
  if s.ctxBusy x then .next s
  else if s.ctxState x = 0 then .next (s.setCtxErr x)
  else
    let tags := (s.reqs.filter (reqOfCtx s x)).map Req.tag
    let s := (s.setCtxState x 3).setCtxBusy x true
    let s := (s.setCores x).foldl (fun s c => s.putSeatOf x c (s.seatOf x c).killed) s
    let s := { s with launches := s.launches.filter (fun l => decide (l.ctx ≠ x)), spawns := s.spawns.filter (fun p => decide (p.ctx ≠ x)),
                      recs := s.recs.filter fun j => decide (j.ctx ≠ x) }
    let s := killColls x (revokeWins x (dropGangs (dropHeads x s)))
    .next (s.putCtx x { s.ctx x with keylog := [], keyReps := [], posts := [], rounds := [], leaving := false, drain := tags })

/-- KILL_COMPLETE (R400): every request answered and every agent's drain acknowledged; translations removed; KILLED. Covered
writes of the commands that were discarded have joined the write digest if they performed (R404). -/
def execKillComplete (x : Nat) (s : State) : Host.Outcome State Fault Refusal :=
  let y := s.ctx x
  let mine := fun (q : Req) => y.drain.any (· == q.tag)
  if s.ctxState x ≠ 3 ∨ (s.reqs.any fun q => mine q && q.res.isNone) ∨ (s.colls.any fun k => decide (k.ctx = x))
      ∨ (s.setCores x).any fun c => decide ((s.seatOf x c).mxe.left ≠ 0) then .next s
  else
    let covered := fun (q : Req) => decide (q.kind = .write) && (match q.agent with | .cmd _ _ _ => true | _ => false)
    let s := digestReqs x (s.reqs.filter fun q => mine q && covered q) s
    let s := { s with reqs := s.reqs.filter fun q => !mine q }
    let s := s.putCtx x { y with rng := [], tlb := [], walks := [], groups := [], mgroups := [], chst := [],
                                 chNum := [], chHeld := [], saved := [], drain := [], taint := [], odd := [] }
    let s := (s.setCores x).foldl (fun s c =>
      if (s.core c).owner = some x then s.putCore c { s.core c with owner := none, seat := Seat.reset, frozen := none, bare := [], halted := false } else s) s
    .next (setInfl x ((s.setCtxState x 4).setCtxBusy x false))

/-! ## The other commands (R395, R404, R413, R423, R443) -/

/-- SIGNAL (R443). A stream that holds no task in a LIVE context discards it at once. -/
def execSignal (x : Nat) (s : State) : Host.Outcome State Fault Refusal :=
  let o := ccbOff x + 0x48
  let c := s.fld o 32 32
  let str := s.fld o 8 2
  if s.ctxBusy x then .next s
  else if (s.ctxState x ≠ 1 ∧ s.ctxState x ≠ 2) ∨ 192 ≤ c ∨ bitN (s.coreSet x) c = false ∨ 2 ≤ str then .next (s.setCtxErr x)
  else
    let t := decide (str = 1)
    let y := s.seatOf x c
    let z := y.st t
    if z.task.isNone then .next s
    else .next (s.putSeatOf x c (y.putSt t { z with pend := { z.pend with hsig := true } }))

/-- WDCLR (R404). -/
def execWdclr (x : Nat) (s : State) : Host.Outcome State Fault Refusal :=
  if s.ctxBusy x then .next s
  else
    let o := ccbOff x + 0x60
    .next ((((s.setReg o 0).setReg (o + 8) 0).setReg (o + 16) 0).setReg (o + 24) 0)

/-- The image parts of a microcode load: every core image of the context gets the 16 KiB (R395, R396). -/
def putUcode (x a : Nat) (s : State) (c : Nat) : State :=
  let b := s.imgAddr x c
  let rd := fun a n => (hbmWords s a n).flatMap fun w => leBytes 8 w.toNat
  let y := s.seatOf x c
  -- a routine meets what the source's errors left (R392)
  let t := if s.poisoned a 16384 then s.putSeatOf x c { y with mxe := { y.mxe with ecc := true } } else s
  hbmPut (b + 0x830000) (rd (a + 4096) 1536) (hbmPut (b + 0x822000) (rd a 512) t)

/-- UCLOAD (R395). -/
def execUcload (x : Nat) (s : State) : Host.Outcome State Fault Refusal :=
  let g := (s.reg (ccbOff x + 0x50)).toNat % 2 ^ 56 / 8 * 8
  if s.ctxBusy x then .next s
  else if s.ctxState x ≠ 2 ∨ s.ownHbm g 16384 = false then .next (s.setCtxErr x)
  else .next (seenBad (s.poisoned (g % 2 ^ 44) 16384) ((s.setCores x).foldl (putUcode x (g % 2 ^ 44)) s))

/-- The unsigned part of a report (R423). -/
def reportHead (s : State) (x : Nat) : List Byte :=
  Mem.bytes s.staging stagingOff 64 ++ fwDigest s.flash ++ leBytes 2 (s.fld oSYSSTAT 48 16)
    ++ leBytes 2 s.pkg ++ leBytes 1 x ++ leBytes 1 (b2n (s.ctx x).dbga) ++ List.replicate 58 (0 : Byte)

/-- ATTEST (R423). -/
def execAttest (x : Nat) (s : State) : Host.Outcome State Fault Refusal :=
  if s.ctxBusy x then .next s
  else if s.ctxState x = 0 then .next (s.setCtxErr x)
  else
    let h := reportHead s x
    .next { s with staging := Mem.setBytes s.staging reportOff (h ++ leBytes 4627 (Config.mldsaSign (aliasSeed s.flash) h)) }

/-- DEBUG_HALT (R413): every stream of a debuggable context that holds a task takes DBG at its next boundary. -/
def execDebugHalt (x : Nat) (s : State) : Host.Outcome State Fault Refusal :=
  if (s.ctx x).dbga = false then .next s
  else
    let halt := fun (y : Stream) => if y.task.isSome then { y with pend := { y.pend with dbg := true } } else y
    .next ((s.setCores x).foldl (fun s c =>
      let y := s.seatOf x c
      s.putSeatOf x c { y with prim := halt y.prim, sec := halt y.sec }) s)

/-! ## The rotation (R394) -/

/-- Does the context hold a task? -/
def hasTask (s : State) (x : Nat) : Bool :=
  (s.setCores x).any fun c => let y := s.seatOf x c; y.prim.task.isSome || y.sec.task.isSome

def readyLaunch (s : State) (x : Nat) : Bool := s.launches.any fun l => decide (l.ctx = x) && waiting s l

/-- Unfinished work that a switch-out stops (R394). -/
def CKind.stops (k : CKind) : Bool :=
  match k with
  | .cpy => true
  | .cpyc => true
  | .fsend => true
  | .fmcast => true
  | .fred _ _ => true
  | .digest => true
  | .gangMsg => true
  | _ => false

def unfinished (s : State) (x : Nat) : Bool :=
  (s.setCores x).any fun c => let y := s.seatOf x c; (y.cmds.any fun k => k.kind.stops) || !y.mxe.queue.isEmpty

/-- Does the context want its core set? -/
def wantsSet (s : State) (x : Nat) : Bool := hasTask s x || readyLaunch s x || unfinished s x

/-- Is another context of the rotation waiting for the set? -/
def othersWait (s : State) (x : Nat) : Bool :=
  (List.range 16).any fun y => decide (y ≠ x) && decide (s.ctxState y = 2) && decide (s.coreSet y = s.coreSet x) && wantsSet s y

/-- The context of the rotation that held the set last; 15 where none has. -/
def lastHolder (s : State) (x : Nat) : Nat :=
  ((List.range 16).foldl (fun (b : Nat × Nat) y =>
    if s.coreSet y = s.coreSet x ∧ b.2 < (s.ctx y).tookAt then (y, (s.ctx y).tookAt) else b) (15, 0)).1

/-- Is `x` the next context to take its set, and the set free (R394)? A disabled core takes no context (R425). -/
def nextHolder (s : State) (x : Nat) : Bool :=
  let wants := fun y => decide (s.ctxState y = 2) && !s.ctxBusy y && decide (s.coreSet y = s.coreSet x) && wantsSet s y
    && !hasDisabled s y
  let l := lastHolder s x
  let order := (List.range 16).map fun i => (l + 1 + i) % 16
  ((s.setCores x).all fun c => (s.core c).owner.isNone) && decide (order.find? wants = some x)

/-! ## Quantum end, switch-out, switch-in (R398, R399) -/

def qhook (s : State) (x : Nat) : Bool := s.flag (ccbOff x) 33

/-- The context's units begin to stop; with QHOOK the streams that hold a task take QUANT first. -/
def leaveSet (x : Nat) (hook : Bool) (s : State) : State :=
  let mark := fun (y : Stream) =>
    { y with pend := { y.pend with quant := hook && y.task.isSome } }
  let s := s.putCtx x { s.ctx x with leaving := true }
  (s.setCores x).foldl (fun s c => let y := s.seat c; s.putSeat c { y with prim := mark y.prim, sec := mark y.sec }) s

/-- QUANTUM_END (R394, R398): the count reaches QLEN × 1,024; it ends the quantum only if another context waits. -/
def execQuantumEnd (x : Nat) (s : State) : Host.Outcome State Fault Refusal :=
  let y := s.ctx x
  let q := s.fld (ccbOff x) 0 32 * 1024
  if s.ctxState x ≠ 1 ∨ y.leaving ∨ q = 0 ∨ (s.gtb - y.qstart).toNat < q then .next s
  else if othersWait s x then .next (leaveSet x (qhook s x) s)
  else .next (s.putCtx x { y with qstart := s.gtb })

/-- CONTEXT_YIELD (R394): nothing to do is left. -/
def execContextYield (x : Nat) (s : State) : Host.Outcome State Fault Refusal :=
  if s.ctxState x ≠ 1 ∨ (s.ctx x).leaving ∨ wantsSet s x then .next s else .next (leaveSet x false s)

/-- Is a bundle of the stream stopped partway, or to be completed after a return (R384, R385)? -/
def Stream.partway (y : Stream) : Bool := y.sameTick || decide (y.done ≠ 0)

/-- Does the stream stand at a bundle boundary (R159, R194)? A sleep is one; a wait before its test tick is none. -/
def Stream.atBoundary (y : Stream) : Bool :=
  match y.wait with
  | some w => w.tested
  | none => decide (y.idle = 0) && !y.partway

/-- The members of a gang: (core, stream state) of every primary stream whose task names it. -/
def gangMembers (s : State) (g : Nat) : List (Nat × Stream) :=
  s.cores.filterMap fun e =>
    match e.2.seat.prim.task with
    | some k => if k.gang = some g then some (e.1, e.2.seat.prim) else none
    | none => none

/-- Has the stream of a leaving context stopped (R398)? A handler runs to its return first (R387); a frozen core has stopped;
the members of a gang stop together, wherever they stand (R375 item 3). -/
def stopped (s : State) (_x c : Nat) (t : Bool) : Bool :=
  let y := s.st c t
  if (s.core c).halted then true
  else if y.sys.sup then false
  else
    match y.task with
    | none => true
    | some k =>
      !y.pend.quant && (match k.gang with
        | some g => (gangMembers s g).all fun m => !m.2.sys.sup && !m.2.partway && !m.2.pend.quant
        | none => y.atBoundary)

/-- Have all units of a core stopped: its streams, its MXE, and its copies at a chunk boundary (R105, R270, R398)? -/
def coreStopped (s : State) (x c : Nat) : Bool :=
  stopped s x c false && stopped s x c true && decide ((s.seat c).mxe.left = 0)
    && (s.seat c).cmds.all fun k => !k.kind.stops || decide (k.phase = 0) || decide (k.phase = 3)

/-- The requests of rows that have no data yet are made again after the switch (R110). -/
def dropRows (c : Nat) (s : State) : State :=
  { s with reqs := s.reqs.filter fun q => match q.agent with | .row c' _ _ => decide (c' ≠ c) | _ => true }

/-- A resident channel entry is replaced (R351). -/
def putChan (x ch : Nat) (ws : List Word) (s : State) : State :=
  s.putCtx x { s.ctx x with chans := Tab.setRun 0 (s.ctx x).chans (8 * ch) ws }

/-- An access meets an uncorrectable error. -/
def eccMet (c : Nat) (t : Bool) (a : Access) (s : State) : State := eccAt c t (a.bundle, a.slot) s

/-- Doublewords as a core load samples them. -/
def sampleWords (x : Seat) (t : Bool) (a n : Nat) : List Word := (List.range n).map fun i => BitVec.ofNat 64 (leNat (x.sample t (a + 8 * i) 8))

/-- The entry that a CHW's access loads from the seat `x` takes effect (R351); a word with an uncorrectable error is a free
value. -/
def runChw (c : Nat) (t : Bool) (s : State) (a : Access) (x : Seat) : State :=
  match a.op with
  | .loadCh ch at_ =>
    if x.isBad at_ 64 then
      (eccMet c t a (putChan (s.ctxOf c) ch ((List.range 8).map fun i => Config.freeWord (s.free + i)) { s with free := s.free + 8 }))
    else putChan (s.ctxOf c) ch (sampleWords x t at_ 8) s
  | _ => s

/-- The seat as an access finds it that samples in `n` ticks: writes of its stream pending until then have performed (R132). -/
def Seat.ahead (x : Seat) (n : Nat) (as : List Access) : Seat :=
  as.foldl (fun x a =>
    match a.op with
    | .store els => if a.rem ≤ n then els.foldl (fun x e => x.write none 0 e.1 e.2) x else x
    | .amoWrite _ at_ op v e old => if a.rem ≤ n then x.amoPut at_ op old v e else x
    | .amoLate _ at_ op v e => x.amoPut at_ op (x.dword at_) v e
    | .amoSample _ at_ op v e => if a.rem + 1 ≤ n then x.amoPut at_ op (x.dword at_) v e else x
    | _ => x) x

/-- The CHW accesses among those of a stream, each on what those have written before its sample. -/
def runChws (c : Nat) (t : Bool) (as : List Access) (s : State) : State :=
  as.foldl (fun s a => runChw c t s a ((s.seat c).ahead a.rem as)) s

/-- CHW runs to completion although its context leaves (R340): accesses pending, then entries that have not taken effect. -/
def finishChw (c : Nat) (s : State) (t : Bool) : State :=
  let y := s.st c t
  let isAcc := fun (a : Access) => match a.op with | .loadCh _ _ => true | _ => false
  let isChan := fun (e : Landing) => match e.dest with | .chan _ _ => true | _ => false
  let put := fun (s : State) (e : Landing) => match e.dest with | .chan ch ws => putChan (s.ctxOf c) ch ws s | _ => s
  let s := ((match y.held with | some h => h.landing | none => []) ++ y.landing).foldl put s
  let s := runChws c t y.acc (runChws c t (match y.held with | some h => h.acc | none => []) s)
  let z := s.st c t
  s.putSt c t { z with
    landing := z.landing.filter fun e => !isChan e
    acc := z.acc.filter fun a => !isAcc a
    held := z.held.map fun h => { h with landing := h.landing.filter (fun e => !isChan e), acc := h.acc.filter fun a => !isAcc a } }

/-- One core is saved: its image written, its seat kept, the core free (R87, R396). -/
def saveCore (x : Nat) (s : State) (c : Nat) : State :=
  let s := dropRows c (endDev x c true (endDev x c false s))
  let s := writeImage x c ([false, true].foldl (finishChw c) (endResvs (fun _ => true) s c))
  let k := s.core c
  let y := s.ctx x
  let s := s.putCtx x { y with saved := Tab.put y.saved c k.seat, taint := y.taint.filter (· != c), odd := y.odd.filter fun e => decide (e.1 ≠ c) }
  s.putCore c { k with owner := none, seat := Seat.reset, frozen := none, bare := [], halted := false }

/-- SWITCH_OUT_COMPLETE (R87, R398): every unit has stopped, and accesses that were looked up LIVE and waited for an AMO perform
(R220). The windows become HELD; then every core is saved, STATE is OUT,
and the held accesses perform on the image. -/
def execSwitchOutComplete (x : Nat) (s : State) : Host.Outcome State Fault Refusal :=
  let cs := s.setCores x
  if s.ctxState x ≠ 1 ∨ (s.ctx x).leaving = false ∨ (cs.all (coreStopped s x)) = false then .next s
  else if cs.any fun c => decide ((s.win x c).st = .live) then
    let s := cs.foldl (endResvs fun _ => true) s
    .next (cs.foldl (fun s c => s.putWin x c { s.win x c with st := .held }) s)
  else
    let s := cs.foldl (saveCore x) s
    let s := (s.setCtxState x 2).putCtx x { s.ctx x with leaving := false }
    .next (cs.foldl (fun s c => releaseHeld x c (s.putWin x c { s.win x c with st := .image })) s)

/-- One core is restored (R87, R399). -/
def restoreCore (x : Nat) (s : State) (c : Nat) : State :=
  let y := Tab.get Seat.zero (s.ctx x).saved c
  let own := (s.launches.filter fun l => decide (l.ctx = x)).map Launch.id
  let f := Config.freeSeat s.free
  let z := if (s.ctx x).taint.any (· == c) then freeSeat_ own s.nextId f y else restoreMem x c y s
  let s := if imgMxeBad s (s.imgAddr x c) then s.setUE else s
  let clean := fun (t : Stream) => { t with pend := { t.pend with quant := false, hsig := t.pend.hsig && t.task.isSome } }
  let z := { z with prim := clean z.prim, sec := clean z.sec }
  let s := { s.putCore c { s.core c with owner := some x, seat := z, frozen := none, bare := [], halted := false } with
    free := s.free + 32768, nextId := s.nextId + f.cmds.length + f.mxe.queue.length }
  let w := s.ctx x
  s.putCtx x { w with saved := Tab.del w.saved c, taint := w.taint.filter (· != c), odd := w.odd.filter fun e => decide (e.1 ≠ c) }

/-- SWITCH_IN (R394, R399): the next context of the rotation takes its core set. -/
def execSwitchIn (x : Nat) (s : State) : Host.Outcome State Fault Refusal :=
  if nextHolder s x = false then .next s
  else
    let cs := s.setCores x
    let s := cs.foldl (restoreCore x) (s.setCtxState x 1)
    let s := s.putCtx x { s.ctx x with qstart := s.gtb, tookAt := s.cycle + 1, leaving := false }
    .next (cs.foldl (fun s c => releaseHeld x c (s.putWin x c { s.win x c with st := .live })) s)

end Sys2Proof.Machine
end

