-- ==== Sys2Proof/Machine/Control.lean ====
section
/-! DEFINITION. The C slot (08): branches, calls, loops, bank exchange, waits, task end, software traps, system registers. -/

namespace Sys2Proof.Machine

/-- IDLE: a header without slots (R153); its idle ticks follow from the header. -/
def execIdle (_n : BitVec 6) (_sat : Bool) (_rnd : Rnd) (_prof : BitVec 6) (s : State) : Host.Outcome State Fault Refusal := .next s.used

/-- A taken transfer: the next bundle, its idle tick, and its debug record (R150, R411). -/
def transfer (kind target idle : Nat) (swap : Bool) (s : State) : State := goto_ target idle swap (branchRec kind target s)

/-- The link of CALL and CALLR (R185, R186). -/
def link (d : RegF) (s : State) : State := land (.s d.toNat (word (linkAddr s))) 0 1 s

/-- A register target (R186): below 2^19 and a multiple of 4. -/
def regTarget (v : Word) (body : SlotRes) : SlotRes := if 2 ^ 19 ≤ v.toNat ∨ v.toNat % 4 ≠ 0 then .error (tcALIGN, 0) else body

/-- The new count of LOOP and LOOPI (R187). -/
def loopCount (s : State) (d : RegF) : Word := rdS s d + 1

/-- BRP (R184). -/
def execBrp (p : F3) (o : BitVec 22) (s : State) : Host.Outcome State Fault Refusal :=
  runSlot [] (.ok (if rdP s p then transfer 1 (branchTarget s.cur.pc o) 1 false s else s)) s

/-- BR (R184). -/
def execBr (o : BitVec 22) (s : State) : Host.Outcome State Fault Refusal :=
  runSlot [] (.ok (transfer 1 (branchTarget s.cur.pc o) 1 false s)) s

/-- BRPN (R184). -/
def execBrpn (p : F3) (o : BitVec 22) (s : State) : Host.Outcome State Fault Refusal :=
  runSlot [] (.ok (if rdP s p then s else transfer 1 (branchTarget s.cur.pc o) 1 false s)) s

/-- CALL (R185). -/
def execCall (d : RegF) (i : BitVec 20) (s : State) : Host.Outcome State Fault Refusal :=
  runSlot [] (.ok (link d (transfer 2 (branchTarget s.cur.pc i) 1 false s))) s

/-- JMP (R186). -/
def execJmp (a : RegF) (k : F3) (s : State) : Host.Outcome State Fault Refusal :=
  let v := rdS s a
  runSlot [a] (guarded k s (regTarget v (.ok (transfer 4 v.toNat 1 false s)))) s

/-- CALLR (R186). -/
def execCallr (d a : RegF) (k : F3) (s : State) : Host.Outcome State Fault Refusal :=
  let v := rdS s a
  runSlot [a] (guarded k s (regTarget v (.ok (link d (transfer 2 v.toNat 1 false s))))) s

/-- RET (R186). -/
def execRet (a : RegF) (k : F3) (s : State) : Host.Outcome State Fault Refusal :=
  let v := rdS s a
  runSlot [a] (guarded k s (regTarget v (.ok (transfer 3 v.toNat 1 false s)))) s

/-- SETF (R198): RSV bits 63:40 cleared, landing after 4 ticks. -/
def execSetf (d : BitVec 2) (a : RegF) (k : F3) (s : State) : Host.Outcome State Fault Refusal :=
  runSlot [a] (guarded k s (.ok (land (.xf d.toNat (word (low 40 (rdS s a)))) 0 4 s))) s

/-- LOOP (R187). -/
def execLoop (d a : RegF) (i : BitVec 14) (s : State) : Host.Outcome State Fault Refusal :=
  let n := loopCount s d
  runSlot [a] (.ok (land (.s d.toNat n) 0 1
    (if n.toNat < (rdS s a).toNat then transfer 5 (branchTarget s.cur.pc i) 0 false s else s))) s

/-- LOOPI (R187). -/
def execLoopi (d : RegF) (n : BitVec 6) (i : BitVec 14) (s : State) : Host.Outcome State Fault Refusal :=
  let c := loopCount s d
  runSlot [] (.ok (land (.s d.toNat c) 0 1
    (if c.toNat < n.toNat then transfer 5 (branchTarget s.cur.pc i) 0 false s else s))) s

/-- R183: not in supervisor mode. -/
def userOnly (s : State) (body : SlotRes) : SlotRes := if s.cst.sys.sup then .error (tcILLI, 0) else body

/-- BSWAP (R189): the bank is exchanged at the target's fetch. -/
def execBswap (p : F3) (o : BitVec 22) (s : State) : Host.Outcome State Fault Refusal :=
  runSlot [] (userOnly s (.ok (if rdP s p then transfer 6 (branchTarget s.cur.pc o) 1 true s else s))) s

/-- A wait of the bundle under way (R193); the present mask is put in when the bundle ends. -/
def setWait (w : Wait) (s : State) : State := { s with cur := { s.cur with part := { s.cur.part with wait := some w } } }

/-- WAITA (R191). The scope orders nothing further in a machine that performs every access whole and at once (R131, R135). -/
def execWaita (a b : RegF) (k : F3) (_s : Scope) (c : WCond) (s : State) : Host.Outcome State Fault Refusal :=
  let x := (rdS s a).toNat
  runSlot [a, b] (guarded k s
    (if x % 8 ≠ 0 ∨ spadSize ≤ x then .error (tcALIGN, 0)
     else .ok (setWait ⟨true, x, c, rdS s b, s.cur.pc, 0, linkAddr s, false, 0, false⟩ s))) s

/-- WAITO (R192). -/
def execWaito (a : RegF) (i : BitVec 14) (s : State) : Host.Outcome State Fault Refusal :=
  let tile := (rdS s a).toNat / 4096 + i.toNat
  runSlot [a]
    (if 1536 ≤ tile then .error (tcALIGN, 0)
     else .ok (setWait ⟨false, tile, .eq, 0, s.cur.pc, 0, linkAddr s, false, 0, false⟩ s)) s

/-- TEND (R195). -/
def execTend (s : State) : Host.Outcome State Fault Refusal :=
  runSlot [] (userOnly s (.ok { s with cur := { s.cur with part := { s.cur.part with tend := true } } })) s

/-- R196: a software trap; the C slot counts as committed. -/
def softTrap (code arg : Nat) (s : State) : State :=
  slotTrap code arg { s with cur := { s.cur with done := s.cur.done ||| 1 } }

/-- TRAP (R196). -/
def execTrap (code : BitVec 16) (s : State) : Host.Outcome State Fault Refusal :=
  if s.cst.sys.sup then .next (slotTrap tcILLI 0 s) else .next (softTrap tcTRAP code.toNat s)

/-- BRK (R196): performs nothing in a context that is not debuggable. -/
def execBrk (code : BitVec 16) (s : State) : Host.Outcome State Fault Refusal :=
  if s.cst.sys.sup then .next (slotTrap tcILLI 0 s)
  else if (s.ctx (s.ctxOf s.cur.core)).dbga then .next (softTrap tcBRK code.toNat s)
  else .next s.used

/-- Physical storage of a region (R127, R190): offsets of window 0x60_0000. -/
def regionRange (r : IRegion) (exb : Bool) : Nat × Nat :=
  match r with
  | .common => (0x8000, 0x10000)
  | .idle => if exb then (0x10000, 0x48000) else (0x48000, 0x80000)
  | .executing => if exb then (0x48000, 0x80000) else (0x10000, 0x48000)

/-- IFENCE (R190): later fetches of the region see its writes; one idle tick follows. -/
def execIfence (r : IRegion) (s : State) : Host.Outcome State Fault Refusal :=
  let y := s.cst
  let z := regionRange r y.sys.exb
  let s1 := s.putCst { y with stale := y.stale.filter fun e => !(decide (z.1 ≤ e.1) && decide (e.1 < z.2)) }
  runSlot [] (.ok { s1 with cur := { s1.cur with part := { s1.cur.part with extra := s1.cur.part.extra + 1 } } }) s

/-- The number is assigned, and open to the mode (R143, R388). -/
def sysOk (n : Nat) (s : State) (body : SlotRes) : SlotRes :=
  if sysAssigned n = false then .error (tcILLI, 0)
  else if 0x100 ≤ n ∧ s.cst.sys.sup = false then .error (tcPRIV, 0)
  else body

/-- The machine with the queues and tiles of the core under way as they stood before any bundle of the cycle issued. -/
def atTickStart (s : State) : State :=
  match s.cur.start with
  | some b => s.putSeat s.cur.core { s.seat s.cur.core with gq := b.gq, tiles := b.tiles, takes := b.takes }
  | none => s

/-- SYSR (R197): the value at the start of its tick. -/
def execSysr (d : RegF) (n : BitVec 12) (s : State) : Host.Outcome State Fault Refusal :=
  runSlot [] (sysOk n.toNat s
    (let v := sysRead (atTickStart s) s.cur.core s.cur.sec n.toNat
     .ok (land (.s d.toNat v) 0 2 (s.putCst (sysReadEffect n.toNat s.cst))))) s

/-- SYSW (R197): lands at the next tick; TCTL acts now (R123). -/
def execSysw (a : RegF) (n : BitVec 12) (s : State) : Host.Outcome State Fault Refusal :=
  let v := rdS s a
  runSlot [a] (sysOk n.toNat s
    (if n.toNat = 0x30 then doTctl s.cur.core s.cur.sec v s else .ok (land (.sys n.toNat v) 0 1 s))) s

/-! ## Where a transfer goes, for the comparison of R188 -/

/-- The address at which a stream goes on after a bundle whose C slot is `i`; `next` where no transfer is taken. -/
def goesTo (s : State) (i : Instr) (next : Nat) : Nat :=
  let pc := s.cur.pc
  match i with
  | .brp p o => if rdP s p then branchTarget pc o else next
  | .br o => branchTarget pc o
  | .brpn p o => if rdP s p then next else branchTarget pc o
  | .jmp a k => if rdP s k then (rdS s a).toNat else next
  | .callr _ a k => if rdP s k then (rdS s a).toNat else next
  | .ret a k => if rdP s k then (rdS s a).toNat else next
  | .loop d a o => if (loopCount s d).toNat < (rdS s a).toNat then branchTarget pc o else next
  | .loopi d n o => if (loopCount s d).toNat < n.toNat then branchTarget pc o else next
  | .bswap p o => if rdP s p then branchTarget pc o else next
  | _ => next

/-- A join (R376). -/
def isJoin (i : Instr) : Bool :=
  match i with
  | .brp _ _ => true
  | .br _ => true
  | .brpn _ _ => true
  | .jmp _ _ => true
  | .callr _ _ _ => true
  | .ret _ _ => true
  | .loop _ _ _ => true
  | .loopi _ _ _ => true
  | .bswap _ _ => true
  | _ => false

end Sys2Proof.Machine
end

