-- ==== Sys2Proof/Machine/Power.lean ====
section
/-! DEFINITION. The power ring: what a core charges, the tokens of a die (R379 to R382), and its temperature limits (R426). -/

namespace Sys2Proof.Machine

/-! ## Charges (R379) -/

/-- The weight of slot `k`. -/
def slotWeight (k : Nat) : Nat :=
  match k with
  | 0 => 1
  | 1 => 1
  | 2 => 1
  | 3 => 2
  | 4 => 2
  | 5 => 4
  | 6 => 4
  | _ => 1

/-- The sum of the weights of the slots that a mask marks. -/
def maskWeight (m : BitVec 8) : Nat := (List.range 8).foldl (fun n k => if bitN m.toNat k then n + slotWeight k else n) 0

/-- PWRLIM.LIMIT (R381). -/
def Core.limit (k : Core) : Nat := 64 * k.tok % 2 ^ 20

/-- The charge of the last 63 cycles (R380). -/
def Core.recent (k : Core) : Nat := k.charges.foldl (· + ·) 0

/-- R380: does a cycle that would charge `q` pass the window limit? -/
def Core.overdraws (k : Core) (q : Nat) : Bool := decide (k.limit < k.recent + q)

/-- A cycle of the core has charged `q`. -/
def Core.charge (k : Core) (q : Nat) : Core := { k with charges := (q :: k.charges).take 63, epoch := k.epoch + q }

/-! ## The ring at an epoch boundary (R381, R382) -/

def State.dtok (s : State) (d : Nat) : Nat := s.fld (dpOff d) 32 16
def State.setDtok (s : State) (d v : Nat) : State := s.setFld (dpOff d) 32 16 v

/-- FLOOR with its bounds. -/
def powerFloor (s : State) (d : Nat) : Nat := max 3 (min (s.fld (dpOff d) 0 8) (s.dtok d / 48))

def State.die (s : State) (d : Nat) : Die := Tab.get Die.reset s.dies d
def State.putDie (s : State) (d : Nat) (y : Die) : State := { s with dies := Tab.put s.dies d y }

/-- The tokens of one core move: `held` to `n`, and the pool to `p`. -/
def setTok (d c n p : Nat) (s : State) : State := (s.putCore c { s.core c with tok := n }).putDie d { s.die d with pool := p }

/-- What a core keeps of its tokens; the rest goes to the pool. -/
def keepTok (d : Nat) (s : State) (c : Nat) : State :=
  let k := s.core c
  let keep := max (powerFloor s d) (min k.tok ((k.epoch + 63) / 64 + s.fld (dpOff d) 16 8))
  setTok d c keep ((s.die d).pool + k.tok - keep) s

/-- Tokens of a core above FLOOR leave the die while it holds more than DTOK; `sum` is what it holds. -/
def cutTok (d : Nat) (z : Nat × State) (c : Nat) : Nat × State :=
  let s := z.2
  let k := s.core c
  let x := min (z.1 - s.dtok d) (k.tok - powerFloor s d)
  (z.1 - x, setTok d c (k.tok - x) (s.die d).pool s)

/-- A core that had a POWER freeze takes tokens from the pool. -/
def grantTok (d : Nat) (s : State) (c : Nat) : State :=
  let k := s.core c
  if k.epochFz then
    let x := min (s.fld (dpOff d) 8 8) (s.die d).pool
    setTok d c (k.tok + x) ((s.die d).pool - x) s
  else s

/-- The tokens of a die, held and in the pool. -/
def dieSum (s : State) (d : Nat) : Nat :=
  (List.range 48).foldl (fun n i => n + (s.core (48 * d + i)).tok) (s.die d).pool

/-- The cores of a die in ring order from core (epoch number mod 48). -/
def ringOrder (s : State) (d : Nat) : List Nat := (List.range 48).map fun i => 48 * d + (s.gtb.toNat / 64 + i) % 48

/-- The sum of tokens follows DTOK: a larger one adds to the pool; a smaller one is taken from the pool, then from holdings
above FLOOR in ring order (R382). -/
def matchDtok (d : Nat) (s : State) : State :=
  let sum := dieSum s d
  let y := s.die d
  if sum ≤ s.dtok d then s.putDie d { y with pool := y.pool + (s.dtok d - sum) }
  else
    let x := min (sum - s.dtok d) y.pool
    ((ringOrder s d).foldl (cutTok d) (sum - x, s.putDie d { y with pool := y.pool - x })).2

/-- The boundary on one die. -/
def epochDie (s : State) (d : Nat) : State :=
  let cores := (List.range 48).map (48 * d + ·)
  let s := matchDtok d (cores.foldl (keepTok d) s)
  let s := (ringOrder s d).foldl (grantTok d) s
  cores.foldl (fun s c => s.putCore c { s.core c with epoch := 0, epochFz := false }) s

/-- EPOCH_BOUNDARY (R381, R382): the cores of each die pass tokens. -/
def execEpochBoundary (s : State) : Host.Outcome State Fault Refusal := .next ((List.range 4).foldl epochDie s)

/-! ## Temperature (R426) -/

/-- THERM.TJ of 100, 97 and 110 degrees, in units of 0.125. -/
def tjWarn : Nat := 800
def tjCool : Nat := 776
def tjTrip : Nat := 880

/-- DTOK before a die was first lowered. -/
def fullDtok (s : State) (d : Nat) : Nat := s.dtok d + (s.die d).steps.foldl (· + ·) 0

/-- One more step of 5 % of the unlowered DTOK. -/
def lowerStep (d : Nat) (s : State) : State :=
  let y := s.die d
  let x := min (s.dtok d) (s.dtok d - fullDtok s d * (100 - 5 * (y.steps.length + 1)) / 100)
  (s.setDtok d (s.dtok d - x)).putDie d { y with steps := x :: y.steps, hot := true }

/-- One step back. -/
def raiseStep (d : Nat) (s : State) : State :=
  let y := s.die d
  match y.steps with
  | [] => s
  | x :: xs => (s.setDtok d (s.dtok d + x)).putDie d { y with steps := xs }

/-- Die `d` has junction temperature `v`; THERM.TJ is that of the hottest die (R418). -/
def setTj (d v : Nat) (s : State) : State :=
  let s := s.putDie d { s.die d with tj := v }
  s.setFld oTHERM 0 16 (((List.range 4).map fun i => (s.die i).tj).foldl max 0)

/-- WARN becomes 1: vector 3, unless it is pending (R416, R426). -/
def setWarn (s : State) : State := if s.flag oTHERM 16 then s else (s.setFld oTHERM 16 1 1).msi 3

/-- A millisecond, in cycles of 1.1 GHz (R4). -/
def msCycles : Nat := 1100000

/-- The die's next step of throttling is a millisecond away. -/
def nextDue (d : Nat) (s : State) : State := s.putDie d { s.die d with due := s.cycle + msCycles }

/-- THERMAL_WARN (R426): the junction of a die reaches 100 degrees; firmware lowers its DTOK the first time, and THROTTLE_STEP
every millisecond from then on. -/
def execThermalWarn (d : Nat) (s : State) : Host.Outcome State Fault Refusal :=
  if 4 ≤ d then .next s
  else
    let t := setTj d (max tjWarn (s.die d).tj) s
    .next (if (s.die d).hot then t else nextDue d (lowerStep d (setWarn t)))

/-- THROTTLE_STEP (R426): a die still at or above 97 degrees is lowered once more, one that has cooled gets a step back, once
every millisecond. -/
def execThrottleStep (d : Nat) (s : State) : Host.Outcome State Fault Refusal :=
  let y := s.die d
  if 4 ≤ d ∨ (y.hot = false ∧ y.steps = []) ∨ s.cycle < y.due then .next s
  else
    let s := nextDue d s
    .next (if y.hot && decide (tjCool ≤ y.tj) then lowerStep d (setWarn s)
      else raiseStep d (s.putDie d { s.die d with hot := false }))

/-- THERMAL_TRIP (R426): every clock stops; all context state is lost. Memory that no clock drives keeps its contents. -/
def execThermalTrip (d : Nat) (s : State) : Host.Outcome State Fault Refusal :=
  if 4 ≤ d then .next s
  else
    let s := if s.flag oTHERM 17 then s else (s.setFld oTHERM 17 1 1).msi 3
    let s := (setTj d (max tjTrip (s.die d).tj) s).setLastErr 6
    .next ({ s with cores := [], ctxs := [], launches := [], spawns := [], gangs := [], colls := [], recs := [], reqs := [],
                    returned := [], outbox := [] }.setStage 5)

end Sys2Proof.Machine
end

