-- ==== Sys2Proof/Machine/System.lean ====
section
/-! DEFINITION. Start-up, firmware, HBM scrubbing, and writes to the registers of BAR 0 (17). -/

namespace Sys2Proof.Machine

/-- The next state of a meaning. -/
def nextOf (r : Host.Outcome State Fault Refusal) (s : State) : State :=
  match r with
  | .next t => t
  | _ => s

/-! ## Cold start (R419, R421, R425) -/

/-- What a cold start keeps: the flash image, the staging area, the host's memory, the package number and the model's own
bookkeeping. Everything else is as at reset. -/
def coldClear (s : State) : State :=
  { (State.reset.setReg oFCFG (State.reset.reg oFCFG + BitVec.ofNat 64 s.pkg)) with
    flash := s.flash, staging := s.staging, hostMem := s.hostMem, hostFeed := s.hostFeed, upsets := s.upsets, msix := s.msix, hostReply := s.hostReply, cycle := s.cycle,
    gtb := s.gtb, nextTag := s.nextTag, nextId := s.nextId, agenda := s.agenda, inputs := s.inputs, turn := s.turn, free := s.free }

/-- Registers that firmware loads: SVN, CDIS, and DTOK of each die. -/
def firmwareRegs (s : State) : State :=
  let d := Config.disabledCores s.free
  let s := s.setFld oSYSSTAT 48 16 (fwSvn s.flash)
  let s := (List.range 3).foldl (fun s i => s.setReg (oCDIS + 8 * i) (BitVec.ofNat 64 (d / 2 ^ (64 * i)))) s
  (List.range 4).foldl (fun s i => s.setDtok i (Config.packageBudget i)) s

/-- Ports that train are up. -/
def trainPorts (s : State) : State :=
  { s with ports := (List.range 128).map fun i => (i, { Port.reset with up := Config.portTrains i }) }

/-- Steps 3 to 7 of a cold start, for an accepted image: memories are zeroed and registers reset, whatever was written while
the device was in RECOVERY; the alias key is certified. -/
def coldRest (s : State) : State :=
  let s := (((coldClear s).setFld oSYSSTAT 0 4 s.stage).setStage 3)
  let s := { s with cert := aliasCert s.flash }
  let fails := Config.trainingFails s.free
  let s := s.used
  if fails then (s.setLastErr 5).setStage 5
  else ((trainPorts (firmwareRegs s)).used).setStage 4

/-- COLD_START (R419): from power-on or package reset. An image that fails leaves the device in RECOVERY (R421). -/
def execColdStart (s : State) : Host.Outcome State Fault Refusal :=
  let old := s.stage
  let s := coldClear s
  let s := (s.setFld oSYSSTAT 0 4 old).setStage 1
  let v := firmwareCheck s.flash
  if v ≠ 0 then .next ((s.setLastErr v).setStage 2) else .next (coldRest s)

/-- Bytes of the staging area (R421). -/
def stagedImage (s : State) : List Byte := Mem.bytes s.staging stagingOff 0x400000

/-- FIRMWARE_PUSH (R421): checks the staged image; ignored outside RECOVERY. -/
def execFirmwarePush (s : State) : Host.Outcome State Fault Refusal :=
  if s.stage ≠ 2 then .next s
  else
    let img := stagedImage s
    let v := firmwareCheck img
    if v ≠ 0 then .next (s.setLastErr v) else .next (coldRest { s with flash := img })

/-! ## Warm start (R419, R420) -/

/-- Registers that a warm start keeps: the fabric block, SVN, STAGE, CECNT and CDIS. -/
def keptRegs (r : Tab Word) : Tab Word := r.filter fun e => decide (0x200000 ≤ e.1) && decide (e.1 < 0x300000)

/-- Step 1: every context in a state other than FREE is killed; each enters KILLED. -/
def killAll (s : State) : State :=
  (List.range 16).foldl (fun s x =>
    if s.ctxState x = 0 ∨ s.ctxState x = 4 then s else (nextOf (execKill x (s.setCtxBusy x false)) s).setCtxState x 4) s

/-- The cores after a warm start: as at reset, but that PWRFZ counts since the cold start (R144; log entry 44). -/
def warmCores (cs : Tab Core) : Tab Core :=
  cs.map fun e => (e.1, { Core.reset with pwrfz := e.2.pwrfz })

/-- The dies after a warm start: junctions keep their temperature, and a hot die is throttled on. -/
def warmDies (ds : Tab Die) : Tab Die := ds.map fun e => (e.1, { e.2 with pool := 0, steps := [] })

/-- WARM_START (R419): ignored unless READY. HBM, the fabric, the ports and the GTB go on. -/
def execWarmStart (s : State) : Host.Outcome State Fault Refusal :=
  if s.stage ≠ 4 then .next s
  else
    let k := killAll s
    let k := (k.cores.map fun e => e.1).foldl (endResvs fun _ => true) k
    let svn := s.fld oSYSSTAT 48 16
    let ce := s.fld oECCSTAT 32 32
    let t := { k with cores := warmCores k.cores, ctxs := [], reqs := [], recs := [], returned := [], mashBad := [], spawns := [], launches := [],
                      tails := [], stopped := [], heads := [], robin := 0, gangs := [], colls := [], dies := warmDies s.dies, regs := keptRegs s.regs,
                      gone := (List.range 16).filter fun x => decide (s.ctxState x ≠ 0) || s.gone.any (· == x) }
    let t := ((t.setFld oSYSSTAT 0 4 4).setFld oSYSSTAT 48 16 svn).setFld oECCSTAT 32 32 ce
    let t := (List.range 3).foldl (fun t i => t.setReg (oCDIS + 8 * i) (s.reg (oCDIS + 8 * i))) t
    .next ((List.range 4).foldl (fun t i => t.setDtok i (Config.packageBudget i)) t)

/-! ## HBM scrubbing (R424) -/

/-- HBM_SCRUB: an error met in the line at `addr` is corrected and counted, or poisons the line. -/
def execHbmScrub (addr : Nat) (bad : Bool) (s : State) : Host.Outcome State Fault Refusal :=
  let l := addr / 64
  if hbmSize ≤ addr ∨ s.poison.any (· == l) then .next s
  else if bad then .next { s with poison := l :: s.poison }.setUE
  else .next (s.bump oECCSTAT 32 32 1)

/-! ## Register writes (R8, R415) -/

/-- Is a write to this register ignored while its BUSY bit is 1 (R81, R295, R305)? -/
def busyReg (s : State) (o : Nat) : Bool :=
  if 0x100000 ≤ o ∧ o < 0x100400 then
    (decide (o % 0x40 = 0x18) && s.flag o 1) || (decide (o % 0x40 = 0x30) && s.flag o 1)
  else if 0x300000 ≤ o ∧ o < 0x300200 then decide (o % 0x20 = 0x10) && s.flag o 1
  else false

/-- A GO of a translation block's XINV, by its KIND. -/
def goXinv (x : Nat) (s : State) : State :=
  match xinvKind s x with
  | 0 => nextOf (execXinvContext x s) s
  | 1 => nextOf (execXinvPages x s) s
  | 2 => nextOf (execXinvRanges x s) s
  | _ => nextOf (execXinvNop x s) s

/-- A GO of MGCTL, by its TBL. -/
def goMgctl (x : Nat) (s : State) : State :=
  if s.flag (oMGCTL x) 3 then nextOf (execMgctlReloadMulticast x s) s else nextOf (execMgctlReloadReduction x s) s

/-- A GO of CLCTL, by its TBL. -/
def goClctl (x : Nat) (s : State) : State :=
  if s.flag (oCLCTL x) 3 then nextOf (execClctlReloadRings x s) s else nextOf (execClctlReloadChannels x s) s

/-- A write of CMD (R391). -/
def command (x v : Nat) (s : State) : State :=
  match v with
  | 1 => nextOf (execCreate x s) s
  | 2 => nextOf (execKill x s) s
  | 3 => nextOf (execSignal x s) s
  | 4 => nextOf (execWdclr x s) s
  | 5 => nextOf (execUcload x s) s
  | 6 => nextOf (execAttest x s) s
  | _ => s

/-- What the bits of byte 0 of a register trigger, when that byte is named. -/
def trigger (o b : Nat) (s : State) : State :=
  if o = oSYSCTL then
    let s := if bitN b 1 then nextOf (execFirmwarePush s) s else s
    if bitN b 0 then nextOf (execWarmStart s) s else s
  else if 0x100000 ≤ o ∧ o < 0x100400 then
    let x := (o - 0x100000) / 0x40
    if bitN b 0 = false then s
    else if o % 0x40 = 0x18 then goXinv x s
    else if o % 0x40 = 0x30 then goMgctl x s
    else s
  else if 0x300000 ≤ o ∧ o < 0x300200 then
    if o % 0x20 = 0x10 ∧ bitN b 0 then goClctl ((o - 0x300000) / 0x20) s else s
  else if 0x600000 ≤ o ∧ o < 0x600800 then
    if o % 0x80 = 0x48 then command ((o - 0x600000) / 0x80) b s else s
  else if 0x700000 ≤ o ∧ o < 0x701000 then
    if o % 0x100 = 0 ∧ bitN b 4 then nextOf (execDebugHalt ((o - 0x700000) / 0x100) s) s else s
  else s

/-- The bytes `lo` up to `lo + bs.length` of one register are written. -/
def writeReg (o lo : Nat) (bs : List Byte) (s : State) : State :=
  if bs.isEmpty ∨ (regInfo o).isNone ∨ busyReg s o then s
  else
    let v := (regAfter s o lo bs).1
    let t := if 0x400000 ≤ o ∧ o < 0x400800 ∧ o % 0x20 = 0 then nextOf (execLqbaseWrite ((o - 0x400000) / 0x20) v s) s
      else s.setReg o v
    match lo, bs with
    | 0, b :: _ => trigger o b.toNat t
    | _, _ => t

/-- The bytes of a run from `a` that lie in `[lo, hi)`, and where they begin. -/
def clip (lo hi a : Nat) (bs : List Byte) : Nat × List Byte := (max a lo, (bs.drop (lo - a)).take (hi - max a lo))

/-- The bytes `lo` up to `lo + bs.length` of an aligned group of eight are written: of the staging area, or of a register. -/
def writeGroup (o lo : Nat) (bs : List Byte) (s : State) : State :=
  if stagingOff ≤ o ∧ o < stagingEnd then { s with staging := Mem.setBytes s.staging (o + lo) bs } else writeReg o lo bs s

/-- A write to BAR 0: each group of eight bytes that it touches is written, the lowest first (R415, R421). -/
def writeBar0 (addr : Nat) (bs : List Byte) (s : State) : State :=
  (List.range ((addr % 8 + bs.length + 7) / 8)).foldl (fun s i =>
    let o := addr / 8 * 8 + 8 * i
    let c := clip o (o + 8) addr bs
    writeGroup o (c.1 - o) c.2 s) s

/-- One byte of BAR 0 as a read gives it: of the staging area with the report in it, or of a register (R415, R421, R423). -/
def bar0Byte (s : State) (a : Nat) : Byte :=
  if stagingOff ≤ a ∧ a < stagingEnd then Mem.byte s.staging a else nth 0 (leBytes 8 (s.readReg (a / 8 * 8)).toNat) (a % 8)

/-- REGISTER_WRITE (R8, R415): 1 to 8 bytes at BAR 0 offset `addr`, by the host or the boot processor. -/
def execRegisterWrite (addr : Nat) (bytes : List Byte) (s : State) : Host.Outcome State Fault Refusal :=
  if bytes.isEmpty ∨ 8 < bytes.length then .next s else .next (writeBar0 addr bytes s)

end Sys2Proof.Machine
end

