-- ==== Sys2Proof/Machine/Host.lean ====
section
/-! DEFINITION. The host's accesses: CXL.mem to HBM and CXL.io to the windows (R65, R67, R68, R130, R414, R417, R442). -/

namespace Sys2Proof.Machine

/-- `n` bytes of free values. -/
def freeBytes (s : State) (n : Nat) : List Byte := (List.range n).map fun i => (Config.freeWord (s.free + i)).truncate 8

/-! ## CXL.mem (R67, R139, R414, R417) -/

/-- Does byte `a` of HBM lie in the image area of an existing context that is not debuggable (R414)? -/
def hiddenByte (s : State) (a : Nat) : Bool :=
  (List.range 16).any fun x =>
    let b := (s.reg (ccbOff x + 0x28)).toNat % 2 ^ 44 / 2 ^ 16 * 2 ^ 16
    ctxLives s x && !(s.ctx x).dbga && decide (b ≤ a) && decide (a < b + imgSize * (s.setCores x).length)

/-- HOST_CXL_MEM_READ: the bytes and the poison indication go to the host. -/
def execHostCxlMemRead (addr n : Nat) (s : State) : Host.Outcome State Fault Refusal :=
  if hbmSize < addr + n ∨ n = 0 then .next s
  else if s.stage < 4 then .next { s with hostReply := (freeBytes s n, true), free := s.free + n }
  else
    let bs := (List.range n).map fun i => if hiddenByte s (addr + i) then 0 else Mem.byte s.hbm (addr + i)
    let bad := s.poisoned addr n
    .next (if bad then { s with hostReply := (bs, true) }.setUE else { s with hostReply := (bs, false) })

/-- HOST_CXL_MEM_WRITE: dropped while STAGE is below READY. -/
def execHostCxlMemWrite (addr : Nat) (bytes : List Byte) (s : State) : Host.Outcome State Fault Refusal :=
  if hbmSize < addr + bytes.length ∨ s.stage < 4 then .next s else .next (hbmWrite addr bytes s)

/-! ## The supervisor region (R130) -/

/-- Words that a write to the supervisor region replaces may still be seen by a handler that is running. -/
def Stream.staleSup (y : Stream) (olds : List (Nat × W32)) : Stream := { y with stale := y.stale ++ olds }

def Seat.staleSup (x : Seat) (olds : List (Nat × W32)) : Seat := { x with prim := x.prim.staleSup olds, sec := x.sec.staleSup olds }

/-- The supervisor region of core `c` is written at `off`. -/
def writeSup (c off : Nat) (bs : List Byte) (s : State) : State :=
  let k := s.core c
  let olds := (List.range ((off + bs.length + 3) / 4 - off / 4)).map fun i =>
    (4 * (off / 4 + i), BitVec.ofNat 32 (Mem.num k.svr (4 * (off / 4 + i)) 4))
  let s := s.putCore c { k with svr := Mem.setBytes k.svr off bs, svrBad := leftBad off bs.length k.svrBad, seat := k.seat.staleSup olds }
  { s with ctxs := s.ctxs.map fun e =>
      if Tab.has e.2.saved c then (e.1, { e.2 with saved := Tab.upd Seat.reset e.2.saved c (fun y => y.staleSup olds) }) else e }

/-- HOST_SUPERVISOR_WRITE (R130). -/
def execHostSupervisorWrite (c off : Nat) (bytes : List Byte) (s : State) : Host.Outcome State Fault Refusal :=
  if 192 ≤ c ∨ 0x8000 < off + bytes.length ∨ bytes.isEmpty then .next s else .next (writeSup c off bytes s)

/-! ## Windows (R65, R120, R442) -/

/-- Does a byte of a window lie in a doubleword with an uncorrectable error (R424)? -/
def Core.ioBad (k : Core) (off : Nat) : Bool :=
  if 0x600000 ≤ off ∧ off < 0x608000 then k.svrBad.any fun w => touches w (off - 0x600000) 1
  else if k.owner.isNone then false
  else if off < 0x600000 then k.seat.isBad off 1
  else k.seat.ibad.any fun w => touches w (off - 0x600000) 1

/-- One byte of a window as CXL.io reads it: no window lookup, and unspecified where no context holds the core. -/
def ioByte (s : State) (a : Nat) : Byte :=
  let c := a / 0x800000
  let off := a % 0x800000
  let k := s.core c
  let any := (Config.freeWord (s.free + a)).truncate 8
  if 192 ≤ c ∨ 0x680000 ≤ off then 0
  else if k.ioBad off then any
  else if 0x600000 ≤ off ∧ off < 0x608000 then Mem.byte k.svr (off - 0x600000)
  else if k.owner.isNone then (Tab.find k.bare off).getD any
  else if off < 0x600000 then Mem.byte k.seat.spad off
  else Mem.byte k.seat.ispad (off - 0x600000)

/-- Bytes of a core that no context holds (R442). -/
def putRun (t : Tab Byte) (a : Nat) : List Byte → Tab Byte
  | [] => t
  | b :: bs => putRun (Tab.put t a b) (a + 1) bs

/-- A run of bytes inside one row of one window is written. -/
def ioRun (a : Nat) (bs : List Byte) (s : State) : State :=
  let c := a / 0x800000
  let off := a % 0x800000
  let k := s.core c
  if bs.isEmpty ∨ 192 ≤ c ∨ 0x680000 ≤ off then s
  else if 0x600000 ≤ off ∧ off < 0x608000 then writeSup c (off - 0x600000) bs s
  else if k.owner.isNone then s.putCore c { k with bare := putRun k.bare off bs }
  else if off < 0x600000 then s.putSeat c (k.seat.writeWords off (bs.length + 1) bs)
  else s.putSeat c (k.seat.writeCode off bs)

/-- The first boundary between rows of a window past `a`. -/
def rowEnd (a : Nat) : Nat :=
  let b := a / 0x800000 * 0x800000
  let off := a % 0x800000
  b + (if off < 0x600000 then 0x600000 else if off < 0x608000 then 0x608000 else if off < 0x680000 then 0x680000 else 0x800000)

/-- Each byte is governed by its own row (R65). -/
def ioWrite (a : Nat) (bs : List Byte) (s : State) : State :=
  let k := rowEnd a - a
  ioRun (a + k) (bs.drop k) (ioRun a (bs.take k) s)

/-! ## CXL.io and the boot processor (R65, R68, R415) -/

/-- The package-local address of a CXL.io or boot-processor access: an offset of BAR 2; from 0xF00_0000_0000 on, a register of
BAR 0; with 2^44 added, an address of the boot processor (log entry 61). -/
def ioPlace (addr : Nat) : Nat := if addr < winEnd - winBase then winBase + addr else if addr < regBase then hostBase else addr % 2 ^ 44

/-- One byte as it is read: each is governed by its own row. -/
def localByte (s : State) (a : Nat) : Byte :=
  match rowOf a with
  | none => 0
  | some .hbm => Mem.byte s.hbm a
  | some .host => 0
  | some .regs => bar0Byte s (a - regBase)
  | some _ => ioByte s (a - winBase)

/-- Does the byte lie in storage with an uncorrectable error? -/
def localBad (s : State) (a : Nat) : Bool :=
  match rowOf a with
  | none => false
  | some .hbm => s.poisoned a 1
  | some .host => false
  | some .regs => false
  | some _ => (s.core (winCore a)).ioBad (winOffset a)

/-- Bytes are written: to HBM, to the windows, to BAR 0. -/
def localWrite (a : Nat) (bs : List Byte) (s : State) : State :=
  let put := fun (f : Nat → List Byte → State → State) (lo hi : Nat) (s : State) =>
    let c := clip lo hi a bs
    if c.2.isEmpty then s else f (c.1 - lo) c.2 s
  put writeBar0 regBase (2 ^ 44) (put ioWrite winBase winEnd (put hbmWrite 0 hbmSize s))

/-- The most bytes of an access: 8 through BAR 0, 64 otherwise (R415). -/
def ioLimit (addr : Nat) : Nat := if regBase ≤ addr ∧ addr < 2 ^ 44 then 8 else 64

/-- HOST_CXL_IO_WINDOW_ACCESS (R65, R415, R442): a read, or a write of the bytes in `w`, at the place that `addr` names. -/
def execHostCxlIoWindowAccess (addr n : Nat) (w : Option (List Byte)) (s : State) : Host.Outcome State Fault Refusal :=
  let a := ioPlace addr
  match w with
  | none =>
    if n = 0 ∨ ioLimit addr < n then .next s
    else
      let ps := (List.range n).map (a + ·)
      let t := if ps.any (localBad s) then s.setUE else s
      .next { t with hostReply := (ps.map (localByte s), decide (rowOf a = some .hbm) && s.poisoned a n), free := s.free + 2 ^ 44 }
  | some bs => if bs.isEmpty ∨ ioLimit addr < bs.length then .next s else .next (localWrite a bs s)

/-! ## Errors in storage, temperatures and round trips (R302, R303, R392, R418, R424) -/

/-- An error strikes what is stored; it is met when something reads it. Errors of a cycle's reads and landings act in that
cycle. A measure is noted. -/
def strike (s : State) (u : Upset) : State :=
  let onSeat := fun (c : Nat) (f : Seat → Seat) => if (s.core c).owner.isSome then s.putSeat c (f (s.seat c)) else s
  let add := fun (w : Nat) (l : List Nat) => if l.any (· == w) then l else w :: l
  match u with
  | .corrected => s.bump oECCSTAT 32 32 1
  | .data c w => if w < spadSize then onSeat c fun y => { y with bad := add (w / 8 * 8) y.bad } else s
  | .code c w => onSeat c fun y => { y with ibad := add (w / 8 * 8) y.ibad }
  | .sup c w => if c < 192 ∧ w < 0x8000 then s.putCore c { s.core c with svrBad := add (w / 8 * 8) (s.core c).svrBad } else s
  | .mxe c => onSeat c fun y => { y with mxe := { y.mxe with ecc := true } }
  | .mash x g => { s with mashBad := if s.mashBad.any (· == (x, g)) then s.mashBad else (x, g) :: s.mashBad }
  | .packet n => { s with outbox := s.outbox.eraseIdx n }
  | .read _ _ _ => s
  | .land _ _ => s
  | .temp d v => if d < 4 then setTj d v s else s
  | .trip i n => if i < 128 then s.putPort i { s.port i with rtt := some n } else s

/-- The errors and measures of the cycle that begins. -/
def strikes (s : State) : State :=
  let us := s.upsets.headD []
  us.foldl strike { s with upsets := s.upsets.drop 1, upset := us }

end Sys2Proof.Machine
end

