-- ==== Sys2Proof/Machine/Memory.lean ====
section
/-! DEFINITION. The MA and MB slots (R211 to R222): accesses to the data scratchpad and the gather queues at issue. -/

namespace Sys2Proof.Machine

/-- R211, R212: every byte inside the scratchpad, and no owner state that deterministic mode bars. -/
def accessOk (s : State) (els : List (Nat × Nat)) (al store : Bool) (body : SlotRes) : SlotRes :=
  if els.any fun e => !inSpad e.1 e.2 then .error (tcALIGN, 0)
  else if !al && els.any fun e => detBars s e.1 e.2 store then .error (tcOWNVIOL, 0)
  else body

/-- An address that is a multiple of its alignment. -/
def aligned (a n : Nat) (body : SlotRes) : SlotRes := if a % n ≠ 0 then .error (tcALIGN, 0) else body

/-- A scalar load (R214). -/
def loadS (d b : RegF) (al : Bool) (o : BitVec 13) (n : Nat) (signed : Bool) (s : State) : Host.Outcome State Fault Refusal :=
  let x := effAddr (rdS s b) o n
  runSlot [b] (aligned x n (accessOk s [(x, n)] al false (.ok (pend (.loadS d.toNat x n signed) 1 3 al s)))) s

/-- A scalar store (R214). -/
def storeS (d b : RegF) (al : Bool) (o : BitVec 13) (n : Nat) (s : State) : Host.Outcome State Fault Refusal :=
  let x := effAddr (rdS s b) o n
  runSlot [d, b] (aligned x n (accessOk s [(x, n)] al true (.ok (pend (.store [(x, leBytes n (rdS s d).toNat)]) 2 2 al s)))) s

def execLdB (d b : RegF) (l : Bool) (o : BitVec 13) (s : State) : Host.Outcome State Fault Refusal := loadS d b l o 1 true s
def execLdH (d b : RegF) (l : Bool) (o : BitVec 13) (s : State) : Host.Outcome State Fault Refusal := loadS d b l o 2 true s
def execLdW (d b : RegF) (l : Bool) (o : BitVec 13) (s : State) : Host.Outcome State Fault Refusal := loadS d b l o 4 true s
def execLdD (d b : RegF) (l : Bool) (o : BitVec 13) (s : State) : Host.Outcome State Fault Refusal := loadS d b l o 8 false s
def execLduB (d b : RegF) (l : Bool) (o : BitVec 13) (s : State) : Host.Outcome State Fault Refusal := loadS d b l o 1 false s
def execLduH (d b : RegF) (l : Bool) (o : BitVec 13) (s : State) : Host.Outcome State Fault Refusal := loadS d b l o 2 false s
def execLduW (d b : RegF) (l : Bool) (o : BitVec 13) (s : State) : Host.Outcome State Fault Refusal := loadS d b l o 4 false s
def execStB (d b : RegF) (l : Bool) (o : BitVec 13) (s : State) : Host.Outcome State Fault Refusal := storeS d b l o 1 s
def execStH (d b : RegF) (l : Bool) (o : BitVec 13) (s : State) : Host.Outcome State Fault Refusal := storeS d b l o 2 s
def execStW (d b : RegF) (l : Bool) (o : BitVec 13) (s : State) : Host.Outcome State Fault Refusal := storeS d b l o 4 s
def execStD (d b : RegF) (l : Bool) (o : BitVec 13) (s : State) : Host.Outcome State Fault Refusal := storeS d b l o 8 s

/-! ## Vector forms -/

/-- A vector load of (lane, address) words (R215 to R217). -/
def loadV (d : RegF) (els : List (Nat × Nat)) (al : Bool) (s : State) : SlotRes :=
  accessOk s (els.map fun e => (e.2, 4)) al false (.ok (pend (.loadV d.toNat els) 1 4 al s))

/-- A vector store of the lanes at (lane, address). -/
def storeV (d : RegF) (els : List (Nat × Nat)) (al : Bool) (s : State) : SlotRes :=
  accessOk s (els.map fun e => (e.2, 4)) al true
    (.ok (pend (.store (els.map fun e => (e.2, leBytes 4 (rdV s d e.1).toNat))) 2 2 al s))

/-- R211: a vector access whose cluster set is empty performs nothing and traps nothing. -/
def unlessEmpty (s : State) (c : CSet) (body : SlotRes) : SlotRes := if clusterSet s c = 0 then .ok s else body

/-- VLD (R215). -/
def execVld (d b : RegF) (l : Bool) (c : CSet) (o : BitVec 11) (s : State) : Host.Outcome State Fault Refusal :=
  let x := effAddr (rdS s b) o 64
  runSlot [b] (unlessEmpty s c (aligned x 64 (loadV d ((setLanes s c).map fun p => (p, x + 4 * p)) l s))) s

/-- VLDB (R215). -/
def execVldb (d b : RegF) (l : Bool) (c : CSet) (o : BitVec 11) (s : State) : Host.Outcome State Fault Refusal :=
  let x := effAddr (rdS s b) o 64
  runSlot [b] (unlessEmpty s c (aligned x 64 (loadV d ((setLanes s c).map fun p => (p, x + 4 * (p % 16))) l s))) s

/-- VST (R215). -/
def execVst (d b : RegF) (l : Bool) (c : CSet) (o : BitVec 11) (s : State) : Host.Outcome State Fault Refusal :=
  let x := effAddr (rdS s b) o 64
  runSlot [d, b] (unlessEmpty s c (aligned x 64 (storeV d ((setLanes s c).map fun p => (p, x + 4 * p)) l s))) s

/-- The words of a column access (R217), or ALIGN. -/
def column (s : State) (x : Nat) (c : CSet) (body : List (Nat × Nat) → SlotRes) : SlotRes :=
  if spadSize ≤ x ∨ 256 ≤ x % 4096 ∨ x % 32 ≠ 0 then .error (tcALIGN, 0)
  else if ((s.seat s.cur.core).tile (x / 4096)).skew = false then .error (tcALIGN, 0)
  else body ((setLanes s c).map fun p => (p, 4096 * (x / 4096) + 256 * (p % 16) + x % 4096 + 4 * (p / 16)))

/-- VLDT (R217). -/
def execVldt (d b : RegF) (l : Bool) (c : CSet) (o : BitVec 11) (s : State) : Host.Outcome State Fault Refusal :=
  runSlot [b] (unlessEmpty s c (column s (effAddr (rdS s b) o 64) c fun els => loadV d els l s)) s

/-- VSTT (R217). -/
def execVstt (d b : RegF) (l : Bool) (c : CSet) (o : BitVec 11) (s : State) : Host.Outcome State Fault Refusal :=
  runSlot [d, b] (unlessEmpty s c (column s (effAddr (rdS s b) o 64) c fun els => storeV d els l s)) s

/-- The words of a strided access (R216), or ALIGN. -/
def strided (s : State) (a b : RegF) (k : F3) (c : CSet) (body : List (Nat × Nat) → SlotRes) : SlotRes :=
  let els := (writtenLanes s k c).map fun p => (p, (rdS s a + BitVec.ofNat 64 p * rdS s b).toNat)
  if els.any fun e => decide (e.2 % 4 ≠ 0) then .error (tcALIGN, 0) else body els

/-- VLDS (R216). -/
def execVlds (d a b : RegF) (k : F3) (c : CSet) (l : Bool) (s : State) : Host.Outcome State Fault Refusal :=
  runSlot [a, b] (strided s a b k c fun els => if els.isEmpty then .ok s else loadV d els l s) s

/-- VSTS (R216). -/
def execVsts (d a b : RegF) (k : F3) (c : CSet) (l : Bool) (s : State) : Host.Outcome State Fault Refusal :=
  runSlot [d, a, b] (strided s a b k c fun els => if els.isEmpty then .ok s else storeV d els l s) s

/-- The blocks of VLDK and VSTK (R218): (cluster, code address, header address), or ALIGN. -/
def kblocks (s : State) (a b : RegF) (k : Nat) (c : CSet) (body : List (Nat × Nat × Nat) → SlotRes) : SlotRes :=
  let xa := (rdS s a).toNat
  let xb := (rdS s b).toNat
  if xa % 2 ≠ 0 ∨ xb % 2 ≠ 0 then .error (tcALIGN, 0)
  else body ((clustersOf (clusterSet s c)).map fun i => (i, xa + kbfCodeBytes k * i, xb + 2 * i))

def loadK (d a b : RegF) (c : CSet) (l : Bool) (k : Nat) (s : State) : Host.Outcome State Fault Refusal :=
  runSlot [a, b] (unlessEmpty s c (kblocks s a b k c fun els =>
    accessOk s (els.flatMap fun e => [(e.2.1, kbfCodeBytes k), (e.2.2, 2)]) l false (.ok (pend (.loadK d.toNat k els) 1 4 l s)))) s

def storeK (d a b : RegF) (c : CSet) (l : Bool) (k : Nat) (s : State) : Host.Outcome State Fault Refusal :=
  runSlot [d, a, b] (unlessEmpty s c (kblocks s a b k c fun els =>
    let codes := fun i => packCodes k ((List.range 16).map fun j => (rdV s d (16 * i + j)).toNat)
    let ws := els.flatMap fun e =>
      [(e.2.1, leBytes (kbfCodeBytes k) (codes e.1)), (e.2.2, leBytes 2 ((rdV s d (16 * e.1)).toNat / 2 ^ 8))]
    accessOk s (ws.map fun e => (e.1, e.2.length)) l true (.ok (pend (.store ws) 2 2 l s)))) s

def execVldkKbf7 (d a b : RegF) (c : CSet) (l : Bool) (s : State) : Host.Outcome State Fault Refusal := loadK d a b c l 7 s
def execVldkKbf4 (d a b : RegF) (c : CSet) (l : Bool) (s : State) : Host.Outcome State Fault Refusal := loadK d a b c l 4 s
def execVldkKbf2 (d a b : RegF) (c : CSet) (l : Bool) (s : State) : Host.Outcome State Fault Refusal := loadK d a b c l 2 s
def execVstkKbf7 (d a b : RegF) (c : CSet) (l : Bool) (s : State) : Host.Outcome State Fault Refusal := storeK d a b c l 7 s
def execVstkKbf4 (d a b : RegF) (c : CSet) (l : Bool) (s : State) : Host.Outcome State Fault Refusal := storeK d a b c l 4 s
def execVstkKbf2 (d a b : RegF) (c : CSet) (l : Bool) (s : State) : Host.Outcome State Fault Refusal := storeK d a b c l 2 s

/-! ## Local atomics (R219) -/

def amo (op : AmoOp) (d a b : RegF) (k : F3) (l : Bool) (s : State) : Host.Outcome State Fault Refusal :=
  let x := (rdS s a).toNat
  let e := if op = .cas then rdS s d else 0
  runSlot [a, b] (guarded k s (aligned x 8 (accessOk s [(x, 8)] l true
    (.ok (pend (.amoSample d.toNat x op (rdS s b) e) 1 3 l s))))) s

def execAmoAdd (d a b : RegF) (k : F3) (l : Bool) (s : State) : Host.Outcome State Fault Refusal := amo .add d a b k l s
def execAmoMax (d a b : RegF) (k : F3) (l : Bool) (s : State) : Host.Outcome State Fault Refusal := amo .max d a b k l s
def execAmoMin (d a b : RegF) (k : F3) (l : Bool) (s : State) : Host.Outcome State Fault Refusal := amo .min d a b k l s
def execAmoSwap (d a b : RegF) (k : F3) (l : Bool) (s : State) : Host.Outcome State Fault Refusal := amo .swap d a b k l s
def execAmoCas (d a b : RegF) (k : F3) (l : Bool) (s : State) : Host.Outcome State Fault Refusal := amo .cas d a b k l s

/-! ## Gather queues (R107, R221, R222) -/

/-- QPUSH (R107, R221, R344). -/
def execQpush (d : BitVec 2) (a : RegF) (k : F3) (s : State) : Host.Outcome State Fault Refusal :=
  let c := s.cur.core
  let x := s.seat c
  let q := x.q d.toNat
  runSlot [a] (guarded k s
    (if s.cur.sec ∨ q.en = false ∨ (bitN q.gqc.toNat 9 = false ∧ q.gqc.toNat / 2 ^ 10 % 64 ≠ 0) ∨ q.gs.isSome then .error (tcQERR, 0)
     else .ok (s.putSeat c (x.putQ d.toNat { q with aq := q.aq ++ [⟨rdS s a, q.gqb, q.gqc, q.gql, originOf s⟩] })))) s

/-- A GSTART in progress on a queue ends, and its tiles return (R344). -/
def Seat.endGstart (x : Seat) (n : Nat) : Seat :=
  match (x.q n).gs with
  | some g => (x.putQ n { x.q n with gs := none }).release g.id g.tiles
  | none => x

/-- QDROP (R222): it ends a GSTART of the queue at once (R344), and discards after every queue read of the cycle. -/
def execQdrop (d : BitVec 2) (k : F3) (s : State) : Host.Outcome State Fault Refusal :=
  let c := s.cur.core
  let x := s.seat c
  let q := x.q d.toNat
  runSlot [] (guarded k s
    (if s.cur.sec ∨ q.en = false then .error (tcQERR, 0)
     else .ok (s.putSeat c { x.endGstart d.toNat with drops := x.drops ++ [(d.toNat, q.aq.length)] }))) s

/-- The QDROPs of a cycle take effect. -/
def applyDrops (c : Nat) (s : State) : State :=
  let ds := (s.seat c).drops
  ds.foldl (fun s d =>
    let x := s.seat c
    let q := x.q d.1
    dropReqs (.row c d.1 0) (s.putSeat c (x.putQ d.1 { q with dq := [], aq := q.aq.drop d.2 })))
    (if ds.isEmpty then s else s.putSeat c { s.seat c with drops := [] })

end Sys2Proof.Machine
end

