-- ==== Sys2Proof/Machine/Fetch.lean ====
section
/-! DEFINITION. Fetching a bundle (R127 to R130, R151, R152), what its slots need before it issues (R103, R107, R109, R310),
and the end of a bundle (R150, R153). -/

namespace Sys2Proof.Machine

/-! ## The instruction scratchpad (R127 to R130, R374) -/

/-- The core whose instruction scratchpad a stream fetches: the lead's for a gang's task, its own otherwise (R374). -/
def fetchCore (s : State) (c : Nat) (t : Bool) : Nat :=
  let y := s.st c t
  match y.task with
  | some k => if k.gang.isSome && !y.sys.sup then k.lead else c
  | none => c

/-- Storage of an instruction address: offset from window offset 0x60_0000, with the executing bank put in. -/
def codePlace (exb : Bool) (a : Nat) : Nat := if 0x10000 ≤ a ∧ exb then a + 0x38000 else a

/-- The end of the region of an instruction address; none where it is unassigned. -/
def regionEnd (a : Nat) : Option Nat :=
  if a < 0x8000 then some 0x8000 else if a < 0x10000 then some 0x10000 else if a < 0x48000 then some 0x48000 else none

/-- A fetch that no IFENCE has ordered after the writes of a word: each write may be seen or not, the later one stands. -/
def seen (ch : Nat → Bool) (i : Nat) (acc : W32) : List W32 → W32
  | [] => acc
  | n :: ns => seen ch (i + 1) (if ch i then n else acc) ns

/-- One instruction word as stream `t` of core `c` fetches it in this cycle. -/
def fetchWord (s : State) (c : Nat) (t : Bool) (a : Nat) : W32 :=
  let f := fetchCore s c t
  let y := s.st c t
  let o := codePlace y.sys.exb a
  let now := BitVec.ofNat 32 (if o < 0x8000 then Mem.num (s.core f).svr o 4 else Mem.num (s.seat f).ispad o 4)
  let stale := if f = c then y.stale else (s.st f false).stale
  match (stale.filter fun e => decide (e.1 = o)).map (fun e => e.2) with
  | [] => now
  | w :: ws => seen (Config.freeFetch s.cycle (2 * f + b2n t) o) 0 w (ws ++ [now])

/-- Does a fetched word hold an uncorrectable error (R392)? -/
def fetchBad (s : State) (c : Nat) (t : Bool) (a : Nat) : Bool :=
  let o := codePlace (s.st c t).sys.exb a
  let f := fetchCore s c t
  (if o < 0x8000 then (s.core f).svrBad else (s.seat f).ibad).any fun w => touches w o 4

/-- A fetched bundle: its header, its length and the words of its present slots. -/
structure Bundle where
  head  : Header
  len   : Nat
  words : List (Nat × W32)
  deriving DecidableEq, Repr

/-- The present slots of a mask, ascending. -/
def slotsOf (m : BitVec 8) : List Nat := (List.range 8).filter fun k => m.getLsbD k

/-- The bundle at the stream's address, or the trap code of its fetch (R127, R152, R392). -/
def fetch (s : State) (c : Nat) (t : Bool) : Except Nat Bundle :=
  let y := s.st c t
  let a := y.pc
  match regionEnd a with
  | none => .error tcILLB
  | some e =>
    if a < 0x8000 ∧ y.sys.sup = false then .error tcPRIV
    else if a % 4 ≠ 0 then .error tcILLB
    else if fetchBad s c t a then .error tcECC
    else
      match decodeHeader (fetchWord s c t a).toNat with
      | .error _ => .error tcILLB
      | .ok h =>
        let ks := slotsOf h.mask
        let len := 4 + 4 * ks.length
        if e < a + len then .error tcILLB
        else if (List.range ks.length).any fun i => fetchBad s c t (a + 4 + 4 * i) then .error tcECC
        else .ok ⟨h, len, ks.mapIdx fun i k => (k, fetchWord s c t (a + 4 + 4 * i))⟩

/-- The slots that a stream would issue: present and not in its done mask (R385). -/
def Bundle.rest (b : Bundle) (done : BitVec 8) : List (Nat × W32) := b.words.filter fun e => !done.getLsbD e.1

/-- The mask of the slots that the stream would issue; 0 where its fetch traps. -/
def issueMask (s : State) (c : Nat) (t : Bool) : BitVec 8 :=
  match fetch s c t with
  | .ok b => b.head.mask &&& ~~~ (s.st c t).done
  | .error _ => 0

/-- The instruction of a slot's word, or the trap code of R178. -/
def slotInstr (k : Nat) (w : W32) : Except Nat Instr :=
  match decodeSlot (slotClass k) w.toNat with
  | .ok i => .ok i
  | .error .slot => .error tcSLOT
  | .error _ => .error tcILLI

/-- Does the stream begin a tick in the cycle under way? -/
def Ph.ticks (p : Ph) : Bool :=
  match p with
  | .idle => true
  | .test => true
  | .issue => true
  | .drain => true
  | _ => false

/-! ## What a slot needs (R103, R107, R109, R263, R310, R337) -/

/-- The fields of an instruction that may name a queue (R170, R171). -/
def queueFields (i : Instr) : List RegF :=
  match i with
  | .jmp a _ => [a]
  | .callr _ a _ => [a]
  | .ret a _ => [a]
  | .setf _ a _ => [a]
  | .loop _ a _ => [a]
  | .waita a b _ _ _ => [a, b]
  | .waito a _ => [a]
  | .sysw a _ => [a]
  | .add _ a b _ => [a, b]
  | .sub _ a b _ => [a, b]
  | .mul _ a b _ => [a, b]
  | .mulh _ a b _ => [a, b]
  | .mulhu _ a b _ => [a, b]
  | .divs _ a b _ => [a, b]
  | .divu _ a b _ => [a, b]
  | .rems _ a b _ => [a, b]
  | .remu _ a b _ => [a, b]
  | .and _ a b _ => [a, b]
  | .or _ a b _ => [a, b]
  | .xor _ a b _ => [a, b]
  | .andn _ a b _ => [a, b]
  | .shl _ a b _ => [a, b]
  | .shr _ a b _ => [a, b]
  | .sar _ a b _ => [a, b]
  | .min _ a b _ => [a, b]
  | .max _ a b _ => [a, b]
  | .minu _ a b _ => [a, b]
  | .maxu _ a b _ => [a, b]
  | .clz _ a _ => [a]
  | .ctz _ a _ => [a]
  | .popc _ a _ => [a]
  | .sel _ a b _ => [a, b]
  | .addi _ a _ => [a]
  | .andi _ a _ => [a]
  | .ori _ a _ => [a]
  | .xori _ a _ => [a]
  | .shli _ a _ => [a]
  | .shri _ a _ => [a]
  | .sari _ a _ => [a]
  | .ext _ a _ _ => [a]
  | .ins _ a _ _ => [a]
  | .cmp _ a b _ _ => [a, b]
  | .cmpi _ a _ _ => [a]
  | .ldB _ s _ _ => [s]
  | .ldH _ s _ _ => [s]
  | .ldW _ s _ _ => [s]
  | .ldD _ s _ _ => [s]
  | .lduB _ s _ _ => [s]
  | .lduH _ s _ _ => [s]
  | .lduW _ s _ _ => [s]
  | .stB d s _ _ => [d, s]
  | .stH d s _ _ => [d, s]
  | .stW d s _ _ => [d, s]
  | .stD d s _ _ => [d, s]
  | .vld _ s _ _ _ => [s]
  | .vldb _ s _ _ _ => [s]
  | .vldt _ s _ _ _ => [s]
  | .vst d s _ _ _ => [d, s]
  | .vstt d s _ _ _ => [d, s]
  | .vlds _ a b _ _ _ => [a, b]
  | .vsts d a b _ _ _ => [d, a, b]
  | .amoAdd _ a b _ _ => [a, b]
  | .amoMax _ a b _ _ => [a, b]
  | .amoMin _ a b _ _ => [a, b]
  | .amoSwap _ a b _ _ => [a, b]
  | .amoCas _ a b _ _ => [a, b]
  | .qpush _ a _ => [a]
  | .vldkKbf7 _ a b _ _ => [a, b]
  | .vldkKbf4 _ a b _ _ => [a, b]
  | .vldkKbf2 _ a b _ _ => [a, b]
  | .vstkKbf7 d a b _ _ => [d, a, b]
  | .vstkKbf4 d a b _ _ => [d, a, b]
  | .vstkKbf2 d a b _ _ => [d, a, b]
  | .vaddI32 _ a b _ _ => [a, b]
  | .vsubI32 _ a b _ _ => [a, b]
  | .vmulI32 _ a b _ _ => [a, b]
  | .vmulh _ a b _ _ => [a, b]
  | .vand _ a b _ _ => [a, b]
  | .vor _ a b _ _ => [a, b]
  | .vxor _ a b _ _ => [a, b]
  | .vabsI32 _ a _ _ => [a]
  | .vshl _ a b _ _ => [a, b]
  | .vshr _ a b _ _ => [a, b]
  | .vsar _ a b _ _ => [a, b]
  | .vminI32 _ a b _ _ => [a, b]
  | .vmaxI32 _ a b _ _ => [a, b]
  | .vminU32 _ a b _ _ => [a, b]
  | .vmaxU32 _ a b _ _ => [a, b]
  | .vaddF32 _ a b _ _ => [a, b]
  | .vsubF32 _ a b _ _ => [a, b]
  | .vmulF32 _ a b _ _ => [a, b]
  | .vfmaF32 _ a b _ _ => [a, b]
  | .vminF32 _ a b _ _ => [a, b]
  | .vmaxF32 _ a b _ _ => [a, b]
  | .vdot2Bf16 _ a b _ _ => [a, b]
  | .vabsF32 _ a _ _ => [a]
  | .vnegF32 _ a _ _ => [a]
  | .vcpysF32 _ a b _ _ => [a, b]
  | .vaccrd _ a _ _ => [a]
  | .vcmpF32 _ a b _ _ _ => [a, b]
  | .vcmpI32 _ a b _ _ _ => [a, b]
  | .vmov _ a _ _ => [a]
  | .vsel _ a b _ _ => [a, b]
  | .vbcast _ a _ _ => [a]
  | .vextr _ a b _ _ => [a, b]
  | .vins _ a b _ _ => [a, b]
  | .vperm _ a b _ _ => [a, b]
  | .vxcl _ a _ _ _ => [a]
  | .vredaddF32 _ a _ _ => [a]
  | .vredaddI32 _ a _ _ => [a]
  | .vredmaxF32 _ a _ _ => [a]
  | .vredmaxI32 _ a _ _ => [a]
  | .vredminF32 _ a _ _ => [a]
  | .vredminI32 _ a _ _ => [a]
  | .vcvt _ a _ _ _ _ => [a]
  | .vcvtF32Fx128Lo _ a _ _ _ => [a]
  | .vcvtF32Fx128Hi _ a _ _ _ => [a]
  | .vrcp _ a _ _ => [a]
  | .vrcpr _ a b _ _ => [a, b]
  | .vrsq _ a _ _ => [a]
  | .vrsqr _ a b _ _ => [a, b]
  | .vsqrt _ a _ _ => [a]
  | .vexp2 _ a _ _ => [a]
  | .vlog2 _ a _ _ => [a]
  | .vsin _ a _ _ => [a]
  | .vcos _ a _ _ => [a]
  | .vdrop _ a b _ _ => [a, b]
  | .vtopk _ a b _ _ => [a, b]
  | .vmergek _ a b _ _ => [a, b]
  | .mpset a _ => [a]
  | .cpy a b _ => [a, b]
  | .cpyc a b _ => [a, b]
  | .gset a _ => [a]
  | .gstart a b _ => [a, b]
  | .tarm a b _ => [a, b]
  | .fsend a b _ => [a, b]
  | .fmcast a b _ => [a, b]
  | .fred a b _ _ _ => [a, b]
  | .ratom a b _ _ _ => [a, b]
  | .csend a b _ => [a, b]
  | .crecv a b _ => [a, b]
  | .chw a _ => [a]
  | .ccollAllred a b _ => [a, b]
  | .ccollRedscat a b _ => [a, b]
  | .ccollAllgath a b _ => [a, b]
  | .ccollBcast a b _ => [a, b]
  | .ccollReduce a b _ => [a, b]
  | .ccollPxch a b _ => [a, b]
  | .spawn a => [a]
  | .kilnw a => [a]
  | .kilnr a => [a]
  | .digest a b _ => [a, b]
  | _ => []

/-- Does the command take one of the core's 512 places (R336)? -/
def takesPlace (i : Instr) : Bool :=
  match i with
  | .cpy _ _ _ => true
  | .cpyc _ _ _ => true
  | .fsend _ _ _ => true
  | .fmcast _ _ _ => true
  | .fred _ _ _ _ _ => true
  | .ratom _ _ _ _ _ => true
  | .kilnw _ => true
  | .digest _ _ _ => true
  | .efence _ _ => true
  | _ => false

/-- Is it a collective command (R310)? -/
def takesColl (i : Instr) : Bool :=
  match i with
  | .csend _ _ _ => true
  | .crecv _ _ _ => true
  | .ccollAllred _ _ _ => true
  | .ccollRedscat _ _ _ => true
  | .ccollAllgath _ _ _ => true
  | .ccollBcast _ _ _ => true
  | .ccollReduce _ _ _ => true
  | .ccollPxch _ _ _ => true
  | _ => false

/-- The core's registers as this tick's landings leave them: only the queue registers matter here. -/
def duePreview (tick : Bool) (y : Stream) (x : Seat) : Seat :=
  let put := fun (x : Seat) (e : Landing) => match e.dest with | .sys n v => sysWriteSeat n v x | _ => x
  (if tick then y.landing.filter fun e => decide (e.rem = 1) else []).foldl put (y.lastLand.foldl put x)

/-- A predicate as this tick's landings leave it. -/
def predPreview (y : Stream) (k : F3) : Bool :=
  y.landing.foldl (fun b e =>
    match e.dest with
    | .p d v => if e.rem = 1 ∧ y.ph.ticks ∧ d = k.toNat ∧ d ≠ 0 then v else b
    | _ => b) (y.regs.getP k.toNat)

/-- What the slots counted so far need of a core: entries of each data queue and places of each address queue. -/
structure SlotNeed where
  pops   : List Nat
  pushes : List Nat
  /-- some slot lacks an entry, or a place -/
  empty  : Bool
  full   : Bool
  /-- the lowest slot that reads a queue, and the lowest that needs a place -/
  reader : Option Nat
  placer : Option Nat
  coll   : Bool
  deriving DecidableEq, Repr

def SlotNeed.none : SlotNeed := ⟨[0, 0, 0, 0], [0, 0, 0, 0], false, false, .none, .none, false⟩

/-- The slots of a bundle in order; a slot that traps on its word or on a dead queue ends the count. A QPUSH that would trap
needs no place (log entry 74). `colls` counts the
package's collective commands. -/
def countNeed (x : Seat) (y : Stream) (sec : Bool) (colls : Nat) : List (Nat × W32) → SlotNeed → SlotNeed
  | [], n => n
  | (k, w) :: ws, n =>
    match slotInstr k w with
    | .error _ => n
    | .ok i =>
      let fs := queueFields i
      let qs := (List.range 4).filter fun q => fs.any fun f => decide (qOf f = some q)
      if qs.any fun q => !(x.q q).en then n
      else
        let lack := qs.any fun q => decide ((x.q q).dq.length ≤ nth 0 n.pops q)
        let pops := (List.range 4).map fun q =>
          nth 0 n.pops q + b2n (fs.any fun f => isPop f && decide (f.toNat % 4 = q))
        let push : Option Nat := match i with
          | .qpush d _ g =>
            let w := (x.q d.toNat).gqc.toNat
            if !sec && predPreview y g && (x.q d.toNat).en && (x.q d.toNat).gs.isNone && (bitN w 9 || decide (w / 2 ^ 10 % 64 = 0)) then some d.toNat else none
          | _ => none
        let noRoom :=
          (takesPlace i && decide (512 ≤ (x.cmds.filter Cmd.place).length))
            || (takesColl i && decide (1024 ≤ colls))
            || (match i with | .mcall _ => decide (16 ≤ x.mxe.queue.length) | _ => false)
            || (match push with | some q => decide (32 ≤ (x.q q).aq.length + nth 0 n.pushes q) | none => false)
        let places := takesPlace i || takesColl i || push.isSome || (match i with | .mcall _ => true | _ => false)
        countNeed x y sec colls ws
          { pops := pops
            pushes := match push with | some q => setAt n.pushes q (nth 0 n.pushes q + 1) | none => n.pushes
            empty := n.empty || lack
            full := n.full || noRoom
            reader := if n.reader.isNone && !qs.isEmpty then some k else n.reader
            placer := if n.placer.isNone && places then some k else n.placer
            coll := n.coll || takesColl i }

/-! ## The end of a bundle (R150, R153, R189, R190, R193, R195) -/

/-- The slots of a bundle that hold VRAND or VRANDF, whatever guards them (R54, R247). -/
def drawersOf (ws : List (Nat × W32)) : List Nat :=
  ws.filterMap fun e =>
    match slotInstr e.1 e.2 with
    | .ok (.vrand _ _ _) => some e.1
    | .ok (.vrandf _ _ _) => some e.1
    | _ => none

/-- Every slot has issued: the stream stands before the next bundle, its idle ticks or its wait. A handler's bundles leave the
task's single step as it is (R413). -/
def Stream.finish (y : Stream) (p : Part) (len idle draws : Nat) (mask : BitVec 8) (step : Bool) : Stream :=
  let next := match p.goto with | some g => g.1 | none => (y.pc + len) % 2 ^ 19
  let more := match p.goto with | some g => g.2.1 | none => 0
  let swap := match p.goto with | some g => g.2.2 | none => false
  { y with
    pc := next
    done := 0
    part := .none
    sameTick := false
    idle := more + idle + p.extra
    wait := p.wait.map fun w => { w with mask := mask.toNat, next := next }
    ending := y.ending || p.tend
    stepDue := step || (y.sys.sup && y.stepDue)
    sys := { y.sys with exb := if swap then !y.sys.exb else y.sys.exb, drawc := if y.drawSet then y.sys.drawc else y.sys.drawc + BitVec.ofNat 32 draws } }

/-- R413: does a bundle of the stream make DBG pending? -/
def stepping (s : State) (c : Nat) (t : Bool) : Bool :=
  let x := s.ctxOf c
  (s.ctx x).dbga && s.flag (dbgOff x) 5 && !(s.st c t).sys.sup

/-- The task's next bundle, if its done mask covers every present slot (R385). -/
def doneBundle (s : State) (c : Nat) (t : Bool) : Option Bundle :=
  let y := s.st c t
  if y.done = 0 then none
  else
    match fetch s c t with
    | .error _ => none
    | .ok b => if b.head.mask &&& ~~~ y.done = 0 then some b else none

/-- A bundle whose done mask covers every present slot is complete (R385). -/
def skipDone (c : Nat) (t : Bool) (s : State) : State :=
  let y := s.st c t
  match doneBundle s c t with
  | some b =>
    s.putSt c t { y.finish y.part b.len b.head.idle.toNat (drawersOf b.words).length b.head.mask false with stepDue := y.stepDue }
  | none => s

end Sys2Proof.Machine
end

