-- ==== Sys2Proof/Machine/Stream.lean ====
section
/-! DEFINITION. The steps of a stream: landings (R145 to R147), pending accesses (R132, R220), waits (R191 to R194), traps taken
at a boundary (R386), returns (R389), the end of a task (R195), and gangs (R349, R374 to R377). -/

namespace Sys2Proof.Machine

def State.ticking (s : State) (c : Nat) (t : Bool) : Bool := (s.core c).frozen.isNone && (s.st c t).ph.ticks

/-! ## Landings (R145 to R147) -/

/-- The replay bank of a Kiln record, and its keys (R355, R402). -/
def loadBank (ws : List Word) (y : Stream) : Stream :=
  let bs := ws.flatMap fun w => leBytes 8 w.toNat
  let at_ := fun i n => leNat ((bs.drop i).take n)
  { y with
    bank := ws
    bankTs := (List.range 16).map fun i => BitVec.ofNat 32 (at_ (4 * i) 4)
    bankPairs := (List.range (min (at_ 72 1) 8)).map fun i => let w := at_ (80 + 4 * i) 4; (w % 64, w / 2 ^ 16)
    sys := { y.sys with ktens := BitVec.ofNat 32 (at_ 64 4), kstep := BitVec.ofNat 32 (at_ 68 4), replay := true } }

/-- The stream without its replay bank (R355). -/
def dropBank (y : Stream) : Stream := { y with bank := [], bankTs := [], bankPairs := [], sys := { y.sys with replay := false } }

/-- A change of a stream's KSTEP empties the key-use log (R60). -/
def stepLog (c : Nat) (old new : W32) (s : State) : State :=
  if old = new then s else s.putCtx (s.ctxOf c) { s.ctx (s.ctxOf c) with keylog := [] }

/-- One result lands. -/
def landOne (c : Nat) (t : Bool) (s : State) (e : Landing) : State :=
  let y := s.st c t
  let regs := fun (r : Regs) => s.putSt c t { y with regs := r }
  match e.dest with
  | .flags => s
  | .s d v => regs (y.regs.setS d v)
  | .p d v => regs (y.regs.setP d v)
  | .v d ls => regs (y.regs.setLanes d ls)
  | .k d bs => regs (y.regs.setK d (maskBits (y.regs.getK d) bs))
  | .xf d v => regs { y.regs with xf := Tab.set 0 y.regs.xf d v }
  | .sys n v => sysLand c t n v s
  | .mp d v => let x := s.seat c; s.putSeat c { x with mxe := { x.mxe with mp := Tab.set 0 x.mxe.mp d v } }
  | .gset g ws => regs { y.regs with g := Tab.setRun 0 y.regs.g (24 * g) ws }
  | .chan ch ws => putChan (s.ctxOf c) ch ws s
  | .kiln none => s.putSt c t (dropBank y)
  | .kiln (some ws) => let z := loadBank ws y; stepLog c y.sys.kstep z.sys.kstep (s.putSt c t z)

/-! ### Errors met in a stream (R392) -/

/-- A result whose value is free. -/
def Dest.blur (f : Nat) : Dest → Dest
  | .flags => .flags
  | .s d _ => .s d (Config.freeWord f)
  | .p d _ => .p d (Config.freeBool f)
  | .v d ls => .v d (ls.map fun e => (e.1, (Config.freeWord (f + e.1)).truncate 32))
  | .k d bs => .k d (bs.map fun e => (e.1, Config.freeBool (f + e.1)))
  | .xf d _ => .xf d (Config.freeWord f)
  | .sys n _ => .sys n (Config.freeWord f)
  | .mp d _ => .mp d (Config.freeWord f)
  | .gset g ws => .gset g (ws.mapIdx fun i _ => Config.freeWord (f + i))
  | .chan c ws => .chan c (ws.mapIdx fun i _ => Config.freeWord (f + i))
  | .kiln none => .kiln none
  | .kiln (some ws) => .kiln (some (ws.mapIdx fun i _ => Config.freeWord (f + i)))

/-- Do the entries of the stream's landing buffer that land in this cycle hold an error? -/
def landsBad (s : State) (c : Nat) (t : Bool) : Bool := s.upset.any fun u => decide (u = .land c t)

/-- Entries as they land: free values where they hold an error. -/
def landsAs (s : State) (c : Nat) (t : Bool) (es : List Landing) : List Landing :=
  if landsBad s c t then es.mapIdx fun i e => { e with dest := e.dest.blur (s.free + 128 * i) } else es

/-- ECC is pending for the operations of entries that hold an error. -/
def landsEcc (c : Nat) (t : Bool) (es : List Landing) (s : State) : State :=
  if landsBad s c t then es.foldl (fun s e => eccAt c t e.src s) { s with free := s.free + 128 * es.length } else s

/-- Results that are due land in issue order; their flags join afterwards (R42, R147). -/
def landAll (c : Nat) (t : Bool) (es : List Landing) (s : State) : State :=
  let s := (landsAs s c t es).foldl (landOne c t) (landsEcc c t es s)
  let y := s.st c t
  s.putSt c t { y with sys := { y.sys with fflags := es.foldl (fun f e => joinFlags f e.flags) y.sys.fflags } }

/-- An entry of a channel takes effect at the end of its cycle (R351): it is not among the results of the tick's start. -/
def Landing.late (e : Landing) : Bool := match e.dest with | .chan _ _ => true | _ => false

/-- Results whose tick this is. -/
def Stream.due (y : Stream) : List Landing := y.landing.filter fun e => decide (e.rem = 0) && !e.late

/-- A tick begins: remaining ticks decrease; a task's tick counts (R144). -/
def Stream.tick (y : Stream) : Stream :=
  { y with
    landing := y.landing.map fun e => { e with rem := e.rem - 1 }
    acc := y.acc.map fun a => { a with rem := a.rem - 1 }
    idle := if y.ph = .idle then y.idle - 1 else y.idle
    drawSet := false
    sys := { y.sys with ticks := if y.sys.sup then y.sys.ticks else y.sys.ticks + 1 } }

/-- The shared results of a handler that has returned land in the stream's place among those of the cycle (R262, R389). -/
def landLast (c : Nat) (t : Bool) (s : State) : State :=
  let y := s.st c t
  if y.lastLand.isEmpty then s else landAll c t y.lastLand (s.putSt c t { y with lastLand := [] })

/-- RESULT_LANDING (R145 to R147): a tick of the stream begins, and the results due at its start land. -/
def execResultLanding (c : Nat) (t : Bool) (s : State) : Host.Outcome State Fault Refusal :=
  if (s.core c).frozen.isSome then .next s
  else
    let s := landLast c t s
    if s.ticking c t = false then .next s
    else
      let y := (s.st c t).tick
      .next (landAll c t y.due (s.putSt c t { y with landing := y.landing.filter fun e => decide (e.rem ≠ 0) || e.late }))

/-! ## Pending accesses (R132, R219, R220, R349, R392) -/

/-- The access leaves the pending ones: it performs in this cycle (R213). -/
def dropAcc (c : Nat) (t : Bool) (a : Access) (s : State) : State :=
  let x := s.seat c
  let y := x.st t
  s.putSeat c { x.putSt t { y with acc := y.acc.filter fun b => decide (b.seq ≠ a.seq) } with
                just := x.just ++ (x.elemsOf a.op).map fun e => (a.cyc, e.1, e.2) }

/-- A loaded value enters the landing buffer, in the issue order of its access. -/
def loaded (c : Nat) (t : Bool) (a : Access) (d : Dest) (s : State) : State :=
  s.putSt c t ((s.st c t).pushLanding ⟨a.seq, a.lat - 1, 0, d, (a.bundle, a.slot)⟩)

/-- The value of a scalar load (R214). -/
def loadVal (n : Nat) (signed : Bool) (bs : List Byte) : Word :=
  if signed then BitVec.ofInt 64 (sextN (8 * n) (leNat bs)) else BitVec.ofNat 64 (leNat bs)

/-- The lanes of a block load (R218): code and header halfword. -/
def loadBlock (x : Seat) (t : Bool) (k : Nat) (e : Nat × Nat × Nat) : List (Nat × W32) :=
  let codes := unpackCodes k 16 (leNat (x.sample t e.2.1 (kbfCodeBytes k)))
  let h := leNat (x.sample t e.2.2 2)
  codes.mapIdx fun l v => (16 * e.1 + l, BitVec.ofNat 32 (v + 2 ^ 8 * h))

/-- The record checks of R402. -/
def kilnOk (ws : List Word) : Bool :=
  let bs := ws.flatMap fun w => leBytes 8 w.toNat
  let at_ := fun i n => leNat ((bs.drop i).take n)
  let np := at_ 72 1
  decide (at_ 112 4 = 0x4E4C494B) && decide (at_ 116 4 = 1) && decide (np ≤ 8) && decide (at_ 73 7 = 0)
    && (List.range 8).all (fun i => let w := at_ (80 + 4 * i) 4; if i < np then bitN w 15 else decide (w = 0))
    && decide (at_ 120 132 = 0) && decide (crc32c (bs.take 252) = at_ 252 4)

/-- The units of a gang message as its source gives them: bits unchanged, SFMT being DFMT (R349). -/
def msgUnits (x : Seat) (k : Cmd) : List UnitOut :=
  match geoOf k.set with
  | some g =>
    (List.range (g.units g.dfmt)).map fun i =>
      g.unit (fun a n => x.sample false a.toNat n) (k.a.toNat % 2 ^ 23 : Nat) (k.b.toNat : Nat) 0 i
  | none => []

/-- The destination bytes of units, by scratchpad offset of the receiver. -/
def msgData (pages : List (Int × Nat)) (us : List UnitOut) : List (Nat × Byte) :=
  us.flatMap fun u => u.writes.flatMap fun w => w.2.mapIdx fun i b =>
    let a := w.1 + (i : Int)
    (((pages.find? fun p => decide (p.1 = a / 4096)).map fun p => p.2).getD 0 + (a % 4096).toNat, b)

/-- A gang message samples its source: its bytes, and the CRC over them (R98). -/
def sampleMsg (c id : Nat) (s : State) : State :=
  let x := s.seat c
  match x.cmds.find? fun k => decide (k.id = id) with
  | none => s
  | some k =>
    let us := msgUnits x k
    s.putSeat c { x with
      msgs := x.msgs.map fun m => if m.id = id then { m with data := msgData m.pages us, sampled := true } else m
      cmds := x.cmds.map fun j => if j.id = id then { j with crc := us.foldl (fun z u => u.crc.foldl crcByte z) j.crc } else j }

/-- A sample or load performs (R132, R219). -/
def performSample (c : Nat) (t : Bool) (a : Access) (s : State) : State :=
  let s := dropAcc c t a s
  let x := s.seat c
  let bad := (x.elemsOf a.op).any fun e => x.isBad e.1 e.2
  let s := if bad then eccMet c t a s else s
  let any := fun n => (List.range n).map fun i => Config.freeWord (s.free + i)
  let used := fun n (s : State) => if bad then { s with free := s.free + n } else s
  match a.op with
  | .loadS d at_ n sg => used 1 (loaded c t a (.s d (if bad then Config.freeWord s.free else loadVal n sg (x.sample t at_ n))) s)
  | .loadV d els =>
    let ls := els.map fun e => (e.1, if bad then BitVec.ofNat 32 (Config.freeWord (s.free + e.1)).toNat
                                     else BitVec.ofNat 32 (leNat (x.sample t e.2 4)))
    used 128 (loaded c t a (.v d ls) s)
  | .loadK d k els =>
    let ls := els.flatMap (loadBlock x t k)
    let ls := if bad then ls.map fun e => (e.1, BitVec.ofNat 32 (Config.freeWord (s.free + e.1)).toNat) else ls
    used 128 (loaded c t a (.v d ls) s)
  | .loadG g at_ => used 24 (loaded c t a (.gset g (if bad then any 24 else sampleWords x t at_ 24)) s)
  | .loadCh ch at_ => used 8 (loaded c t a (.chan ch (if bad then any 8 else sampleWords x t at_ 8)) s)
  | .loadKiln at_ =>
    let ws := if bad then any 32 else sampleWords x t at_ 32
    let s := used 32 s
    if kilnOk ws then loaded c t a (.kiln (some ws)) s
    else
      let y := s.st c t
      s.putSt c t { y with pend := { y.pend with routine := y.pend.routine ++ [⟨tcILLI, a.bundle, 7, 0, none⟩] } }
  | .msgSample id => sampleMsg c id s
  | .amoSample d at_ op v e =>
    let w := if bad then Config.freeWord s.free else x.dword at_
    let s := used 1 s
    let x := s.seat c
    let y := x.st t
    let y := { y with acc := insAcc { a with rem := 1, op := .amoWrite d at_ op v e w } y.acc }
    if x.resv.any fun r => decide (r.addr = at_) then
      s.putSeat c ((x.putSt t y).defer at_ (.sample t a))
    else
      s.putSeat c { x.putSt t (amoResult a d w (a.lat - 1) y) with resv := x.resv ++ [⟨at_, t, a.seq, w, []⟩] }
  | _ => s

/-- Is the AMO's sample still to be made (R220)? -/
def sampleWaits (x : Seat) (t : Bool) (a : Access) : Bool :=
  x.resv.any fun r => r.late.any fun d => match d with | .sample w b => decide (w = t) && decide (b.seq = a.seq) | _ => false

/-- An AMO whose write tick has come waits with its sample; it stays pending (R195, R220). -/
def keepLate (x : Seat) (t : Bool) (a : Access) (d at_ : Nat) (op : AmoOp) (v e : Word) : Seat :=
  let y := x.st t
  x.putSt t { y with acc := y.acc.map fun b => if b.seq = a.seq then { b with rem := 0, op := .amoLate d at_ op v e } else b }

/-- An AMO that holds no reservation at its write tick samples and writes in one step, once no other AMO reserves its word
(R220). -/
def amoAtWrite (c : Nat) (t : Bool) (a : Access) (d at_ : Nat) (op : AmoOp) (v e : Word) (s : State) : State :=
  let x := s.seat c
  if sampleWaits x t a then s.putSeat c (keepLate x t a d at_ op v e)
  else if x.resv.any fun r => decide (r.addr = at_) then
    s.putSeat c ((keepLate x t a d at_ op v e).defer at_ (.sample t { a with op := .amoSample d at_ op v e }))
  else
    let s := dropAcc c t a s
    s.putSeat c ((s.seat c).amoWhole t a d at_ op v e)

/-- A store or an AMO's write performs (R132, R219, R220). -/
def performWrite (c : Nat) (t : Bool) (a : Access) (s : State) : State :=
  let x := s.seat c
  match a.op with
  | .store els =>
    let s := dropAcc c t a s
    s.putSeat c (els.foldl (fun x e => x.write (some t) a.cyc e.1 e.2) (s.seat c))
  | .amoWrite d at_ op v e _ =>
    match x.resv.find? fun r => decide (r.sec = t) && decide (r.seq = a.seq) with
    | some r =>
      let s := dropAcc c t a s
      let x := s.seat c
      releaseLate c r.late (s.putSeat c ({ x with resv := x.resv.filter fun q => decide (q.addr ≠ r.addr) }.amoPut at_ op r.old v e))
    | none => amoAtWrite c t a d at_ op v e s
  | .amoLate d at_ op v e => amoAtWrite c t a d at_ op v e s
  | _ => s

/-! ### The test of a wait (R191 to R193) -/

def wcond (k : WCond) (w v : Word) : Bool :=
  match k with
  | .eq => decide (w = v)
  | .ne => decide (w ≠ v)
  | .geu => decide (v.toNat ≤ w.toNat)
  | .ltu => decide (w.toNat < v.toNat)

/-- The outcome of a test: none where the tile's state is wrong. -/
def testWait (s : State) (c : Nat) (t : Bool) (w : Wait) : Option Bool :=
  let x := s.seat c
  if w.isA then
    match (x.tile (tileOf w.addr)).st with
    | .core => some (wcond w.cond (BitVec.ofNat 64 (leNat (x.sample t w.addr 8))) w.val)
    | .mbx => some (wcond w.cond (BitVec.ofNat 64 (leNat (x.sample t w.addr 8))) w.val)
    | _ => none
  else
    match (x.tile w.addr).st with
    | .mbx => none
    | .core => some (!(x.takes.any fun k => decide (k.tile = w.addr)))
    | _ => some false

/-- The test at the stream's sample position; a wrong tile ends the wait with OWNVIOL at this boundary (R125, R192), and the
cycle is the last one asleep (R409). -/
def sampleWait (c : Nat) (t : Bool) (s : State) : State :=
  let y := s.st c t
  if (s.core c).frozen.isSome ∨ (y.ph ≠ .test ∧ y.ph ≠ .sleep) then s
  else
    match y.wait with
    | none => s
    | some w =>
      -- a bad doubleword gives a free outcome, and ECC is pending (R392)
      let bad := w.isA && (s.seat c).isBad w.addr 8
      match testWait s c t w with
      | some b =>
        let z := s.putSt c t { y with wait := some { w with ok := if bad then Config.freeBool s.free else b } }
        if bad && !(y.pend.ecc.any fun e => decide (e.bundle = w.bundle)) then (eccAt c t (w.bundle, 0) z).used
        else if bad then z.used else z
      | none =>
        let s := if y.ph = .sleep then lose (s.ctxOf c) c t (if w.isA then 5 else 6, w.bundle, 0) s else s
        let y := s.st c t
        let p := { y.pend with waitto := false, routine := y.pend.routine ++ [⟨tcOWNVIOL, w.bundle, 0, 0, none⟩] }
        s.putSt c t { y with wait := none, pend := p }

/-- Accesses of a stream whose tick this is. -/
def dueAcc (s : State) (c : Nat) (t : Bool) (write : Bool) : List Access :=
  (s.st c t).acc.filter fun a => decide (a.rem = 0) && decide (a.op.isWrite = write)

/-- The last stores of a handler that has returned perform before the task's (R389). -/
def performLast (c : Nat) (t : Bool) (s : State) : State :=
  let y := s.st c t
  if y.lastAcc.isEmpty then s else y.lastAcc.foldl (fun s a => performWrite c t a s) (s.putSt c t { y with lastAcc := [] })

/-- One stream's accesses of the cycle: writes, samples, and the test of its wait. -/
def performStream (c : Nat) (t : Bool) (s : State) : State :=
  let s := performLast c t s
  let s := (dueAcc s c t true).foldl (fun s a => performWrite c t a s) s
  let s := (dueAcc s c t false).foldl (fun s a => performSample c t a s) s
  sampleWait c t s

/-- PENDING_ACCESS_PERFORM (R132): the accesses of core `c` due in this cycle, the primary's first. -/
def execPendingAccessPerform (c : Nat) (s : State) : Host.Outcome State Fault Refusal :=
  if (s.core c).frozen.isSome then .next s else .next (performStream c true (performStream c false s))

/-! ## Sleeping (R193, R194, R377) -/

/-- A sleep that ends: the satisfying cycle is its last lost one, and its record is made (R193, R409). -/
def wake (c : Nat) (s : State) (t : Bool) : State :=
  let y := s.st c t
  let x := s.ctxOf c
  let s := match y.wait with
    | some w => if y.ph = Ph.sleep then endDev x c t (lose x c t (if w.isA then 5 else 6, w.bundle, 0) s) else s
    | none => s
  let y := s.st c t
  s.putSt c t { y with wait := none, pend := { y.pend with waitto := false } }

/-- The gang that a stream's task runs in, outside a handler. -/
def gangTask (y : Stream) : Option (Nat × Task) :=
  match y.task with
  | some k => if y.sys.sup then none else k.gang.map fun g => (g, k)
  | none => none

/-- The sleep of a gang ends for all members in one cycle (R377). While a member's wait is abandoned the others sleep on: the spec
does not say what becomes of them (the model's choice, log entry 91). -/
def wakeGang (g : Nat) (s : State) : State :=
  let ms := gangMembers s g
  let all := ms.all fun m => match m.2.wait with | some w => w.tested && w.ok && (s.core m.1).frozen.isNone | none => false
  if all then
    let b := match ms.head? with | some m => m.2.sys.ticks | none => 0
    let s := ms.foldl (fun s m => wake m.1 s false) s
    { s with gangs := s.gangs.map fun e => if e.1 = g then (e.1, { e.2 with origin := s.cycle + 1 - b }) else e }
  else s

/-- SLEEP_END (R193, R377): what the test of this cycle decides: the wait is over, or the stream sleeps (on). -/
def execSleepEnd (c : Nat) (t : Bool) (s : State) : Host.Outcome State Fault Refusal :=
  let y := s.st c t
  match y.wait with
  | none => .next s
  | some w =>
    if (s.core c).frozen.isSome ∨ (y.ph ≠ .test ∧ y.ph ≠ .sleep) then .next s
    else
      let z := { y with wait := some { w with tested := true }, pend := { y.pend with waitto := false } }
      let asleep := s.putSt c t z
      match gangTask y with
      | some (g, _) => .next (wakeGang g (if y.ph = .test then asleep else s))
      | none => if w.ok then .next (wake c s t) else .next (if y.ph = .test then asleep else s)

/-- One more cycle of a sleep counts against the wait limit, frozen or not (R158, R194). -/
def countSleep (c : Nat) (t : Bool) (s : State) : State :=
  let y := s.st c t
  match y.wait with
  | some w => if y.ph = .sleep then s.putSt c t { y with wait := some { w with count := w.count + 1 } } else s
  | none => s

/-- WAIT_LIMIT_EXPIRY (R194): the count exceeds the context's limit. -/
def execWaitLimitExpiry (c : Nat) (t : Bool) (s : State) : Host.Outcome State Fault Refusal :=
  let y := s.st c t
  let lim := s.fld (ccbOff (s.ctxOf c) + 0x40) 0 48
  match y.wait with
  | some w => if w.tested ∧ lim ≠ 0 ∧ lim < w.count then .next (s.putSt c t { y with pend := { y.pend with waitto := true } }) else .next s
  | none => .next s

/-! ## Traps at a boundary (R383, R386, R412, R413) -/

/-- R412: the lowest slot by which the next bundle matches a breakpoint. -/
def breakpoint (s : State) (c : Nat) (t : Bool) : Option Nat :=
  let y := s.st c t
  let x := s.ctxOf c
  let m := match fetch s c t with | .ok b => b.head.mask | .error _ => 0
  let low := fun (v : BitVec 8) => ((slotsOf v).head?).getD 0
  let hit := fun (i : Nat) =>
    let r := (s.reg (dbgOff x + 0x28 + 8 * i)).toNat
    let slots := BitVec.ofNat 8 (r / 2 ^ 24)
    let bank := r / 2 ^ 20 % 4
    let bankOk := match bank with
      | 0 => true
      | 1 => decide (0x10000 ≤ y.pc) && !y.sys.exb
      | 2 => decide (0x10000 ≤ y.pc) && y.sys.exb
      | _ => false
    if bitN r 0 && decide (r / 4 % 2 ^ 17 = y.pc / 4) && bankOk then
      (if slots = 0 then some (low m) else if slots &&& m ≠ 0 then some (low (slots &&& m)) else none)
    else none
  if (s.ctx x).dbga = false ∨ y.bpSkip ∨ y.wait.isSome ∨ y.done ≠ 0 then none else (List.range 4).findSome? hit

/-- The trap registers of a condition taken where the stream stands: the bundle at which the task resumes and its done mask;
`op` is the named bundle and slot. -/
def asyncInfo (y : Stream) (code : Nat) (op : Option (Nat × Nat)) (arg : Nat) (tfr : List Word) : TrapInfo :=
  let tpc := match y.wait with | some w => w.bundle | none => y.pc
  let dn := match y.wait with | some w => BitVec.ofNat 8 w.mask | none => y.done
  let o := op.getD (tpc, 0)
  { code := code, slot := o.2, asy := true, done := dn, arg := arg, tpc := tpc, top := o.1, tfr := tfr }

def noTfr : List Word := [0, 0, 0, 0]

/-- The first pending condition in the order of R386, and the stream without it. -/
def pendingTrap (s : State) (c : Nat) (t : Bool) : Option (TrapInfo × Stream) :=
  let y := s.st c t
  let p := y.pend
  let clear := fun (q : Pending) => { y with pend := q }
  match p.ecc with
  | a :: as => some (asyncInfo y a.code (some (a.bundle, a.slot)) a.arg noTfr, clear { p with ecc := as })
  | [] =>
  match p.faults with
  | f :: fs =>
    some (asyncInfo y (if f.cause = cGENMISS then tcGENMISS else tcASYNC) (some (f.bundle, f.slot)) 0 f.words, clear { p with faults := fs })
  | [] =>
  if p.lost then some (asyncInfo y tcXLAT none y.trap.flost noTfr, clear { p with lost := false })
  else
  match p.keywarns with
  | f :: fs => some (asyncInfo y tcKEYWARN (some (f.bundle, f.slot)) 0 noTfr, clear { p with keywarns := fs })
  | [] =>
  match p.routine with
  | a :: as => some (asyncInfo y a.code (some (a.bundle, a.slot)) a.arg noTfr, clear { p with routine := as })
  | [] =>
  if p.waitto ∧ y.wait.isSome then
    some (asyncInfo y tcWAITTO (y.wait.map fun w => (w.bundle, 0)) 0 noTfr, clear { p with waitto := false })
  else
  let bp := breakpoint s c t
  if p.dbg ∨ y.stepDue ∨ bp.isSome then
    some (asyncInfo y tcDBG (bp.map fun k => (y.pc, k)) 0 noTfr, { clear { p with dbg := false } with stepDue := false })
  else if p.hsig then some (asyncInfo y tcHSIG none 0 noTfr, clear { p with hsig := false })
  else if p.quant then some (asyncInfo y tcQUANT none 0 noTfr, clear { p with quant := false })
  else none

/-- The first pending condition is taken where the stream stands. -/
def takePending (c : Nat) (t : Bool) (s : State) : State :=
  match pendingTrap s c t with
  | none => s
  | some (i, y) => takeTrap c t i y.sameTick (s.putSt c t y)

/-- May the stream take a trap now: at a boundary of its task, outside a handler, its core not frozen (R159, R386)? A stream
that has stopped for a quantum end takes it after the switch-in. -/
def trapDue (s : State) (c : Nat) (t : Bool) : Bool :=
  let y := s.st c t
  y.task.isSome && !y.sys.sup && !y.ending && y.atBoundary && (s.core c).frozen.isNone && !(s.core c).halted
    && (!(s.ctx (s.ctxOf c)).leaving || y.pend.quant)

/-- TRAP_ENTRY (R386, R387). -/
def execTrapEntry (c : Nat) (t : Bool) (s : State) : Host.Outcome State Fault Refusal :=
  if trapDue s c t then .next (takePending c t s) else .next s

/-! ## The return from a handler (R385, R389) -/

/-- Does a SYSW to TRET land in the tick that begins? -/
def tretDue (y : Stream) : Bool :=
  y.landing.any fun e => match e.dest with | .sys n _ => decide (n = 0x108) && decide (e.rem ≤ 1) | _ => false

/-- Is the access a store that performs in the tick that begins? -/
def Access.lastStore (a : Access) : Bool := decide (a.rem ≤ 1) && (match a.op with | .store _ => true | _ => false)

/-- The return takes effect: after this tick's landings and stores nothing of the handler is pending. -/
def tretReady (y : Stream) : Bool :=
  y.sys.sup && y.acc.all Access.lastStore && (y.landing.all fun e => decide (e.rem ≤ 1) && !e.late) && (y.ret.isSome || tretDue y)

/-- Does the result land in a register that both streams share? -/
def Landing.shared (e : Landing) : Bool :=
  match e.dest with
  | .mp _ _ => true
  | .sys n _ => decide (0x40 ≤ n) && decide (n < 0x50)
  | _ => false

/-- The handler's last landings; its last stores, and results in registers that the streams share, come in their place in the
cycle. -/
def lastLandings (c : Nat) (t : Bool) (s : State) : State :=
  let y := s.st c t
  landAll c t (y.landing.filter fun e => !e.shared)
    (s.putSt c t { y with landing := [], acc := [], lastAcc := y.acc, lastLand := y.landing.filter Landing.shared })

/-- Does the task's next bundle match no breakpoint (R412)? It is the first after a DBG handler, or it is run again. -/
def Stream.skipsBp (y : Stream) : Bool :=
  decide (y.trap.code = tcDBG) || y.bpSkip || (match y.held with | some h => h.sameTick && decide (y.trap.tpc = h.tpc) | none => false)

/-- Had slots of the bundle issued that the task stopped in and goes back to? -/
def Stream.stoppedIn (y : Stream) : Bool :=
  (match y.held with | some h => h.sameTick && decide (y.trap.tpc = h.tpc) | none => false) && decide (y.trap.done ≠ 0)

/-- The task is back: a deviation run of the handler ends (R409), a bundle with every slot done is complete, and a pending
condition is taken before any tick, KEYWARN too: before the remaining slots of a bundle that stopped partway (R386; the model's
choice, log entry 86). The DBG of a single step comes after the bundle's idle ticks (R413). -/
def returnNow (c : Nat) (t : Bool) (s : State) : State :=
  let s := endDev (s.ctxOf c) c t s
  let y := s.st c t
  let r := y.ret.getD (false, 0)
  let s := s.putSt c t { y.leave r.1 r.2 with bpSkip := y.skipsBp, quiet := y.sys.ticks + 1 }
  if r.1 then s
  else
    let steps := y.stoppedIn && (doneBundle s c t).isSome && stepping s c t
    let s := takePending c t (skipDone c t s)
    if steps then s.putSt c t { s.st c t with stepDue := true } else s

/-- TRET's END as it lands. -/
def tretEnds (c : Nat) (t : Bool) (s : State) : Bool := ((lastLandings c t s).st c t).ret.getD (false, 0) |>.1

/-- TRET_RESUME (R385, R389). -/
def execTretResume (c : Nat) (t : Bool) (s : State) : Host.Outcome State Fault Refusal :=
  if tretReady (s.st c t) = false ∨ tretEnds c t s then .next s else .next (returnNow c t (lastLandings c t s))

/-- TRET_END (R389): the task issues nothing more and runs out (R195). -/
def execTretEnd (c : Nat) (t : Bool) (s : State) : Host.Outcome State Fault Refusal :=
  if tretReady (s.st c t) = false ∨ tretEnds c t s = false then .next s else .next (returnNow c t (lastLandings c t s))

/-! ## The end of a task (R195) -/

/-- Records that the task did not take go to the fault ring (R85, R368). -/
def ringAll (x : Nat) (l : Option Nat) (rs : List FRec) (s : State) : State :=
  rs.foldl (fun s r => countRec { noOrigin with launch := l } r.cause (toRing x r s)) s

/-- Has the stream issued its TEND and run its idle ticks? -/
def Stream.runsOut (y : Stream) : Bool := y.ending && !y.sameTick && y.wait.isNone && decide (y.idle = 0)

/-- Is nothing of the task pending? In a gang the members' common end must be reached too (R195, R377). -/
def Stream.endsNow (y : Stream) (ends : Option Nat) : Bool :=
  y.landing.isEmpty && y.acc.isEmpty && (match ends with | some e => decide (e ≤ y.sys.ticks) | none => false)

/-- The ticks until an access has performed and its result has landed. -/
def Access.left (a : Access) : Nat :=
  match a.op with
  | .store _ => a.rem
  | .msgSample _ => a.rem
  | .amoWrite _ _ _ _ _ _ => a.rem + 1
  | .amoLate _ _ _ _ _ => 2
  | _ => a.rem + (a.lat - 1)

/-- The stream ticks until nothing of the task is pending. -/
def Stream.left (y : Stream) : Nat := (y.landing.map Landing.rem ++ y.acc.map Access.left).foldl max y.idle

/-- Does what the member still has pending last as long as any member's will? Every member issues the same bundles (R374), and in
the last ones each of its own slots has posted what it may post. -/
def Stream.full (y : Stream) : Bool :=
  (decide (y.quiet = 0) || decide (y.quiet + 64 < y.sys.ticks)) && !y.acc.any fun a => a.op.isLate

/-- The gang's members end at one stream tick, the first at which nothing is pending in any of them, each in its own cycle (R195,
R377). Where one member's pending results cannot tell that tick, it is known once every member has issued its TEND (the model's
choice, log entry 87). -/
def gangEnd (s : State) (e : Nat × Gang) : Nat × Gang :=
  let ms := gangMembers s e.1
  let last := fun (ms : List (Nat × Stream)) => (ms.map fun m => m.2.sys.ticks + m.2.left).foldl max 0
  if e.2.ends.isSome ∨ ms.isEmpty then e
  else
    match ms.find? fun m => m.2.ending && !m.2.sys.sup && m.2.full with
    | some m => (e.1, { e.2 with ends := some (last [m]) })
    | none => if ms.all fun m => m.2.ending && !m.2.sys.sup then (e.1, { e.2 with ends := some (last ms) }) else e

/-- TASK_END (R195): nothing of the task is pending in its stream any longer. -/
def execTaskEnd (c : Nat) (t : Bool) (s : State) : Host.Outcome State Fault Refusal :=
  let y := s.st c t
  match y.task with
  | none => .next s
  | some k =>
    let common := match k.gang with | some g => y.endsNow (Tab.get ⟨[], 0, 0, none⟩ s.gangs g).ends | none => true
    if y.ending = false ∨ y.sys.sup ∨ y.idle ≠ 0 ∨ y.landing ≠ [] ∨ y.acc ≠ [] ∨ (s.core c).frozen.isSome ∨ common = false then .next s
    else
      let x := s.ctxOf c
      let p := y.pend
      let s := endDev x c t s
      let s := s.putSt c t { s.st c t with task := none, ending := false, pend := .none, stepDue := false, bpSkip := false }
      let s := ringAll x (some k.launch) (p.faults ++ p.keywarns ++ (p.ecc ++ p.routine).filterMap Async.frec) s
      .next (dropGangs { s with launches := s.launches.map fun l => if l.id = k.launch then { l with running := l.running - 1 } else l })

/-! ## Gangs (R188, R349, R375, R376) -/

/-- Is the next bundle of a stream a join, its C slot still to issue (R376)? -/
def atJoin (s : State) (c : Nat) : Bool :=
  match fetch s c false with
  | .error _ => false
  | .ok b =>
    match (b.rest (s.st c false).done).head? with
    | some (0, w) => match slotInstr 0 w with | .ok i => isJoin i | .error _ => false
    | _ => false

/-- Where a member goes on after its join (R188). -/
def joinTarget (s : State) (c : Nat) : Nat :=
  match fetch s c false with
  | .error _ => 0
  | .ok b =>
    let s := { s with cur := { s.cur with core := c, sec := false, pc := (s.st c false).pc, len := b.len } }
    match (b.rest (s.st c false).done).head? with
    | some (_, w) => match slotInstr 0 w with | .ok i => goesTo s i (linkAddr s) | .error _ => 0
    | none => 0

/-- GANGDIV at a member's join: no slot of the bundle commits (R188). -/
def diverge (s : State) (c : Nat) : State :=
  let y := s.st c false
  let s := takeTrap c false ⟨tcGANGDIV, 0, false, 0, 0, y.pc, y.pc, noTfr⟩ true s
  s.putSt c false { s.st c false with ph := .rest }

/-- GANG_JOIN (R188, R376): every member of the gang issues its join in this cycle: they go on at one address, and the origin
moves so that member k's next tick begins k times SKEW cycles after member 0's; or all of them diverge. -/
def execGangJoin (g : Nat) (s : State) : Host.Outcome State Fault Refusal :=
  let ms := gangMembers s g
  let ready := fun (m : Nat × Stream) => (s.core m.1).frozen.isNone && (decide (m.2.ph = .issue) || decide (m.2.ph = .reissue)) && atJoin s m.1
  match ms with
  | [] => .next s
  | m :: rest =>
    if (m :: rest).all ready = false then .next s
    else if rest.all fun r => decide (joinTarget s r.1 = joinTarget s m.1) then
      .next { s with gangs := s.gangs.map fun e => if e.1 = g then (e.1, { e.2 with origin := s.cycle - (m.2.sys.ticks - 1) }) else e }
    else .next ((m :: rest).foldl (fun s r => diverge s r.1) s)

/-- Messages for member `c` whose landing tick has come, with the cores that sent them. -/
def dueMsgs (s : State) (c : Nat) : List GMsg :=
  s.cores.flatMap fun e => e.2.seat.msgs.filter fun m => decide (m.dst = c) && m.sampled && decide (m.tick + 1 ≤ (s.st c false).sys.ticks)

/-- One message lands: every byte, or none where a tile is neither CORE nor MBX (R349). -/
def landMsg (c : Nat) (s : State) (m : GMsg) : State :=
  let x := s.seat c
  let ok := m.data.all fun d => match (x.tile (tileOf d.1)).st with | .core => true | .mbx => true | _ => false
  let s := if ok then s.putSeat c (m.data.foldl (fun x d => x.write (some false) s.cycle d.1 [d.2]) x) else s
  let z := s.seat m.src
  s.putSeat m.src { z with
    msgs := z.msgs.filter fun n => decide (n.id ≠ m.id)
    cmds := z.cmds.map fun k =>
      if k.id = m.id then { (if ok then k else k.meet (stOWNER, 0)) with
        next := match geoOf k.set with | some g => g.units g.dfmt | none => 0 } else k }

/-- GANG_MESSAGE_LANDING (R349): messages land at the receiving member's tick, before its own writes. -/
def execGangMessageLanding (c : Nat) (s : State) : Host.Outcome State Fault Refusal :=
  if s.ticking c false = false then .next s else .next ((dueMsgs s c).foldl (landMsg c) s)

end Sys2Proof.Machine
end

