-- ==== Sys2Proof/Machine/Plan.lean ====
section
/-! DEFINITION. What each stream does in a cycle (R155, R375), collisions (R156), and freezes (R157, R380). -/

namespace Sys2Proof.Machine

/-! ## What a stream would do -/

/-- A user-mode stream without regard to gangs and quanta. -/
def userPh (y : Stream) : Ph :=
  if y.sameTick then .reissue
  else
    match y.wait with
    | some w => if w.tested then .sleep else if y.idle ≠ 0 then .idle else .test
    | none =>
      if y.idle ≠ 0 then .idle
      else if y.ending then (if y.landing.isEmpty && y.acc.isEmpty then .rest else .drain)
      else .issue

/-- A stream in a handler: once its return is under way it issues nothing more (R389). -/
def handlerPh (y : Stream) : Ph :=
  if y.ret.isSome || tretDue y then .drain
  else
    match y.wait with
    | some w => if w.tested then .sleep else if y.idle ≠ 0 then .idle else .test
    | none => if y.idle ≠ 0 then .idle else .issue

/-- Is the gang held: a handler of a member runs, or a member completes a stopped bundle (R375, R385)? -/
def gangHeld (s : State) (g : Nat) : Bool := (gangMembers s g).any fun m => m.2.sys.sup || m.2.sameTick

/-- A member of a gang: held with it, waiting for its own cycle or for the cycle of a join (R375 to R377). -/
def memberPh (s : State) (c : Nat) (y : Stream) (g : Nat) (k : Task) : Ph :=
  let e := Tab.get ⟨[], 0, 0, none⟩ s.gangs g
  let b := e.origin + y.sys.ticks
  let empty := y.landing.isEmpty && y.acc.isEmpty
  let p := if y.runsOut then (if y.endsNow e.ends ∨ (empty ∧ e.ends.isNone) then .rest else .drain) else userPh y
  if gangHeld s g then
    (if y.sameTick && !((gangMembers s g).any fun m => m.2.sys.sup) then .reissue else .held)
  else if p = .sleep then .sleep
  else if s.cycle < b + k.gidx * e.skew then .rest
  else if p = .issue ∧ atJoin s c ∧ s.cycle < b + k.gsize * e.skew then .rest
  else p

/-- What stream `t` of core `c` does in this cycle unless its core freezes. A stream that has entered a handler in this cycle,
at a return, fetches in the next one (R387). A core that stopped frozen does nothing more (R398). -/
def wants (s : State) (c : Nat) (t : Bool) : Ph :=
  let y := s.st c t
  if y.entered ∨ (s.core c).halted then .rest
  else if y.sys.sup then handlerPh y
  else
    match y.task with
    | none => .rest
    | some k =>
      let x := s.ctxOf c
      if (s.ctx x).leaving && stopped s x c t then .rest
      else
        match k.gang with
        | none => userPh y
        | some g => memberPh s c y g k

def Ph.issues (p : Ph) : Bool :=
  match p with
  | .issue => true
  | .reissue => true
  | _ => false

/-! ## Collisions (R155, R156) -/

/-- The secondary has a bundle ready that shares a slot with the primary's. -/
def collides (s : State) (c : Nat) : Bool :=
  (s.st c false).ph.issues && (s.st c true).ph.issues && decide (issueMask s c false &&& issueMask s c true ≠ 0)

/-- What the stream does once collisions are known: a secondary that collides has no tick (R156). -/
def phNow (s : State) (c : Nat) (t : Bool) : Ph := if t && collides s c then .rest else (s.st c t).ph

/-- Does the stream issue a bundle in this cycle, its core not frozen? -/
def issuesNow (s : State) (c : Nat) (t : Bool) : Bool := (s.st c t).ph.issues && !(t && collides s c)

/-- COLLISION_CYCLE (R156): no tick of the secondary; SCOLL counts it. -/
def execCollisionCycle (c : Nat) (s : State) : Host.Outcome State Fault Refusal :=
  if (s.core c).frozen.isSome ∨ collides s c = false then .next s
  else
    let y := s.st c true
    .next (s.putSt c true { y with ph := .rest, sys := { y.sys with scoll := y.sys.scoll + 1 } })

/-! ## Freezes (R157) -/

/-- Streams with an al = 1 access due in this cycle to a tile that blocks it (R120, R122). -/
def ownerNamed (s : State) (c : Nat) (ph : Bool → Ph) : List (Bool × Nat × Nat) :=
  let x := s.seat c
  let blocked := fun (a : Access) =>
    decide (a.rem ≤ 1) && a.al && a.op.elems.any fun e => (tilesOf e.1 e.2).any fun i => freezesIn a.op.isStore (x.ownerFor i a.cyc)
  [false, true].filterMap fun t =>
    ((x.st t).lastAcc ++ if (ph t).ticks then (x.st t).acc else []).find? blocked |>.map fun a => (t, a.bundle, a.slot)

/-- What the bundles that would issue need, the primary's first (R109 item 3). -/
def needOf (s : State) (c : Nat) (colls : Nat) : List (Bool × SlotNeed) :=
  let x := s.seat c
  let x := duePreview (phNow s c true).ticks x.sec (duePreview (phNow s c false).ticks x.prim x)
  let one := fun (t : Bool) (pops : List Nat) (pushes : List Nat) =>
    if issuesNow s c t then
      match fetch s c t with
      | .ok b => countNeed x (s.st c t) t colls (b.rest (s.st c t).done) { SlotNeed.none with pops := pops, pushes := pushes }
      | .error _ => { SlotNeed.none with pops := pops, pushes := pushes }
    else { SlotNeed.none with pops := pops, pushes := pushes }
  let p := one false [0, 0, 0, 0] [0, 0, 0, 0]
  [(false, p), (true, one true p.pops p.pushes)]

/-- A freeze of core `c` for a cause of its own but POWER: the lowest code counts (R409). ALIAS does not arise: a write that an
engine or a packet has had accepted has performed (R122; log entry 6). Also whether a collective command issues. -/
def ownFreeze (s : State) (c : Nat) (colls : Nat) : Option Freeze × Bool :=
  let own := ownerNamed s c (phNow s c)
  let ns := needOf s c colls
  let named := fun (f : SlotNeed → Bool) (k : SlotNeed → Option Nat) =>
    ns.filterMap fun n => if f n.2 then some (n.1, (s.st c n.1).pc, (k n.2).getD 0) else none
  if !own.isEmpty then (some ⟨2, own⟩, false)
  else if ns.any fun n => n.2.empty then (some ⟨3, named SlotNeed.empty SlotNeed.reader⟩, false)
  else if ns.any fun n => n.2.full then (some ⟨4, named SlotNeed.full SlotNeed.placer⟩, false)
  else (none, ns.any fun n => n.2.coll)

/-- Freezes of all cores with a context, in ascending order: a collective command takes its place in that order (R310). -/
def ownFreezes (s : State) : List Nat → Nat → List (Nat × Freeze)
  | [], _ => []
  | c :: cs, n =>
    let r := ownFreeze s c n
    match r.1 with
    | some f => (c, f) :: ownFreezes s cs n
    | none => ownFreezes s cs (if r.2 then n + 1 else n)

/-- Would a member of the gang begin or have passed the landing tick of a message that is not sampled, nor is sampled in this
cycle (R349 item 4)? -/
def msgLate (s : State) (g : Nat) : Bool :=
  (gangMembers s g).any fun m =>
    (s.seat m.1).msgs.any fun e =>
      let y := s.st e.dst false
      let now := m.2.ph.ticks && m.2.acc.any fun a => decide (a.op = .msgSample e.id) && decide (a.rem ≤ 1)
      !e.sampled && !now && y.ph.ticks && decide (e.tick ≤ y.sys.ticks)

/-- Cores of the other members freeze with cause GANG (R375); the whole gang does for a late message (R349). -/
def gangFreezes (s : State) (fs : List (Nat × Freeze)) : List (Nat × Freeze) :=
  fs ++ ((s.gangs.flatMap fun g =>
    let ms := (gangMembers s g.1).map fun m => m.1
    if msgLate s g.1 || ms.any fun c => fs.any fun f => decide (f.1 = c) then ms.filter fun c => !(fs.any fun f => decide (f.1 = c)) else []).eraseDups.map
    fun c => (c, ⟨8, []⟩))

/-- Does the MXE of the core dispatch a microword in this cycle (R266, R270)? It does once the last pass or LDS has started all
its cycles (log entry 27). -/
def microNow (s : State) (c : Nat) : Option Instr :=
  let y := s.seat c
  if (s.ctx (s.ctxOf c)).leaving ∨ y.mxe.left ≠ 0 then none
  else match y.mxe.running with | some _ => microAt y.mxe c y.mxe.upc | none => none

/-- The units of the array cycle or LDS cycle that it starts (R379). -/
def microCharge (s : State) (c : Nat) : Nat := if (s.seat c).mxe.left = 0 then 0 else (s.seat c).mxe.units

/-- What the cycle would charge (R379, R380). -/
def wouldCharge (s : State) (c : Nat) : Nat :=
  let one := fun t => if issuesNow s c t then maskWeight (issueMask s c t) else 0
  one false + one true + microCharge s c

/-- The cores with a context. -/
def heldCores (s : State) : List Nat := s.cores.filterMap fun e => if e.2.owner.isSome then some e.1 else none

/-- The freezes of the cycle: each core's own, GANG, then POWER in cores not otherwise frozen, and GANG once more. -/
def freezes (s : State) : List (Nat × Freeze) :=
  let cs := heldCores s
  let a := gangFreezes s (ownFreezes s cs s.colls.length)
  let free := cs.filter fun c => !(a.any fun f => decide (f.1 = c))
  gangFreezes s (a ++ (free.filter fun c => (s.core c).overdraws (wouldCharge s c)).map fun c => (c, ⟨7, []⟩))

def freezeOf (s : State) (c : Nat) : Option Freeze := ((freezes s).find? fun f => decide (f.1 = c)).map fun f => f.2

/-- POWER_FREEZE (R157, R380): the window limit stops the core for this cycle. -/
def execPowerFreeze (c : Nat) (s : State) : Host.Outcome State Fault Refusal :=
  match freezeOf s c with
  | some f =>
    if f.cause = 7 then
      let k := s.core c
      .next (s.putCore c { k with frozen := some f, pwrfz := k.pwrfz + 1, epochFz := true })
    else .next s
  | none => .next s

/-- The run of a stream that no longer loses its cycles for the run's cause ends; a member that its gang still holds goes on
losing them for GANG (R409). -/
def endRun (x c : Nat) (s : State) (t : Bool) : State :=
  match lossOf s c t, (s.st c t).dev with
  | some l, some d => if l.1 = d.cause then s else endDev x c t s
  | _, _ => endDev x c t s

/-- FREEZE_END (R157, R409): no cause holds any longer; the runs of both streams end with the last lost cycle. -/
def execFreezeEnd (c : Nat) (s : State) : Host.Outcome State Fault Refusal :=
  match (s.core c).frozen, freezeOf s c with
  | some _, none =>
    let s := s.putCore c { s.core c with frozen := none }
    match (s.core c).owner with
    | some x => .next (endRun x c (endRun x c s false) true)
    | none => .next s
  | _, _ => .next s

end Sys2Proof.Machine
end

