-- ==== Sys2Proof/Machine/Scalar.lean ====
section
/-! DEFINITION. The SA and SB slots (R200 to R210). -/

namespace Sys2Proof.Machine

/-- A guarded register operation (R201): the result lands after `lat` ticks. -/
def alu (d a b : RegF) (k : F3) (lat : Nat) (f : Word → Word → Word) (s : State) : Host.Outcome State Fault Refusal :=
  runSlot [a, b] (guarded k s (.ok (land (.s d.toNat (f (rdS s a) (rdS s b))) 0 lat s))) s

/-- A guarded operation of one register. -/
def alu1 (d a : RegF) (k : F3) (lat : Nat) (f : Word → Word) (s : State) : Host.Outcome State Fault Refusal :=
  runSlot [a] (guarded k s (.ok (land (.s d.toNat (f (rdS s a))) 0 lat s))) s

/-- An immediate operation without a guard. -/
def alui (d a : RegF) (f : Word → Word) (s : State) : Host.Outcome State Fault Refusal :=
  runSlot [a] (.ok (land (.s d.toNat (f (rdS s a))) 0 1 s)) s

/-- Bits 127:64 of a product of integers. -/
def hi64 (x : Int) : Word := BitVec.ofInt 64 (x / 2 ^ 64)

/-- DIVS (R201, R202). -/
def divSigned (a b : Word) : Word := if b = 0 then BitVec.allOnes 64 else BitVec.ofInt 64 (Int.tdiv a.toInt b.toInt)

/-- REMS (R201, R202). -/
def remSigned (a b : Word) : Word := if b = 0 then a else BitVec.ofInt 64 (Int.tmod a.toInt b.toInt)

/-- DIVU and REMU (R201, R202). -/
def divUnsigned (a b : Word) : Word := if b = 0 then BitVec.allOnes 64 else BitVec.ofNat 64 (a.toNat / b.toNat)
def remUnsigned (a b : Word) : Word := if b = 0 then a else BitVec.ofNat 64 (a.toNat % b.toNat)

/-- Shifts by the low six bits of the amount (R201). -/
def shlW (a b : Word) : Word := a <<< (b.toNat % 64)
def shrW (a b : Word) : Word := a >>> (b.toNat % 64)
def sarW (a b : Word) : Word := a.sshiftRight (b.toNat % 64)

/-- Leading zeros of the low `n` bits, from the top. -/
def clzN : Nat → Nat → Nat
  | 0, _ => 0
  | n + 1, w => if bitN w n then 0 else 1 + clzN n w

/-- Trailing zeros, at most `n`. -/
def ctzN : Nat → Nat → Nat
  | 0, _ => 0
  | n + 1, w => if w % 2 = 1 then 0 else 1 + ctzN n (w / 2)

/-- One bits among the low `n`. -/
def popN : Nat → Nat → Nat
  | 0, _ => 0
  | n + 1, w => w % 2 + popN n (w / 2)

def execAdd (d a b : RegF) (k : F3) (s : State) : Host.Outcome State Fault Refusal := alu d a b k 1 (fun x y => x + y) s
def execSub (d a b : RegF) (k : F3) (s : State) : Host.Outcome State Fault Refusal := alu d a b k 1 (fun x y => x - y) s
def execMul (d a b : RegF) (k : F3) (s : State) : Host.Outcome State Fault Refusal := alu d a b k 3 (fun x y => x * y) s
def execMulh (d a b : RegF) (k : F3) (s : State) : Host.Outcome State Fault Refusal :=
  alu d a b k 3 (fun x y => hi64 (x.toInt * y.toInt)) s
def execMulhu (d a b : RegF) (k : F3) (s : State) : Host.Outcome State Fault Refusal :=
  alu d a b k 3 (fun x y => hi64 ((x.toNat * y.toNat : Nat) : Int)) s
def execDivs (d a b : RegF) (k : F3) (s : State) : Host.Outcome State Fault Refusal := alu d a b k 20 divSigned s
def execDivu (d a b : RegF) (k : F3) (s : State) : Host.Outcome State Fault Refusal := alu d a b k 20 divUnsigned s
def execRems (d a b : RegF) (k : F3) (s : State) : Host.Outcome State Fault Refusal := alu d a b k 20 remSigned s
def execRemu (d a b : RegF) (k : F3) (s : State) : Host.Outcome State Fault Refusal := alu d a b k 20 remUnsigned s
def execAnd (d a b : RegF) (k : F3) (s : State) : Host.Outcome State Fault Refusal := alu d a b k 1 (fun x y => x &&& y) s
def execOr (d a b : RegF) (k : F3) (s : State) : Host.Outcome State Fault Refusal := alu d a b k 1 (fun x y => x ||| y) s
def execXor (d a b : RegF) (k : F3) (s : State) : Host.Outcome State Fault Refusal := alu d a b k 1 (fun x y => x ^^^ y) s
def execAndn (d a b : RegF) (k : F3) (s : State) : Host.Outcome State Fault Refusal := alu d a b k 1 (fun x y => x &&& ~~~ y) s
def execShl (d a b : RegF) (k : F3) (s : State) : Host.Outcome State Fault Refusal := alu d a b k 1 shlW s
def execShr (d a b : RegF) (k : F3) (s : State) : Host.Outcome State Fault Refusal := alu d a b k 1 shrW s
def execSar (d a b : RegF) (k : F3) (s : State) : Host.Outcome State Fault Refusal := alu d a b k 1 sarW s
def execMin (d a b : RegF) (k : F3) (s : State) : Host.Outcome State Fault Refusal :=
  alu d a b k 1 (fun x y => if x.toInt ≤ y.toInt then x else y) s
def execMax (d a b : RegF) (k : F3) (s : State) : Host.Outcome State Fault Refusal :=
  alu d a b k 1 (fun x y => if y.toInt ≤ x.toInt then x else y) s
def execMinu (d a b : RegF) (k : F3) (s : State) : Host.Outcome State Fault Refusal :=
  alu d a b k 1 (fun x y => if x.toNat ≤ y.toNat then x else y) s
def execMaxu (d a b : RegF) (k : F3) (s : State) : Host.Outcome State Fault Refusal :=
  alu d a b k 1 (fun x y => if y.toNat ≤ x.toNat then x else y) s
def execClz (d a : RegF) (k : F3) (s : State) : Host.Outcome State Fault Refusal := alu1 d a k 2 (fun x => word (clzN 64 x.toNat)) s
def execCtz (d a : RegF) (k : F3) (s : State) : Host.Outcome State Fault Refusal := alu1 d a k 2 (fun x => word (ctzN 64 x.toNat)) s
def execPopc (d a : RegF) (k : F3) (s : State) : Host.Outcome State Fault Refusal := alu1 d a k 2 (fun x => word (popN 64 x.toNat)) s

/-- SEL (R203): no guard. -/
def execSel (d a b : RegF) (k : F3) (s : State) : Host.Outcome State Fault Refusal :=
  runSlot [a, b] (.ok (land (.s d.toNat (if rdP s k then rdS s a else rdS s b)) 0 1 s)) s

def execAddi (d a : RegF) (i : BitVec 14) (s : State) : Host.Outcome State Fault Refusal := alui d a (fun x => x + sext64 i) s
def execAndi (d a : RegF) (i : BitVec 14) (s : State) : Host.Outcome State Fault Refusal := alui d a (fun x => x &&& sext64 i) s
def execOri (d a : RegF) (i : BitVec 14) (s : State) : Host.Outcome State Fault Refusal := alui d a (fun x => x ||| sext64 i) s
def execXori (d a : RegF) (i : BitVec 14) (s : State) : Host.Outcome State Fault Refusal := alui d a (fun x => x ^^^ sext64 i) s
def execShli (d a : RegF) (n : BitVec 6) (s : State) : Host.Outcome State Fault Refusal := alui d a (fun x => x <<< n.toNat) s
def execShri (d a : RegF) (n : BitVec 6) (s : State) : Host.Outcome State Fault Refusal := alui d a (fun x => x >>> n.toNat) s
def execSari (d a : RegF) (n : BitVec 6) (s : State) : Host.Outcome State Fault Refusal := alui d a (fun x => x.sshiftRight n.toNat) s

/-- LUI (R206). -/
def execLui (d : RegF) (i : BitVec 20) (s : State) : Host.Outcome State Fault Refusal :=
  runSlot [] (.ok (land (.s d.toNat (sext64 i <<< 12)) 0 1 s)) s

/-- Bits `lo` up to `lo + n` of a word replaced. -/
def insW (w : Word) (lo n : Nat) (v : Nat) : Word := word (insBits w.toNat lo n v)

/-- LHI (R206). -/
def execLhi (d : RegF) (i : BitVec 20) (s : State) : Host.Outcome State Fault Refusal :=
  runSlot [] (.ok (land (.s d.toNat (insW (rdS s d) 32 20 i.toNat)) 0 1 s)) s

/-- LTOP (R206). -/
def execLtop (d : RegF) (i : BitVec 12) (s : State) : Host.Outcome State Fault Refusal :=
  runSlot [] (.ok (land (.s d.toNat (insW (rdS s d) 52 12 i.toNat)) 0 1 s)) s

/-- EXT (R207): `w` is the width minus 1. -/
def execExt (d a : RegF) (w p : BitVec 6) (s : State) : Host.Outcome State Fault Refusal :=
  alui d a (fun x => word (x.toNat / 2 ^ p.toNat % 2 ^ (w.toNat + 1))) s

/-- INS (R207). -/
def execIns (d a : RegF) (w p : BitVec 6) (s : State) : Host.Outcome State Fault Refusal :=
  runSlot [a] (.ok (land (.s d.toNat (insW (rdS s d) p.toNat (w.toNat + 1) (rdS s a).toNat)) 0 1 s)) s

/-- A work-id field, or the whole (R208). -/
def widxOf (y : Stream) (f : Nat) : Word :=
  match y.task with
  | none => 0
  | some k =>
    if f = 6 then k.wid
    else
      let e := nth (0, 0) k.fields f
      word (k.wid.toNat / 2 ^ e.1 % 2 ^ e.2)

/-- WIDX (R208). -/
def execWidx (d : RegF) (f : F3) (s : State) : Host.Outcome State Fault Refusal :=
  runSlot [] (.ok (land (.s d.toNat (widxOf s.cst f.toNat)) 0 1 s)) s

/-- The conditions of R209. -/
def condHolds (c : Cond) (x y : Word) : Bool :=
  match c with
  | .eq => decide (x = y)
  | .ne => decide (x ≠ y)
  | .lt => decide (x.toInt < y.toInt)
  | .ge => decide (y.toInt ≤ x.toInt)
  | .ltu => decide (x.toNat < y.toNat)
  | .geu => decide (y.toNat ≤ x.toNat)
  | .le => decide (x.toInt ≤ y.toInt)
  | .gt => decide (y.toInt < x.toInt)
  | .leu => decide (x.toNat ≤ y.toNat)
  | .gtu => decide (y.toNat < x.toNat)

/-- CMP (R209). -/
def execCmp (d : F3) (a b : RegF) (k : F3) (c : Cond) (s : State) : Host.Outcome State Fault Refusal :=
  runSlot [a, b] (guarded k s (.ok (land (.p d.toNat (condHolds c (rdS s a) (rdS s b))) 0 1 s))) s

/-- CMPI (R209). -/
def execCmpi (d : F3) (a : RegF) (c : Cond) (i : BitVec 10) (s : State) : Host.Outcome State Fault Refusal :=
  runSlot [a] (.ok (land (.p d.toNat (condHolds c (rdS s a) (sext64 i))) 0 1 s)) s

/-- A predicate operation (R210). -/
def predOp (d k : F3) (v : Bool) (s : State) : Host.Outcome State Fault Refusal :=
  runSlot [] (guarded k s (.ok (land (.p d.toNat v) 0 1 s))) s

def execPand (d a b k : F3) (s : State) : Host.Outcome State Fault Refusal := predOp d k (rdP s a && rdP s b) s
def execPor (d a b k : F3) (s : State) : Host.Outcome State Fault Refusal := predOp d k (rdP s a || rdP s b) s
def execPxor (d a b k : F3) (s : State) : Host.Outcome State Fault Refusal := predOp d k (rdP s a != rdP s b) s
def execPnot (d a k : F3) (s : State) : Host.Outcome State Fault Refusal := predOp d k (!rdP s a) s

end Sys2Proof.Machine
end

