-- ==== Sys2Proof/Machine/Dispatch.lean ====
section
/-! DEFINITION. The dispatch of a step to its meaning, one arm per constructor. -/

namespace Sys2Proof.Machine

def exec (i : Instr) (s : State) : Host.Outcome State Fault Refusal :=
  match i with
  | .idle n sat rnd prof => Sys2Proof.Machine.execIdle n sat rnd prof s
  | .brp p o => Sys2Proof.Machine.execBrp p o s
  | .br o => Sys2Proof.Machine.execBr o s
  | .brpn p o => Sys2Proof.Machine.execBrpn p o s
  | .call d im => Sys2Proof.Machine.execCall d im s
  | .jmp a k => Sys2Proof.Machine.execJmp a k s
  | .callr d a k => Sys2Proof.Machine.execCallr d a k s
  | .ret a k => Sys2Proof.Machine.execRet a k s
  | .setf d a k => Sys2Proof.Machine.execSetf d a k s
  | .loop d a im => Sys2Proof.Machine.execLoop d a im s
  | .loopi d n im => Sys2Proof.Machine.execLoopi d n im s
  | .bswap p o => Sys2Proof.Machine.execBswap p o s
  | .waita a b k sc c => Sys2Proof.Machine.execWaita a b k sc c s
  | .waito a im => Sys2Proof.Machine.execWaito a im s
  | .tend => Sys2Proof.Machine.execTend s
  | .trap code => Sys2Proof.Machine.execTrap code s
  | .brk code => Sys2Proof.Machine.execBrk code s
  | .ifence r => Sys2Proof.Machine.execIfence r s
  | .sysr d n => Sys2Proof.Machine.execSysr d n s
  | .sysw a n => Sys2Proof.Machine.execSysw a n s
  | .add d a b k => Sys2Proof.Machine.execAdd d a b k s
  | .sub d a b k => Sys2Proof.Machine.execSub d a b k s
  | .mul d a b k => Sys2Proof.Machine.execMul d a b k s
  | .mulh d a b k => Sys2Proof.Machine.execMulh d a b k s
  | .mulhu d a b k => Sys2Proof.Machine.execMulhu d a b k s
  | .divs d a b k => Sys2Proof.Machine.execDivs d a b k s
  | .divu d a b k => Sys2Proof.Machine.execDivu d a b k s
  | .rems d a b k => Sys2Proof.Machine.execRems d a b k s
  | .remu d a b k => Sys2Proof.Machine.execRemu d a b k s
  | .and d a b k => Sys2Proof.Machine.execAnd d a b k s
  | .or d a b k => Sys2Proof.Machine.execOr d a b k s
  | .xor d a b k => Sys2Proof.Machine.execXor d a b k s
  | .andn d a b k => Sys2Proof.Machine.execAndn d a b k s
  | .shl d a b k => Sys2Proof.Machine.execShl d a b k s
  | .shr d a b k => Sys2Proof.Machine.execShr d a b k s
  | .sar d a b k => Sys2Proof.Machine.execSar d a b k s
  | .min d a b k => Sys2Proof.Machine.execMin d a b k s
  | .max d a b k => Sys2Proof.Machine.execMax d a b k s
  | .minu d a b k => Sys2Proof.Machine.execMinu d a b k s
  | .maxu d a b k => Sys2Proof.Machine.execMaxu d a b k s
  | .clz d a k => Sys2Proof.Machine.execClz d a k s
  | .ctz d a k => Sys2Proof.Machine.execCtz d a k s
  | .popc d a k => Sys2Proof.Machine.execPopc d a k s
  | .sel d a b k => Sys2Proof.Machine.execSel d a b k s
  | .addi d a im => Sys2Proof.Machine.execAddi d a im s
  | .andi d a im => Sys2Proof.Machine.execAndi d a im s
  | .ori d a im => Sys2Proof.Machine.execOri d a im s
  | .xori d a im => Sys2Proof.Machine.execXori d a im s
  | .shli d a n => Sys2Proof.Machine.execShli d a n s
  | .shri d a n => Sys2Proof.Machine.execShri d a n s
  | .sari d a n => Sys2Proof.Machine.execSari d a n s
  | .lui d im => Sys2Proof.Machine.execLui d im s
  | .lhi d im => Sys2Proof.Machine.execLhi d im s
  | .ltop d im => Sys2Proof.Machine.execLtop d im s
  | .ext d a w p => Sys2Proof.Machine.execExt d a w p s
  | .ins d a w p => Sys2Proof.Machine.execIns d a w p s
  | .widx d f => Sys2Proof.Machine.execWidx d f s
  | .cmp d a b k c => Sys2Proof.Machine.execCmp d a b k c s
  | .cmpi d a c im => Sys2Proof.Machine.execCmpi d a c im s
  | .pand d a b k => Sys2Proof.Machine.execPand d a b k s
  | .por d a b k => Sys2Proof.Machine.execPor d a b k s
  | .pxor d a b k => Sys2Proof.Machine.execPxor d a b k s
  | .pnot d a k => Sys2Proof.Machine.execPnot d a k s
  | .ldB d sc l o => Sys2Proof.Machine.execLdB d sc l o s
  | .ldH d sc l o => Sys2Proof.Machine.execLdH d sc l o s
  | .ldW d sc l o => Sys2Proof.Machine.execLdW d sc l o s
  | .ldD d sc l o => Sys2Proof.Machine.execLdD d sc l o s
  | .lduB d sc l o => Sys2Proof.Machine.execLduB d sc l o s
  | .lduH d sc l o => Sys2Proof.Machine.execLduH d sc l o s
  | .lduW d sc l o => Sys2Proof.Machine.execLduW d sc l o s
  | .stB d sc l o => Sys2Proof.Machine.execStB d sc l o s
  | .stH d sc l o => Sys2Proof.Machine.execStH d sc l o s
  | .stW d sc l o => Sys2Proof.Machine.execStW d sc l o s
  | .stD d sc l o => Sys2Proof.Machine.execStD d sc l o s
  | .vld d sc l c o => Sys2Proof.Machine.execVld d sc l c o s
  | .vldb d sc l c o => Sys2Proof.Machine.execVldb d sc l c o s
  | .vldt d sc l c o => Sys2Proof.Machine.execVldt d sc l c o s
  | .vst d sc l c o => Sys2Proof.Machine.execVst d sc l c o s
  | .vstt d sc l c o => Sys2Proof.Machine.execVstt d sc l c o s
  | .vlds d a b k c l => Sys2Proof.Machine.execVlds d a b k c l s
  | .vsts d a b k c l => Sys2Proof.Machine.execVsts d a b k c l s
  | .amoAdd d a b k l => Sys2Proof.Machine.execAmoAdd d a b k l s
  | .amoMax d a b k l => Sys2Proof.Machine.execAmoMax d a b k l s
  | .amoMin d a b k l => Sys2Proof.Machine.execAmoMin d a b k l s
  | .amoSwap d a b k l => Sys2Proof.Machine.execAmoSwap d a b k l s
  | .amoCas d a b k l => Sys2Proof.Machine.execAmoCas d a b k l s
  | .qpush d a k => Sys2Proof.Machine.execQpush d a k s
  | .qdrop d k => Sys2Proof.Machine.execQdrop d k s
  | .vldkKbf7 d a b c l => Sys2Proof.Machine.execVldkKbf7 d a b c l s
  | .vldkKbf4 d a b c l => Sys2Proof.Machine.execVldkKbf4 d a b c l s
  | .vldkKbf2 d a b c l => Sys2Proof.Machine.execVldkKbf2 d a b c l s
  | .vstkKbf7 d a b c l => Sys2Proof.Machine.execVstkKbf7 d a b c l s
  | .vstkKbf4 d a b c l => Sys2Proof.Machine.execVstkKbf4 d a b c l s
  | .vstkKbf2 d a b c l => Sys2Proof.Machine.execVstkKbf2 d a b c l s
  | .vaddI32 d a b k c => Sys2Proof.Machine.execVaddI32 d a b k c s
  | .vsubI32 d a b k c => Sys2Proof.Machine.execVsubI32 d a b k c s
  | .vmulI32 d a b k c => Sys2Proof.Machine.execVmulI32 d a b k c s
  | .vmulh d a b k c => Sys2Proof.Machine.execVmulh d a b k c s
  | .vand d a b k c => Sys2Proof.Machine.execVand d a b k c s
  | .vor d a b k c => Sys2Proof.Machine.execVor d a b k c s
  | .vxor d a b k c => Sys2Proof.Machine.execVxor d a b k c s
  | .vabsI32 d a k c => Sys2Proof.Machine.execVabsI32 d a k c s
  | .vshl d a b k c => Sys2Proof.Machine.execVshl d a b k c s
  | .vshr d a b k c => Sys2Proof.Machine.execVshr d a b k c s
  | .vsar d a b k c => Sys2Proof.Machine.execVsar d a b k c s
  | .vminI32 d a b k c => Sys2Proof.Machine.execVminI32 d a b k c s
  | .vmaxI32 d a b k c => Sys2Proof.Machine.execVmaxI32 d a b k c s
  | .vminU32 d a b k c => Sys2Proof.Machine.execVminU32 d a b k c s
  | .vmaxU32 d a b k c => Sys2Proof.Machine.execVmaxU32 d a b k c s
  | .vaddF32 d a b k c => Sys2Proof.Machine.execVaddF32 d a b k c s
  | .vsubF32 d a b k c => Sys2Proof.Machine.execVsubF32 d a b k c s
  | .vmulF32 d a b k c => Sys2Proof.Machine.execVmulF32 d a b k c s
  | .vfmaF32 d a b k c => Sys2Proof.Machine.execVfmaF32 d a b k c s
  | .vminF32 d a b k c => Sys2Proof.Machine.execVminF32 d a b k c s
  | .vmaxF32 d a b k c => Sys2Proof.Machine.execVmaxF32 d a b k c s
  | .vdot2Bf16 d a b k c => Sys2Proof.Machine.execVdot2Bf16 d a b k c s
  | .vabsF32 d a k c => Sys2Proof.Machine.execVabsF32 d a k c s
  | .vnegF32 d a k c => Sys2Proof.Machine.execVnegF32 d a k c s
  | .vcpysF32 d a b k c => Sys2Proof.Machine.execVcpysF32 d a b k c s
  | .vaccrd d a k c => Sys2Proof.Machine.execVaccrd d a k c s
  | .vcmpF32 d a b k c f => Sys2Proof.Machine.execVcmpF32 d a b k c f s
  | .vcmpI32 d a b k c f => Sys2Proof.Machine.execVcmpI32 d a b k c f s
  | .vmov d a k c => Sys2Proof.Machine.execVmov d a k c s
  | .vsel d a b k c => Sys2Proof.Machine.execVsel d a b k c s
  | .vbcast d a k c => Sys2Proof.Machine.execVbcast d a k c s
  | .vextr d a b k c => Sys2Proof.Machine.execVextr d a b k c s
  | .vins d a b k c => Sys2Proof.Machine.execVins d a b k c s
  | .vperm d a b k c => Sys2Proof.Machine.execVperm d a b k c s
  | .vxcl d a r k c => Sys2Proof.Machine.execVxcl d a r k c s
  | .viota d k c => Sys2Proof.Machine.execViota d k c s
  | .vredaddF32 d a k c => Sys2Proof.Machine.execVredaddF32 d a k c s
  | .vredaddI32 d a k c => Sys2Proof.Machine.execVredaddI32 d a k c s
  | .vredmaxF32 d a k c => Sys2Proof.Machine.execVredmaxF32 d a k c s
  | .vredmaxI32 d a k c => Sys2Proof.Machine.execVredmaxI32 d a k c s
  | .vredminF32 d a k c => Sys2Proof.Machine.execVredminF32 d a k c s
  | .vredminI32 d a k c => Sys2Proof.Machine.execVredminI32 d a k c s
  | .vcvt d a sc t k c => Sys2Proof.Machine.execVcvt d a sc t k c s
  | .vcvtF32Fx128Lo d a p k c => Sys2Proof.Machine.execVcvtF32Fx128Lo d a p k c s
  | .vcvtF32Fx128Hi d a p k c => Sys2Proof.Machine.execVcvtF32Fx128Hi d a p k c s
  | .vrcp d a k c => Sys2Proof.Machine.execVrcp d a k c s
  | .vrcpr d a b k c => Sys2Proof.Machine.execVrcpr d a b k c s
  | .vrsq d a k c => Sys2Proof.Machine.execVrsq d a k c s
  | .vrsqr d a b k c => Sys2Proof.Machine.execVrsqr d a b k c s
  | .vsqrt d a k c => Sys2Proof.Machine.execVsqrt d a k c s
  | .vexp2 d a k c => Sys2Proof.Machine.execVexp2 d a k c s
  | .vlog2 d a k c => Sys2Proof.Machine.execVlog2 d a k c s
  | .vsin d a k c => Sys2Proof.Machine.execVsin d a k c s
  | .vcos d a k c => Sys2Proof.Machine.execVcos d a k c s
  | .vrand d k c => Sys2Proof.Machine.execVrand d k c s
  | .vrandf d k c => Sys2Proof.Machine.execVrandf d k c s
  | .vdrop d a b k c => Sys2Proof.Machine.execVdrop d a b k c s
  | .vtopk d a b k c => Sys2Proof.Machine.execVtopk d a b k c s
  | .vmergek d a b k c => Sys2Proof.Machine.execVmergek d a b k c s
  | .mpset a n => Sys2Proof.Machine.execMpset a n s
  | .mcall e => Sys2Proof.Machine.execMcall e s
  | .cpy a b g => Sys2Proof.Machine.execCpy a b g s
  | .cpyc a b g => Sys2Proof.Machine.execCpyc a b g s
  | .gset a g => Sys2Proof.Machine.execGset a g s
  | .gstart a b q => Sys2Proof.Machine.execGstart a b q s
  | .tarm a b g => Sys2Proof.Machine.execTarm a b g s
  | .fsend a b g => Sys2Proof.Machine.execFsend a b g s
  | .fmcast a b g => Sys2Proof.Machine.execFmcast a b g s
  | .fred a b op f g => Sys2Proof.Machine.execFred a b op f g s
  | .ratom a b op f g => Sys2Proof.Machine.execRatom a b op f g s
  | .csend a b ch => Sys2Proof.Machine.execCsend a b ch s
  | .crecv a b ch => Sys2Proof.Machine.execCrecv a b ch s
  | .chw a ch => Sys2Proof.Machine.execChw a ch s
  | .ccollAllred a b r => Sys2Proof.Machine.execCcollAllred a b r s
  | .ccollRedscat a b r => Sys2Proof.Machine.execCcollRedscat a b r s
  | .ccollAllgath a b r => Sys2Proof.Machine.execCcollAllgath a b r s
  | .ccollBcast a b r => Sys2Proof.Machine.execCcollBcast a b r s
  | .ccollReduce a b r => Sys2Proof.Machine.execCcollReduce a b r s
  | .ccollPxch a b r => Sys2Proof.Machine.execCcollPxch a b r s
  | .spawn a => Sys2Proof.Machine.execSpawn a s
  | .kilnw a => Sys2Proof.Machine.execKilnw a s
  | .kilnr a => Sys2Proof.Machine.execKilnr a s
  | .digest a b g => Sys2Proof.Machine.execDigest a b g s
  | .efence g sc => Sys2Proof.Machine.execEfence g sc s
  | .lds c pa o n => Sys2Proof.Machine.execLds c pa o n s
  | .swap c => Sys2Proof.Machine.execSwap c s
  | .strm c t pa n => Sys2Proof.Machine.execStrm c t pa n s
  | .strmc c t pa n => Sys2Proof.Machine.execStrmc c t pa n s
  | .zero c t => Sys2Proof.Machine.execZero c t s
  | .scale c t im => Sys2Proof.Machine.execScale c t im s
  | .ldacc c t pa => Sys2Proof.Machine.execLdacc c t pa s
  | .drain c t pa pb pc fmt => Sys2Proof.Machine.execDrain c t pa pb pc fmt s
  | .amax c t pb => Sys2Proof.Machine.execAmax c t pb s
  | .madd c pd pa im => Sys2Proof.Machine.execMadd c pd pa im s
  | .mloop c p target => Sys2Proof.Machine.execMloop c p target s
  | .mbrz c p target => Sys2Proof.Machine.execMbrz c p target s
  | .mwait c cls => Sys2Proof.Machine.execMwait c cls s
  | .mend c => Sys2Proof.Machine.execMend c s
  | .routineBegin c => Sys2Proof.Machine.execRoutineBegin c s
  | .routineFinish c => Sys2Proof.Machine.execRoutineFinish c s
  | .routineFlagsJoin c t => Sys2Proof.Machine.execRoutineFlagsJoin c t s
  | .resultLanding c t => Sys2Proof.Machine.execResultLanding c t s
  | .pendingAccessPerform c => Sys2Proof.Machine.execPendingAccessPerform c s
  | .sleepEnd c t => Sys2Proof.Machine.execSleepEnd c t s
  | .waitLimitExpiry c t => Sys2Proof.Machine.execWaitLimitExpiry c t s
  | .trapEntry c t => Sys2Proof.Machine.execTrapEntry c t s
  | .tretResume c t => Sys2Proof.Machine.execTretResume c t s
  | .tretEnd c t => Sys2Proof.Machine.execTretEnd c t s
  | .taskEnd c t => Sys2Proof.Machine.execTaskEnd c t s
  | .gangJoin g => Sys2Proof.Machine.execGangJoin g s
  | .gangMessageLanding c => Sys2Proof.Machine.execGangMessageLanding c s
  | .takeGrant c => Sys2Proof.Machine.execTakeGrant c s
  | .copyChunk c id => Sys2Proof.Machine.execCopyChunk c id s
  | .copyComplete c id => Sys2Proof.Machine.execCopyComplete c id s
  | .gatherRowDelivery c q => Sys2Proof.Machine.execGatherRowDelivery c q s
  | .gstartIndexEntry c q => Sys2Proof.Machine.execGstartIndexEntry c q s
  | .keyUseReport x => Sys2Proof.Machine.execKeyUseReport x s
  | .faultRecordPost x => Sys2Proof.Machine.execFaultRecordPost x s
  | .pageWalk x => Sys2Proof.Machine.execPageWalk x s
  | .packetForward p => Sys2Proof.Machine.execPacketForward p s
  | .write p => Sys2Proof.Machine.execWrite p s
  | .readreq p => Sys2Proof.Machine.execReadreq p s
  | .readdata p => Sys2Proof.Machine.execReaddata p s
  | .reduce p => Sys2Proof.Machine.execReduce p s
  | .roundTimeout x g => Sys2Proof.Machine.execRoundTimeout x g s
  | .atomic p => Sys2Proof.Machine.execAtomic p s
  | .atomicdata p => Sys2Proof.Machine.execAtomicdata p s
  | .ack p => Sys2Proof.Machine.execAck p s
  | .mcwrite p => Sys2Proof.Machine.execMcwrite p s
  | .responseTimeout tag => Sys2Proof.Machine.execResponseTimeout tag s
  | .chunk p => Sys2Proof.Machine.execChunk p s
  | .abortMarker p => Sys2Proof.Machine.execAbortMarker p s
  | .creditReturn p => Sys2Proof.Machine.execCreditReturn p s
  | .collectiveStart id => Sys2Proof.Machine.execCollectiveStart id s
  | .stepTimeout id => Sys2Proof.Machine.execStepTimeout id s
  | .collectiveComplete id => Sys2Proof.Machine.execCollectiveComplete id s
  | .prioritySwitch port => Sys2Proof.Machine.execPrioritySwitch port s
  | .time port p => Sys2Proof.Machine.execTime port p s
  | .xinvComplete x => Sys2Proof.Machine.execXinvComplete x s
  | .launchQueuePoll q => Sys2Proof.Machine.execLaunchQueuePoll q s
  | .launchAccept q => Sys2Proof.Machine.execLaunchAccept q s
  | .unitDispatch l => Sys2Proof.Machine.execUnitDispatch l s
  | .imageLoad c => Sys2Proof.Machine.execImageLoad c s
  | .launchComplete l => Sys2Proof.Machine.execLaunchComplete l s
  | .killComplete x => Sys2Proof.Machine.execKillComplete x s
  | .switchOutComplete x => Sys2Proof.Machine.execSwitchOutComplete x s
  | .efenceComplete c id => Sys2Proof.Machine.execEfenceComplete c id s
  | .digestComplete c id => Sys2Proof.Machine.execDigestComplete c id s
  | .mgctlReloadDone x => Sys2Proof.Machine.execMgctlReloadDone x s
  | .clctlReloadDone x => Sys2Proof.Machine.execClctlReloadDone x s
  | .createComplete x => Sys2Proof.Machine.execCreateComplete x s
  | .flit port bytes => Sys2Proof.Machine.execFlit port bytes s
  | .portDown port => Sys2Proof.Machine.execPortDown port s
  | .portUp port => Sys2Proof.Machine.execPortUp port s
  | .registerWrite addr bytes => Sys2Proof.Machine.execRegisterWrite addr bytes s
  | .hostCxlMemRead addr n => Sys2Proof.Machine.execHostCxlMemRead addr n s
  | .hostCxlMemWrite addr bytes => Sys2Proof.Machine.execHostCxlMemWrite addr bytes s
  | .hostCxlIoWindowAccess addr n w => Sys2Proof.Machine.execHostCxlIoWindowAccess addr n w s
  | .hostSupervisorWrite c off bytes => Sys2Proof.Machine.execHostSupervisorWrite c off bytes s
  | .thermalWarn die => Sys2Proof.Machine.execThermalWarn die s
  | .throttleStep die => Sys2Proof.Machine.execThrottleStep die s
  | .thermalTrip die => Sys2Proof.Machine.execThermalTrip die s
  | .hbmScrub addr bad => Sys2Proof.Machine.execHbmScrub addr bad s
  | .gtbCorrection up => Sys2Proof.Machine.execGtbCorrection up s
  | .xinvContext x => Sys2Proof.Machine.execXinvContext x s
  | .xinvPages x => Sys2Proof.Machine.execXinvPages x s
  | .xinvRanges x => Sys2Proof.Machine.execXinvRanges x s
  | .xinvNop x => Sys2Proof.Machine.execXinvNop x s
  | .mgctlReloadReduction x => Sys2Proof.Machine.execMgctlReloadReduction x s
  | .mgctlReloadMulticast x => Sys2Proof.Machine.execMgctlReloadMulticast x s
  | .clctlReloadChannels x => Sys2Proof.Machine.execClctlReloadChannels x s
  | .clctlReloadRings x => Sys2Proof.Machine.execClctlReloadRings x s
  | .create x => Sys2Proof.Machine.execCreate x s
  | .kill x => Sys2Proof.Machine.execKill x s
  | .signal x => Sys2Proof.Machine.execSignal x s
  | .wdclr x => Sys2Proof.Machine.execWdclr x s
  | .ucload x => Sys2Proof.Machine.execUcload x s
  | .attest x => Sys2Proof.Machine.execAttest x s
  | .debugHalt x => Sys2Proof.Machine.execDebugHalt x s
  | .lqbaseWrite q v => Sys2Proof.Machine.execLqbaseWrite q v s
  | .tctlNone c t v => Sys2Proof.Machine.execTctlNone c t v s
  | .tctlSetSkew c t v => Sys2Proof.Machine.execTctlSetSkew c t v s
  | .tctlClearSkew c t v => Sys2Proof.Machine.execTctlClearSkew c t v s
  | .tctlMakeMailbox c t v => Sys2Proof.Machine.execTctlMakeMailbox c t v s
  | .tctlReleaseMailbox c t v => Sys2Proof.Machine.execTctlReleaseMailbox c t v s
  | .tctlDisarm c t v => Sys2Proof.Machine.execTctlDisarm c t v s
  | .reduceResend => Sys2Proof.Machine.execReduceResend s
  | .timeSend => Sys2Proof.Machine.execTimeSend s
  | .gtbokLoss => Sys2Proof.Machine.execGtbokLoss s
  | .epochBoundary => Sys2Proof.Machine.execEpochBoundary s
  | .coldStart => Sys2Proof.Machine.execColdStart s
  | .warmStart => Sys2Proof.Machine.execWarmStart s
  | .firmwarePush => Sys2Proof.Machine.execFirmwarePush s
  | .sampleRecord x => Sys2Proof.Machine.execSampleRecord x s
  | .launchAged l => Sys2Proof.Machine.execLaunchAged l s
  | .collisionCycle c => Sys2Proof.Machine.execCollisionCycle c s
  | .powerFreeze c => Sys2Proof.Machine.execPowerFreeze c s
  | .freezeEnd c => Sys2Proof.Machine.execFreezeEnd c s
  | .quantumEnd x => Sys2Proof.Machine.execQuantumEnd x s
  | .contextYield x => Sys2Proof.Machine.execContextYield x s
  | .switchIn x => Sys2Proof.Machine.execSwitchIn x s

end Sys2Proof.Machine
end

