-- ==== Sys2Proof/Machine/Cycle.lean ====
section
/-! DEFINITION. How a cycle is made of steps (R3, R132, R155 to R159): which steps fall due, in what order they run, and how a
bundle issues slot by slot. The order among steps that the spec leaves open is log entry 5. -/

namespace Sys2Proof.Machine

/-! ## The steps that fall due at the start of a cycle -/

/-- The place of every command: those of cores with a context, and those of contexts that are out. -/
def cmdPlaces (s : State) : List (Nat × Cmd) :=
  (s.cores.flatMap fun e => e.2.seat.cmds.map fun k => (e.1, k))
    ++ s.ctxs.flatMap fun x => x.2.saved.flatMap fun e => e.2.cmds.map fun k => (e.1, k)

/-- The moves of one command (R336). -/
def cmdMoves (p : Nat × Cmd) : List Instr :=
  match p.2.kind with
  | .efence => [.efenceComplete p.1 p.2.id]
  | .digest => [.copyChunk p.1 p.2.id, .digestComplete p.1 p.2.id]
  | _ => [.copyChunk p.1 p.2.id, .copyComplete p.1 p.2.id]

/-- The moves of one core's engines. -/
def coreMoves (e : Nat × Core) : List Instr :=
  let c := e.1
  let y := e.2.seat
  (if y.takes.isEmpty then [] else [.takeGrant c])
    ++ (List.range 4).flatMap (fun q =>
      (if (y.q q).gs.isSome then [.gstartIndexEntry c q] else []) ++ (if (y.q q).aq.isEmpty then [] else [.gatherRowDelivery c q]))
    ++ (if y.mxe.queue.isEmpty then [] else [.routineFinish c, .routineBegin c])
    ++ (if e.2.owner.isSome then [.imageLoad c] else [])

/-- The moves of one context: reports, records, walks, reloads, kill and switch-out. -/
def ctxMoves (s : State) (x : Nat) : List Instr :=
  let y := s.ctx x
  (y.keyReps.map fun _ => .keyUseReport x) ++ (y.posts.map fun _ => .faultRecordPost x) ++ (y.walks.map fun _ => .pageWalk x)
    ++ (if xinvBusy s x then [.xinvComplete x] else [])
    ++ (if s.flag (oMGCTL x) 1 then [.mgctlReloadDone x] else [])
    ++ (if s.flag (oCLCTL x) 1 then [.clctlReloadDone x] else [])
    ++ (if s.ctxBusy x ∧ s.ctxState x = 3 then [.killComplete x] else [])
    ++ (if y.leaving then [.switchOutComplete x] else [])
    ++ y.rounds.map fun r => .roundTimeout x r.1

/-- The moves of the fabric and the collective engine. -/
def fabricMoves (s : State) : List Instr :=
  (s.outbox.map Instr.packetForward) ++ ((s.reqs.filter fun q => q.res.isNone).map fun q => .responseTimeout q.tag)
    ++ (s.colls.flatMap fun k => [.collectiveStart k.id, .stepTimeout k.id, .collectiveComplete k.id])
    ++ s.ports.filterMap fun p => if p.2.up then some (.prioritySwitch p.1) else none

/-- The queue that the round robin serves next (R366). -/
def nextQueue (s : State) : Option Nat := ((List.range 64).map fun i => (s.robin + i) % 64).find? (lqServed s)

/-- The moves of the launch manager (R365 to R369); every tail is read again at least every 65,536 cycles. -/
def launchMoves (s : State) : List Instr :=
  (if s.cycle % 65536 = 0 then (List.range 64).map Instr.launchQueuePoll else [])
    ++ (match nextQueue s with | some q => [.launchAccept (some q)] | none => [])
    ++ (if s.spawns.isEmpty then [] else [.launchAccept none])
    ++ s.launches.flatMap fun l => [.unitDispatch l.id, .launchComplete l.id]

/-- Everything that may move in the cycle that begins. A step whose condition does not hold changes nothing. -/
def moves (s : State) : List Instr :=
  (cmdPlaces s).flatMap cmdMoves ++ s.cores.flatMap coreMoves ++ (List.range 16).flatMap (ctxMoves s) ++ fabricMoves s ++ launchMoves s

/-- A creation under way ends, and the contexts rotate, at a cycle boundary (R393, R394). -/
def rotate (s : State) (x : Nat) : State :=
  let s := nextOf (execCreateComplete x s) s
  let s := nextOf (execQuantumEnd x s) s
  let s := nextOf (execContextYield x s) s
  nextOf (execSwitchIn x s) s

/-- What the host writes into its own memory in the next `n` cycles; the package never writes there (R66, R68). -/
def hostCycles (n : Nat) (s : State) : State :=
  { s with hostMem := (s.hostFeed.take n).foldl (fun m ws => ws.foldl (fun m w => Mem.setByte m w.1 w.2) m) s.hostMem,
           hostFeed := s.hostFeed.drop n }

/-- A cycle begins: the rotation, then what the environment does and what falls due. -/
def startStep (s : State) : State :=
  let s := settle (strikes (hostCycles 1 ((List.range 16).foldl rotate s)))
  { s with agenda := s.inputs.headD [] ++ moves s, inputs := s.inputs.drop 1, turn := .returns }

/-! ## Returns and the plan of the cycle -/

/-- Conditions of a task that starts or comes back on core `c` (R386, R399, R413), and the returns from handlers that it makes in
this cycle (R389). -/
def returnsOf (s : State) (returns : Bool) (c : Nat) : List Instr :=
  let fresh := fun (t : Bool) =>
    let y := s.st c t
    y.task.isSome && (decide (y.sys.ticks = 0) || decide ((s.ctx (s.ctxOf c)).tookAt = s.cycle + 1))
  [false, true].flatMap fun t =>
    (if returns && tretReady (s.st c t) then [.tretEnd c t, .tretResume c t] else []) ++ (if fresh t then [.trapEntry c t] else [])

/-- What stream `t` of core `c` does in this cycle is fixed. -/
def setPh (c : Nat) (s : State) (t : Bool) : State := s.putSt c t { s.st c t with ph := wants s c t }

def setPhs (s : State) : State := (heldCores s).foldl (fun s c => setPh c (setPh c s false) true) s

/-- Nothing lands on a core that freezes before any bundle of the returning stream is looked at (R157): it makes its returns in
a later cycle. A freeze for what the resumed slots need comes after the return (R389). -/
def returnsStep (s : State) : State :=
  let fs := freezes (setPhs s)
  let free := fun c => !(fs.any fun f => decide (f.1 = c)) && !(s.core c).halted
  { s with agenda := (heldCores s).flatMap fun c => returnsOf s (free c) c, turn := .plan }

/-- Reservations of core `c` whose stream has stopped end, and what they held back performs (R220). -/
def endStopped (s : State) (c : Nat) : State :=
  let x := s.ctxOf c
  endResvs (fun r => (s.seat c).resvOver r || ((s.ctx x).leaving && stopped s x c r.sec)) s c

/-- A core that freezes at a quantum end stops so: its bundles have not issued, its accesses stay unperformed (R398). -/
def haltLeaving (c : Nat) (s : State) : State :=
  if (s.ctx (s.ctxOf c)).leaving then s.putCore c { s.core c with halted := true } else s

/-- The core's freeze of this cycle begins, goes on or ends (R157). -/
def setFreeze (fs : List (Nat × Freeze)) (s : State) (c : Nat) : State :=
  match fs.find? fun f => decide (f.1 = c) with
  | some f => haltLeaving c (if f.2.cause = 7 then nextOf (execPowerFreeze c s) s else s.putCore c { s.core c with frozen := some f.2 })
  | none => nextOf (execFreezeEnd c s) s

/-- The core charges the cycle (R379, R380), and a collision holds the secondary back (R156). -/
def chargeCore (s : State) (e : Nat × Core) : State :=
  let c := e.1
  let k := s.core c
  let q := if k.owner.isSome ∧ k.frozen.isNone then wouldCharge s c else 0
  nextOf (execCollisionCycle c (s.putCore c (k.charge q))) (s.putCore c (k.charge q))

/-- The microword that a core dispatches (R266). -/
def microOf (s : State) (c : Nat) : List Instr := (microNow s c).toList

/-- The MXE starts one array cycle or LDS cycle of its last micro-operation, unless the cycle is a POWER freeze (R379, R380). -/
def arrayCycle (s : State) (c : Nat) : State :=
  let y := s.seat c
  if y.mxe.left = 0 ∨ (s.core c).frozen.any fun f => decide (f.cause = 7) then s
  else s.putSeat c { y with mxe := { y.mxe with left := y.mxe.left - 1 } }

/-- Is this a held cycle of the gang (R375)? -/
def heldCycle (s : State) (g : Nat) : Bool :=
  let ms := gangMembers s g
  ms.isEmpty || gangHeld s g
    || ms.any fun m => (s.core m.1).frozen.isSome
        || ((s.ctx (s.ctxOf m.1)).leaving && stopped s (s.ctxOf m.1) m.1 false)

/-- A held cycle moves the gang's origin. -/
def gangHolds (s : State) : State :=
  { s with gangs := s.gangs.map fun e => if heldCycle s e.1 then (e.1, { e.2 with origin := e.2.origin + 1 }) else e }

/-- The cycle is planned: what each stream does, which cores freeze, what is charged, which microwords dispatch. -/
def planStep (s : State) : State :=
  let s := setPhs ((heldCores s).foldl endStopped s)
  let s := (heldCores s).foldl (setFreeze (freezes s)) s
  let s := (heldCores s).foldl arrayCycle (s.cores.foldl chargeCore s)
  let ms := (heldCores s).flatMap (microOf s)
  let s := gangHolds s
  { s with agenda := ms, turn := .tick 0 }

/-! ## Ticks -/

/-- The first core from `c` on that has a context. -/
def heldFrom (s : State) (c : Nat) : Option Nat := (heldCores s).find? fun d => decide (c ≤ d)

/-- The streams of core `c` begin their ticks, and the core's accesses of the cycle perform (R132, R145, R268, R349). -/
def tickMoves (s : State) (c : Nat) : List Instr :=
  let one := fun (t : Bool) =>
    if s.ticking c t then
      Instr.resultLanding c t :: (if (s.st c t).sys.sup then [] else [.routineFlagsJoin c t])
    else if (s.st c t).lastLand.isEmpty then [] else [.resultLanding c t]
  one false ++ one true ++ [.gangMessageLanding c, .pendingAccessPerform c]

/-- The place of a core's primary stream in its gang. -/
def gangPlace (s : State) (c : Nat) : Nat := match (s.st c false).task with | some k => k.gidx | none => 0

/-- The cores in the order of their ticks: those of later gang members first, so that a message which its sender samples in the
cycle of its landing is there when the receiver's tick begins (R137, R349). -/
def tickOrder (s : State) : List Nat :=
  let cs := heldCores s
  (List.range 64).reverse.flatMap fun k => cs.filter fun c => decide (min (gangPlace s c) 63 = k)

/-- The ticks of the core at place `n` of that order. -/
def tickStep (n : Nat) (s : State) : State :=
  match (tickOrder s).drop n with
  | [] => { s with turn := .joins }
  | c :: _ => { s with agenda := tickMoves s c, turn := .tick (n + 1) }

/-- The samples of the cycle are made of the streams as they stand before any bundle issues (R411). Then waits are decided and
joins of gangs made (R188, R193, R376, R377). -/
def joinsStep (s : State) : State :=
  let s := (List.range 16).foldl (fun s x => nextOf (execSampleRecord x s) s) s
  { s with
    agenda := ((heldCores s).flatMap fun c => [.sleepEnd c false, .sleepEnd c true]) ++ s.gangs.map fun g => .gangJoin g.1
    turn := .issue 0 false }

/-! ## Issue (R127, R152, R154, R155, R178) -/

/-- The turn after a stream has issued, or has nothing to issue. -/
def afterIssue (c : Nat) (t : Bool) : Turn := if t then .issue (c + 1) false else .issue c true

/-- The bundle is complete. -/
def finishBundle (s : State) : State :=
  let k := s.cur
  let y := s.cst.finish k.part k.len k.hidle k.drawers.length k.present (stepping s k.core k.sec)
  { s.putCst y with turn := afterIssue k.core k.sec }

/-- A slot has committed: the next one, or the end of the bundle. A trap ends the bundle where it stands. -/
def nextSlot (s : State) : State :=
  let k := s.cur
  if k.stopped then { s with turn := afterIssue k.core k.sec }
  else
    let s := { s with cur := { k with done := k.done ||| BitVec.ofNat 8 (2 ^ k.slot) } }
    if k.todo.isEmpty then finishBundle s else { s with turn := .slot k.core k.sec }

/-- Does the word's operation post a result or an access, unless a guard or its lanes keep it from that? -/
def mayPost (k : Nat) (w : W32) : Bool :=
  (decide (1 ≤ k) && decide (k ≤ 6)) || (match slotInstr k w with | .ok (.setf _ _ _) => true | _ => false)

/-- A slot that might have has posted nothing: other members of a gang may have more pending (R377). -/
def noteQuiet (k : Nat) (w : W32) (n : Nat) (s : State) : State :=
  let y := s.cst
  if y.seq = n ∧ mayPost k w then s.putCst { y with quiet := y.sys.ticks + 1 } else s

/-- What follows a slot's meaning. -/
def thenSlot (k : Nat) (w : W32) (n : Nat) (r : Host.Outcome State Fault Refusal) : Host.Outcome State Fault Refusal :=
  match r with
  | .next s => .next (nextSlot (noteQuiet k w n s))
  | .fault f => .fault f
  | .refused f => .refused f

/-- Does the slot read a register or a queue entry with an uncorrectable error in this cycle? -/
def badRead (s : State) (k : Nat) : Bool := s.upset.any fun u => decide (u = .read s.cur.core s.cur.sec k)

/-- The destination of a load, its value still to be put in. -/
def AccOp.dest : AccOp → Option Dest
  | .loadS d _ _ _ => some (.s d 0)
  | .loadV d els => some (.v d (els.map fun e => (e.1, 0)))
  | .loadK d _ els => some (.v d (els.flatMap fun e => (List.range 16).map fun l => (16 * e.1 + l, 0)))
  | .loadG g _ => some (.gset g (List.replicate 24 0))
  | .loadCh c _ => some (.chan c (List.replicate 8 0))
  | _ => none

/-- The register whose result an access brings (a load is answered by `dest` alone). -/
def AccOp.result : AccOp → Option Dest
  | .amoSample d _ _ _ _ => some (.s d 0)
  | op => op.dest

/-- What an access stores, its data free: the bytes of a store, the operands of an AMO, whose old value goes nowhere. -/
def AccOp.blur (f : Nat) : AccOp → AccOp
  | .store els => .store (els.mapIdx fun i e =>
      (e.1, (List.range e.2.length).map fun j => BitVec.ofNat 8 ((Config.freeWord (f + 64 * i + j / 8)).toNat / 2 ^ (8 * (j % 8)))))
  | .amoSample _ a op _ _ => .amoSample 0 a op (Config.freeWord (f + 1)) (Config.freeWord (f + 2))
  | op => op

/-- The results of an operation from number `n` on become free values; what it would load does too, and what it stores. -/
def Stream.blurFrom (n f : Nat) (y : Stream) : Stream :=
  let loads := y.acc.filterMap fun a => if n ≤ a.seq then a.op.result.map fun d => (a, d) else none
  let y := { y with
    landing := y.landing.map fun e => if n ≤ e.seq then { e with dest := e.dest.blur f } else e
    acc := (y.acc.filter fun a => decide (a.seq < n) || a.op.dest.isNone).map fun a =>
      if n ≤ a.seq then { a with op := a.op.blur f } else a }
  loads.foldl (fun y l => y.pushLanding ⟨l.1.seq, l.1.lat, 0, l.2.blur f, (l.1.bundle, l.1.slot)⟩) y

/-- A slot reads an uncorrectable error (R392): it does what it does, but its destination, a register or bytes of the
scratchpad, receives a free value, and ECC is pending, naming it (log entry 3). -/
def execBad (i : Instr) (s : State) : Host.Outcome State Fault Refusal :=
  let k := s.cur
  let n := s.cst.seq
  match exec i s with
  | .next t =>
    let v := (t.st k.core k.sec).blurFrom n t.free
    .next { eccAt k.core k.sec (k.pc, k.slot) (t.putSt k.core k.sec v) with free := t.free + 8192 }
  | .fault f => .fault f
  | .refused f => .refused f

/-- The word of a slot is decoded and its instruction runs; a word that decodes to none traps (R178). -/
def runWord (k : Nat) (w : W32) (s : State) : Host.Outcome State Fault Refusal :=
  match slotInstr k w with
  | .ok i => if badRead s k then execBad i s else exec i s
  | .error code => .next (slotTrap code 0 s)

/-- The first of the slots to come is the slot under way. -/
def atSlot (k : Nat) (rest : List (Nat × W32)) (s : State) : State := { s with cur := { s.cur with slot := k, todo := rest } }

/-- The next slot of the bundle under way issues; a bundle without slots is IDLE. -/
def slotStep (s : State) : Host.Outcome State Fault Refusal :=
  match s.cur.todo with
  | (k, w) :: rest => thenSlot k w s.cst.seq (runWord k w (atSlot k rest s))
  | [] =>
    match exec (.idle (BitVec.ofNat 6 s.cur.hidle) s.cur.sat s.cur.rnd (BitVec.ofNat 6 s.cur.prof)) s with
    | .next t => .next (finishBundle t)
    | .fault f => .fault f
    | .refused f => .refused f

/-- The slots of the bundle run on trial (R212). -/
def trialSlots : List (Nat × W32) → State → State
  | [], s => s
  | (k, w) :: rest, s =>
    let t := nextOf (runWord k w (atSlot k rest s)) s
    if t.cur.stopped then t
    else trialSlots rest { t with cur := { t.cur with done := t.cur.done ||| BitVec.ofNat 8 (2 ^ k) } }

/-- Does the stream issue in this cycle? -/
def issuing (s : State) (c : Nat) (t : Bool) : Bool := (s.core c).frozen.isNone && (s.st c t).ph.issues

/-- The cursor before the first slot of a bundle that issues. -/
def cursorAt (c : Nat) (t : Bool) (b : Bundle) (s : State) : Cursor :=
  let y := s.st c t
  { core := c, sec := t, pc := y.pc, len := b.len, rnd := b.head.rnd, sat := b.head.sat, prof := b.head.prof.toNat,
    slot := 0, done := y.done, part := y.part, present := b.head.mask, hidle := b.head.idle.toNat, todo := b.rest y.done,
    drawers := drawersOf b.words, ahead := none, start := if t then s.cur.start else some (s.seat c), trial := false,
    stopped := false }

/-- A bundle's slots run on trial. -/
def trialOf (s : State) : State := trialSlots s.cur.todo { s with cur := { s.cur with trial := true } }

/-- The secondary's bundle of the cycle, if it issues one, runs on trial after the primary's. -/
def trialSec (c : Nat) (s : State) : State :=
  if issuing s c true then
    match fetch s c true with
    | .ok b => trialOf { s with cur := cursorAt c true b s }
    | .error _ => s
  else s

/-- Deterministic mode: what the core will be once the engine commands of the cycle's bundles have taken their tiles (R121,
R212). -/
def aheadOf (s : State) : Option Seat :=
  let det := match s.cst.task with | some t => t.det | none => false
  let z := trialOf s
  if det then some ((if s.cur.sec then z else trialSec s.cur.core z).seat s.cur.core) else none

/-- A task's bundle that issues has been passed by breakpoints; a handler's leave the task's as they are (R412). -/
def passBp (c : Nat) (t : Bool) (s : State) : State :=
  let y := s.st c t
  if y.bpSkip ∧ y.sys.sup = false then s.putSt c t { y with bpSkip := false } else s

/-- The cursor stands before the first slot of a bundle that issues. -/
def openBundle (c : Nat) (t : Bool) (b : Bundle) (s : State) : State :=
  let s := passBp c t s
  let s := { s with cur := cursorAt c t b s }
  { s with cur := { s.cur with ahead := aheadOf s } }

/-- A fetch that traps: no slot of the bundle issues (R152, R384, R392). -/
def fetchTrap (c : Nat) (t : Bool) (code : Nat) (s : State) : State :=
  let a := (s.st c t).pc
  let s := if code = tcECC then s.setUE else s
  takeTrap c t { code := code, slot := 0, asy := false, done := 0, arg := 0, tpc := a, top := a, tfr := noTfr } true s

/-- The primary's turn to issue is over: the secondary's bundle comes with the core as it stood before. -/
def passTurn (c : Nat) (s : State) : State := { s with cur := { s.cur with start := some (s.seat c) }, turn := .issue c true }

/-- Stream `t` of core `c` issues the first slot of its bundle. -/
def issueStep (c : Nat) (t : Bool) (s : State) : Host.Outcome State Fault Refusal :=
  if issuing s c t then
    match fetch s c t with
    | .error code => .next (fetchTrap c t code (if t then { s with turn := .issue (c + 1) false } else passTurn c s))
    | .ok b => slotStep (openBundle c t b s)
  else
    match t with
    | false => .next (passTurn c s)
    | true =>
      match heldFrom s (c + 1) with
      | some d => .next { s with turn := .issue d false }
      | none => .next { s with turn := .after 0 }

/-! ## The end of the cycle -/

/-- Entries of the channel table that CHW loaded take effect (R351). -/
def lateLandings (c : Nat) (s : State) (t : Bool) : State :=
  let y := s.st c t
  let isDue := fun (e : Landing) => decide (e.rem = 0) && e.late
  let put := fun (s : State) (e : Landing) => match e.dest with | .chan ch ws => putChan (s.ctxOf c) ch ws s | _ => s
  let held := match y.held with | some h => h.landing | none => []
  let es := (held ++ y.landing).filter isDue
  let s := (landsAs s c t es).foldl put (landsEcc c t es s)
  let y := s.st c t
  let keep := fun (l : List Landing) => l.filter fun e => !isDue e
  s.putSt c t { y with landing := keep y.landing, held := y.held.map fun h => { h with landing := keep h.landing } }

/-- The end of the cycle on core `c`: drops, sleeps, lost cycles; then wait limits, traps at the boundary and ends of tasks
(R194, R195, R222, R351, R386, R409). -/
def endCore (c : Nat) (s : State) : State :=
  let s := [false, true].foldl (lateLandings c) (applyDrops c s)
  [false, true].foldl (fun s t => devCycle c t (countSleep c t s)) s

def endMoves (c : Nat) : List Instr :=
  [false, true].flatMap fun t => [.waitLimitExpiry c t, .trapEntry c t, .taskEnd c t]

def afterStep (c : Nat) (s : State) : State :=
  let s := if c = 0 then { s with gangs := s.gangs.map (gangEnd s) } else s
  match heldFrom s c with
  | none => { s with turn := .close }
  | some d => { endCore d s with agenda := endMoves d, turn := .after (d + 1) }

/-- The record of a trap entered in this cycle (R411): no slot where the condition names no operation. -/
def enterRecord (c : Nat) (s : State) (t : Bool) : State :=
  let y := s.st c t
  if y.entered = false then s
  else
    let r := y.trap
    let noSlot := r.code = tcXLAT ∨ r.code = tcQUANT ∨ r.code = tcDBG ∨ r.code = tcHSIG
    let s := match (s.core c).owner with | some x => endDev x c t s | none => s
    let s := trapRec c t r.code r.cause r.top (if noSlot then 8 else r.slot) y.entWid s
    s.putSt c t { s.st c t with entered := false }

/-- Flags of routines that finished in this cycle may join in the next (R268). -/
def readyFlags (y : Stream) : Stream :=
  { y with pend := { y.pend with flagsIn := joinFlags y.pend.flagsIn y.pend.flagsNew, flagsNew := 0 } }

/-- What the temperature of a die asks for (R426): the trip, the first step of throttling, and one every millisecond. -/
def thermalDie (s : State) (d : Nat) : State :=
  let s := if tjTrip ≤ (s.die d).tj then nextOf (execThermalTrip d s) s else s
  let s := if tjWarn ≤ (s.die d).tj ∧ (s.die d).hot = false then nextOf (execThermalWarn d s) s else s
  nextOf (execThrottleStep d s) s

/-- The time base, the timers and the power ring at the end of a cycle (R282, R297, R302, R330, R370, R382). -/
def timers (s : State) : State :=
  let epoch := s.gtb.toNat / 64
  let s := { s with gtb := s.gtb + BitVec.ofNat 64 s.gtbStep, gtbStep := 1, cycle := s.cycle + 1 }
  let s := tickTimers s
  let s := s.launches.foldl (fun s l => nextOf (execLaunchAged l.id s) s) s
  let s := nextOf (execReduceResend (fadeBinds s)) s
  let s := nextOf (execTimeSend (resend s)) s
  let s := nextOf (execGtbCorrection (decide (0 < s.timeErr)) s) s
  let s := nextOf (execGtbokLoss s) s
  let s := s.ports.foldl (fun s p => nextOf (execPortDown p.1 s) s) s
  let s := (List.range 4).foldl thermalDie s
  if s.gtb.toNat / 64 = epoch then s else nextOf (execEpochBoundary s) s

/-- The cycle ends. -/
def closeStep (s : State) : State :=
  let s := (heldCores s).foldl (fun s c => enterRecord c (enterRecord c s false) true) s
  let s := settle ((s.cores.map fun e => e.1).foldl endStopped s)
  let s := { s with cores := s.cores.map fun e =>
    (e.1, { e.2 with seat := { e.2.seat with prim := readyFlags e.2.seat.prim, sec := readyFlags e.2.seat.sec, just := [] } }) }
  { timers s with turn := .start }

/-! ## Stopped clocks (R426) -/

/-- Every clock stands: STAGE is HALTED and TRIP is 1. A package whose HBM training failed is HALTED with its clocks running
(R425). -/
def State.clocksStand (s : State) : Bool := decide (s.stage = 5) && s.flag oTHERM 17


/-- Is it a read of a register by the host? LASTERR and TRIP say why the package stands, until a cold start resets them. -/
def isRegRead (i : Instr) : Bool :=
  match i with
  | .hostCxlIoWindowAccess a _ none => decide (rowOf (ioPlace a) = some .regs)
  | _ => false

/-- With every clock stopped nothing moves: of what the environment does only a cold start happens, and the registers can be read;
the rest is lost. Where nothing is to come, the machine stands for good. -/
def haltedStep (s : State) : Host.Outcome State Fault Refusal :=
  match s.agenda with
  | .coldStart :: es => execColdStart { s with agenda := es }
  | i :: es => if isRegRead i then exec i { s with agenda := es } else .next { s with agenda := es }
  | [] =>
    match s.inputs with
    | es :: more => .next (hostCycles 1 { s with agenda := es, inputs := more, upsets := s.upsets.drop 1 })
    | [] => .fault .clocksStopped

/-- The next thing that happens when no step is due: the cycle goes on by its turn. -/
def turnStep (s : State) : Host.Outcome State Fault Refusal :=
  match s.turn with
  | .start => .next (startStep s)
  | .returns => .next (returnsStep s)
  | .plan => .next (planStep s)
  | .tick c => .next (tickStep c s)
  | .joins => .next (joinsStep s)
  | .issue c t => issueStep c t s
  | .slot _ _ => slotStep s
  | .after c => .next (afterStep c s)
  | .close => .next (closeStep s)

/-! ## A word placed where the next step fetches (log entry 14) -/

/-- The slot in which a table word stands: the lowest of its class; none for a header. -/
def placeSlot (v : Nat) : Option Nat :=
  (majorClass (v / 2 ^ 26)).map fun k =>
    match k with
    | .c => 0
    | .s => 1
    | .m => 3
    | .v => 5
    | .e => 7

/-- The bytes of the bundle that holds a table word. -/
def placeBytes (v : Nat) : List Byte :=
  match placeSlot v with
  | none => wordBytes v
  | some k => wordBytes (2 ^ k) ++ wordBytes v

/-- Where it is placed: the start of the common region of core 0. -/
def placeAt : Nat := 0x8000

/-- The primary stream of core 0 stands before that bundle with a task, in a cycle in which it issues. -/
def placeStream (y : Stream) : Stream :=
  { y with
    task := match y.task with
      | some k => some { k with gang := none, lead := 0 }
      | none => some { launch := 0, wid := 0, fields := [], det := false, gang := none, gidx := 0, gsize := 0, lead := 0 }
    pc := placeAt, done := 0, part := .none, sameTick := false, stale := [], ph := .issue }

/-- Core 0 belongs to context 0 and holds the bundle. -/
def placeCore (v : Nat) (k : Core) : Core :=
  { k with
    owner := some 0
    frozen := none
    seat := { k.seat with prim := placeStream k.seat.prim, ispad := Mem.setBytes k.seat.ispad placeAt (placeBytes v), ibad := [] } }

end Sys2Proof.Machine
end

