-- ==== Sys2Proof/Machine/Step.lean ====
section
/-! DEFINITION. One step of the machine, and placing a word where the next step fetches. -/

namespace Sys2Proof.Machine

/-- One step: the first step that is due, or the next turn of the cycle. While every clock stands only a cold start happens. -/
def step (s : State) : Host.Outcome State Fault Refusal :=
  if s.clocksStand then haltedStep s
  else
    match s.agenda with
    | i :: rest => exec i { s with agenda := rest }
    | [] => turnStep s

/-- The instruction of `nbits` bits `w` stands where the next step fetches: core 0 runs a task of context 0, its primary stream
is about to issue the bundle that holds the word in the lowest slot of its class, and clocks run (log entry 14). -/
def State.withFetchWord (s : State) (_nbits w : Nat) : State :=
  { ((s.putCore 0 (placeCore (w % 2 ^ 32) (s.core 0))).setStage 4).setCtxState 0 1 with agenda := [], turn := .issue 0 false }

end Sys2Proof.Machine
end

