-- ==== Sys2Proof/Safety.lean ====
section
/-! DEFINITION. The words in which claims are made: what a slot leaves unchanged, what it posts, and when a memory is in
its canonical form. -/

namespace Sys2Proof.Machine

/-! ## Views: a state without the parts that a slot may change -/

/-- Everything of the machine but its cores, the cursor of the slot under way and the count of free values. -/
def State.rest (s : State) : State := { s with cores := [], cur := Cursor.reset, free := 0 }

/-- A core without what belongs to its context. -/
def Core.shell (k : Core) : Core := { k with seat := Seat.reset }

/-- What a context has on a core, without its streams and gather queues: scratchpads, tiles, engines and commands. -/
def Seat.shell (x : Seat) : Seat := { x with prim := Stream.reset, sec := Stream.reset, gq := [] }

/-- A stream without its pending results and accesses. -/
def Stream.settled (y : Stream) : Stream := { y with landing := [], acc := [], seq := 0 }

/-- What the queue reads of a slot leave of queue `n` (R109). -/
def leftOf (fs : List RegF) (n : Nat) (q : GQueue) : GQueue :=
  if fs.any fun f => isPop f && decide (f.toNat % 4 = n) then { q with dq := q.dq.drop 1 } else q

/-! ## What a slot leaves unchanged -/

/-- From `s` to `t` a slot with register fields `fs` changed nothing but pending results and accesses of its own stream, its
cursor, the heads of the queues it pops, and the count of free values. -/
structure Kept (s t : State) (fs : List RegF) : Prop where
  machine   : t.rest = s.rest
  place     : t.cur.core = s.cur.core ∧ t.cur.sec = s.cur.sec
  others    : ∀ c, c ≠ s.cur.core → t.core c = s.core c
  shell     : (t.core s.cur.core).shell = (s.core s.cur.core).shell
  seat      : (t.seat s.cur.core).shell = (s.seat s.cur.core).shell
  queues    : ∀ n, n < 4 → (t.seat s.cur.core).q n = leftOf fs n ((s.seat s.cur.core).q n)
  stream    : t.st s.cur.core (!s.cur.sec) = s.st s.cur.core (!s.cur.sec)
  own       : t.cst.settled = s.cst.settled
  registers : t.cst.regs = s.cst.regs
  system    : t.cst.sys = s.cst.sys
  traps     : t.cst.trap = s.cst.trap
  spadBytes : ∀ c a, Mem.byte (t.seat c).spad a = Mem.byte (s.seat c).spad a
  hbmBytes  : ∀ a, Mem.byte t.hbm a = Mem.byte s.hbm a

/-! ## How a slot completes -/

/-- No queue that the slot names is switched off (R109). -/
def QueuesLive (s : State) (fs : List RegF) : Prop := fs.any (deadQueue s) = false

/-- The slot completes; its result, for `d` with flags `fl`, lands `lat` ticks later. -/
def Posts (i : Instr) (s : State) (fs : List RegF) (d : Dest) (fl lat : Nat) : Prop :=
  ∃ t, exec i s = .next t ∧ Kept s t fs ∧ t.cur = s.cur ∧ t.cst.acc = s.cst.acc
    ∧ t.cst.landing = insLanding ⟨s.cst.seq, lat, fl, d, (s.cur.pc, s.cur.slot)⟩ s.cst.landing ∧ t.cst.seq = s.cst.seq + 1

/-- The slot completes; its scratchpad access `op` performs `rem` ticks later, and a loaded value lands `lat` ticks later. -/
def Starts (i : Instr) (s : State) (fs : List RegF) (op : AccOp) (rem lat : Nat) (al : Bool) : Prop :=
  ∃ t, exec i s = .next t ∧ Kept s t fs ∧ t.cur = s.cur ∧ t.cst.landing = s.cst.landing
    ∧ t.cst.acc = s.cst.acc ++ [⟨s.cst.seq, rem, lat, al, s.cycle, s.cur.pc, s.cur.slot, op⟩] ∧ t.cst.seq = s.cst.seq + 1

/-- The slot completes and does nothing beyond its queue reads. -/
def Passes (i : Instr) (s : State) (fs : List RegF) : Prop :=
  ∃ t, exec i s = .next t ∧ Kept s t fs ∧ t.cur = s.cur ∧ t.cst.landing = s.cst.landing ∧ t.cst.acc = s.cst.acc
    ∧ t.cst.seq = s.cst.seq

/-- Lanes with values and flags: posted for vector register `d` if there are any. -/
def PostsLanes (i : Instr) (s : State) (fs : List RegF) (d : RegF) (lat : Nat) (rs : List (Nat × Nat × Nat)) : Prop :=
  (rs = [] → Passes i s fs) ∧
  (rs ≠ [] → Posts i s fs (.v d.toNat (rs.map fun r => (r.1, BitVec.ofNat 32 r.2.1))) (lanesFlags rs) lat)

/-- The slot completes and asks for something at the end of its bundle: the cursor's requests become `p`. -/
def Asks (i : Instr) (s : State) (fs : List RegF) (p : Part) : Prop :=
  ∃ t, exec i s = .next t ∧ Kept s t fs ∧ t.cur = { s.cur with part := p } ∧ t.cst.landing = s.cst.landing
    ∧ t.cst.acc = s.cst.acc ∧ t.cst.seq = s.cst.seq

/-- The slot completes and transfers: the stream goes on at `target` after `idle` further idle ticks, with the bank exchanged
if `swap`; the transfer is recorded where branch records are enabled (`branchRec`); nothing else changes. -/
def Takes (i : Instr) (s : State) (fs : List RegF) (kind target idle : Nat) (swap : Bool) : Prop :=
  ∃ t, exec i s = .next t ∧ Kept (branchRec kind target s) t fs
    ∧ t.cur = { s.cur with part := { s.cur.part with goto := some (target, idle, swap) } }
    ∧ t.cst.landing = s.cst.landing ∧ t.cst.acc = s.cst.acc ∧ t.cst.seq = s.cst.seq

/-- The same with a result for a scalar register that lands one tick later (a link or a count). -/
def TakesWith (i : Instr) (s : State) (fs : List RegF) (d : RegF) (v : Word) (kind target idle : Nat) : Prop :=
  ∃ t, exec i s = .next t ∧ Kept (branchRec kind target s) t fs
    ∧ t.cur = { s.cur with part := { s.cur.part with goto := some (target, idle, false) } }
    ∧ t.cst.landing = insLanding ⟨s.cst.seq, 1, 0, .s d.toNat v, (s.cur.pc, s.cur.slot)⟩ s.cst.landing ∧ t.cst.acc = s.cst.acc
    ∧ t.cst.seq = s.cst.seq + 1

/-- The slot takes the precise trap `code` (R384). -/
def Traps (i : Instr) (s : State) (code arg : Nat) : Prop := exec i s = .next (slotTrap code arg s)

/-! ## Commands of the engine slot -/

/-- What a command with identity `id` takes is its own or is asked for in its order (R118, R119): every tile of the list; and,
where no take is pending and the tiles are CORE and no older core access still performs on them (R213), they pass to it at once
and no other tile changes. -/
structure TilesTaken (x y : Seat) (id cyc : Nat) (ts : List (Nat × Bool)) : Prop where
  asked : ∀ e, e ∈ ts → (⟨id, e.1, e.2, cyc⟩ : Take) ∈ y.takes ∨ (y.tile e.1).st = if e.2 then .engW else .engR
  free  : x.takes = [] → (∀ e, e ∈ ts → (x.tile e.1).st = .core ∧ x.oldAccess e.1 cyc = false) →
    y.takes = [] ∧ ∀ i, (y.tile i).st = if (i, true) ∈ ts then .engW else if (i, false) ∈ ts then .engR else (x.tile i).st

/-- From `s` to `t` an engine slot with register fields `fs` changed nothing but what is named: its seat is as `seat` says but
for the tiles, its stream's geometry sets may change, queues are popped, one identity is used. -/
structure Engaged (s t : State) (fs : List RegF) (seat : Seat) : Prop where
  machine   : t.rest = { s.rest with nextId := s.nextId + 1 }
  place     : t.cur = s.cur
  others    : ∀ c, c ≠ s.cur.core → t.core c = s.core c
  shell     : (t.core s.cur.core).shell = (s.core s.cur.core).shell
  seat      : (t.seat s.cur.core).shell =
    { seat.shell with takes := (t.seat s.cur.core).takes, tiles := (t.seat s.cur.core).tiles }
  queues    : ∀ n, n < 4 → (t.seat s.cur.core).q n = leftOf fs n ((s.seat s.cur.core).q n)
  stream    : t.st s.cur.core (!s.cur.sec) = s.st s.cur.core (!s.cur.sec)
  own       : t.cst = { s.cst with regs := { s.cst.regs with g := t.cst.regs.g } }

/-- The set `g` after the issue of a command that writes a record through it (R100, R338): CRNEXT and STAMP advance unless NOCR
is 1; nothing else of any set changes. -/
def SetAdvances (s t : State) (g : Nat) : Prop :=
  let w := (s.cst.regs.getG g 0).toNat
  let used := bitN w 0 = false
  ∀ j m, m < 24 →
    (¬(used ∧ j = g ∧ (m = 0 ∨ m = 5)) → t.cst.regs.getG j m = s.cst.regs.getG j m) ∧
    (used → j = g → m = 5 → t.cst.regs.getG j m = s.cst.regs.getG j m + 1) ∧
    (used → j = g → m = 0 →
      (t.cst.regs.getG j m).toNat / 2 ^ 4 % 256 = (w / 2 ^ 4 % 256 + 1) % 2 ^ (w / 2 ^ 12 % 16) ∧
      ∀ i, i < 64 → i < 4 ∨ 12 ≤ i → (t.cst.regs.getG j m).getLsbD i = (s.cst.regs.getG j m).getLsbD i)

/-- What a command captures of a set and its operands, before it moves anything (R56, R88, R100, R335). -/
def capturedCmd (s : State) (kind : CKind) (set : List Word) (a b : Word) : Cmd :=
  let w := (nth 0 set 0).toNat
  { id := s.nextId, kind := kind, org := originOf s, set := set, a := a, b := b, x := 0, e := 0, bytes := [], tiles := [],
    crec := ⟨bitN w 0, (nth 0 set 4).toNat % 2 ^ 56 / 16 * 16 + 16 * (w / 2 ^ 4 % 256), nth 0 set 5, w / 2 ^ 44 % 8⟩,
    place := true, after := [], next := 0, crc := 0xFFFFFFFF, flags := 0, status := 0, cause := 0, byte3 := 0, cut := false,
    olds := [], sum := 0, phase := 0 }

/-- The engine slot completes: the command `k` joins its core's commands and asks for its tiles, and what `more` says holds. -/
def Joins (i : Instr) (s : State) (fs : List RegF) (k : Cmd) (more : State → Prop) : Prop :=
  ∃ t, exec i s = .next t ∧ more t
    ∧ Engaged s t fs { s.seat s.cur.core with cmds := (s.seat s.cur.core).cmds ++ [k] }
    ∧ TilesTaken (s.seat s.cur.core) (t.seat s.cur.core) s.nextId s.cycle k.tiles

/-! ## FP32 values -/

/-- Is it the code of a number of FP32? -/
def f32Finite (w : Nat) : Prop := w < 2 ^ 32 ∧ w / 2 ^ 23 % 256 ≠ 255

/-- The value of a finite FP32 code, in units of 2^-149. -/
def f32Units (w : Nat) : Int :=
  let n : Nat := if w / 2 ^ 23 % 256 = 0 then w % 2 ^ 23 else (w % 2 ^ 23 + 2 ^ 23) * 2 ^ (w / 2 ^ 23 % 256 - 1)
  if w / 2 ^ 31 % 2 = 1 then -(n : Int) else n

/-- `r` is the code and the flags of the exact value of `x` units of 2^-(149 + k) rounded once to FP32, to the nearest and of two
equally near to the even one (R32, R33, R35, R226): an infinity with OF and NX from 2^128 - 2^103 on; UF with NX where the value
is below the smallest normal after rounding with an unbounded exponent and inexact. -/
structure RoundsTo (k : Nat) (x : Int) (r : Nat × Nat) : Prop where
  code : r.1 < 2 ^ 32
  sign : x ≠ 0 → (2 ^ 31 ≤ r.1 ↔ x < 0)
  beyond : (2 ^ 25 - 1) * 2 ^ (252 + k) ≤ x.natAbs → r.1 % 2 ^ 31 = 0x7F800000 ∧ r.2 = 5
  near : x.natAbs < (2 ^ 25 - 1) * 2 ^ (252 + k) → f32Finite r.1 ∧ ∀ z, f32Finite z →
    (x - f32Units r.1 * 2 ^ k).natAbs < (x - f32Units z * 2 ^ k).natAbs ∨ f32Units z = f32Units r.1 ∨
      ((x - f32Units r.1 * 2 ^ k).natAbs = (x - f32Units z * 2 ^ k).natAbs ∧ r.1 % 2 = 0)
  flags : x.natAbs < (2 ^ 25 - 1) * 2 ^ (252 + k) →
    r.2 = if f32Units r.1 * 2 ^ k = x then 0 else if 4 * x.natAbs < (2 ^ 25 - 1) * 2 ^ k then 3 else 1

/-! ## Which slots -/

/-- The guard of a guarded slot (R170, R182): a predicate whose falsehood keeps the slot from performing. -/
def guardOf (i : Instr) : Option F3 :=
  match i with
  | .jmp _ k => some k
  | .callr _ _ k => some k
  | .ret _ k => some k
  | .setf _ _ k => some k
  | .waita _ _ k _ _ => some k
  | .add _ _ _ k => some k
  | .sub _ _ _ k => some k
  | .mul _ _ _ k => some k
  | .mulh _ _ _ k => some k
  | .mulhu _ _ _ k => some k
  | .divs _ _ _ k => some k
  | .divu _ _ _ k => some k
  | .rems _ _ _ k => some k
  | .remu _ _ _ k => some k
  | .and _ _ _ k => some k
  | .or _ _ _ k => some k
  | .xor _ _ _ k => some k
  | .andn _ _ _ k => some k
  | .shl _ _ _ k => some k
  | .shr _ _ _ k => some k
  | .sar _ _ _ k => some k
  | .min _ _ _ k => some k
  | .max _ _ _ k => some k
  | .minu _ _ _ k => some k
  | .maxu _ _ _ k => some k
  | .clz _ _ k => some k
  | .ctz _ _ k => some k
  | .popc _ _ k => some k
  | .cmp _ _ _ k _ => some k
  | .pand _ _ _ k => some k
  | .por _ _ _ k => some k
  | .pxor _ _ _ k => some k
  | .pnot _ _ k => some k
  | .amoAdd _ _ _ k _ => some k
  | .amoMax _ _ _ k _ => some k
  | .amoMin _ _ _ k _ => some k
  | .amoSwap _ _ _ k _ => some k
  | .amoCas _ _ _ k _ => some k
  | .qpush _ _ k => some k
  | .qdrop _ k => some k
  | _ => none

/-- Slots that only post results, start accesses, or ask for a wait or the end of the task: no engine command, no transfer, no
queue operation, no report, no tile control. -/
def postsOnly (s : State) (i : Instr) : Bool :=
  match i with
  | .sysr _ n => decide (n ≠ 0x109)
  | .sysw _ n => decide (n ≠ 0x30)
  | .vcvt _ _ _ _ _ _ => decide (s.cur.rnd ≠ .sr)
  | .vcvtF32Fx128Lo _ _ _ _ _ => decide (s.cur.rnd ≠ .sr)
  | .vcvtF32Fx128Hi _ _ _ _ _ => decide (s.cur.rnd ≠ .sr)
  | .vaccrd _ _ _ _ => decide (s.cur.rnd ≠ .sr) && !(s.seat s.cur.core).mxe.ecc
  | .vdrop _ _ _ _ c => decide (clusterSet s c = 0)
  | .idle _ _ _ _ => true
  | .setf _ _ _ => true
  | .waita _ _ _ _ _ => true
  | .waito _ _ => true
  | .tend => true
  | .add _ _ _ _ => true
  | .sub _ _ _ _ => true
  | .mul _ _ _ _ => true
  | .mulh _ _ _ _ => true
  | .mulhu _ _ _ _ => true
  | .divs _ _ _ _ => true
  | .divu _ _ _ _ => true
  | .rems _ _ _ _ => true
  | .remu _ _ _ _ => true
  | .and _ _ _ _ => true
  | .or _ _ _ _ => true
  | .xor _ _ _ _ => true
  | .andn _ _ _ _ => true
  | .shl _ _ _ _ => true
  | .shr _ _ _ _ => true
  | .sar _ _ _ _ => true
  | .min _ _ _ _ => true
  | .max _ _ _ _ => true
  | .minu _ _ _ _ => true
  | .maxu _ _ _ _ => true
  | .clz _ _ _ => true
  | .ctz _ _ _ => true
  | .popc _ _ _ => true
  | .sel _ _ _ _ => true
  | .addi _ _ _ => true
  | .andi _ _ _ => true
  | .ori _ _ _ => true
  | .xori _ _ _ => true
  | .shli _ _ _ => true
  | .shri _ _ _ => true
  | .sari _ _ _ => true
  | .lui _ _ => true
  | .lhi _ _ => true
  | .ltop _ _ => true
  | .ext _ _ _ _ => true
  | .ins _ _ _ _ => true
  | .widx _ _ => true
  | .cmp _ _ _ _ _ => true
  | .cmpi _ _ _ _ => true
  | .pand _ _ _ _ => true
  | .por _ _ _ _ => true
  | .pxor _ _ _ _ => true
  | .pnot _ _ _ => true
  | .ldB _ _ _ _ => true
  | .ldH _ _ _ _ => true
  | .ldW _ _ _ _ => true
  | .ldD _ _ _ _ => true
  | .lduB _ _ _ _ => true
  | .lduH _ _ _ _ => true
  | .lduW _ _ _ _ => true
  | .stB _ _ _ _ => true
  | .stH _ _ _ _ => true
  | .stW _ _ _ _ => true
  | .stD _ _ _ _ => true
  | .vld _ _ _ _ _ => true
  | .vldb _ _ _ _ _ => true
  | .vldt _ _ _ _ _ => true
  | .vst _ _ _ _ _ => true
  | .vstt _ _ _ _ _ => true
  | .vlds _ _ _ _ _ _ => true
  | .vsts _ _ _ _ _ _ => true
  | .amoAdd _ _ _ _ _ => true
  | .amoMax _ _ _ _ _ => true
  | .amoMin _ _ _ _ _ => true
  | .amoSwap _ _ _ _ _ => true
  | .amoCas _ _ _ _ _ => true
  | .vldkKbf7 _ _ _ _ _ => true
  | .vldkKbf4 _ _ _ _ _ => true
  | .vldkKbf2 _ _ _ _ _ => true
  | .vstkKbf7 _ _ _ _ _ => true
  | .vstkKbf4 _ _ _ _ _ => true
  | .vstkKbf2 _ _ _ _ _ => true
  | .vaddI32 _ _ _ _ _ => true
  | .vsubI32 _ _ _ _ _ => true
  | .vmulI32 _ _ _ _ _ => true
  | .vmulh _ _ _ _ _ => true
  | .vand _ _ _ _ _ => true
  | .vor _ _ _ _ _ => true
  | .vxor _ _ _ _ _ => true
  | .vabsI32 _ _ _ _ => true
  | .vshl _ _ _ _ _ => true
  | .vshr _ _ _ _ _ => true
  | .vsar _ _ _ _ _ => true
  | .vminI32 _ _ _ _ _ => true
  | .vmaxI32 _ _ _ _ _ => true
  | .vminU32 _ _ _ _ _ => true
  | .vmaxU32 _ _ _ _ _ => true
  | .vaddF32 _ _ _ _ _ => true
  | .vsubF32 _ _ _ _ _ => true
  | .vmulF32 _ _ _ _ _ => true
  | .vfmaF32 _ _ _ _ _ => true
  | .vminF32 _ _ _ _ _ => true
  | .vmaxF32 _ _ _ _ _ => true
  | .vdot2Bf16 _ _ _ _ _ => true
  | .vabsF32 _ _ _ _ => true
  | .vnegF32 _ _ _ _ => true
  | .vcpysF32 _ _ _ _ _ => true
  | .vcmpF32 _ _ _ _ _ _ => true
  | .vcmpI32 _ _ _ _ _ _ => true
  | .vmov _ _ _ _ => true
  | .vsel _ _ _ _ _ => true
  | .vbcast _ _ _ _ => true
  | .vextr _ _ _ _ _ => true
  | .vins _ _ _ _ _ => true
  | .vperm _ _ _ _ _ => true
  | .vxcl _ _ _ _ _ => true
  | .viota _ _ _ => true
  | .vredaddF32 _ _ _ _ => true
  | .vredaddI32 _ _ _ _ => true
  | .vredmaxF32 _ _ _ _ => true
  | .vredmaxI32 _ _ _ _ => true
  | .vredminF32 _ _ _ _ => true
  | .vredminI32 _ _ _ _ => true
  | .vrcp _ _ _ _ => true
  | .vrcpr _ _ _ _ _ => true
  | .vrsq _ _ _ _ => true
  | .vrsqr _ _ _ _ _ => true
  | .vsqrt _ _ _ _ => true
  | .vexp2 _ _ _ _ => true
  | .vlog2 _ _ _ _ => true
  | .vsin _ _ _ _ => true
  | .vcos _ _ _ _ => true
  | .vrand _ _ _ => true
  | .vrandf _ _ _ => true
  | .vtopk _ _ _ _ _ => true
  | .vmergek _ _ _ _ _ => true
  | .mpset _ _ => true
  | .gset _ _ => true
  | .chw _ _ => true
  | .kilnr _ => true
  | _ => false

/-! ## Canonical memories -/

/-- The memories that a context has on a core are in their canonical form. -/
def Seat.memWf (x : Seat) : Bool := Mem.wf x.spad && Mem.wf x.ispad

/-- Every memory and every scratchpad of the machine is in its canonical form, those of contexts off their cores included. -/
def State.memWf (s : State) : Bool :=
  Mem.wf s.hbm && Mem.wf s.hostMem && Mem.wf s.staging
    && (s.cores.all fun e => e.2.seat.memWf && Mem.wf e.2.svr)
    && s.ctxs.all fun e => e.2.saved.all fun f => f.2.memWf

end Sys2Proof.Machine
end

