-- ==== Sys2Proof/Certificates/Slice0/Obligations.lean ====
section
/-! DEFINITION. What is claimed of the model: one statement each, from the numbered rules of the spec. -/

section

open Sys2Proof Sys2Proof.Machine

/-! ## Encoding (R151, R152, R169 to R181) -/

/-- R169 to R178: every well-formed instruction that has a word decodes from that word, alone and in a slot of its class. -/
def Obligations.DecodeInvertsEncode : Prop :=
  ∀ (i : Instr) (w : Nat), i.wellFormed = true → encode i = some w →
    w < 2 ^ 32 ∧ decodeTableWord 32 w = some i ∧
      ∀ k, majorClass (nfld w 26 6) = some k → decodeSlot k w = .ok i

/-- R178: a word that decodes is the word of the instruction it decodes to, and that instruction is well formed: no bit of a
word is ignored. -/
def Obligations.EncodeInvertsDecode : Prop :=
  ∀ (w : Nat) (i : Instr), w < 2 ^ 32 → decodeTableWord 32 w = some i → i.wellFormed = true ∧ encode i = some w

/-- R178: a word of another class traps SLOT in a slot, and a word without an instruction traps ILLI; nothing else happens. -/
def Obligations.BadWordsTrapAtTheirSlot : Prop :=
  (∀ (k : Nat) (w : W32) (cls : SlotClass), majorClass (nfld w.toNat 26 6) = some cls → cls ≠ slotClass k →
    ∀ s : State, runWord k w s = .next (slotTrap tcSLOT 0 s)) ∧
  (∀ (k : Nat) (w : W32), majorClass (nfld w.toNat 26 6) = none → ∀ s : State, runWord k w s = .next (slotTrap tcILLI 0 s)) ∧
  (∀ (k : Nat) (w : W32), majorClass (nfld w.toNat 26 6) = some (slotClass k) → decodeTableWord 32 w.toNat = none →
    ∀ s : State, runWord k w s = .next (slotTrap tcILLI 0 s))

/-- R179 to R181: a well-formed micro-operation decodes, for its core, from its microword, and a microword that decodes is that of the
micro-operation it decodes to. -/
def Obligations.MicrowordsRoundTrip : Prop :=
  (∀ (i : Instr) (w : Nat), i.wellFormed = true → encodeMicro i = some w → w < 2 ^ 64 ∧ ∃ c, decodeMicro c w = some i) ∧
  (∀ (c : Nat) (w : Nat) (i : Instr), w < 2 ^ 64 → decodeMicro c w = some i → encodeMicro i = some w)

/-- R169 to R177: words written out from the encodings of the spec, one or more of each slot class, and what they decode to. -/
def Obligations.SampleWordsDecode : Prop :=
  -- IDLE of 5 ticks: header bits 23:18
  decodeTableWord 32 (5 * 2 ^ 18) = some (.idle 5 false .rne 0) ∧
  -- LOOPI s1, 4, offset 0: major 5
  decodeTableWord 32 0x14110000 = some (.loopi 1 4 0) ∧
  -- WAITA.EQ.SYSTEM s2, s3: major 7
  decodeTableWord 32 0x1C008310 = some (.waita 2 3 0 .system .eq) ∧
  decodeTableWord 32 0x24000000 = some .tend ∧
  -- ADDI s4, s4, 3: major 12
  decodeTableWord 32 0x30410003 = some (.addi 4 4 3) ∧
  -- LUI, ORI, LHI, LTOP of R206
  decodeTableWord 32 0x44589ABC = some (.lui 5 0x89ABC) ∧
  decodeTableWord 32 0x38514DEF = some (.ori 5 5 0xDEF) ∧
  decodeTableWord 32 0x48534567 = some (.lhi 5 0x34567) ∧
  decodeTableWord 32 0x4C500012 = some (.ltop 5 0x012) ∧
  -- LD.B s3, offset 1 from s2: major 24
  decodeTableWord 32 (24 * 2 ^ 26 + 3 * 2 ^ 20 + 2 * 2 ^ 14 + 1) = some (.ldB 3 2 false 1) ∧
  -- VADD.I32 v1, v2, v3 under k4 in set A: major 42
  decodeTableWord 32 (42 * 2 ^ 26 + 1 * 2 ^ 20 + 2 * 2 ^ 14 + 3 * 2 ^ 8 + 4 * 2 ^ 5 + 1 * 2 ^ 3) = some (.vaddI32 1 2 3 4 .a) ∧
  -- EFENCE of set 2 at scope 4: major 62
  decodeTableWord 32 (0xF8001000 + 2 * 2 ^ 3 + 4) = some (.efence 2 .system)

/-! ## A step runs the decoded instruction -/

/-- One step of the machine is the step that is due first.

A step in which a stream issues runs the instruction that the lowest present slot's word decodes to, with the cursor on
that slot; a later step runs the next slot's; a bundle without slots is IDLE. Where the environment brings an uncorrectable
error into a register or queue entry that the slot reads (R392), its destination receives free values (`execBad`, log entry 3).
As the bundle issues nothing of the cores changes but that the stream's next bundles can match breakpoints (`passBp`, R412). -/
def Obligations.StepRunsTheDecodedInstruction : Prop :=
  (
    ∀ (s : State) (i : Instr) (rest : List Instr), s.clocksStand = false → s.agenda = i :: rest →
      step s = exec i { s with agenda := rest }
  ) ∧ (
    (∀ (s : State) (c : Nat) (t : Bool) (b : Bundle) (k : Nat) (w : W32) (more : List (Nat × W32)) (i : Instr),
      s.clocksStand = false → s.agenda = [] → s.turn = .issue c t → issuing s c t = true → fetch s c t = .ok b →
      (openBundle c t b s).cur.todo = (k, w) :: more → decodeSlot (slotClass k) w.toNat = .ok i →
        let z := atSlot k more (openBundle c t b s)
        step s = thenSlot k w z.cst.seq (if (.read c t k : Upset) ∈ s.upset then execBad i z else exec i z)) ∧
    (∀ (s : State) (c : Nat) (t : Bool) (b : Bundle),
      s.clocksStand = false → s.agenda = [] → s.turn = .issue c t → issuing s c t = true → fetch s c t = .ok b →
      let z := openBundle c t b s
      z.cur.todo = b.rest (s.st c t).done ∧ z.cur.pc = (s.st c t).pc ∧ z.cur.len = b.len ∧ z.cur.core = c ∧ z.cur.sec = t ∧
        z.cores = (passBp c t s).cores ∧ z.hbm = s.hbm) ∧
    (∀ (s : State) (c : Nat) (t : Bool) (k : Nat) (w : W32) (more : List (Nat × W32)) (i : Instr),
      s.clocksStand = false → s.agenda = [] → s.turn = .slot c t → s.cur.todo = (k, w) :: more →
      decodeSlot (slotClass k) w.toNat = .ok i →
        step s = thenSlot k w s.cst.seq (if (.read s.cur.core s.cur.sec k : Upset) ∈ s.upset then execBad i (atSlot k more s)
          else exec i (atSlot k more s))) ∧
    (∀ (s : State) (c : Nat) (t : Bool), s.clocksStand = false → s.agenda = [] → s.turn = .slot c t → s.cur.todo = [] →
      ∃ u, exec (.idle (BitVec.ofNat 6 s.cur.hidle) s.cur.sat s.cur.rnd (BitVec.ofNat 6 s.cur.prof)) s = .next u ∧
        step s = .next (finishBundle u))
  )

/-- R151, R152, R127: a stream that issues fetches the header at its address, the words of the present slots at the addresses
that follow, and no other byte: here for user code in the common region whose words no write has left open and no error has
struck. -/
def Obligations.FetchReadsTheBundleAtPc : Prop :=
  ∀ (s : State) (c : Nat) (t : Bool) (h : Header),
    let a := (s.st c t).pc
    let n := (slotsOf h.mask).length
    let word := fun o => Mem.num (s.seat c).ispad o 4
    (∀ k, (s.st c t).task = some k → k.gang = none) → (s.st c t).stale = [] → (s.seat c).ibad = [] →
    a % 4 = 0 → 0x8000 ≤ a → a + 4 + 4 * n ≤ 0x10000 → decodeHeader (word a) = .ok h →
      fetch s c t = .ok ⟨h, 4 + 4 * n, (slotsOf h.mask).mapIdx fun j k => (k, BitVec.ofNat 32 (word (a + 4 + 4 * j)))⟩

/-! ## Reset and fixed registers -/

/-- R144, R49, R123, R106, R381: the reset values the spec gives, as a stream of any core reads them at reset. The memories are
in the model's canonical form there (log entry 65), with which MemoriesStayCanonical begins. -/
def Obligations.ResetValues : Prop :=
  ∀ (c : Nat) (t : Bool),
    let v := sysRead State.reset c t
    v 0x000 = 0 ∧ v 0x001 = word (b2n t) ∧ v 0x002 = 0 ∧ v 0x003 = 0xFF ∧ v 0x004 = 0xFF ∧ v 0x005 = 0 ∧ v 0x009 = 0 ∧
    (∀ n, n < 8 → v (0x10 + n) = if n = 7 then 1 else 0) ∧
    v 0x00A = word (6144 * 2 ^ 32 + 96) ∧ v 0x031 = 0 ∧ v 0x032 = 0 ∧
    (∀ n, n < 4 → v (0x40 + n) = 0 ∧ v (0x44 + n) = 0 ∧ v (0x48 + n) = 0 ∧ v (0x4C + n) = 0) ∧
    (∀ n, n < 16 → v (0x20 + n) = 0x3F800000) ∧ (∀ n, n < 4 → v (0x50 + n) = 0) ∧
    State.reset.stage = 0 ∧ (∀ x, x < 16 → State.reset.ctxState x = 0) ∧ (State.reset.core c).tok = 96 ∧
    State.reset.memWf = true

/-- R142: s0 reads zero, p0 true and k0 all ones, and writes to them are discarded: the landing of any result for them leaves
every register as it is. A register field of 56 to 63 reads the head of queue (field mod 4), and a lower one its register. -/
def Obligations.FixedRegisters : Prop :=
  ∀ (s : State) (c : Nat) (t : Bool) (e : Landing) (f : RegF),
    (∀ r : Regs, r.getS 0 = 0 ∧ r.getP 0 = true ∧ r.getK 0 = BitVec.allOnes 128) ∧
    rdS s 0 = 0 ∧ rdP s 0 = true ∧ rdK s 0 = BitVec.allOnes 128 ∧
    ((∃ v, e.dest = .s 0 v) ∨ (∃ v, e.dest = .p 0 v) ∨ (∃ bs, e.dest = .k 0 bs) →
      ((landOne c t s e).st c t).regs = (s.st c t).regs) ∧
    (f.toNat < 56 → rdS s f = s.cst.regs.getS f.toNat) ∧
    (∀ d ds, 56 ≤ f.toNat → ((s.seat s.cur.core).q (f.toNat % 4)).dq = d :: ds →
      (d.vec = false → rdS s f = BitVec.ofNat 64 (leNat d.bytes)) ∧
      (d.vec = true → ∀ l, rdV s f l = BitVec.ofNat 32 (leNat ((d.bytes.drop (4 * l)).take 4))))

/-! ## Every slot (R109, R154) -/

/-- R109 item 4: a slot that names a queue whose EN is 0 traps QERR and does nothing else.

R154, R182: a guarded slot whose guard is false performs nothing but its queue reads: no result, no access, no trap of its
own, no command. -/
def Obligations.DeadQueuesAndFalseGuards : Prop :=
  (
    ∀ (i : Instr) (s : State), ¬ QueuesLive s (queueFields i) → Traps i s tcQERR 0
  ) ∧ (
    ∀ (i : Instr) (k : F3) (s : State), guardOf i = some k → rdP s k = false → QueuesLive s (queueFields i) →
      Passes i s (queueFields i)
  )

/-- R145, R154: at its issue a slot that writes registers, loads or stores changes no register, no flag, no system or trap
register, no byte of any memory, no tile and nothing of any other stream, core or unit: its result lands later, and its access
performs later. -/
def Obligations.ResultSlotsFrame : Prop :=
  ∀ (i : Instr) (s t : State), postsOnly s i = true → exec i s = .next t → t.cur.stopped = false → Kept s t (queueFields i)

/-! ## Scalar slots (R200 to R210) -/

/-- R201, R202: results and latencies of the three-register operations of major 11. -/
def Obligations.ThreeRegisterResults : Prop :=
  ∀ (s : State) (d a b : RegF) (k : F3), QueuesLive s [a, b] → rdP s k = true →
    let x := rdS s a
    let y := rdS s b
    let gives := fun (i : Instr) (lat : Nat) (v : Word) => Posts i s [a, b] (.s d.toNat v) 0 lat
    gives (.add d a b k) 1 (x + y) ∧ gives (.sub d a b k) 1 (x - y) ∧ gives (.mul d a b k) 3 (x * y) ∧
    gives (.mulh d a b k) 3 ((x.signExtend 128 * y.signExtend 128).extractLsb' 64 64) ∧
    gives (.mulhu d a b k) 3 ((x.zeroExtend 128 * y.zeroExtend 128).extractLsb' 64 64) ∧
    gives (.and d a b k) 1 (x &&& y) ∧ gives (.or d a b k) 1 (x ||| y) ∧ gives (.xor d a b k) 1 (x ^^^ y) ∧
    gives (.andn d a b k) 1 (x &&& ~~~ y) ∧
    gives (.shl d a b k) 1 (x <<< (y &&& 63)) ∧ gives (.shr d a b k) 1 (x >>> (y &&& 63)) ∧
    gives (.sar d a b k) 1 (x.sshiftRight' (y &&& 63)) ∧
    gives (.min d a b k) 1 (if x.sle y then x else y) ∧ gives (.max d a b k) 1 (if y.sle x then x else y) ∧
    gives (.minu d a b k) 1 (if x ≤ y then x else y) ∧ gives (.maxu d a b k) 1 (if y ≤ x then x else y)

/-- R201: the counts of CLZ, CTZ and POPC, landing after 2 ticks.

R201, R202: division never traps; quotients truncate toward zero, remainders are a minus b times the quotient, and the
special cases of R202 hold; every result lands after 20 ticks. -/
def Obligations.CountAndDivisionResults : Prop :=
  (
    ∀ (s : State) (d a : RegF) (k : F3), QueuesLive s [a] → rdP s k = true →
      let x := rdS s a
      let gives := fun (i : Instr) (n : Nat) => Posts i s [a] (.s d.toNat (word n)) 0 2
      ∃ l t p : Nat, gives (.clz d a k) l ∧ gives (.ctz d a k) t ∧ gives (.popc d a k) p ∧
        l ≤ 64 ∧ (∀ j, j < l → x.getLsbD (63 - j) = false) ∧ (l < 64 → x.getLsbD (63 - l) = true) ∧
        t ≤ 64 ∧ (∀ j, j < t → x.getLsbD j = false) ∧ (t < 64 → x.getLsbD t = true) ∧
        p = ((List.range 64).filter fun j => x.getLsbD j).length
  ) ∧ (
    ∀ (s : State) (d a b : RegF) (k : F3), QueuesLive s [a, b] → rdP s k = true →
      let x := rdS s a
      let y := rdS s b
      let gives := fun (i : Instr) (v : Word) => Posts i s [a, b] (.s d.toNat v) 0 20
      ∃ q r qu ru : Word, gives (.divs d a b k) q ∧ gives (.rems d a b k) r ∧ gives (.divu d a b k) qu ∧ gives (.remu d a b k) ru ∧
        (y = 0 → q = BitVec.allOnes 64 ∧ r = x ∧ qu = BitVec.allOnes 64 ∧ ru = x) ∧
        (x = BitVec.intMin 64 ∧ y = BitVec.allOnes 64 → q = BitVec.intMin 64 ∧ r = 0) ∧
        (y ≠ 0 → ¬ (x = BitVec.intMin 64 ∧ y = BitVec.allOnes 64) → q.toInt = Int.tdiv x.toInt y.toInt) ∧
        (y ≠ 0 → qu.toNat = x.toNat / y.toNat) ∧ r = x - y * q ∧ ru = x - y * qu
  )

/-- R203 to R206: SEL, the immediate operations and the constants, landing after one tick.

R207, R208: EXT and INS bit by bit (`w` is the width minus 1), and WIDX of a task. -/
def Obligations.ImmediateAndBitFieldResults : Prop :=
  (
    ∀ (s : State) (d a b : RegF) (k : F3) (i14 : BitVec 14) (n : BitVec 6) (i20 : BitVec 20) (i12 : BitVec 12),
      let x := rdS s a
      let gives := fun (i : Instr) (fs : List RegF) (v : Word) => Posts i s fs (.s d.toNat v) 0 1
      (QueuesLive s [a, b] → gives (.sel d a b k) [a, b] (if rdP s k then x else rdS s b)) ∧
      (QueuesLive s [a] →
        gives (.addi d a i14) [a] (x + i14.signExtend 64) ∧ gives (.andi d a i14) [a] (x &&& i14.signExtend 64) ∧
        gives (.ori d a i14) [a] (x ||| i14.signExtend 64) ∧ gives (.xori d a i14) [a] (x ^^^ i14.signExtend 64) ∧
        gives (.shli d a n) [a] (x <<< n) ∧ gives (.shri d a n) [a] (x >>> n) ∧ gives (.sari d a n) [a] (x.sshiftRight' n)) ∧
      gives (.lui d i20) [] (i20.signExtend 64 <<< 12) ∧
      (∃ v, gives (.lhi d i20) [] v ∧
        ∀ j, j < 64 → v.getLsbD j = if 32 ≤ j ∧ j < 52 then i20.getLsbD (j - 32) else (rdS s d).getLsbD j) ∧
      (∃ v, gives (.ltop d i12) [] v ∧
        ∀ j, j < 64 → v.getLsbD j = if 52 ≤ j then i12.getLsbD (j - 52) else (rdS s d).getLsbD j)
  ) ∧ (
    ∀ (s : State) (d a : RegF) (w p : BitVec 6) (f : F3),
      let x := rdS s a
      let gives := fun (i : Instr) (fs : List RegF) (v : Word) => Posts i s fs (.s d.toNat v) 0 1
      (QueuesLive s [a] → p.toNat + w.toNat + 1 ≤ 64 →
        (∃ v, gives (.ext d a w p) [a] v ∧
          ∀ j, j < 64 → v.getLsbD j = if j ≤ w.toNat then x.getLsbD (p.toNat + j) else false) ∧
        (∃ v, gives (.ins d a w p) [a] v ∧
          ∀ j, j < 64 → v.getLsbD j =
            if p.toNat ≤ j ∧ j ≤ p.toNat + w.toNat then x.getLsbD (j - p.toNat) else (rdS s d).getLsbD j)) ∧
      (∀ k, s.cst.task = some k →
        (f.toNat = 6 → gives (.widx d f) [] k.wid) ∧
        (f.toNat < 6 → ∃ v, gives (.widx d f) [] v ∧
          v.toNat = k.wid.toNat / 2 ^ (nth (0, 0) k.fields f.toNat).1 % 2 ^ (nth (0, 0) k.fields f.toNat).2))
  )

/-- R209, R210: compares and predicate operations, landing in a predicate after one tick. -/
def Obligations.PredicateResults : Prop :=
  ∀ (s : State) (d pa pb k : F3) (a b : RegF) (c : Cond) (i10 : BitVec 10),
    let gives := fun (i : Instr) (fs : List RegF) (v : Bool) => Posts i s fs (.p d.toNat v) 0 1
    let holds := fun (x y : Word) =>
      match c with
      | .eq => decide (x = y) | .ne => decide (x ≠ y)
      | .lt => x.slt y | .ge => y.sle x | .ltu => x.ult y | .geu => y.ule x
      | .le => x.sle y | .gt => y.slt x | .leu => x.ule y | .gtu => y.ult x
    (rdP s k = true → QueuesLive s [a, b] → gives (.cmp d a b k c) [a, b] (holds (rdS s a) (rdS s b))) ∧
    (QueuesLive s [a] → gives (.cmpi d a c i10) [a] (holds (rdS s a) (i10.signExtend 64))) ∧
    (rdP s k = true →
      gives (.pand d pa pb k) [] (rdP s pa && rdP s pb) ∧ gives (.por d pa pb k) [] (rdP s pa || rdP s pb) ∧
      gives (.pxor d pa pb k) [] (rdP s pa != rdP s pb) ∧ gives (.pnot d pa k) [] (!rdP s pa))

/-! ## The C slot (R182 to R199) -/

/-- R184 to R187, R189: where the branches, calls, jumps, loops and bank exchanges go, with their idle tick, their link or
count, and a frame; a branch that is not taken does nothing.

R406, R411: without a debuggable context, or with branch records switched off, a transfer makes no record. -/
def Obligations.TransfersGoWhereTheRulesSay : Prop :=
  (
    ∀ (s : State) (p k : F3) (d a : RegF) (o : BitVec 22) (i20 : BitVec 20) (i14 : BitVec 14) (n6 : BitVec 6),
      let at_ := fun (off : Int) => (((s.cur.pc : Int) + 4 * off) % 2 ^ 19).toNat
      let next := BitVec.ofNat 64 ((s.cur.pc + s.cur.len) % 2 ^ 19)
      let v := rdS s a
      let n := rdS s d + 1
      (rdP s p = true → Takes (.brp p o) s [] 1 (at_ o.toInt) 1 false ∧ Passes (.brpn p o) s []) ∧
      (rdP s p = false → Takes (.brpn p o) s [] 1 (at_ o.toInt) 1 false ∧ Passes (.brp p o) s []) ∧
      Takes (.br o) s [] 1 (at_ o.toInt) 1 false ∧
      TakesWith (.call d i20) s [] d next 2 (at_ i20.toInt) 1 ∧
      (QueuesLive s [a] → rdP s k = true → v.toNat < 2 ^ 19 → v.toNat % 4 = 0 →
        Takes (.jmp a k) s [a] 4 v.toNat 1 false ∧ TakesWith (.callr d a k) s [a] d next 2 v.toNat 1 ∧
        Takes (.ret a k) s [a] 3 v.toNat 1 false) ∧
      (QueuesLive s [a] →
        (n.toNat < v.toNat → TakesWith (.loop d a i14) s [a] d n 5 (at_ i14.toInt) 0) ∧
        (v.toNat ≤ n.toNat → Posts (.loop d a i14) s [a] (.s d.toNat n) 0 1)) ∧
      (n.toNat < n6.toNat → TakesWith (.loopi d n6 i14) s [] d n 5 (at_ i14.toInt) 0) ∧
      (n6.toNat ≤ n.toNat → Posts (.loopi d n6 i14) s [] (.s d.toNat n) 0 1) ∧
      (s.cst.sys.sup = false → rdP s p = true → Takes (.bswap p o) s [] 6 (at_ o.toInt) 1 true) ∧
      (s.cst.sys.sup = false → rdP s p = false → Passes (.bswap p o) s [])
  ) ∧ (
    ∀ (s : State) (kind target : Nat),
      (∀ x, (s.core s.cur.core).owner = some x → (s.ctx x).dbga = false ∨ s.flag (dbgOff x) 2 = false) →
        branchRec kind target s = s
  )

/-- R186: a register target of 2^19 or more, or one that is no multiple of 4, traps ALIGN.

R211, R217, R218, R114: an access with a byte at 0x60_0000 or above, or at an address that is no multiple of its alignment,
traps ALIGN: 1, 2, 4 or 8 for scalar forms, 64 for rows, 4 for the admitted lanes of strided forms, 2 for block planes, 8 for
AMO; so does a column outside the first row of its tile, off a multiple of 32, or in a tile with SKEW 0. -/
def Obligations.MisalignedOperandsTrap : Prop :=
  (
    ∀ (s : State) (d a : RegF) (k : F3), QueuesLive s [a] → rdP s k = true →
      (2 ^ 19 ≤ (rdS s a).toNat ∨ (rdS s a).toNat % 4 ≠ 0) →
        Traps (.jmp a k) s tcALIGN 0 ∧ Traps (.callr d a k) s tcALIGN 0 ∧ Traps (.ret a k) s tcALIGN 0
  ) ∧ (
    ∀ (s : State) (d a b : RegF) (k : F3) (c : CSet) (al : Bool) (o : BitVec 13) (o11 : BitVec 11),
      let x := fun (n : Nat) => (rdS s b + o.signExtend 64 * BitVec.ofNat 64 n).toNat
      let bad := fun (n : Nat) => x n % n ≠ 0 ∨ 0x600000 < x n + n
      let z := (rdS s b + o11.signExtend 64 * 64).toNat
      let col := 256 ≤ z % 4096 ∨ z % 32 ≠ 0 ∨ 0x600000 ≤ z ∨ ((s.seat s.cur.core).tile (z / 4096)).skew = false
      let lane := fun (p : Nat) => (rdS s a + BitVec.ofNat 64 p * rdS s b).toNat
      let strides := ∃ p, p ∈ writtenLanes s k c ∧ (lane p % 4 ≠ 0 ∨ 0x600000 < lane p + 4)
      let va := (rdS s a).toNat
      let vb := (rdS s b).toNat
      let block := fun (n : Nat) => va % 2 ≠ 0 ∨ vb % 2 ≠ 0 ∨
        ∃ i, i ∈ clustersOf (clusterSet s c) ∧ (0x600000 < va + 2 * (n + 1) * i + 2 * (n + 1) ∨ 0x600000 < vb + 2 * i + 2)
      (QueuesLive s [b] →
        (bad 1 → Traps (.ldB d b al o) s tcALIGN 0 ∧ Traps (.lduB d b al o) s tcALIGN 0) ∧
        (bad 2 → Traps (.ldH d b al o) s tcALIGN 0 ∧ Traps (.lduH d b al o) s tcALIGN 0) ∧
        (bad 4 → Traps (.ldW d b al o) s tcALIGN 0 ∧ Traps (.lduW d b al o) s tcALIGN 0) ∧
        (bad 8 → Traps (.ldD d b al o) s tcALIGN 0)) ∧
      (QueuesLive s [d, b] →
        (bad 1 → Traps (.stB d b al o) s tcALIGN 0) ∧ (bad 2 → Traps (.stH d b al o) s tcALIGN 0) ∧
        (bad 4 → Traps (.stW d b al o) s tcALIGN 0) ∧ (bad 8 → Traps (.stD d b al o) s tcALIGN 0)) ∧
      (clusterSet s c ≠ 0 →
        (QueuesLive s [b] →
          (z % 64 ≠ 0 ∨ (∃ p, p ∈ setLanes s c ∧ 0x600000 < z + 4 * p + 4) → Traps (.vld d b al c o11) s tcALIGN 0) ∧
          (z % 64 ≠ 0 ∨ 0x600000 < z + 64 → Traps (.vldb d b al c o11) s tcALIGN 0) ∧
          (col → Traps (.vldt d b al c o11) s tcALIGN 0)) ∧
        (QueuesLive s [d, b] →
          (z % 64 ≠ 0 ∨ (∃ p, p ∈ setLanes s c ∧ 0x600000 < z + 4 * p + 4) → Traps (.vst d b al c o11) s tcALIGN 0) ∧
          (col → Traps (.vstt d b al c o11) s tcALIGN 0)) ∧
        (QueuesLive s [a, b] →
          (block 7 → Traps (.vldkKbf7 d a b c al) s tcALIGN 0) ∧ (block 4 → Traps (.vldkKbf4 d a b c al) s tcALIGN 0) ∧
          (block 2 → Traps (.vldkKbf2 d a b c al) s tcALIGN 0)) ∧
        (QueuesLive s [d, a, b] →
          (block 7 → Traps (.vstkKbf7 d a b c al) s tcALIGN 0) ∧ (block 4 → Traps (.vstkKbf4 d a b c al) s tcALIGN 0) ∧
          (block 2 → Traps (.vstkKbf2 d a b c al) s tcALIGN 0))) ∧
      (strides → (QueuesLive s [a, b] → Traps (.vlds d a b k c al) s tcALIGN 0) ∧
        (QueuesLive s [d, a, b] → Traps (.vsts d a b k c al) s tcALIGN 0)) ∧
      (QueuesLive s [a, b] → rdP s k = true → va % 8 ≠ 0 ∨ 0x600000 < va + 8 →
        Traps (.amoAdd d a b k al) s tcALIGN 0 ∧ Traps (.amoMax d a b k al) s tcALIGN 0 ∧ Traps (.amoMin d a b k al) s tcALIGN 0 ∧
        Traps (.amoSwap d a b k al) s tcALIGN 0 ∧ Traps (.amoCas d a b k al) s tcALIGN 0)
  )

/-- R191, R192, R193, R195, R153: WAITA, WAITO, TEND and IDLE complete: the wait and the end of the task begin when the bundle
ends; a wait on a misaligned or absent word or tile traps ALIGN. -/
def Obligations.WaitsAndEndsComplete : Prop :=
  ∀ (s : State) (a b : RegF) (k : F3) (sc : Scope) (c : WCond) (i14 : BitVec 14) (n prof : BitVec 6) (sat : Bool) (rnd : Rnd),
    let x := (rdS s a).toNat
    let after := (s.cur.pc + s.cur.len) % 2 ^ 19
    (QueuesLive s [a, b] → rdP s k = true →
      (x % 8 = 0 → x < 0x600000 →
        Asks (.waita a b k sc c) s [a, b]
          { s.cur.part with wait := some ⟨true, x, c, rdS s b, s.cur.pc, 0, after, false, 0, false⟩ }) ∧
      (x % 8 ≠ 0 ∨ 0x600000 ≤ x → Traps (.waita a b k sc c) s tcALIGN 0)) ∧
    (QueuesLive s [a] →
      (x / 4096 + i14.toNat < 1536 →
        Asks (.waito a i14) s [a]
          { s.cur.part with wait := some ⟨false, x / 4096 + i14.toNat, .eq, 0, s.cur.pc, 0, after, false, 0, false⟩ }) ∧
      (1536 ≤ x / 4096 + i14.toNat → Traps (.waito a i14) s tcALIGN 0)) ∧
    (s.cst.sys.sup = false → Asks .tend s [] { s.cur.part with tend := true }) ∧
    Passes (.idle n sat rnd prof) s []

/-- R183: in supervisor mode TEND, BSWAP, TRAP and BRK trap ILLI at their slot.

R196, R384: TRAP and BRK take their trap with done mask 0x01 beside the slots done before, the code as argument and the
bundle's address as TPC; BRK in a context that is not debuggable performs nothing. -/
def Obligations.SupervisorAndSoftwareTraps : Prop :=
  (
    ∀ (s : State) (p : F3) (o : BitVec 22) (code : BitVec 16), s.cst.sys.sup = true →
      Traps .tend s tcILLI 0 ∧ Traps (.bswap p o) s tcILLI 0 ∧ Traps (.trap code) s tcILLI 0 ∧ Traps (.brk code) s tcILLI 0
  ) ∧ (
    ∀ (s : State) (code : BitVec 16), s.cst.sys.sup = false →
      (∃ t, exec (.trap code) s = .next t ∧ t.cur.stopped = true ∧ t.cst.trap.code = 16 ∧ t.cst.trap.slot = s.cur.slot ∧
        t.cst.trap.done = (s.cur.done ||| 1) ∧ t.cst.trap.arg = code.zeroExtend 28 ∧ t.cst.trap.tpc = s.cur.pc % 2 ^ 19 ∧
        t.cst.pc = 0x1000 ∧ t.cst.sys.sup = true ∧ t.cst.regs = s.cst.regs) ∧
      ((s.ctx (s.ctxOf s.cur.core)).dbga = true →
        ∃ t, exec (.brk code) s = .next t ∧ t.cur.stopped = true ∧ t.cst.trap.code = 15 ∧ t.cst.trap.slot = s.cur.slot ∧
          t.cst.trap.done = (s.cur.done ||| 1) ∧ t.cst.trap.arg = code.zeroExtend 28 ∧ t.cst.trap.tpc = s.cur.pc % 2 ^ 19 ∧
          t.cst.pc = 0xF00 ∧ t.cst.sys.sup = true ∧ t.cst.regs = s.cst.regs) ∧
      ((s.ctx (s.ctxOf s.cur.core)).dbga = false → Passes (.brk code) s [])
  )

/-- R143, R197: SYSR posts the register's value for two ticks later and SYSW its write for the next tick; a number that is not
assigned traps ILLI, and a supervisor number traps PRIV in user mode. Reading FLOST clears it (R388). -/
def Obligations.SystemRegisterAccess : Prop :=
  ∀ (s : State) (d a : RegF) (n : BitVec 12), QueuesLive s [a] →
    (sysAssigned n.toNat = false → Traps (.sysr d n) s tcILLI 0 ∧ Traps (.sysw a n) s tcILLI 0) ∧
    (sysAssigned n.toNat = true → 0x100 ≤ n.toNat → s.cst.sys.sup = false →
      Traps (.sysr d n) s tcPRIV 0 ∧ Traps (.sysw a n) s tcPRIV 0) ∧
    (sysAssigned n.toNat = true → (n.toNat < 0x100 ∨ s.cst.sys.sup = true) →
      (n.toNat ≠ 0x109 → Posts (.sysr d n) s [] (.s d.toNat (sysRead s s.cur.core s.cur.sec n.toNat)) 0 2) ∧
      (n.toNat = 0x109 → ∃ t, exec (.sysr d n) s = .next t ∧ t.cst.trap.flost = 0 ∧
        t.cst.landing = insLanding ⟨s.cst.seq, 2, 0, .s d.toNat (BitVec.ofNat 64 s.cst.trap.flost), (s.cur.pc, s.cur.slot)⟩ s.cst.landing) ∧
      (n.toNat ≠ 0x30 → Posts (.sysw a n) s [a] (.sys n.toNat (rdS s a)) 0 1))

/-- R143, R144, R49, R106, R123, R388: what a write of a system register that has landed reads back as: the written value in
the register's writable fields; read-only registers keep their value.

R190, R198: IFENCE forgets the old words of its region for the stream and adds an idle tick; SETF posts the value without
its reserved bits for four ticks later. -/
def Obligations.SystemRegistersFencesAndFormats : Prop :=
  (
    ∀ (s : State) (c : Nat) (t : Bool) (n : Nat) (v : Word),
      let r := fun (u : State) => sysRead u c t n
      let u := sysLand c t n v s
      (n = 3 ∨ n = 4 → r u = v &&& 0xFF) ∧
      (n = 0x10 ∨ n = 0x14 ∨ n = 0x15 → r u = v) ∧
      (n = 0x11 ∨ n = 0x12 ∨ n = 0x13 → r u = v &&& 0xFFFFFFFF) ∧
      (n = 0x17 → r u = v &&& 1) ∧
      (0x20 ≤ n ∧ n ≤ 0x2F → r u = v &&& 0xFFFFFFFF) ∧
      (n = 0x31 → r u = v &&& 0x7FF) ∧
      (0x40 ≤ n ∧ n ≤ 0x43 → r u = v &&& 0x00FFFFFFFFFFFFFF) ∧
      (0x48 ≤ n ∧ n ≤ 0x4B → r u = v &&& 0xFFFFFFFF) ∧
      (n = 0 → r u = v &&& 0x3F) ∧
      (0x44 ≤ n ∧ n ≤ 0x47 → r u = v &&& 0xFFFFFFFF0000FE01) ∧
      (0x4C ≤ n ∧ n ≤ 0x4F → ∀ j, j < 64 → (r u).getLsbD j = ((r s).getLsbD j && !(decide (j < 2) && v.getLsbD j))) ∧
      (n = 0x100 → ∀ j, j < 64 → (r u).getLsbD j = if 16 ≤ j ∧ j < 24 then v.getLsbD j else (r s).getLsbD j) ∧
      (n = 0x101 → r u = v &&& 0x7FFFF) ∧
      (n = 0x108 → r u = 0 ∧ (u.st c t).ret = some (v.getLsbD 16, v.extractLsb' 8 8)) ∧
      (0x110 ≤ n ∧ n ≤ 0x117 → r u = v) ∧
      (n = 1 ∨ n = 2 ∨ n = 5 ∨ n = 8 ∨ n = 9 ∨ n = 0x0A ∨ n = 0x16 ∨ (0x50 ≤ n ∧ n ≤ 0x53) ∨ n = 0x102 ∨ n = 0x109 → r u = r s)
  ) ∧ (
    ∀ (s : State) (r : IRegion) (d : BitVec 2) (a : RegF) (k : F3),
      (∃ t, exec (.ifence r) s = .next t ∧ t.rest = s.rest ∧ t.cst.regs = s.cst.regs ∧ t.cst.landing = s.cst.landing ∧
        t.cur = { s.cur with part := { s.cur.part with extra := s.cur.part.extra + 1 } } ∧
        let z := regionRange r s.cst.sys.exb
        (∀ e, e ∈ t.cst.stale ↔ e ∈ s.cst.stale ∧ ¬ (z.1 ≤ e.1 ∧ e.1 < z.2))) ∧
      (QueuesLive s [a] → rdP s k = true →
        Posts (.setf d a k) s [a] (.xf d.toNat (rdS s a &&& 0xFFFFFFFFFF)) 0 4)
  )

/-! ## Taking a trap and returning (R384 to R390) -/

/-- R384, R387, R388: a precise trap in user mode: the task's pending results and accesses, its wait and its TPC are held; the
handler starts at 0x100 times the code, in supervisor mode, with nothing pending; the trap registers name the slot, the slots
done and the bundle; no register of the task changes, and no later slot of the bundle issues. -/
def Obligations.PreciseTrapEntry : Prop :=
  ∀ (s : State) (code arg : Nat), s.cst.sys.sup = false →
    let c := s.cur.core
    let t := slotTrap code arg s
    let y := t.cst
    t.cur.stopped = true ∧ y.pc = 0x100 * code ∧ y.sys = { s.cst.sys with sup := true } ∧ y.regs = s.cst.regs ∧
    y.task = s.cst.task ∧ y.wait = none ∧ y.idle = 0 ∧ y.acc = [] ∧
    (∃ h, y.held = some h ∧ h.landing = s.cst.landing ∧ h.acc = s.cst.acc ∧ h.idle = s.cst.idle ∧ h.wait = s.cst.wait ∧
      h.tpc = s.cur.pc) ∧
    y.trap.code = code ∧ y.trap.slot = s.cur.slot ∧ y.trap.asy = false ∧ y.trap.done = s.cur.done ∧
    y.trap.arg = BitVec.ofNat 28 arg ∧ y.trap.tpc = s.cur.pc % 2 ^ 19 ∧ y.trap.top = s.cur.pc % 2 ^ 19 ∧
    y.trap.sscr = s.cst.trap.sscr ∧
    y.landing = [] ∧ (∀ a, Mem.byte (t.seat c).spad a = Mem.byte (s.seat c).spad a) ∧
    (∀ e, e ≠ c → t.core e = s.core e) ∧ t.hbm = s.hbm

/-- R390: a trap condition of a stream in supervisor mode is a context fault: every stream of the context stops without a
task, in user mode and with nothing pending; STATE is FAULT, and the control block's FCODE, FCORE and FSTR name the code, the
core and the stream. -/
def Obligations.SupervisorTrapIsContextFault : Prop :=
  ∀ (s : State) (code arg x : Nat), s.cst.sys.sup = true → (s.core s.cur.core).owner = some x → x < 16 →
    let t := slotTrap code arg s
    t.ctxState x = 5 ∧ t.cur.stopped = true ∧
    (∀ c, (t.core c).owner = some x → ∀ b, (t.st c b).task = none ∧ (t.st c b).landing = [] ∧ (t.st c b).acc = [] ∧
      (t.st c b).sys.sup = false) ∧
    (∀ c, (s.core c).owner ≠ some x → c ≠ s.cur.core → t.core c = s.core c) ∧
    t.fld (ccbOff x + 0x58) 24 8 = code % 256 ∧ t.fld (ccbOff x + 0x58) 16 8 = s.cur.core % 256 ∧
    t.fld (ccbOff x + 0x58) 15 1 = b2n s.cur.sec ∧ t.hbm = s.hbm

/-- R389, R385: a return with END 0 whose TPC the handler has left unchanged: the task stands where it stopped, with its
pending results and accesses, the slots of DONE and SKIP done, in user mode; with END 1 it issues nothing more. -/
def Obligations.ReturnRestoresTheTask : Prop :=
  ∀ (y : Stream) (h : Held) (skip : BitVec 8), y.held = some h →
    let r := y.leave false skip
    let e := y.leave true skip
    (h.wait = none → r.pc = y.trap.tpc ∧ r.done = (y.trap.done ||| skip) ∧ r.wait = y.wait) ∧
    (∀ w, h.wait = some w → y.trap.tpc = w.bundle →
      r.pc = w.next ∧ r.done = 0 ∧ r.wait = some { w with tested := true, count := if y.trap.code = tcWAITTO then 0 else w.count }) ∧
    r.landing = h.landing ∧ r.acc = h.acc ∧ r.idle = h.idle ∧ r.held = none ∧ r.sys = { y.sys with sup := false } ∧
    r.regs = y.regs ∧ r.ending = y.ending ∧
    e.ending = true ∧ e.landing = h.landing ∧ e.acc = h.acc ∧ e.idle = 0 ∧ e.wait = none ∧ e.sys = { y.sys with sup := false } ∧
    e.regs = y.regs

/-! ## The scratchpad slots (R211 to R222) -/

/-- R214: a scalar load or store whose bytes lie in the scratchpad at a multiple of its size, outside the states that
deterministic mode bars, starts its access: a load samples one tick later and lands after three, a store writes after two. -/
def Obligations.ScalarAccessesStart : Prop :=
  ∀ (s : State) (d b : RegF) (al : Bool) (o : BitVec 13),
    let x := fun (n : Nat) => (rdS s b + o.signExtend 64 * BitVec.ofNat 64 n).toNat
    let fits := fun (n : Nat) (st : Bool) => x n % n = 0 ∧ x n + n ≤ 0x600000 ∧ (al = false → detBars s (x n) n st = false)
    let data := fun (n : Nat) => leBytes n (rdS s d).toNat
    (QueuesLive s [b] →
      (fits 1 false → Starts (.ldB d b al o) s [b] (.loadS d.toNat (x 1) 1 true) 1 3 al ∧
        Starts (.lduB d b al o) s [b] (.loadS d.toNat (x 1) 1 false) 1 3 al) ∧
      (fits 2 false → Starts (.ldH d b al o) s [b] (.loadS d.toNat (x 2) 2 true) 1 3 al ∧
        Starts (.lduH d b al o) s [b] (.loadS d.toNat (x 2) 2 false) 1 3 al) ∧
      (fits 4 false → Starts (.ldW d b al o) s [b] (.loadS d.toNat (x 4) 4 true) 1 3 al ∧
        Starts (.lduW d b al o) s [b] (.loadS d.toNat (x 4) 4 false) 1 3 al) ∧
      (fits 8 false → Starts (.ldD d b al o) s [b] (.loadS d.toNat (x 8) 8 false) 1 3 al)) ∧
    (QueuesLive s [d, b] →
      (fits 1 true → Starts (.stB d b al o) s [d, b] (.store [(x 1, data 1)]) 2 2 al) ∧
      (fits 2 true → Starts (.stH d b al o) s [d, b] (.store [(x 2, data 2)]) 2 2 al) ∧
      (fits 4 true → Starts (.stW d b al o) s [d, b] (.store [(x 4, data 4)]) 2 2 al) ∧
      (fits 8 true → Starts (.stD d b al o) s [d, b] (.store [(x 8, data 8)]) 2 2 al))

/-- R215 to R218: the vector accesses start with the words of their lanes; an empty cluster set performs nothing.

R218: block loads and stores of KBF7, KBF4 and KBF2, one block per cluster of the set: 2(k + 1) code bytes and a header of
two bytes. -/
def Obligations.VectorAccessesStart : Prop :=
  (
    ∀ (s : State) (d a b : RegF) (k : F3) (c : CSet) (al : Bool) (o : BitVec 11),
      let x := (rdS s b + o.signExtend 64 * 64).toNat
      let col := 4096 * (x / 4096) + x % 4096
      let row := fun (p : Nat) => (p, x + 4 * p)
      let one := fun (p : Nat) => (p, x + 4 * (p % 16))
      let skew := fun (p : Nat) => (p, col + 256 * (p % 16) + 4 * (p / 16))
      let lane := fun (p : Nat) => (p, (rdS s a + BitVec.ofNat 64 p * rdS s b).toNat)
      let free := fun (els : List (Nat × Nat)) (st : Bool) =>
        ∀ e, e ∈ els → e.2 + 4 ≤ 0x600000 ∧ (al = false → detBars s e.2 4 st = false)
      let data := fun (els : List (Nat × Nat)) => els.map fun e => (e.2, leBytes 4 (rdV s d e.1).toNat)
      let set := setLanes s c
      let wr := writtenLanes s k c
      (clusterSet s c = 0 → QueuesLive s [b] → Passes (.vld d b al c o) s [b] ∧ Passes (.vldb d b al c o) s [b] ∧ Passes (.vldt d b al c o) s [b]) ∧
      (clusterSet s c = 0 → QueuesLive s [d, b] → Passes (.vst d b al c o) s [d, b] ∧ Passes (.vstt d b al c o) s [d, b]) ∧
      (clusterSet s c ≠ 0 → QueuesLive s [b] →
        (x % 64 = 0 →
          (free (set.map row) false → Starts (.vld d b al c o) s [b] (.loadV d.toNat (set.map row)) 1 4 al) ∧
          (free (set.map one) false → Starts (.vldb d b al c o) s [b] (.loadV d.toNat (set.map one)) 1 4 al)) ∧
        (x < 0x600000 → x % 4096 < 256 → x % 32 = 0 → ((s.seat s.cur.core).tile (x / 4096)).skew = true →
          free (set.map skew) false → Starts (.vldt d b al c o) s [b] (.loadV d.toNat (set.map skew)) 1 4 al)) ∧
      (clusterSet s c ≠ 0 → QueuesLive s [d, b] →
        (x % 64 = 0 → free (set.map row) true → Starts (.vst d b al c o) s [d, b] (.store (data (set.map row))) 2 2 al) ∧
        (x < 0x600000 → x % 4096 < 256 → x % 32 = 0 → ((s.seat s.cur.core).tile (x / 4096)).skew = true →
          free (set.map skew) true → Starts (.vstt d b al c o) s [d, b] (.store (data (set.map skew))) 2 2 al)) ∧
      (wr = [] → (QueuesLive s [a, b] → Passes (.vlds d a b k c al) s [a, b]) ∧
        (QueuesLive s [d, a, b] → Passes (.vsts d a b k c al) s [d, a, b])) ∧
      (wr ≠ [] → (∀ p, p ∈ wr → (lane p).2 % 4 = 0) →
        (QueuesLive s [a, b] → free (wr.map lane) false → Starts (.vlds d a b k c al) s [a, b] (.loadV d.toNat (wr.map lane)) 1 4 al) ∧
        (QueuesLive s [d, a, b] → free (wr.map lane) true →
          Starts (.vsts d a b k c al) s [d, a, b] (.store (data (wr.map lane))) 2 2 al))
  ) ∧ (
    ∀ (s : State) (d a b : RegF) (c : CSet) (al : Bool),
      let xa := (rdS s a).toNat
      let xb := (rdS s b).toNat
      let cls := clustersOf (clusterSet s c)
      let els := fun (k : Nat) => cls.map fun i => (i, xa + 2 * (k + 1) * i, xb + 2 * i)
      let codes := fun (k i : Nat) => packCodes k ((List.range 16).map fun j => (rdV s d (16 * i + j)).toNat)
      let ws := fun (k : Nat) => cls.flatMap fun i =>
        [(xa + 2 * (k + 1) * i, leBytes (2 * (k + 1)) (codes k i)), (xb + 2 * i, leBytes 2 ((rdV s d (16 * i)).toNat / 2 ^ 8))]
      let free := fun (k : Nat) (st : Bool) => ∀ i, i ∈ cls →
        xa + 2 * (k + 1) * i + 2 * (k + 1) ≤ 0x600000 ∧ xb + 2 * i + 2 ≤ 0x600000 ∧
          (al = false → detBars s (xa + 2 * (k + 1) * i) (2 * (k + 1)) st = false ∧ detBars s (xb + 2 * i) 2 st = false)
      clusterSet s c ≠ 0 → xa % 2 = 0 → xb % 2 = 0 →
        (QueuesLive s [a, b] →
          (free 7 false → Starts (.vldkKbf7 d a b c al) s [a, b] (.loadK d.toNat 7 (els 7)) 1 4 al) ∧
          (free 4 false → Starts (.vldkKbf4 d a b c al) s [a, b] (.loadK d.toNat 4 (els 4)) 1 4 al) ∧
          (free 2 false → Starts (.vldkKbf2 d a b c al) s [a, b] (.loadK d.toNat 2 (els 2)) 1 4 al)) ∧
        (QueuesLive s [d, a, b] →
          (free 7 true → Starts (.vstkKbf7 d a b c al) s [d, a, b] (.store (ws 7)) 2 2 al) ∧
          (free 4 true → Starts (.vstkKbf4 d a b c al) s [d, a, b] (.store (ws 4)) 2 2 al) ∧
          (free 2 true → Starts (.vstkKbf2 d a b c al) s [d, a, b] (.store (ws 2)) 2 2 al))
  )

/-- R219: the atomics start their sample; the old value lands after three ticks. CAS takes its expected value from d.

R219: what an atomic writes, by its operation, from the word's old value, its operand and its expected value.

R219, R220: the only pending access of a core, an AMO. At its sample tick the old value of its doubleword enters the landing
buffer, the doubleword is reserved, the write stands a tick away, and no byte changes. At its write tick the doubleword takes what
the operation gives for the value sampled, or stays as it is after a failed CAS, and every other byte of every scratchpad stays;
the reservation ends. -/
def Obligations.AtomicsStartAndPerform : Prop :=
  (
    ∀ (s : State) (d a b : RegF) (k : F3) (al : Bool), QueuesLive s [a, b] → rdP s k = true →
      let x := (rdS s a).toNat
      let v := rdS s b
      x % 8 = 0 → x + 8 ≤ 0x600000 → (al = false → detBars s x 8 true = false) →
        Starts (.amoAdd d a b k al) s [a, b] (.amoSample d.toNat x .add v 0) 1 3 al ∧
        Starts (.amoMax d a b k al) s [a, b] (.amoSample d.toNat x .max v 0) 1 3 al ∧
        Starts (.amoMin d a b k al) s [a, b] (.amoSample d.toNat x .min v 0) 1 3 al ∧
        Starts (.amoSwap d a b k al) s [a, b] (.amoSample d.toNat x .swap v 0) 1 3 al ∧
        Starts (.amoCas d a b k al) s [a, b] (.amoSample d.toNat x .cas v (rdS s d)) 1 3 al
  ) ∧ (
    ∀ (w v e : Word),
      amoNew .add w v e = some (w + v) ∧ amoNew .swap w v e = some v ∧
      (∃ m, amoNew .max w v e = some m ∧ (m = w ∨ m = v) ∧ w.sle m = true ∧ v.sle m = true) ∧
      (∃ m, amoNew .min w v e = some m ∧ (m = w ∨ m = v) ∧ m.sle w = true ∧ m.sle v = true) ∧
      (w = e → amoNew .cas w v e = some v) ∧ (w ≠ e → amoNew .cas w v e = none)
  ) ∧ (
    ∀ (s : State) (c : Nat) (a : Access) (d x : Nat) (op : AmoOp) (v e w : Word),
      (s.core c).frozen = none → (s.st c false).acc = [a] → (s.st c true).acc = [] →
      (s.st c false).lastAcc = [] → (s.st c true).lastAcc = [] → (s.st c false).wait = none → (s.st c true).wait = none → a.rem = 0 →
      (a.op = .amoSample d x op v e → (s.seat c).resv = [] → (s.seat c).bad = [] →
        let old := BitVec.ofNat 64 (Mem.num (s.seat c).spad x 8)
        ∃ t, exec (.pendingAccessPerform c) s = .next t ∧
          (t.st c false).acc = [{ a with rem := 1, op := .amoWrite d x op v e old }] ∧
          (t.st c false).landing = insLanding ⟨a.seq, a.lat - 1, 0, .s d old, (a.bundle, a.slot)⟩
            ((s.st c false).landing.filter fun l => decide (l.seq ≠ a.seq)) ∧
          (t.seat c).resv = [⟨x, false, a.seq, old, []⟩] ∧ (t.st c false).regs = (s.st c false).regs ∧ t.hbm = s.hbm ∧
          ∀ f b, Mem.byte (t.seat f).spad b = Mem.byte (s.seat f).spad b) ∧
      (a.op = .amoWrite d x op v e w → (s.seat c).resv = [⟨x, false, a.seq, w, []⟩] →
        ∃ t, exec (.pendingAccessPerform c) s = .next t ∧ (t.st c false).acc = [] ∧ (t.seat c).resv = [] ∧
          (t.st c false).landing = (s.st c false).landing ∧ (t.st c false).regs = (s.st c false).regs ∧ t.hbm = s.hbm ∧
          (∀ n, amoNew op w v e = some n → Mem.num (t.seat c).spad x 8 = n.toNat) ∧
          (amoNew op w v e = none → (t.seat c).spad = (s.seat c).spad) ∧
          (∀ b, b < x ∨ x + 8 ≤ b → Mem.byte (t.seat c).spad b = Mem.byte (s.seat c).spad b) ∧
          (∀ f, f ≠ c → t.core f = s.core f))
  )

/-- R107, R221, R222: QPUSH of the primary puts the index with the captured configuration at the end of the address queue,
QDROP notes the queue for the end of the cycle; in the secondary, or with EN = 0, both trap QERR, and so does a QPUSH to a queue
of rows longer than a scalar entry (VQ 0, ROWB not 0) or with a GSTART in progress (R344). -/
def Obligations.QueueOperations : Prop :=
  ∀ (s : State) (n : BitVec 2) (a : RegF) (k : F3), rdP s k = true → QueuesLive s [a] →
    let c := s.cur.core
    let q := (s.seat c).q n.toNat
    let fits := bitN q.gqc.toNat 9 = true ∨ q.gqc.toNat / 2 ^ 10 % 64 = 0
    (s.cur.sec = false → q.en = true → fits → q.gs = none →
      ∃ t, exec (.qpush n a k) s = .next t ∧ t.rest = s.rest ∧ t.cst.regs = s.cst.regs ∧
        ((t.seat c).q n.toNat).aq = q.aq ++ [⟨rdS s a, q.gqb, q.gqc, q.gql, originOf s⟩]) ∧
    (s.cur.sec = false → q.en = true →
      ∃ t, exec (.qdrop n k) s = .next t ∧ t.rest = s.rest ∧ t.cst.regs = s.cst.regs ∧
        (t.seat c).drops = (s.seat c).drops ++ [(n.toNat, q.aq.length)] ∧ ((t.seat c).q n.toNat).gs = none) ∧
    (s.cur.sec = true ∨ q.en = false → Traps (.qdrop n k) s tcQERR 0) ∧
    (s.cur.sec = true ∨ q.en = false ∨ ¬ fits ∨ q.gs.isSome = true → Traps (.qpush n a k) s tcQERR 0)

/-! ## Landings and accesses (R132, R145 to R147, R214, R219) -/

/-- R145 to R147: the only result of a stream, with one tick to go, lands as its tick begins: its register reads the new value
and every other register what it read; its flags join. Where the entry has met an uncorrectable error (R392), ECC is pending for
the operation it came from and only its own register may take another value. -/
def Obligations.ResultLands : Prop :=
  ∀ (s : State) (c : Nat) (t : Bool) (e : Landing), s.ticking c t = true → (s.st c t).landing = [e] → (s.st c t).lastLand = [] →
    e.rem = 1 →
    let y := s.st c t
    ((.land c t : Upset) ∉ s.upset → ∃ u, exec (.resultLanding c t) s = .next u ∧
      (∀ d v, e.dest = .s d v → (u.st c t).landing = [] ∧ (u.st c t).sys.fflags = joinFlags y.sys.fflags e.flags ∧
        (∀ r, (u.st c t).regs.getS r = if r = d ∧ d ≠ 0 then v else y.regs.getS r) ∧
        (∀ r, (u.st c t).regs.getP r = y.regs.getP r) ∧ (∀ r, (u.st c t).regs.getK r = y.regs.getK r) ∧
        (∀ r l, (u.st c t).regs.getV r l = y.regs.getV r l)) ∧
      (∀ d v, e.dest = .p d v → (∀ r, (u.st c t).regs.getP r = if r = d ∧ d ≠ 0 then v else y.regs.getP r) ∧
        (∀ r, (u.st c t).regs.getS r = y.regs.getS r)) ∧
      (∀ d l v, e.dest = .v d [(l, v)] → l < 128 → ∀ r m, m < 128 →
        (u.st c t).regs.getV r m = if r = d ∧ m = l then v else y.regs.getV r m)) ∧
    ((.land c t : Upset) ∈ s.upset → ∃ u, exec (.resultLanding c t) s = .next u ∧
      ∀ d v, e.dest = .s d v → (u.st c t).landing = [] ∧
        (u.st c t).pend.ecc = y.pend.ecc ++ [⟨14, e.src.1, e.src.2, 0, none⟩] ∧
        (∀ r, r ≠ d ∨ d = 0 → (u.st c t).regs.getS r = y.regs.getS r) ∧
        (∀ r, (u.st c t).regs.getP r = y.regs.getP r) ∧ (∀ r, (u.st c t).regs.getK r = y.regs.getK r) ∧
        (∀ r l, (u.st c t).regs.getV r l = y.regs.getV r l))

/-- R132, R214: the only pending access of a core, a load that is due: the bytes of its element, sign-extended or whole, enter
the landing buffer, and no byte of the scratchpad changes.

R132, R214: the only pending access of a core, a store that is due: its bytes stand at its address and every other byte of
every scratchpad is as before. -/
def Obligations.LoadsAndStoresPerform : Prop :=
  (
    ∀ (s : State) (c : Nat) (a : Access) (d x n : Nat) (sg : Bool),
      (s.core c).frozen = none → (s.st c false).acc = [a] → (s.st c true).acc = [] →
      (s.st c false).lastAcc = [] → (s.st c true).lastAcc = [] → (s.st c false).wait = none → (s.st c true).wait = none →
      (s.seat c).resv = [] → (s.seat c).bad = [] → a.rem = 0 → a.op = .loadS d x n sg →
        let w := leNat (Mem.bytes (s.seat c).spad x n)
        ∃ t, exec (.pendingAccessPerform c) s = .next t ∧ (t.st c false).acc = [] ∧
          (t.st c false).landing = insLanding ⟨a.seq, a.lat - 1, 0,
            .s d (if sg then BitVec.ofInt 64 (sextN (8 * n) w) else BitVec.ofNat 64 w), (a.bundle, a.slot)⟩ (s.st c false).landing ∧
          (t.st c false).regs = (s.st c false).regs ∧ t.hbm = s.hbm ∧
          ∀ e b, Mem.byte (t.seat e).spad b = Mem.byte (s.seat e).spad b
  ) ∧ (
    ∀ (s : State) (c : Nat) (a : Access) (x : Nat) (bs : List Byte),
      (s.core c).frozen = none → (s.st c false).acc = [a] → (s.st c true).acc = [] →
      (s.st c false).lastAcc = [] → (s.st c true).lastAcc = [] → (s.st c false).wait = none → (s.st c true).wait = none →
      (s.seat c).resv = [] → a.rem = 0 → a.op = .store [(x, bs)] →
        ∃ t, exec (.pendingAccessPerform c) s = .next t ∧ (t.st c false).acc = [] ∧
          (∀ b, x ≤ b → b < x + bs.length → Mem.byte (t.seat c).spad b = nth 0 bs (b - x)) ∧
          (∀ b, b < x ∨ x + bs.length ≤ b → Mem.byte (t.seat c).spad b = Mem.byte (s.seat c).spad b) ∧
          (∀ e, e ≠ c → t.core e = s.core e) ∧ t.hbm = s.hbm ∧ (t.st c false).regs = (s.st c false).regs
  )

/-! ## The vector slots (R223 to R251) -/

/-- R223, R224, R228: the integer lane operations: which lanes are written, their values, and their latencies; no flag. -/
def Obligations.VectorIntegerResults : Prop :=
  ∀ (s : State) (d a b : RegF) (k : F3) (c : CSet),
    let one := fun (i : Instr) (f : W32 → W32) =>
      PostsLanes i s [a] d 2 ((writtenLanes s k c).map fun p => (p, (f (rdV s a p)).toNat, 0))
    let two := fun (i : Instr) (lat : Nat) (f : W32 → W32 → W32) =>
      PostsLanes i s [a, b] d lat ((writtenLanes s k c).map fun p => (p, (f (rdV s a p) (rdV s b p)).toNat, 0))
    clusterSet s .all = 0xFF ∧ clusterSet s .a = s.cst.sys.clma ∧ clusterSet s .b = s.cst.sys.clmb ∧
    (∀ p, p ∈ writtenLanes s k c ↔ p < 128 ∧ (clusterSet s c).getLsbD (p / 16) = true ∧ (rdK s k).getLsbD p = true) ∧
    (QueuesLive s [a] → one (.vabsI32 d a k c) fun x => if x.slt 0 then -x else x) ∧
    (QueuesLive s [a, b] →
      two (.vaddI32 d a b k c) 2 (fun x y => x + y) ∧ two (.vsubI32 d a b k c) 2 (fun x y => x - y) ∧
      two (.vmulI32 d a b k c) 3 (fun x y => x * y) ∧
      two (.vmulh d a b k c) 3 (fun x y => (x.signExtend 64 * y.signExtend 64).extractLsb' 32 32) ∧
      two (.vand d a b k c) 2 (fun x y => x &&& y) ∧ two (.vor d a b k c) 2 (fun x y => x ||| y) ∧
      two (.vxor d a b k c) 2 (fun x y => x ^^^ y) ∧
      two (.vshl d a b k c) 2 (fun x y => x <<< (y &&& 31)) ∧ two (.vshr d a b k c) 2 (fun x y => x >>> (y &&& 31)) ∧
      two (.vsar d a b k c) 2 (fun x y => x.sshiftRight' (y &&& 31)) ∧
      two (.vminI32 d a b k c) 2 (fun x y => if x.sle y then x else y) ∧
      two (.vmaxI32 d a b k c) 2 (fun x y => if y.sle x then x else y) ∧
      two (.vminU32 d a b k c) 2 (fun x y => if x ≤ y then x else y) ∧
      two (.vmaxU32 d a b k c) 2 (fun x y => if y ≤ x then x else y))

/-- R229 to R232, R241: the floating-point lane operations and special functions post, for every written lane, the value and
flags of one function of their operand lanes, after the latencies of the tables. What the functions give is stated by
FloatingPointSpecialCases and FormatValuesConvertToThemselves. -/
def Obligations.VectorFloatResults : Prop :=
  ∀ (s : State) (d a b : RegF) (k : F3) (c : CSet),
    let one := fun (i : Instr) (lat : Nat) (f : Nat → Nat × Nat) =>
      PostsLanes i s [a] d lat ((writtenLanes s k c).map fun p => (p, f (rdV s a p).toNat))
    let two := fun (i : Instr) (lat : Nat) (f : Nat → Nat → Nat × Nat) =>
      PostsLanes i s [a, b] d lat ((writtenLanes s k c).map fun p => (p, f (rdV s a p).toNat (rdV s b p).toNat))
    (QueuesLive s [a, b] →
      two (.vaddF32 d a b k c) 3 fAdd ∧ two (.vsubF32 d a b k c) 3 fSub ∧ two (.vmulF32 d a b k c) 3 fMul ∧
      two (.vminF32 d a b k c) 3 (fMinMax fmtF32 false) ∧ two (.vmaxF32 d a b k c) 3 (fMinMax fmtF32 true) ∧
      two (.vdot2Bf16 d a b k c) 4 dot2 ∧ two (.vrcpr d a b k c) 5 vrcpr ∧ two (.vrsqr d a b k c) 5 vrsqr ∧
      PostsLanes (.vfmaF32 d a b k c) s [a, b] d 4
        ((writtenLanes s k c).map fun p => (p, fFma (rdV s d p).toNat (rdV s a p).toNat (rdV s b p).toNat)) ∧
      two (.vcpysF32 d a b k c) 1 (fun x y =>
        (((BitVec.ofNat 32 x &&& 0x7FFFFFFF) ||| (BitVec.ofNat 32 y &&& 0x80000000)).toNat, 0))) ∧
    (QueuesLive s [a] →
      one (.vabsF32 d a k c) 1 (fun x => ((BitVec.ofNat 32 x &&& 0x7FFFFFFF).toNat, 0)) ∧
      one (.vnegF32 d a k c) 1 (fun x => ((BitVec.ofNat 32 x ^^^ 0x80000000).toNat, 0)) ∧
      one (.vrcp d a k c) 3 vrcp ∧ one (.vrsq d a k c) 3 vrsq ∧ one (.vsqrt d a k c) 12 fSqrt ∧
      one (.vexp2 d a k c) 12 vexp2 ∧ one (.vlog2 d a k c) 12 vlog2 ∧
      one (.vsin d a k c) 16 (vtrig false) ∧ one (.vcos d a k c) 16 (vtrig true))

/-- R14, R229, R230, R242 to R246: the special cases of the FP32 operations: NaN operands, infinities of opposite sign, zero
times infinity, minima and maxima, and the tables of the special functions; the square root of a number, and the seeds of
reciprocals. -/
def Obligations.FloatingPointSpecialCases : Prop :=
  ∀ (x y z : Nat), x < 2 ^ 32 → y < 2 ^ 32 → z < 2 ^ 32 →
    let nan := fun (w : Nat) => 0x7F800000 < w % 2 ^ 31
    let sig := fun (w : Nat) => nan w ∧ w.testBit 22 = false
    let inf := fun (w : Nat) => w % 2 ^ 31 = 0x7F800000
    let zero := fun (w : Nat) => w % 2 ^ 31 = 0
    let neg := fun (w : Nat) => 2 ^ 31 ≤ w
    let nv2 := if sig x ∨ sig y then 16 else 0
    let nv1 := if sig x then 16 else 0
    let q := 0x7FC00000
    (nan x ∨ nan y → fAdd x y = (q, nv2) ∧ fSub x y = (q, nv2) ∧ fMul x y = (q, nv2)) ∧
    (inf x → inf y → (neg x ↔ ¬ neg y) → fAdd x y = (q, 16) ∧ fSub x x = (q, 16)) ∧
    (inf x → zero y → fMul x y = (q, 16) ∧ fMul y x = (q, 16) ∧ fFma z x y = (q, 16) ∧ fFma z y x = (q, 16)) ∧
    (∀ m, (nan x → nan y → fMinMax fmtF32 m x y = (q, nv2)) ∧ (nan x → ¬ nan y → fMinMax fmtF32 m x y = (y, nv2)) ∧
      (¬ nan x → nan y → fMinMax fmtF32 m x y = (x, nv2)) ∧
      (¬ nan x → ¬ nan y →
        let order := fun (w : Nat) => (if 2 ^ 31 ≤ w then 2 ^ 31 - 1 - (w : Int) else w : Int)
        fMinMax fmtF32 m x y = (if decide (order x < order y) = m then y else x, 0))) ∧
    fMinMax fmtF32 false 0 0x80000000 = (0x80000000, 0) ∧ fMinMax fmtF32 true 0x80000000 0 = (0, 0) ∧
    -- the square root, rounded once: no other code is as near
    (let u := f32Units
     let c := (fSqrt x).1
     0 < x → x < 0x7F800000 →
       (u (c - 1) + u c) ^ 2 < 4 * u x * 2 ^ 149 ∧ 4 * u x * 2 ^ 149 < (u c + u (c + 1)) ^ 2 ∧ 0 < c ∧ c < 0x7F800000 ∧
       (fSqrt x).2 = if u c ^ 2 = u x * 2 ^ 149 then 0 else 1) ∧
    -- the seeds of a number m * 2^(e - 149), where m = f / 2^23
    (∀ e f t : Nat, f32Finite x → 2 ^ 23 ≤ f → f < 2 ^ 24 → (f32Units x).natAbs * 2 ^ 23 = f * 2 ^ e →
      (let d := 257 + 2 * ((f - 2 ^ 23) / 2 ^ 16)
       21 ≤ e → 2 ^ 21 < 2 * (2 ^ 11 + t) * d + d → 2 * (2 ^ 11 + t) * d < 2 ^ 21 + d →
         (f32Units (vrcp x).1).natAbs * 2 ^ (e - 9) = (2 ^ 11 + t) * 2 ^ 277 ∧ (neg (vrcp x).1 ↔ neg x) ∧ (vrcp x).2 = 0) ∧
      (let o := (e + 1) % 2
       let d := (1 + o) * (129 + 2 * ((f - 2 ^ 23) / 2 ^ 17))
       ¬ neg x → (2 * (2 ^ 11 + t) - 1) ^ 2 * d < 2 ^ 33 → 2 ^ 33 < (2 * (2 ^ 11 + t) + 1) ^ 2 * d →
         f32Units (vrsq x).1 * 2 ^ ((e + 1 - o) / 2) = (2 ^ 11 + t) * 2 ^ 212 ∧ (vrsq x).2 = 0)) ∧
    (0 < x % 2 ^ 31 → x % 2 ^ 31 < 2 ^ 21 → vrcp x = (if neg x then 0xFF800000 else 0x7F800000, 5)) ∧
    (nan x → fSqrt x = (q, nv1) ∧ vexp2 x = (q, nv1) ∧ vlog2 x = (q, nv1) ∧ vtrig false x = (q, nv1) ∧
      vtrig true x = (q, nv1) ∧ vrcp x = (q, nv1) ∧ vrsq x = (q, nv1)) ∧
    (neg x → ¬ nan x → ¬ zero x → fSqrt x = (q, 16) ∧ vlog2 x = (q, 16) ∧ vrsq x = (q, 16)) ∧
    (inf x → vtrig false x = (q, 16) ∧ vtrig true x = (q, 16)) ∧
    (0x49800000 ≤ x % 2 ^ 31 → x % 2 ^ 31 < 0x7F800000 → vtrig false x = (q, 32) ∧ vtrig true x = (q, 32)) ∧
    (0x43000000 ≤ x → x < 0x7F800000 → vexp2 x = (0x7F800000, 5)) ∧
    (nan y ∨ inf y ∨ zero y → vrcpr x y = (y, 0) ∧ vrsqr x y = (y, 0)) ∧
    fSqrt 0x7F800000 = (0x7F800000, 0) ∧ fSqrt 0 = (0, 0) ∧ fSqrt 0x80000000 = (0x80000000, 0) ∧
    vexp2 0x7F800000 = (0x7F800000, 0) ∧ vexp2 0xFF800000 = (0, 0) ∧ vexp2 0 = (0x3F800000, 0) ∧
    vexp2 0x80000000 = (0x3F800000, 0) ∧
    vlog2 0x7F800000 = (0x7F800000, 0) ∧ vlog2 0 = (0xFF800000, 8) ∧ vlog2 0x80000000 = (0xFF800000, 8) ∧
    vtrig false 0 = (0, 0) ∧ vtrig false 0x80000000 = (0x80000000, 0) ∧ vtrig true 0 = (0x3F800000, 0) ∧
    vtrig true 0x80000000 = (0x3F800000, 0) ∧
    vrcp 0 = (0x7F800000, 8) ∧ vrcp 0x80000000 = (0xFF800000, 8) ∧ vrcp 0x7F800000 = (0, 0) ∧ vrcp 0xFF800000 = (0x80000000, 0) ∧
    vrsq 0 = (0x7F800000, 8) ∧ vrsq 0x80000000 = (0xFF800000, 8) ∧ vrsq 0x7F800000 = (0, 0) ∧
    vrcp 0x40400000 = (0x3EAA4000, 0) ∧ vrsq 0x40800000 = (0x3EFF0000, 0) ∧
    vrcpr 0x40400000 0x3EAA4000 = (0x3EAAAA68, 0)

/-- R226, R229, R231, R32, R33, R35, R15: on finite operands, sums, differences, products, fused products and the BF16 dot product
are the exact value rounded once (`RoundsTo`, in units of 2^-149 or of 2^-298); and the sign of an exact zero. -/
def Obligations.ArithmeticRoundsOnce : Prop :=
  let u := f32Units
  let zero := fun (w : Nat) => w % 2 ^ 31 = 0
  let neg := fun (w : Nat) => 2 ^ 31 ≤ w
  (∀ x y z : Nat, f32Finite x → f32Finite y → f32Finite z →
    RoundsTo 0 (u x + u y) (fAdd x y) ∧ RoundsTo 0 (u x - u y) (fSub x y) ∧ RoundsTo 149 (u x * u y) (fMul x y) ∧
    RoundsTo 149 (u z * 2 ^ 149 + u x * u y) (fFma z x y) ∧
    (u x + u y = 0 → (neg (fAdd x y).1 ↔ zero x ∧ neg x ∧ neg y)) ∧
    (u x - u y = 0 → (neg (fSub x y).1 ↔ zero x ∧ neg x ∧ ¬ neg y)) ∧
    (u x * u y = 0 → (neg (fMul x y).1 ↔ (neg x ↔ ¬ neg y))) ∧
    (u z * 2 ^ 149 + u x * u y = 0 → (neg (fFma z x y).1 ↔ zero z ∧ neg z ∧ (neg x ↔ ¬ neg y)))) ∧
  (∀ v w : Nat, v < 2 ^ 32 → w < 2 ^ 32 →
    let half := fun (n i : Nat) => n / 2 ^ (16 * i) % 2 ^ 16 * 2 ^ 16
    (∀ i, i < 2 → f32Finite (half v i) ∧ f32Finite (half w i)) →
      RoundsTo 149 (u (half v 0) * u (half w 0) + u (half v 1) * u (half w 1)) (dot2 v w))

/-- R12, R28, R32, R36: a number of a floating-point format, rounded into its own format in any mode, is its own code, without
a flag; so is an integer of an integer format. -/
def Obligations.FormatValuesConvertToThemselves : Prop :=
  ∀ (mode : Rnd) (sat : Bool) (rw : Nat), rw < 2 ^ 32 →
    (∀ f, f = fmtF32 ∨ f = fmtBf16 ∨ f = fmtE4m3 ∨ f = fmtE5m2 → ∀ w, w < 2 ^ f.width → w % 2 ^ (f.width - 1) ≤ f.maxCode →
      encodeFloat f mode sat rw (decodeFloat f w) = (w, 0)) ∧
    (∀ f, f = fmtU8 ∨ f = fmtI8 ∨ f = fmtU32 ∨ f = fmtI32 ∨ f = fmtI64 ∨ f = fmtFx128 → ∀ p w, w < 2 ^ f.bits →
      encodeInt f p mode sat rw (decodeIntF f p w) = (w, 0))

/-- R233: the compares: one mask bit per written lane lands after two ticks; NV of an FP32 compare is that of a signalling NaN
in some written lane.

R234, R235: the moves. VSEL writes every lane of the set; VEXTR and VINS act on the lane that S(b) names, if it is
admitted. -/
def Obligations.VectorComparesAndMoves : Prop :=
  (
    ∀ (s : State) (d : F3) (a b : RegF) (k : F3) (c : CSet) (f : FCond) (g : ICond), QueuesLive s [a, b] →
      let ls := writtenLanes s k c
      let posts := fun (i : Instr) (r : Nat → Bool) (fl : Nat) =>
        (ls = [] → Passes i s [a, b]) ∧ (ls ≠ [] → Posts i s [a, b] (.k d.toNat (ls.map fun p => (p, r p))) fl 2)
      let x := fun p => f32Val (rdV s a p).toNat
      let y := fun p => f32Val (rdV s b p).toNat
      let un := fun p => (x p).isNan || (y p).isNan
      let o := fun p => xcmp (x p) (y p)
      posts (.vcmpF32 d a b k c f)
        (fun p =>
          match f with
          | .eq => !un p && decide (o p = .eq) | .ne => un p || decide (o p ≠ .eq)
          | .lt => !un p && decide (o p = .lt) | .le => !un p && decide (o p ≠ .gt)
          | .gt => !un p && decide (o p = .gt) | .ge => !un p && decide (o p ≠ .lt)
          | .un => un p | .or => !un p)
        (if ls.any (fun p => (x p).isSig || (y p).isSig) then 16 else 0) ∧
      posts (.vcmpI32 d a b k c g)
        (fun p =>
          let u := rdV s a p
          let v := rdV s b p
          match g with
          | .eq => decide (u = v) | .ne => decide (u ≠ v) | .lt => u.slt v | .le => u.sle v | .gt => v.slt u | .ge => v.sle u
          | .ltu => u.ult v | .geu => v.ule u) 0
  ) ∧ (
    ∀ (s : State) (d a b : RegF) (r k : F3) (c : CSet),
      let ls := writtenLanes s k c
      let i := (rdS s b).toNat % 128
      let lanes := fun (j : Instr) (fs : List RegF) (lat : Nat) (ps : List Nat) (f : Nat → W32) =>
        PostsLanes j s fs d lat (ps.map fun p => (p, (f p).toNat, 0))
      (∀ p, p ∈ setLanes s c ↔ p < 128 ∧ (clusterSet s c).getLsbD (p / 16) = true) ∧
      lanes (.viota d k c) [] 1 ls (fun p => BitVec.ofNat 32 p) ∧
      (QueuesLive s [a] →
        lanes (.vmov d a k c) [a] 1 ls (rdV s a) ∧ lanes (.vbcast d a k c) [a] 1 ls (fun _ => (rdS s a).setWidth 32) ∧
        lanes (.vxcl d a r k c) [a] 6 ls (fun p => rdV s a (16 * ((p / 16 + r.toNat) % 8) + p % 16))) ∧
      (QueuesLive s [a, b] →
        lanes (.vsel d a b k c) [a, b] 1 (setLanes s c) (fun p => if (rdK s k).getLsbD p then rdV s a p else rdV s b p) ∧
        lanes (.vperm d a b k c) [a, b] 3 ls (fun p => rdV s a (16 * (p / 16) + (rdV s b p).toNat % 16)) ∧
        (i ∈ ls → Posts (.vextr d a b k c) s [a, b] (.s d.toNat ((rdV s a i).zeroExtend 64)) 0 2) ∧
        (i ∉ ls → Passes (.vextr d a b k c) s [a, b]) ∧
        lanes (.vins d a b k c) [a, b] 2 (if i ∈ ls then [i] else []) (fun _ => (rdS s a).setWidth 32))
  )

/-- R236: the reductions: lane 0 of each cluster of the set takes the value of the fixed pairwise tree over the lanes that the
mask admits, or the identity where it admits none.

R249: VTOPK and VMERGEK order tags by the rank of their values, a number above every NaN and greater numbers first, equal
values by ascending tag; VTOPK moves the lanes of its second operand by that order, VMERGEK writes the tags. -/
def Obligations.ReductionAndTopKResults : Prop :=
  (
    ∀ (s : State) (d a : RegF) (k : F3) (c : CSet), QueuesLive s [a] →
      let red := fun (op : Nat → Nat → Nat × Nat) (ident cl : Nat) =>
        let level := fun (w : Nat) (n : Nat → Option Nat × Nat) (i : Nat) => comb op (n i) (n (i + w))
        let n0 := fun l => if (rdK s k).getLsbD (16 * cl + l) then (some (rdV s a (16 * cl + l)).toNat, 0) else (none, 0)
        let r := level 8 (level 4 (level 2 (level 1 n0))) 0
        (r.1.getD ident, r.2)
      let gives := fun (i : Instr) (op : Nat → Nat → Nat × Nat) (ident : Nat) =>
        PostsLanes i s [a] d 8 ((clustersOf (clusterSet s c)).map fun cl => (16 * cl, red op ident cl))
      (∀ cl, cl ∈ clustersOf (clusterSet s c) ↔ cl < 8 ∧ (clusterSet s c).getLsbD cl = true) ∧
      gives (.vredaddF32 d a k c) fAdd 0 ∧
      gives (.vredaddI32 d a k c) (fun x y => ((x + y) % 2 ^ 32, 0)) 0 ∧
      gives (.vredmaxF32 d a k c) (fMinMax fmtF32 true) 0xFF800000 ∧
      gives (.vredminF32 d a k c) (fMinMax fmtF32 false) 0x7F800000 ∧
      gives (.vredmaxI32 d a k c)
        (fun x y => (if (BitVec.ofNat 32 y).sle (BitVec.ofNat 32 x) then x % 2 ^ 32 else y % 2 ^ 32, 0)) 0x80000000 ∧
      gives (.vredminI32 d a k c)
        (fun x y => (if (BitVec.ofNat 32 x).sle (BitVec.ofNat 32 y) then x % 2 ^ 32 else y % 2 ^ 32, 0)) 0x7FFFFFFF
  ) ∧ (
    ∀ (s : State) (d a b : RegF) (k : F3) (c : CSet), QueuesLive s [a, b] →
      let above := fun (x y : W32) =>
        let u := f32Val x.toNat
        let v := f32Val y.toNat
        !u.isNan && (v.isNan || decide (xcmp u v = .gt))
      let ranked := fun (n : Nat) (val : Nat → W32) (o : Nat → Nat) =>
        (∀ i, i < n → o i < n) ∧
        ∀ i j, i < j → j < n → above (val (o i)) (val (o j)) = true ∨ (above (val (o j)) (val (o i)) = false ∧ o i < o j)
      ∃ o t : Nat → Nat → Nat,
        (∀ cl, cl < 8 → ranked 16 (fun l => rdV s a (16 * cl + l)) (o cl)) ∧
        (∀ cl, cl < 8 → ranked 32 (fun l => if l < 16 then rdV s a (16 * cl + l) else rdV s b (16 * cl + (l - 16))) (t cl)) ∧
        PostsLanes (.vtopk d a b k c) s [a, b] d 8
          ((writtenLanes s k c).map fun p => (p, (rdV s b (16 * (p / 16) + o (p / 16) (p % 16))).toNat, 0)) ∧
        PostsLanes (.vmergek d a b k c) s [a, b] d 8 ((writtenLanes s k c).map fun p => (p, t (p / 16) (p % 16), 0))
  )

/-- R238 to R240, R247, R248, R250, R251: conversions, draws, dropout and accumulator reads; an accumulator read of a deterministic
task while a routine issued in an earlier cycle has not finished traps OWNVIOL. `land` says that the lanes' results join
the pending results; under SR a conversion, and always a dropout, reports its key use once unless its set is empty. -/
def Obligations.ConversionsAndDraws : Prop :=
  ∀ (s : State) (d a b : RegF) (k : F3) (c : CSet) (src dst : VFmt) (p6 : BitVec 6),
    let ls := writtenLanes s k c
    let n := fun (p : Nat) => (rdV s a p).toNat
    let key := keyOf s.cst.sys.kseed.toNat s.cst.sys.ktens.toNat s.cst.sys.kstep.toNat
    let rnd := s.cur.rnd
    let sat := s.cur.sat
    let kw := fun (p : Nat) => if rnd = .sr then roundWord key 0 (s.cst.sys.kidx.toNat + p) else 0
    let x := s.ctxOf s.cur.core
    let lands := fun (i : Instr) (fs : List RegF) (lat : Nat) (rs : List (Nat × Nat × Nat)) (report : Bool) =>
      (report = false → PostsLanes i s fs d lat rs) ∧
      (report = true → ∃ t, exec i s = .next t ∧ t.cst.regs = s.cst.regs ∧ t.cst.acc = s.cst.acc ∧
        t.cst.landing = (if rs = [] then s.cst.landing else
          insLanding ⟨s.cst.seq, lat, lanesFlags rs, .v d.toNat (rs.map fun r => (r.1, BitVec.ofNat 32 r.2.1)), (s.cur.pc, s.cur.slot)⟩ s.cst.landing) ∧
        (t.ctx x).keyReps = (s.ctx x).keyReps ++
          [⟨s.cst.sys.ktens, s.cst.sys.kstep, s.cst.sys.kdest, s.cur.core, 3, originOf s⟩] ∧
        (∀ e, e ≠ x → t.ctx e = s.ctx e) ∧ (∀ u m, Mem.byte (t.seat u).spad m = Mem.byte (s.seat u).spad m) ∧ t.hbm = s.hbm)
    let rep := decide (rnd = .sr) && decide (clusterSet s c ≠ 0)
    let scalarDst := ((vfmtElem dst).kbf = none)
    let fx := fun (P : Nat) => (clustersOf (clusterSet s c)).flatMap fun cl =>
      ((List.range 4).filter fun j => (rdK s k).getLsbD (16 * cl + j)).map fun j =>
        (16 * cl + j, encodeFloat fmtF32 rnd sat (kw (4 * cl + j))
          (decodeElem .fx128 P (n (16 * cl + 4 * j) + n (16 * cl + 4 * j + 1) * 2 ^ 32 + n (16 * cl + 4 * j + 2) * 2 ^ 64
            + n (16 * cl + 4 * j + 3) * 2 ^ 96)))
    (QueuesLive s [a] →
      (scalarDst → lands (.vcvt d a src dst k c) [a] (if (vfmtElem src).kbf.isSome then 6 else 4)
        (ls.map fun p => (p, encodeElem (vfmtElem dst) 0 rnd sat (kw p) (decLane src (p % 16) (n p)))) rep) ∧
      (∀ kb, (vfmtElem dst).kbf = some kb →
        lands (.vcvt d a src dst k c) [a] 6 ((clustersOf (clusterSet s c)).flatMap (cvtBlock s a src kb (rdK s k))) rep) ∧
      lands (.vcvtF32Fx128Lo d a p6 k c) [a] 4 (fx p6.toNat) rep ∧
      lands (.vcvtF32Fx128Hi d a p6 k c) [a] 4 (fx (64 + p6.toNat)) rep ∧
      (let m := (s.seat s.cur.core).mxe
       let runs := (∀ t, s.cst.task = some t → t.det = false) ∨ s.cur.trial = true ∨ ls = [] ∨ ∀ r, r ∈ m.queue → s.cycle ≤ r.cyc
       (runs → m.ecc = false →
         lands (.vaccrd d a k c) [a] 6
           (ls.map fun p => (p, encodeFloat fmtF32 rnd sat (kw p) (accRead m (decide (s.cur.prof = 7)) (rdS s a).toNat p))) rep) ∧
       (¬ runs → Traps (.vaccrd d a k c) s tcOWNVIOL 0))) ∧
    (let w := fun (p : Nat) => krg key (ctrDraw p s.cst.wid.toNat
        (s.cst.sys.drawc.toNat + (s.cur.drawers.filter fun j => decide (j < s.cur.slot)).length)) % 2 ^ 32
     PostsLanes (.vrand d k c) s [] d 4 (ls.map fun p => (p, w p, 0)) ∧
     PostsLanes (.vrandf d k c) s [] d 4 (ls.map fun p => (p, f32Rne (.fin false (w p / 2 ^ 8) (-24))))) ∧
    (QueuesLive s [a, b] →
      lands (.vdrop d a b k c) [a, b] 4
        (ls.map fun p => (p, if dropWord key (s.cst.sys.kidx.toNat + p) / 2 ^ 8 < min (rdS s b).toNat (2 ^ 24) then n p else 0, 0))
        (decide (clusterSet s c ≠ 0)))

/-! ## The engine slot (R335 to R358) -/

/-- R262, R342, R344, R345, R351, R353, R355: MPSET posts a parameter; GSET, CHW and KILNR start their reads; GSTART hands a
list of indices to its queue, TARM arms a run of tiles, SPAWN emits a header with a keyed child id. -/
def Obligations.EngineRegistersAndArming : Prop :=
  ∀ (s : State) (a b : RegF) (n : F3) (g : BitVec 4) (ch : BitVec 12) (qn : BitVec 2),
    let c := s.cur.core
    let x := s.seat c
    let va := (rdS s a).toNat
    let cnt := (rdS s b).toNat
    let fits := fun (al len : Nat) => va % al = 0 ∧ va + len ≤ 0x600000 ∧ detBars s va len false = false
    let q := x.q qn.toNat
    let tiles := tilesOf va (8 * cnt)
    let set := curSet s g
    let run := (cnt + 4095) / 4096
    let z := s.cst.sys
    (QueuesLive s [a] →
      Posts (.mpset a n) s [a] (.mp n.toNat (rdS s a &&& 0xFFF8FFFFFFFFFFFF)) 0 1 ∧
      (fits 64 192 → Starts (.gset a g) s [a] (.loadG g.toNat va) 1 2 false) ∧
      (fits 64 64 → Starts (.chw a ch) s [a] (.loadCh ch.toNat va) 1 2 false) ∧
      (va.testBit 63 = true → Posts (.kilnr a) s [a] (.kiln none) 0 2) ∧
      (fits 256 256 → Starts (.kilnr a) s [a] (.loadKiln va) 1 2 false) ∧
      (va % 128 = 0 →
        ∃ t, exec (.spawn a) s = .next t ∧ t.cst.sys = { z with spawnc := z.spawnc + 1 } ∧ t.cst.regs = s.cst.regs ∧
          t.cst.landing = s.cst.landing ∧ t.hbm = s.hbm ∧
          t.spawns = s.spawns ++ [⟨s.nextId, s.ctxOf c, c, originOf s, va,
            BitVec.ofNat 64 (krg (keyOf z.kseed.toNat z.ktens.toNat z.kstep.toNat)
              (ctrSpawn s.cst.wid.toNat z.spawnc.toNat)), z.kstep⟩])) ∧
    (QueuesLive s [a, b] →
      (va % 8 = 0 → va + 8 * cnt ≤ 0x600000 → q.en = true → (bitN q.gqc.toNat 9 = true ∨ q.gqc.toNat / 2 ^ 10 % 64 = 0) →
        q.gs = none →
          (cnt = 0 → Passes (.gstart a b qn) s [a, b]) ∧
          (cnt ≠ 0 → x.barred tiles = false →
            ∃ t, exec (.gstart a b qn) s = .next t ∧ t.cst.regs = s.cst.regs ∧ t.hbm = s.hbm ∧
              ((t.seat c).q qn.toNat).gs =
                some ⟨s.nextId, va, cnt, 0, q.gqb, q.gqc, q.gql, tiles.map fun i => (i, false), originOf s⟩)) ∧
      (va % 4096 = 0 → cnt ≠ 0 → va / 4096 + run ≤ 1536 →
        (∀ i, i < run → (x.tile (va / 4096 + i)).st = .core ∧ ∀ k, k ∈ x.takes → k.tile ≠ va / 4096 + i) →
        x.armings.length < 64 → (nocr set = true ∨ recOk set = true) →
          ∃ t, exec (.tarm a b g) s = .next t ∧ t.hbm = s.hbm ∧ (t.seat c).spad = x.spad ∧
            (∀ i, i < run → ((t.seat c).tile (va / 4096 + i)).st = .fab) ∧
            (∀ i, i < va / 4096 ∨ va / 4096 + run ≤ i → (t.seat c).tile i = x.tile i) ∧
            (t.seat c).armings = x.armings ++ [⟨va / 4096, cnt, run, 0, recOf set, originOf s⟩]))

/-- R335, R343, R346, R350, R354, R356 to R358, R263: an engine command that passes its checks joins its core's commands with
what it captures (`capturedCmd`) and takes its tiles; CRNEXT and STAMP of its set advance (`SetAdvances`), and nothing else of its
core, its stream or memory changes (`Joins`). One that fails its own checks and asks for no record leaves nothing behind. What a
CPYC and an EFENCE await, which tiles a copy and a routine take, and the bytes of a Kiln record are given by membership.

R320, R321, R327, R352: a collective command whose channel or ring is valid and whose parameters pass R329 joins the
package's collectives with the captured descriptors, and the stamp of its descriptor advances by one; one without a valid
descriptor posts a DESC fault. That R329's "otherwise" takes in a channel or ring table whose EN is 0, whatever the resident entry
holds, is the model's reading (log entry 93). -/
def Obligations.EngineAndCollectiveCommandsJoin : Prop :=
  (
    ∀ (s : State) (a b : RegF) (g : BitVec 4) (op : AOp) (f : AFmt) (sc : Scope) (e : BitVec 12) (geo : Geo),
      let c := s.cur.core
      let x := s.seat c
      let set := curSet s g
      let va := (rdS s a).toNat
      let vb := (rdS s b).toNat
      let k := fun (kind : CKind) => capturedCmd s kind set (rdS s a) (rdS s b)
      let adv := fun (t : State) => SetAdvances s t g.toNat
      let ts := copyTiles geo (va % 2 ^ 23) (vb % 2 ^ 23)
      let rec_ := nocr set = true ∨ recOk set = true
      let turned := fun (i : Instr) => nocr set = true → ∃ t, exec i s = .next t ∧ adv t ∧ (t.seat c).cmds = x.cmds ∧
        (t.seat c).tiles = x.tiles ∧ (t.seat c).takes = x.takes ∧ (t.seat c).spad = x.spad ∧ t.recs = s.recs ∧ t.hbm = s.hbm
      let copies := fun (i : Instr) (kind : CKind) (ids : List Nat) (dst own : Bool) =>
        let fits := geo.ok va (if dst then vb else 0) = true ∧ own = true ∧ x.barred ((ts dst).map fun t => t.1) = false
        (fits → Joins i s [a, b] { k kind with after := ids, tiles := ts dst } adv) ∧ (¬ fits → turned i)
      (QueuesLive s [a, b] → geoOf set = none →
        turned (.cpy a b g) ∧ turned (.cpyc a b g) ∧ turned (.fsend a b g) ∧ turned (.fmcast a b g) ∧ turned (.fred a b op f g)) ∧
      (QueuesLive s [a, b] → geoOf set = some geo →
        copies (.cpy a b g) .cpy [] true true ∧ copies (.cpyc a b g) .cpyc (chainIds s) true true ∧
        copies (.fmcast a b g) .fmcast [] false (mcastOk geo (rdS s b)) ∧
        copies (.fred a b op f g) (.fred op f) [] true (fredOk f geo (rdS s b)) ∧
        ((geo.ok va vb = true → sendOk geo (rdS s b) = true → gangTarget s geo (rdS s b) = none) →
          copies (.fsend a b g) .fsend [] true (sendOk geo (rdS s b))) ∧
        (∀ d, gangTarget s geo (rdS s b) = some d → geo.ok va vb = true → sendOk geo (rdS s b) = true →
          let reads := msgReads (k .fsend)
          ((∃ r, r ∈ reads ∧ detBars s r.1 r.2 false = true) → Traps (.fsend a b g) s tcOWNVIOL 0) ∧
          ((∀ r, r ∈ reads → detBars s r.1 r.2 false = false) →
            ∃ t, exec (.fsend a b g) s = .next t ∧ adv t ∧ t.nextId = s.nextId + 1 ∧ (t.seat c).cmds = x.cmds ++ [k .gangMsg] ∧
              (t.seat c).msgs = x.msgs ++ [⟨s.nextId, c, d.1, d.2, x.prim.sys.ticks - 1 + 16, [], false⟩] ∧
              (t.st c false).acc = x.prim.acc ++ [⟨x.prim.seq, 1, 1, false, s.cycle, s.cur.pc, 7, .msgSample s.nextId⟩] ∧
              (t.seat c).spad = x.spad ∧ (t.seat c).tiles = x.tiles ∧ t.hbm = s.hbm))) ∧
      (QueuesLive s [a, b] →
        let size := afmtSize f
        let hi := (rdS s (oddOf b)).toNat
        let iorg := setDw set 2
        let apart := ((originOf s).det = true ∧ op = .add ∧ (f = .fp32 ∨ f = .bf16)) ∨ (bitN iorg 63 = false ∧ iorg % size ≠ 0)
        let bad := bitN iorg 63 = true ∨ iorg % 32 ≠ 0 ∨ 2 ^ 40 < vb ∨ ¬ rec_
        (va % size ≠ 0 → Traps (.ratom a b op f g) s tcALIGN 0) ∧
        (va % size = 0 → ¬ rec_ → Traps (.ratom a b op f g) s tcILLI 0) ∧
        (va % size = 0 → rec_ → apart → turned (.ratom a b op f g)) ∧
        (va % size = 0 → rec_ → ¬ apart →
          Joins (.ratom a b op f g) s [a, b] { k (.ratom op f) with
            x := (if f = .fx128 then vb + hi * 2 ^ 64 else vb) % 2 ^ (8 * size), e := hi % 2 ^ (8 * size) } adv) ∧
        (bad → turned (.digest a b g)) ∧ (¬ bad → Joins (.digest a b g) s [a, b] (k .digest) adv)) ∧
      (let z := capturedCmd s .efence set 0 0
       let n := match sc with | .core => 0 | .die => 1 | .package => 2 | .group => 3 | .system => 4
       (¬ rec_ → Traps (.efence g sc) s tcILLI 0) ∧
       (rec_ → Joins (.efence g sc) s [] { z with after := fenceIds s, crec := { z.crec with scope := n } } adv)) ∧
      (QueuesLive s [a] →
        let pairs := kilnPairs (s.ctx (s.ctxOf c))
        let bs := kilnBytes ((List.range 16).map s.cst.regs.getTs) s.cst.sys.ktens s.cst.sys.kstep pairs
        let at_ := fun (i n : Nat) => leNat ((bs.drop i).take n)
        (va % 256 ≠ 0 → Traps (.kilnw a) s tcALIGN 0) ∧
        (va % 256 = 0 → Joins (.kilnw a) s [a]
          { capturedCmd s .kilnw [] (rdS s a) 0 with bytes := bs, crec := ⟨true, 0, 0, 0⟩ } (fun t => t.cst.regs.g = s.cst.regs.g)) ∧
        bs.length = 256 ∧ (∀ i, i < 16 → at_ (4 * i) 4 = (s.cst.regs.getTs i).toNat) ∧ at_ 64 4 = s.cst.sys.ktens.toNat ∧
        at_ 68 4 = s.cst.sys.kstep.toNat ∧ at_ 72 8 = pairs.length ∧ at_ 112 4 = 0x4E4C494B ∧ at_ 116 4 = 1 ∧
        at_ 252 4 = crc32c (bs.take 252) ∧
        ∀ i p, pairs[i]? = some p → at_ (80 + 4 * i) 4 = p.1 + 2 ^ 15 + p.2 * 2 ^ 16 ∧ p.1 < 64 ∧
          let w := (s.ctx (s.ctxOf c)).rngDw p.1
          (w 0).testBit 0 = true ∧ (w 0).testBit 5 = true ∧ p.2 = w 5 / 2 ^ (if (w 0).testBit 6 then 16 else 0) % 2 ^ 16) ∧
      (let mps := (List.range 8).map (Tab.get (0 : Word) x.mxe.mp)
       let tk := fun (w : Word) => w.toNat / 2 ^ 62
       let first := fun (w : Word) => w.toNat % 2 ^ 48 / 4096
       let last := fun (w : Word) => first w + w.toNat / 2 ^ 51 % 2 ^ 11
       let fine := ∀ w, w ∈ mps → tk w ≠ 0 → tk w ≠ 3 ∧ w.toNat % 2 ^ 48 < 0x600000 ∧ last w < 1536
       let takes := fun (n i : Nat) => ∃ w, w ∈ mps ∧ tk w = n ∧ first w ≤ i ∧ i ≤ last w
       let barred := ∃ i, (takes 1 i ∨ takes 2 i) ∧ ((x.tile i).st = .fab ∨ (x.tile i).st = .mbx)
       (¬ fine → Traps (.mcall e) s tcALIGN 0) ∧ (fine → barred → Traps (.mcall e) s tcOWNVIOL 0) ∧
       (fine → ¬ barred →
         ∃ t r, exec (.mcall e) s = .next t ∧ t.cst = s.cst ∧
           Engaged s t [] { x with mxe := { x.mxe with queue := x.mxe.queue ++ [r] } } ∧
           TilesTaken x (t.seat c) s.nextId s.cycle r.tiles ∧
           (∀ i, ((i, true) ∈ r.tiles ↔ takes 2 i) ∧ ((i, false) ∈ r.tiles ↔ takes 1 i ∧ ¬ takes 2 i)) ∧
           r = { id := s.nextId, entry := e.toNat, prof := s.cur.prof, rnd := s.cur.rnd, sat := s.cur.sat, mp := mps,
                 xf := (List.range 4).map (Tab.get 0 s.cst.regs.xf),
                 ts := if s.cst.sys.replay then s.cst.bankTs else (List.range 16).map s.cst.regs.getTs,
                 org := originOf s, tiles := r.tiles, cyc := s.cycle, begun := false, mended := false, flags := 0, open_ := [] })) ∧
      (∀ dst i,
        let within := fun (z : Int × Int) => z.1.toNat / 4096 ≤ i ∧ i ≤ (z.1.toNat + (z.2 - z.1).toNat) / 4096
        let inSrc := geo.ssp = 1 ∧ within (geo.foot true (va % 2 ^ 23 : Nat))
        let inDst := dst = true ∧ geo.dsp = 1 ∧ within (geo.foot false (vb % 2 ^ 23 : Nat))
        ((i, true) ∈ ts dst ↔ inDst) ∧ ((i, false) ∈ ts dst ↔ inSrc ∧ ¬ inDst)) ∧
      (∀ i,
        let mine := fun (o : Origin) => o.sec = s.cur.sec
        let written := fun (p : Nat → Prop) =>
          ∃ j, j ∈ s.recs ∧ j.owner = .cmd c i ∧ j.ctx = s.ctxOf c ∧ mine j.org ∧ p j.unit
        (i ∈ chainIds s ↔ written (· = 0) ∨ ∃ q, q ∈ x.cmds ∧ q.id = i ∧ mine q.org ∧
          (q.kind ∈ [.cpy, .cpyc, .fsend, .fmcast, .gangMsg, .digest] ∨ ∃ o d, q.kind = .fred o d)) ∧
        (i ∈ fenceIds s ↔ written (fun _ => True) ∨ (∃ q, q ∈ x.cmds ∧ q.id = i ∧ mine q.org) ∨
          (∃ r, r ∈ x.mxe.queue ∧ r.id = i ∧ mine r.org) ∨
          (∃ q, q ∈ s.colls ∧ q.id = i ∧ mine q.org ∧ q.core = c ∧ q.ctx = s.ctxOf c) ∨
          (∃ q, q ∈ s.spawns ∧ q.id = i ∧ mine q.org ∧ q.core = c ∧ q.ctx = s.ctxOf c)))
  ) ∧ (
    ∀ (s : State) (a b : RegF) (ch : BitVec 12) (r : BitVec 10), QueuesLive s [a, b] →
      let c := s.cur.core
      let x := s.ctxOf c
      let y := s.ctx x
      let va := (rdS s a).toNat
      let n := (rdS s b).toNat
      let en1 := s.flag (clOff x) 0
      let en2 := s.flag (clOff x + 8) 0
      let se := y.chan ch.toNat
      let d := y.ringDesc r.toNat
      let dw := fun (l : List Word) (i : Nat) => nth 0 l i
      let coll : Nat → Nat → Nat → List Word → Nat → Word → Word → Coll := fun kind sch rch ring scope addr stamp =>
        { id := s.nextId, ctx := x, core := c, org := originOf s, kind := kind, sch := sch, rch := rch, se := y.chan sch,
          re := y.chan rch, ring := ring, addr := rdS s a, n := n, scope := scope, va := addr.toNat % 2 ^ 56 / 16 * 16,
          stamp := stamp, seq := 0, timer := 0, own := 0, sent := [], back := [], got := [], toSend := [], early := [], loc := [],
          opt := [], optEnt := [], flags := 0, keyed := false, abort := none, phase := 0 }
      let joins := fun (i : Instr) (k : Coll) (chan ring : Option Nat) => k.check en1 en2 = 0 →
        ∃ t, exec i s = .next t ∧ t.colls = s.colls ++ [k] ∧ t.nextId = s.nextId + 1 ∧ t.cst = s.cst ∧ t.hbm = s.hbm ∧
          (t.seat c).shell = (s.seat c).shell ∧ (∀ e, e ≠ c → t.core e = s.core e) ∧ (∀ z, z ≠ x → t.ctx z = s.ctx z) ∧
          (∀ m, Tab.get 0 (t.ctx x).chans m =
            if chan = some m then Tab.get 0 y.chans m + 1 else Tab.get 0 y.chans m) ∧
          (∀ m, Tab.get 0 (t.ctx x).rings m =
            if ring = some m then Tab.get 0 y.rings m + 1 else Tab.get 0 y.rings m) ∧
          (t.ctx x).posts = y.posts ∧ (∀ o, o ≠ clOff x + 0x18 → t.reg o = s.reg o) ∧
          t.fld (clOff x + 0x18) 0 11 = ((s.colls.filter fun k => decide (k.ctx = x)).length + 1) % 2 ^ 11
      let two := fun (kind : Nat) => coll kind ch.toNat ch.toNat [] ((dw se 5).toNat % 8) (dw se 3) (dw se 4)
      let all := fun (kind : Nat) => coll kind (rSch d) (rRch d) d (rScope d) (dw d 2) (dw d 3)
      let direct := fun (i : Instr) (kind : Nat) => joins i (two kind) (some (8 * ch.toNat + 4)) none
      let around := fun (i : Instr) (kind : Nat) => joins i (all kind) none (some (8 * r.toNat + 3))
      let passes := fun (k : Coll) => k.check en1 en2 = 0
      let faults := fun (i : Instr) => ∃ t, exec i s = .next t ∧ t.colls = s.colls ∧ t.cst = s.cst ∧ t.hbm = s.hbm ∧
        (t.ctx x).posts = y.posts ++ [⟨c, originOf s, ⟨rdS s a, s.cur.pc, s.cur.slot, cDESC, 3, 2, 0, s.gtb⟩⟩] ∧
        (t.ctx x).chans = y.chans ∧ (t.ctx x).rings = y.rings
      let size := ((EFmt.ofCode (cMfmt se)).getD .fp32).bytes
      (direct (.csend a b ch) 7 ∧ direct (.crecv a b ch) 6 ∧ around (.ccollAllred a b r) 0 ∧ around (.ccollRedscat a b r) 1 ∧
        around (.ccollAllgath a b r) 2 ∧ around (.ccollBcast a b r) 3 ∧ around (.ccollReduce a b r) 4 ∧
        around (.ccollPxch a b r) 5) ∧
      (en1 = true → chanOk se = true → cOp se = 0 → cOpt se = 0 → n ≠ 0 → n < 2 ^ 40 → va % size = 0 →
        (cPri se = true → n * size ≤ 65536) → passes (two 7) ∧ passes (two 6)) ∧
      (let rs := y.chan (rSch d)
       let rr := y.chan (rRch d)
       let size := ((EFmt.ofCode (cMfmt rs)).getD .fp32).bytes
       en1 = true → en2 = true → ringDescOk d = true → ringChansOk rs rr = true → cOpt rs = 0 → rSlot d = 0 →
       rM d ≤ n → n < 2 ^ 40 → va % size = 0 → (cPri rs = true → n * size ≤ 65536) →
         (cOp rs ≠ 0 → passes (all 0) ∧ passes (all 1) ∧ passes (all 4)) ∧
         (cOp rs = 0 → passes (all 2) ∧ passes (all 3) ∧
           (cWfmt rs = cMfmt rs → rRank d ^^^ 2 ^ rPb d < rM d → n % 2 ^ (rPj d + 1) = 0 → passes (all 5)))) ∧
      (en1 = false ∨ chanOk se = false → faults (.csend a b ch) ∧ faults (.crecv a b ch)) ∧
      (en2 = false ∨ ringDescOk d = false → faults (.ccollAllred a b r) ∧ faults (.ccollRedscat a b r) ∧
        faults (.ccollAllgath a b r) ∧ faults (.ccollBcast a b r) ∧ faults (.ccollReduce a b r) ∧ faults (.ccollPxch a b r))
  )

/-! ## Microcode (R266, R271 to R277) -/

/-- R277, R271, R181: the sequencing micro-operations of a running routine, and SWAP: the micro-program counter, the routine's own
parameters and flags; the scratchpad and the accumulators stay as they are. After an MWAIT no micro-operation of the classes that it
names is open and their flags are sure; no flag is lost.

R271 to R276, R269: the micro-operations on planes, accumulators and the scratchpad. Each whose checks pass completes with
the next address and the result of its own function, and leaves alone what that operation does not write; one that fails a check
ends the routine with a fault record of cause 10. ZERO and SCALE are given whole; of LDS, STRM, STRMC, LDACC, DRAIN and AMAX, when
each completes, the tiles or bytes it alone can change, and the values under the INT8 profile (and of AMAX for zeros and for the
NAN code). -/
def Obligations.MicroOperations : Prop :=
  (
    ∀ (s : State) (c : Nat) (r : Routine) (pd pa : F3) (imm : BitVec 32) (target : BitVec 12) (cls : BitVec 2),
      let x := s.seat c
      x.mxe.running = some r → x.mxe.ecc = false → r.mp.length = 8 →
      let val := fun (p : F3) => ((nth (0 : Word) r.mp p.toNat).toNat % 2 ^ 48 : Nat)
      let goes := fun (i : Instr) (next : Nat) (r' : Routine → Prop) =>
        ∃ t q, exec i s = .next t ∧ r' q ∧ q.id = r.id ∧ q.begun = true ∧
          (t.seat c).mxe.queue = x.mxe.queue.map (fun o => if o.id = r.id then q else o) ∧ (t.seat c).mxe.upc = next ∧
          (t.seat c).mxe.acc = x.mxe.acc ∧ (t.seat c).mxe.accE = x.mxe.accE ∧ (t.seat c).spad = x.spad ∧
          (t.seat c).mxe.mp = x.mxe.mp ∧ (∀ e, e ≠ c → t.core e = s.core e) ∧ t.hbm = s.hbm
      let old := fun (p : F3) (q : Routine) => nth (0 : Word) q.mp p.toNat = nth (0 : Word) r.mp p.toNat
      goes (.madd c pd pa imm) (x.mxe.upc + 1)
        (fun q => (((nth (0 : Word) q.mp pd.toNat).toNat % 2 ^ 48 : Nat) : Int) = ((val pa : Int) + imm.toInt) % 2 ^ 48 ∧
          (nth (0 : Word) q.mp pd.toNat).toNat / 2 ^ 48 = (nth (0 : Word) r.mp pa.toNat).toNat / 2 ^ 48 ∧ ∀ p, p ≠ pd → old p q) ∧
      goes (.mloop c pd target) (if val pd = 1 then x.mxe.upc + 1 else target.toNat)
        (fun q => (nth (0 : Word) q.mp pd.toNat).toNat % 2 ^ 48 = (val pd + 2 ^ 48 - 1) % 2 ^ 48 ∧ ∀ p, p ≠ pd → old p q) ∧
      goes (.mbrz c pd target) (if val pd = 0 then target.toNat else x.mxe.upc + 1) (fun q => q = r) ∧
      goes (.mwait c cls) (x.mxe.upc + 1)
        (fun q => let named := fun (o : MOp) => cls.getLsbD (if o.kind = .lds then 0 else 1)
          q.mp = r.mp ∧ (∀ o, o ∈ q.open_ → o ∈ r.open_ ∧ named o = false) ∧
          (∀ i, r.flags.testBit i = true ∨ (∃ o, o ∈ r.open_ ∧ named o = true ∧ o.flags.testBit i = true) →
            q.flags.testBit i = true) ∧
          ∀ i, (q.flags ||| q.loose).testBit i = (r.flags ||| r.loose).testBit i) ∧
      goes (.mend c) x.mxe.upc
        (fun q => q.mended = true ∧ q.flags = (r.flags ||| r.loose) ∧ q.open_ = [] ∧ q.mp = r.mp) ∧
      goes (.swap c) (x.mxe.upc + 1) (fun q => q = { r with open_ := r.open_ ++ [⟨.swap, [], [], 0⟩] }) ∧
      (∃ t, exec (.swap c) s = .next t ∧ (t.seat c).mxe.active = x.mxe.shadow ∧ (t.seat c).mxe.shadow = x.mxe.active)
  ) ∧ (
    ∀ (s : State) (c : Nat) (r : Routine) (t pa pb pc : F3) (o : Bool) (n : BitVec 7) (imm : BitVec 16) (fmt : BitVec 5),
      let x := s.seat c
      x.mxe.running = some r → x.mxe.ecc = false →
      let does := fun (i : Instr) (f : Except Nat MicroOut) (keeps : Seat → Prop) =>
        (∀ m, f = .ok m → ∃ u, exec i s = .next u ∧ (u.seat c).mxe.upc = m.next ∧
          (x.resv = [] → m.next = x.mxe.upc + 1) ∧ keeps (u.seat c) ∧
          (u.seat c).mxe.acc = m.seat.mxe.acc ∧ (u.seat c).mxe.accE = m.seat.mxe.accE ∧
          (u.seat c).mxe.shadow = m.seat.mxe.shadow ∧ (u.seat c).spad = m.seat.spad ∧ (u.seat c).mxe.active = x.mxe.active ∧
          (∀ b, u.st c b = s.st c b) ∧ (∀ e, e ≠ c → u.core e = s.core e) ∧ u.hbm = s.hbm) ∧
        (∀ code, f = .error code → exec i s = .next (routineFault c code r s))
      let sameAcc := fun (y : Seat) => y.mxe.acc = x.mxe.acc ∧ y.mxe.accE = x.mxe.accE
      let sameSpad := fun (y : Seat) => y.spad = x.spad ∧ y.mxe.shadow = x.mxe.shadow
      does (.lds c pa o n) (doLds pa o n r x) (fun y => sameAcc y ∧ y.spad = x.spad) ∧
      does (.strm c t pa n) (doStrm false t pa n r x) sameSpad ∧
      does (.strmc c t pa n) (doStrm true t pa n r x) sameSpad ∧
      does (.zero c t) (doZero t r x) sameSpad ∧
      does (.scale c t imm) (doScale t imm r x) sameSpad ∧
      does (.ldacc c t pa) (doLdacc t pa r x) sameSpad ∧
      does (.drain c t pa pb pc fmt) (doDrain t pa pb pc fmt r x) (fun y => sameAcc y ∧ y.mxe.shadow = x.mxe.shadow) ∧
      does (.amax c t pb) (doAmax t pb r x) (fun y => sameAcc y ∧ y.mxe.shadow = x.mxe.shadow) ∧
      (r.prof < 8 →
        (∃ u, exec (.zero c t) s = .next u ∧
          (∀ i, i < 32768 → Tab.get 0 (u.seat c).mxe.acc (32768 * t.toNat + i) = 0) ∧
          (∀ j, j < 32768 * t.toNat ∨ 32768 * (t.toNat + 1) ≤ j →
            Tab.get 0 (u.seat c).mxe.acc j = Tab.get 0 x.mxe.acc j) ∧
          Tab.get 0 (u.seat c).mxe.accE t.toNat = if r.prof = 7 then 0 else -32768) ∧
        (let e := Tab.get 0 x.mxe.accE t.toNat + imm.toInt
         r.prof ≠ 7 → -32768 ≤ e → e ≤ 32767 →
           ∃ u, exec (.scale c t imm) s = .next u ∧ Tab.get 0 (u.seat c).mxe.accE t.toNat = e ∧
             (u.seat c).mxe.acc = x.mxe.acc)) ∧
      (let p := almanac r.prof
       let val := fun (q : F3) => (nth (0 : Word) r.mp q.toNat).toNat % 2 ^ 48
       let xf := fun (i : Nat) => (nth (0 : Word) r.xf i).toNat
       let wide := if r.prof = 8 ∨ r.prof = 10 then 2 else if r.prof = 9 then 4 else 1
       let unit_ := (r.prof = 8 ∨ r.prof = 10 → t.toNat % 2 = 0) ∧ (r.prof = 9 → t.toNat % 4 = 0)
       let whole := fun (l : MLay) (a : Nat) => l.whole = true ∧ l.misaligned a = false ∧
         ∀ q, q ∈ l.runs a → r.holds false q = true ∧ x.isBad q.1.toNat q.2 = false
       let ends := fun (i : Instr) (keeps : Seat → Prop) => ∃ u, exec i s = .next u ∧ (u.seat c).mxe.upc = x.mxe.upc + 1 ∧
         keeps (u.seat c) ∧ (u.seat c).mxe.active = x.mxe.active ∧ (∀ b, u.st c b = s.st c b) ∧ (∀ e, e ≠ c → u.core e = s.core e) ∧
         u.hbm = s.hbm
       let sameTiles := fun (y : Seat) =>
         (∀ j, j < 32768 * t.toNat ∨ 32768 * (t.toNat + wide) ≤ j → Tab.get 0 y.mxe.acc j = Tab.get 0 x.mxe.acc j) ∧
         ∀ j, j < t.toNat ∨ t.toNat + wide ≤ j → Tab.get 0 y.mxe.accE j = Tab.get 0 x.mxe.accE j
       let sameBytes := fun (y : Seat) (a m : Nat) => ∀ b, b < a ∨ a + m ≤ b → Mem.byte y.spad b = Mem.byte x.spad b
       let rows := n.toNat + 1
       let kl := rows * p.depth / 128
       let signed := fun (y : Seat) (a m : Nat) => sextN (8 * m) (leNat (Mem.bytes y.spad a m))
       (∀ l, layOf (xf 0) p.stat true (if o then kl else 256) (if o then 256 else kl) o o = some l → rows * p.depth % 128 = 0 →
         whole l (val pa) →
           ends (.lds c pa o n) (fun y => sameAcc y ∧ y.spad = x.spad ∧ y.mxe.shadow.prof = r.prof ∧ y.mxe.shadow.kl = kl ∧
             (r.prof = 7 → Mem.wf x.spad = true → ∀ kk j, kk < kl → j < 256 → Tab.get PVal.zero y.mxe.shadow.re (256 * kk + j) =
               .num (signed x (val pa + if o then j * kl + kk else kk * 256 + j) 1) 0))) ∧
       (∀ l, layOf (xf 1) p.stream true x.mxe.active.kl rows false true = some l → x.mxe.active.prof = r.prof → unit_ →
         whole l (val pa) →
           let after := fun (clear : Bool) (y : Seat) => sameTiles y ∧ sameSpad y ∧
             ∀ w : Nat → Nat → Int, r.prof = 7 → Mem.wf x.spad = true → x.mxe.active.kl ≤ 128 →
               (clear = false → Tab.get 0 x.mxe.accE t.toNat = 0) →
               (∀ kk j, kk < x.mxe.active.kl → j < 256 →
                 nth PVal.zero (Tab.run PVal.zero x.mxe.active.re 0 (256 * x.mxe.active.kl)) (256 * kk + j) = .num (w kk j) 0) →
                 ∀ i j, i < 128 → j < 256 → Tab.get 0 y.mxe.acc (32768 * t.toNat + 256 * i + j) =
                   (if clear then 0 else nth 0 (x.mxe.tile t.toNat) (256 * i + j)) +
                     if i < rows then BitVec.ofInt 48 ((List.range x.mxe.active.kl).map fun kk =>
                       signed x (val pa + i * x.mxe.active.kl + kk) 1 * w kk j).sum else 0
           ends (.strm c t pa n) (after false) ∧ ends (.strmc c t pa n) (after true)) ∧
       (let f : EFmt := if r.prof = 7 then .i32 else if r.prof = 9 then .cf32 else .fp32
        let a := val pa
        let size := 32768 * f.bytes
        unit_ → EFmt.ofCode (xf 3 % 32) = some f → a % 64 = 0 → a + size ≤ 0x600000 → r.holds false (a, size) = true →
         x.isBad a size = false →
           ends (.ldacc c t pa) (fun y => sameTiles y ∧ sameSpad y ∧
             (r.prof = 7 → Mem.wf x.spad = true → Tab.get 0 y.mxe.accE t.toNat = 0 ∧ ∀ i, i < 32768 →
               Tab.get 0 y.mxe.acc (32768 * t.toNat + i) = BitVec.ofInt 48 (signed x (a + 4 * i) 4)))) ∧
       (∀ f, EFmt.ofCode fmt.toNat = some f → (f = .bf16 ∨ f = .fp32 ∨ f = .e4m3 ∨ f = .e5m2 ∨ f = .i32) → r.prof ≠ 9 → unit_ →
         bitN (xf 2) 10 = false → x.resv = [] →
           let a := val pa
           let size := 32768 * f.bytes
           a % 64 = 0 → a + size ≤ 0x600000 → r.holds true (a, size) = true →
             ends (.drain c t pa pb pc fmt) (fun y => sameAcc y ∧ y.mxe.shadow = x.mxe.shadow ∧ sameBytes y a size ∧
               (r.prof = 7 → f = .i32 → bitN (xf 2) 11 = false → Tab.get 0 x.mxe.accE t.toNat = 0 → ∀ i, i < 32768 →
                 let v := (nth 0 (x.mxe.tile t.toNat) i).toInt
                 v < 2 ^ 31 → -2 ^ 31 ≤ v → signed y (a + 4 * i) 4 = v))) ∧
       (unit_ → x.resv = [] → val pb % 4 = 0 → val pb + 4 ≤ 0x600000 → r.holds true (val pb, 4) = true →
         ends (.amax c t pb) (fun y => sameAcc y ∧ y.mxe.shadow = x.mxe.shadow ∧ sameBytes y (val pb) 4 ∧
           let z := leNat (Mem.bytes y.spad (val pb) 4)
           let els := (List.range wide).flatMap fun i => x.mxe.tile (t.toNat + i)
           ((∀ v, v ∈ els → v = 0) → z = 0) ∧
           (r.prof < 7 → (∃ v, v ∈ els ∧ v.toInt = -2 ^ 47) → z = 0x7FC00000))))
  )

/-! ## Steps of a stream at its boundaries (R191 to R195, R386 to R389) -/

/-- R193, R194: the test of a wait decides: it ends, or the stream sleeps; and a sleep that outlasts the limit makes WAITTO
pending. -/
def Obligations.WaitsEndOrSleep : Prop :=
  ∀ (s : State) (c : Nat) (t : Bool) (w : Wait),
    let y := s.st c t
    y.wait = some w →
    ((s.core c).frozen = none → (y.ph = .test ∨ y.ph = .sleep) → gangTask y = none →
      (w.ok = true → ∃ u, exec (.sleepEnd c t) s = .next u ∧ (u.st c t).wait = none ∧ (u.st c t).regs = y.regs ∧
        (u.st c t).pc = y.pc ∧ (u.st c t).landing = y.landing ∧ (u.seat c).spad = (s.seat c).spad) ∧
      (w.ok = false → y.ph = .test →
        ∃ u, exec (.sleepEnd c t) s = .next u ∧ (u.st c t).wait = some { w with tested := true } ∧ (u.st c t).regs = y.regs ∧
          (u.st c t).landing = y.landing ∧ (u.seat c).spad = (s.seat c).spad ∧ u.hbm = s.hbm) ∧
      (w.ok = false → y.ph = .sleep → exec (.sleepEnd c t) s = .next s)) ∧
    (let lim := s.fld (ccbOff (s.ctxOf c) + 0x40) 0 48
     w.tested = true → lim ≠ 0 →
      (lim < w.count → ∃ u, exec (.waitLimitExpiry c t) s = .next u ∧
        u.st c t = { y with pend := { y.pend with waitto := true } } ∧ (∀ e, e ≠ c → u.core e = s.core e) ∧ u.hbm = s.hbm) ∧
      (w.count ≤ lim → exec (.waitLimitExpiry c t) s = .next s))

/-- R386, R387, R389, R195: a pending condition is taken at a boundary, naming the operation in SLOT and TOP; a return with END
takes the task back to run out, a return without it takes it back where it stopped, with the handler's last stores still to perform
in that cycle; a task that has run out ends. That a condition which names no operation (QUANT) is taken with SLOT 0 and TOP the
bundle at TPC is the model's choice (log entry 47), and so is that a pending condition is taken before the remaining slots of the
bundle (log entry 86). -/
def Obligations.BoundaryTrapsReturnsAndTaskEnd : Prop :=
  ∀ (s : State) (c : Nat) (t : Bool),
    let y := s.st c t
    let here := (match y.wait with | some w => w.bundle | none => y.pc) % 2 ^ 19
    let takes := fun (code slot top : Nat) =>
      ∃ u, exec (.trapEntry c t) s = .next u ∧ (u.st c t).pc = 0x100 * code ∧ (u.st c t).sys = { y.sys with sup := true } ∧
        (u.st c t).regs = y.regs ∧ (u.st c t).trap.code = code ∧ (u.st c t).trap.slot = slot ∧ (u.st c t).trap.asy = true ∧
        (u.st c t).trap.tpc = here ∧ (u.st c t).trap.top = top ∧
        (∃ h, (u.st c t).held = some h ∧ h.landing = y.landing ∧ h.acc = y.acc ∧ h.wait = y.wait) ∧
        (∀ e, e ≠ c → u.core e = s.core e)
    let back := fun (ends : Bool) (k : BitVec 8) =>
      { ({ y with acc := [], lastAcc := y.acc, lastLand := [] } : Stream).leave ends k with
        bpSkip := y.skipsBp, quiet := y.sys.ticks + 1 }
    (trapDue s c t = true →
      (∀ e es, y.pend.ecc = e :: es → e.code = 14 → takes 14 e.slot (e.bundle % 2 ^ 19)) ∧
      (∀ f fs, y.pend.ecc = [] → y.pend.faults = f :: fs →
        takes (if f.cause = cGENMISS then 13 else 7) f.slot (f.bundle % 2 ^ 19)) ∧
      (y.pend = { Pending.none with quant := true } → y.stepDue = false → (s.ctx (s.ctxOf c)).dbga = false →
        takes 17 0 here)) ∧
    (∀ k, tretReady y = true → y.landing = [] → y.ret = some (true, k) → y.dev = none →
      ∃ u, exec (.tretEnd c t) s = .next u ∧ u.st c t = back true k ∧
        (u.seat c).spad = (s.seat c).spad ∧ u.hbm = s.hbm) ∧
    (∀ k, tretReady y = true → y.landing = [] → y.ret = some (false, k) → y.dev = none →
      (∃ v, v.st c t = back false k ∧
        let w := takePending c t (skipDone c t v)
        exec (.tretResume c t) s =
          .next (if y.stoppedIn && (doneBundle v c t).isSome && stepping v c t then w.putSt c t { w.st c t with stepDue := true }
            else w)) ∧
      ((y.trap.done ||| k) = 0 → y.held.isSome = true → y.pend = Pending.none → y.stepDue = false →
        (s.ctx (s.ctxOf c)).dbga = false →
          ∃ u, exec (.tretResume c t) s = .next u ∧ u.st c t = back false k ∧
            (u.seat c).spad = (s.seat c).spad ∧ u.hbm = s.hbm)) ∧
    (∀ k, y.task = some k → y.ending = true → y.sys.sup = false → y.idle = 0 → y.landing = [] → y.acc = [] →
      (s.core c).frozen = none →
      (∀ g, k.gang = some g → ∃ e, (Tab.get ⟨[], 0, 0, none⟩ s.gangs g).ends = some e ∧ e ≤ y.sys.ticks) →
        ∃ u, exec (.taskEnd c t) s = .next u ∧ (u.st c t).task = none ∧ (u.st c t).ending = false ∧
          (u.st c t).regs = y.regs ∧ (u.st c t).sys = y.sys ∧ (u.seat c).spad = (s.seat c).spad ∧
          u.launches.map Launch.running =
            s.launches.map fun l => if l.id = k.launch then l.running - 1 else l.running)

/-! ## Steps of a core's units (R119, R156, R157, R266, R268, R349, R376) -/

/-- R119, R266, R268, R156, R157, R349, R376: a take that nothing bars is granted; a routine begins and finishes, and its flags
join; a collision costs the secondary its tick; a POWER freeze begins, and a freeze ends; a gang joins; a message lands. -/
def Obligations.CoreUnitSteps : Prop :=
  ∀ (s : State) (c g : Nat) (t : Bool) (r : Routine) (k : Take) (m : GMsg),
    let x := s.seat c
    (x.takes = [k] → x.oldAccess k.tile k.cyc = false →
      ((x.tile k.tile).st = .core →
        ∃ u, exec (.takeGrant c) s = .next u ∧ (u.seat c).takes = [] ∧
          ((u.seat c).tile k.tile).st = (if k.dst then .engW else .engR) ∧
          (∀ i, i ≠ k.tile → (u.seat c).tile i = x.tile i) ∧ (u.seat c).spad = x.spad) ∧
      ((x.tile k.tile).st = .fab ∨ (x.tile k.tile).st = .mbx ∨ (x.tile k.tile).st = .engW →
        ∃ u, exec (.takeGrant c) s = .next u ∧ (u.seat c).takes = [k] ∧ (u.seat c).tiles = x.tiles)) ∧
    (x.mxe.queue.find? (fun q => !q.mended) = some r → r.begun = false → x.granted r.id = true →
      ∃ u, exec (.routineBegin c) s = .next u ∧ (u.seat c).mxe.upc = r.entry ∧
        (u.seat c).mxe.queue = x.mxe.queue.map (fun q => if q.id = r.id then { r with begun := true } else q) ∧
        (u.seat c).spad = x.spad ∧ (u.seat c).mxe.acc = x.mxe.acc ∧ u.hbm = s.hbm) ∧
    (x.mxe.queue.find? (fun q => q.mended) = some r →
      ∃ u, exec (.routineFinish c) s = .next u ∧
        (u.seat c).mxe.queue = x.mxe.queue.filter (fun q => decide (q.id ≠ r.id)) ∧
        (u.seat c).mxe.acc = x.mxe.acc ∧ (u.seat c).spad = x.spad ∧ u.hbm = s.hbm ∧
        (∀ z, (s.core c).owner = some z → issuerHolds s z c r.org = true →
          (u.st c r.org.sec).pend.flagsNew = ((s.st c r.org.sec).pend.flagsNew ||| r.flags))) ∧
    (∃ u, exec (.routineFlagsJoin c t) s = .next u ∧
      (u.st c t).sys = { (s.st c t).sys with fflags := joinFlags (s.st c t).sys.fflags (s.st c t).pend.flagsIn } ∧
      (u.st c t).pend.flagsIn = 0 ∧ (u.st c t).regs = (s.st c t).regs ∧ (u.st c t).landing = (s.st c t).landing) ∧
    ((s.core c).frozen = none → collides s c = true →
      ∃ u, exec (.collisionCycle c) s = .next u ∧ u.st c false = s.st c false ∧
        u.st c true = { s.st c true with ph := .rest, sys := { (s.st c true).sys with scoll := (s.st c true).sys.scoll + 1 } }) ∧
    (∀ f, freezeOf s c = some f → f.cause = 7 →
      ∃ u, exec (.powerFreeze c) s = .next u ∧
        u.core c = { s.core c with frozen := some f, pwrfz := (s.core c).pwrfz + 1, epochFz := true }) ∧
    ((s.core c).frozen.isSome = true → freezeOf s c = none →
      ∃ u, exec (.freezeEnd c) s = .next u ∧ (u.core c).frozen = none ∧ (u.seat c).spad = x.spad ∧
        ∀ b, (u.st c b).regs = (s.st c b).regs ∧ (u.st c b).pc = (s.st c b).pc ∧
          let v := s.putCore c { s.core c with frozen := none }
          let loses := ∃ l d, lossOf v c b = some l ∧ (s.st c b).dev = some d ∧ l.1 = d.cause
          ((s.core c).owner = none ∨ loses → (u.st c b).dev = (s.st c b).dev) ∧
          ((s.core c).owner.isSome = true → ¬ loses → (u.st c b).dev = none)) ∧
    (∀ n rest, gangMembers s g = n :: rest →
      (∀ e, e ∈ n :: rest → (s.core e.1).frozen = none ∧ (e.2.ph = .issue ∨ e.2.ph = .reissue) ∧ atJoin s e.1 = true ∧
        joinTarget s e.1 = joinTarget s n.1) →
      ∃ u, exec (.gangJoin g) s = .next u ∧ u.cores = s.cores ∧ u.hbm = s.hbm ∧
        u.gangs = s.gangs.map fun e => if e.1 = g then (e.1, { e.2 with origin := s.cycle - (n.2.sys.ticks - 1) }) else e) ∧
    (s.ticking c false = true → dueMsgs s c = [m] → (m.data.map fun d => d.1).Nodup → x.resv = [] →
      (∀ d, d ∈ m.data → (x.tile (tileOf d.1)).st = .core ∨ (x.tile (tileOf d.1)).st = .mbx) →
        ∃ u, exec (.gangMessageLanding c) s = .next u ∧ (∀ d, d ∈ m.data → Mem.byte (u.seat c).spad d.1 = d.2) ∧
          (∀ a, a ∉ m.data.map (fun d => d.1) → Mem.byte (u.seat c).spad a = Mem.byte x.spad a) ∧
          (∀ n, n ∈ (u.seat m.src).msgs → n.id ≠ m.id) ∧ u.hbm = s.hbm)

/-! ## Steps of the host and of the package (R8, R65, R67, R130, R414, R417, R419 to R426, R442) -/

/-- R8, R391, R415, R442, R130, R67, R139, R414, R417: a host's write of a register changes its RW bits under the bytes it names,
and a write of CMD runs that command; the windows and the supervisor region are read and written as they stand; CXL.mem reads and
writes HBM, with poison where a line holds an error. That the registers stand at 0xF00_0000_0000 + o of this step's addresses, that
the windows stand from 0 on, and what a window of a core with no context reads, is the model's choice (log entry 61). -/
def Obligations.HostAccesses : Prop :=
  ∀ (s : State) (o lo x c off n a : Nat) (bs : List Byte),
    let k := s.core c
    let put := fun (new old : Nat → Byte) (from_ : Nat) =>
      ∀ b, new b = if from_ ≤ b ∧ b < from_ + bs.length then nth 0 bs (b - from_) else old b
    (o % 8 = 0 → (o = 0x200000 ∨ (0x210000 ≤ o ∧ o < 0x218000) ∨ (0x500000 ≤ o ∧ o < 0x500020)) → bs ≠ [] → lo + bs.length ≤ 8 →
      ∃ u v, exec (.registerWrite (o + lo) bs) s = .next u ∧ u = s.setReg o v ∧
        ∀ i, i < 64 → v.getLsbD i =
          (if 8 * lo ≤ i ∧ i < 8 * (lo + bs.length) ∧ bitN ((regInfo o).getD ⟨0, 0, 0⟩).rw i = true
            then (nth 0 bs (i / 8 - lo)).getLsbD (i % 8) else (s.reg o).getLsbD i)) ∧
    (o % 8 = 0 → o < 0x800000 →
      ∃ u, exec (.hostCxlIoWindowAccess (0xF0000000000 + o) 8 none) s = .next u ∧
        u.hostReply = (leBytes 8 (s.readReg o).toNat, false) ∧ u.regs = s.regs ∧ u.cores = s.cores ∧ u.hbm = s.hbm) ∧
    (x < 16 →
      let cmd := ccbOff x + 0x48
      let s0 := s.setReg cmd (s.reg cmd)
      exec (.registerWrite cmd [1]) s = exec (.create x) s0 ∧ exec (.registerWrite cmd [2]) s = exec (.kill x) s0 ∧
      exec (.registerWrite cmd [3]) s = exec (.signal x) s0 ∧ exec (.registerWrite cmd [4]) s = exec (.wdclr x) s0 ∧
      exec (.registerWrite cmd [5]) s = exec (.ucload x) s0 ∧ exec (.registerWrite cmd [6]) s = exec (.attest x) s0) ∧
    (c < 192 → 0 < n → n ≤ 64 →
      let reads := fun (from_ : Nat) (mem : Nat → Byte) =>
        ∃ u, exec (.hostCxlIoWindowAccess (0x800000 * c + from_) n none) s = .next u ∧
          u.hostReply = ((List.range n).map fun i => mem (from_ + i), false) ∧ u.cores = s.cores ∧ u.hbm = s.hbm
      (k.owner.isSome = true → off + n ≤ 0x600000 → k.seat.bad = [] → reads off (Mem.byte k.seat.spad)) ∧
      (k.owner.isSome = true → off + n ≤ 0x600000 → k.seat.isBad off n = true →
        ∃ u, exec (.hostCxlIoWindowAccess (0x800000 * c + off) n none) s = .next u ∧ u.flag oECCSTAT 0 = true ∧ u.cores = s.cores ∧
          u.hbm = s.hbm ∧ u.hostReply.1.length = n ∧ ∀ i, i < n → k.seat.isBad (off + i) 1 = false →
            nth 0 u.hostReply.1 i = Mem.byte k.seat.spad (off + i)) ∧
      (off + n ≤ 0x8000 → k.svrBad = [] → reads (0x600000 + off) fun b => Mem.byte k.svr (b - 0x600000)) ∧
      (0x680000 ≤ off → off + n ≤ 0x800000 → reads off fun _ => 0)) ∧
    (c < 192 → k.owner.isSome = true → bs ≠ [] → bs.length ≤ 64 → off + bs.length ≤ 0x600000 → k.seat.resv = [] →
      ∃ u, exec (.hostCxlIoWindowAccess (0x800000 * c + off) n (some bs)) s = .next u ∧
        put (Mem.byte (u.seat c).spad) (Mem.byte k.seat.spad) off ∧ (u.seat c).tiles = k.seat.tiles ∧
        (u.seat c).prim = k.seat.prim ∧ (u.seat c).sec = k.seat.sec ∧ (∀ e, e ≠ c → u.core e = s.core e) ∧ u.hbm = s.hbm) ∧
    (c < 192 → bs ≠ [] → off + bs.length ≤ 0x8000 →
      ∃ u, exec (.hostSupervisorWrite c off bs) s = .next u ∧ put (Mem.byte (u.core c).svr) (Mem.byte k.svr) off ∧
        (u.seat c).spad = k.seat.spad ∧ (u.seat c).ispad = k.seat.ispad ∧ (∀ e, e ≠ c → u.core e = s.core e) ∧
        (∀ b, (u.st c b).regs = (s.st c b).regs ∧ (u.st c b).pc = (s.st c b).pc) ∧ u.hbm = s.hbm) ∧
    (0 < n → a + n ≤ 0x6C00000000 →
      (4 ≤ s.stage → s.poisoned a n = false → ∃ u, exec (.hostCxlMemRead a n) s = .next u ∧ u = { s with hostReply := u.hostReply } ∧
        u.hostReply = ((List.range n).map fun i => if hiddenByte s (a + i) then 0 else Mem.byte s.hbm (a + i), false)) ∧
      (4 ≤ s.stage → s.poisoned a n = true → ∃ u, exec (.hostCxlMemRead a n) s = .next u ∧ u.hostReply.2 = true ∧
        u.flag oECCSTAT 0 = true ∧ u.hbm = s.hbm ∧ u.poison = s.poison) ∧
      (s.stage < 4 → ∃ u, exec (.hostCxlMemRead a n) s = .next u ∧ u.hostReply.2 = true ∧ u.hbm = s.hbm)) ∧
    (a + bs.length ≤ 0x6C00000000 →
      (4 ≤ s.stage → ∃ u, exec (.hostCxlMemWrite a bs) s = .next u ∧ put (Mem.byte u.hbm) (Mem.byte s.hbm) a ∧ u.cores = s.cores ∧
        u.regs = s.regs ∧ ∀ l, l ∈ u.poison ↔ l ∈ s.poison ∧ ¬(a ≤ 64 * l ∧ 64 * l + 64 ≤ a + bs.length)) ∧
      (s.stage < 4 → exec (.hostCxlMemWrite a bs) s = .next s))

/-- R381, R382, R424, R426: temperature lowers and restores the tokens of a die and stops the clocks; scrubbing counts what it
corrects and poisons what it cannot; at an epoch boundary the tokens held on a die and its pool add up to DTOK. The model's choices:
TJ is at least 800 at a warning and 880 at a trip, a step is 5 % of DTOK as it was before the first, rounded down, and temperatures
otherwise come from the environment (log entry 42); the place of an epoch's boundary in the cycle and its order of cores (log
entry 43); what a step does once all clocks have stopped (log entry 60). -/
def Obligations.PowerTemperatureAndScrub : Prop :=
  ∀ (s : State) (d a : Nat),
    (d < 4 →
      ((s.die d).hot = true →
        ∃ u, exec (.thermalWarn d) s = .next u ∧ u.dtok d = s.dtok d ∧ u.cores = s.cores ∧ u.hbm = s.hbm ∧ u.msix = s.msix ∧
          (∀ i, u.die i = if i = d then { s.die d with tj := max 800 (s.die d).tj } else s.die i)) ∧
      ((s.die d).hot = false → (s.die d).steps = [] →
        ∃ u, exec (.thermalWarn d) s = .next u ∧ u.dtok d = s.dtok d * 95 / 100 ∧ (u.die d).tj = max 800 (s.die d).tj ∧
          (u.die d).hot = true ∧ (u.die d).due = s.cycle + 1100000 ∧
          ((∀ i, i < 4 → (s.die i).tj ≤ 800) → u.fld oTHERM 0 16 = 800) ∧ (∀ i, i ≠ d → u.die i = s.die i) ∧
          u.flag oTHERM 16 = true ∧ u.msix = (if s.flag oTHERM 16 then s.msix else 3 :: s.msix) ∧ u.cores = s.cores ∧ u.hbm = s.hbm) ∧
      (∀ x xs, (s.die d).due ≤ s.cycle → (s.die d).steps = x :: xs → s.dtok d + x < 65536 →
        ((s.die d).hot = false ∨ (s.die d).tj < 776 →
          ∃ u, exec (.throttleStep d) s = .next u ∧ u.dtok d = s.dtok d + x ∧ u.cores = s.cores ∧ u.hbm = s.hbm ∧ u.msix = s.msix ∧
            ∀ i, u.die i = if i = d then { s.die d with steps := xs, hot := false, due := s.cycle + 1100000 } else s.die i) ∧
        ((s.die d).hot = true → 776 ≤ (s.die d).tj → xs = [] →
          ∃ u, exec (.throttleStep d) s = .next u ∧ u.dtok d = min (s.dtok d) ((s.dtok d + x) * 90 / 100) ∧ u.cores = s.cores ∧
            u.hbm = s.hbm ∧ u.flag oTHERM 16 = true ∧ (u.die d).steps.length = 2 ∧ (u.die d).hot = true ∧
            (u.die d).due = s.cycle + 1100000 ∧ (∀ i, i ≠ d → u.die i = s.die i))) ∧
      (s.cycle < (s.die d).due → exec (.throttleStep d) s = .next s) ∧
      (∃ u, exec (.thermalTrip d) s = .next u ∧ u.stage = 5 ∧ u.flag oTHERM 17 = true ∧ u.fld oSYSSTAT 8 8 = 6 ∧
        880 ≤ (u.die d).tj ∧ ((∀ i, i < 4 → (s.die i).tj < 65536) → 880 ≤ u.fld oTHERM 0 16) ∧ u.cores = [] ∧ u.ctxs = [] ∧
        u.hbm = s.hbm ∧
        (s.agenda = [] → s.inputs = [] → Sys2Proof.Machine.step u = .fault .clocksStopped)) ∧
      (144 ≤ s.dtok d →
        ∃ u, exec .epochBoundary s = .next u ∧ dieSum u d = u.dtok d ∧ u.regs = s.regs ∧ u.hbm = s.hbm ∧
          ∀ c, c / 48 = d → (u.core c).epoch = 0 ∧ (u.core c).epochFz = false ∧ u.seat c = s.seat c)) ∧
    (a < 0x6C00000000 → a / 64 ∉ s.poison →
      (∃ u, exec (.hbmScrub a false) s = .next u ∧ u.hbm = s.hbm ∧ u.poison = s.poison ∧
        u.fld oECCSTAT 32 32 = min (s.fld oECCSTAT 32 32 + 1) (2 ^ 32 - 1) ∧ u.flag oECCSTAT 0 = s.flag oECCSTAT 0) ∧
      (∃ u, exec (.hbmScrub a true) s = .next u ∧ u.hbm = s.hbm ∧ u.poison = a / 64 :: s.poison ∧ u.flag oECCSTAT 0 = true))

/-- R419 to R421, R425: a cold start loads everything afresh and ends READY, in RECOVERY or HALTED; an accepted image that
FIRMWARE_PUSH stages becomes the image in flash; a warm start frees every context and keeps the fabric's registers, and PWRFZ
(R144). The model's choices: what a cold start keeps beside the flash image (the host's memory, the package number; log entry 9), a
start that completes in one step (log entry 11), the details of a warm start (log entry 44), LASTERR after a push (log entry 45) and
the order of the checks on an image (log entry 12). -/
def Obligations.StartUpAndFirmware : Prop :=
  ∀ (s : State),
    let ends := fun (u : State) => u.stage = 4 ∨ (u.stage = 5 ∧ u.fld oSYSSTAT 8 8 = 5)
    (∃ u, exec .coldStart s = .next u ∧ u.flash = s.flash ∧ u.hostMem = s.hostMem ∧ u.pkg = s.pkg ∧ u.hbm = [] ∧ u.launches = [] ∧
      (∀ x, x < 16 → u.ctxState x = 0 ∧ u.ctx x = Ctx.reset) ∧ (∀ c, u.core c = Core.reset) ∧
      (firmwareCheck s.flash = 0 → ends u ∧ u.cert = aliasCert s.flash ∧
        (u.stage = 4 → u.fld oSYSSTAT 48 16 = fwSvn s.flash % 2 ^ 16)) ∧
      (firmwareCheck s.flash ≠ 0 → u.stage = 2 ∧ u.fld oSYSSTAT 8 8 = firmwareCheck s.flash)) ∧
    (s.stage = 2 →
      (firmwareCheck (stagedImage s) = 0 →
        ∃ u, exec .firmwarePush s = .next u ∧ u.flash = stagedImage s ∧ ends u ∧ u.cert = aliasCert (stagedImage s) ∧
          u.hbm = [] ∧ ∀ c, u.core c = Core.reset) ∧
      (firmwareCheck (stagedImage s) ≠ 0 →
        ∃ u, exec .firmwarePush s = .next u ∧ u.flash = s.flash ∧ u.stage = 2 ∧
          u.fld oSYSSTAT 8 8 = firmwareCheck (stagedImage s))) ∧
    (s.stage ≠ 2 → exec .firmwarePush s = .next s) ∧
    (s.stage = 4 →
      ∃ u, exec .warmStart s = .next u ∧ u.stage = 4 ∧ u.launches = [] ∧ u.colls = [] ∧
        (∀ x, x < 16 → u.ctxState x = 0 ∧ u.ctx x = Ctx.reset) ∧
        (∀ c, u.core c = { Core.reset with pwrfz := (u.core c).pwrfz }) ∧
        (∀ o, 0x200000 ≤ o → o < 0x300000 → u.reg o = s.reg o) ∧ u.fld oSYSSTAT 48 16 = s.fld oSYSSTAT 48 16 ∧
        u.fld oECCSTAT 32 32 = s.fld oECCSTAT 32 32 ∧
        ((∀ x, x < 16 → s.ctxState x = 0) → (∀ c, (s.seat c).resv = []) → u.hbm = s.hbm ∧ u.ports = s.ports ∧ u.gtb = s.gtb ∧
          ∀ c, (u.core c).pwrfz = (s.core c).pwrfz)) ∧
    (s.stage ≠ 4 → exec .warmStart s = .next s)

/-! ## Contexts (R391 to R400, R404, R413, R423, R443) -/

/-- R391, R393, R395, R404, R413, R423, R425, R443, R400: what each command of a control block does, or that it is refused with
ERR; CREATE and KILL set BUSY, and their completion leaves the context OUT or KILLED; ATTEST writes the report. The model's choices:
KILL takes everything of a context away at once, and what CREATE loads (log entry 56); bytes that CXL.io has written to a core that no
context holds (log entry 61); a core's whole seat kept beside its image (log entry 7); the context number in a report (log entry 57)
and the firmware digest of an image (log entry 12). -/
def Obligations.ContextCommands : Prop :=
  ∀ (s : State) (x : Nat), x < 16 →
    let y := s.ctx x
    let err := exec (.create x) s = .next (s.setCtxErr x)
    let same := fun (u : State) => u.cores = s.cores ∧ u.hbm = s.hbm ∧ u.launches = s.launches ∧ u.recs = s.recs
    (s.ctxBusy x = true → ∀ i, i ∈ [Instr.create x, .kill x, .signal x, .wdclr x, .ucload x, .attest x] → exec i s = .next s) ∧
    (s.ctxBusy x = false →
      (ctxLives s x = true ∨ s.coreSet x = 0 ∨ hasDisabled s x = true → err) ∧
      (∀ z, z < 16 → z ≠ x → ctxLives s z = true → s.coreSet z ≠ s.coreSet x → s.coreSet z &&& s.coreSet x ≠ 0 → err) ∧
      (createRefused s x = false → ∃ u, exec (.create x) s = .next u ∧ u.ctxBusy x = true ∧ same u ∧ u.ctxs = s.ctxs) ∧
      (s.ctxState x = 0 → exec (.kill x) s = .next (s.setCtxErr x)) ∧
      (s.ctxState x ≠ 0 → (∀ k, k ∈ s.colls → k.ctx ≠ x) → (∀ c, (s.win x c).held = []) →
        ∃ u, exec (.kill x) s = .next u ∧ u.hbm = s.hbm ∧ u.ctxState x = 3 ∧ u.ctxBusy x = true ∧ (∀ l, l ∈ u.launches → l.ctx ≠ x) ∧
          ∀ c, c ∈ s.setCores x → (u.win x c).st = .revoked ∧ (u.seatOf x c).prim.task = none ∧ (u.seatOf x c).cmds = [] ∧
            (u.seatOf x c).spad = (s.seatOf x c).spad) ∧
      (let o := ccbOff x + 0x48
       let c := s.fld o 32 32
       let t := decide (s.fld o 8 2 = 1)
       ((s.ctxState x ≠ 1 ∧ s.ctxState x ≠ 2) ∨ 192 ≤ c ∨ bitN (s.coreSet x) c = false ∨ 2 ≤ s.fld o 8 2 →
         exec (.signal x) s = .next (s.setCtxErr x)) ∧
       ((s.ctxState x = 1 ∨ s.ctxState x = 2) → c < 192 → bitN (s.coreSet x) c = true → s.fld o 8 2 < 2 →
         (((s.seatOf x c).st t).task = none → exec (.signal x) s = .next s) ∧
         (((s.seatOf x c).st t).task.isSome = true →
           ∃ u, exec (.signal x) s = .next u ∧ (u.seatOf x c).st t =
             { (s.seatOf x c).st t with pend := { ((s.seatOf x c).st t).pend with hsig := true } } ∧
             (u.seatOf x c).st (!t) = (s.seatOf x c).st (!t) ∧ u.regs = s.regs ∧ u.hbm = s.hbm))) ∧
      (∃ u, exec (.wdclr x) s = .next u ∧ same u ∧ u.ctxs = s.ctxs ∧
        ∀ i, i < 4 → u.reg (ccbOff x + 0x60 + 8 * i) = 0) ∧
      (let g := (s.reg (ccbOff x + 0x50)).toNat % 2 ^ 56 / 8 * 8
       (s.ctxState x ≠ 2 ∨ s.ownHbm g 16384 = false → exec (.ucload x) s = .next (s.setCtxErr x)) ∧
       (s.ctxState x = 2 → s.ownHbm g 16384 = true → s.poisoned (g % 2 ^ 44) 16384 = true →
         ∃ u, exec (.ucload x) s = .next u ∧ u.flag oECCSTAT 0 = true) ∧
       (s.ctxState x = 2 → s.ownHbm g 16384 = true → s.poisoned (g % 2 ^ 44) 16384 = false → ∀ c, s.setCores x = [c] →
         ∃ u, exec (.ucload x) s = .next u ∧ u.cores = s.cores ∧ u.ctxs = s.ctxs ∧
           (∀ i, i < 4096 → Mem.byte u.hbm (s.imgAddr x c + 0x822000 + i) = Mem.byte s.hbm (g % 2 ^ 44 + i)) ∧
           ∀ b, b < s.imgAddr x c + 0x822000 ∨ s.imgAddr x c + 0x833000 ≤ b → Mem.byte u.hbm b = Mem.byte s.hbm b)) ∧
      (s.ctxState x = 0 → exec (.attest x) s = .next (s.setCtxErr x)) ∧
      (s.ctxState x ≠ 0 →
        ∃ u, exec (.attest x) s = .next u ∧ same u ∧ u.regs = s.regs ∧ u.flash = s.flash ∧
          (∀ b, b < reportOff ∨ reportOff + 4819 ≤ b → Mem.byte u.staging b = Mem.byte s.staging b) ∧
          let rep := fun (i n : Nat) => Mem.bytes u.staging (reportOff + i) n
          rep 0 64 = Mem.bytes s.staging stagingOff 64 ∧ rep 64 64 = fwDigest s.flash ∧
          leNat (rep 128 2) = s.fld oSYSSTAT 48 16 % 2 ^ 16 ∧ leNat (rep 130 2) = s.pkg % 2 ^ 16 ∧ leNat (rep 132 1) = x ∧
          leNat (rep 133 1) = b2n y.dbga ∧ rep 134 58 = List.replicate 58 0 ∧
          rep 192 4627 = leBytes 4627 (Config.mldsaSign (aliasSeed s.flash) (rep 0 192)))) ∧
    (s.ctxBusy x = true → ctxLives s x = false →
      ∃ u, exec (.createComplete x) s = .next u ∧ u.ctxState x = 2 ∧ u.ctxBusy x = false ∧ (u.ctx x).dbga = s.flag (ccbOff x) 32 ∧
        (u.ctx x).cseed = s.reg (ccbOff x + 8) ∧ (u.ctx x).keylog = [] ∧ (u.ctx x).posts = [] ∧ u.reg (ccbOff x + 0x38) = 0 ∧
        (∀ c, c ∉ s.setCores x → u.core c = s.core c) ∧
        ∀ c, c ∈ s.setCores x → (u.win x c).st = .image ∧ Tab.get Seat.reset (u.ctx x).saved c = Seat.zero ∧
          u.core c = { s.core c with bare := [] }) ∧
    (s.ctxState x = 3 → y.drain = [] → (∀ k, k ∈ s.colls → k.ctx ≠ x) → (∀ c, c ∈ s.setCores x → (s.seatOf x c).mxe.left = 0) →
      ∃ u, exec (.killComplete x) s = .next u ∧ u.ctxState x = 4 ∧ u.ctxBusy x = false ∧ (u.ctx x).tlb = [] ∧ (u.ctx x).rng = [] ∧
        (∀ c, c ∈ s.setCores x → (s.core c).owner = some x → (u.core c).owner = none ∧ u.seat c = Seat.reset) ∧ u.hbm = s.hbm) ∧
    (y.dbga = false → exec (.debugHalt x) s = .next s) ∧
    (y.dbga = true → ∀ c, s.setCores x = [c] →
      ∃ u, exec (.debugHalt x) s = .next u ∧ u.regs = s.regs ∧ u.hbm = s.hbm ∧ (∀ e, e ≠ c → u.core e = s.core e) ∧
        ∀ t, (u.seatOf x c).st t = (if ((s.seatOf x c).st t).task.isSome
          then { (s.seatOf x c).st t with pend := { ((s.seatOf x c).st t).pend with dbg := true } } else (s.seatOf x c).st t))

/-- R394, R398, R399, R411: a quantum that has run out ends only if another context waits; a context with nothing to do yields;
the windows are HELD while a set is saved and LIVE once it is restored; samples are made in cycles of the sample period only. That a
core's whole seat is kept while its context is out and comes back with it is the model's choice (log entry 7), and so is the place of
a sample in its cycle (log entry 60). -/
def Obligations.ContextSwitching : Prop :=
  ∀ (s : State) (x : Nat), x < 16 →
    let y := s.ctx x
    let q := s.fld (ccbOff x) 0 32 * 1024
    let cs := s.setCores x
    (s.ctxState x = 1 → y.leaving = false → q ≠ 0 → q ≤ (s.gtb - y.qstart).toNat →
      (othersWait s x = false → exec (.quantumEnd x) s = .next (s.putCtx x { y with qstart := s.gtb })) ∧
      (othersWait s x = true →
        ∃ u, exec (.quantumEnd x) s = .next u ∧ (u.ctx x).leaving = true ∧ u.ctxState x = 1 ∧ u.hbm = s.hbm ∧
          ∀ c, c ∈ cs → ∀ t, u.st c t = { s.st c t with pend := { (s.st c t).pend with
            quant := s.flag (ccbOff x) 33 && (s.st c t).task.isSome } })) ∧
    (s.ctxState x = 1 → y.leaving = false → (s.gtb - y.qstart).toNat < q → exec (.quantumEnd x) s = .next s) ∧
    (s.ctxState x = 1 → y.leaving = false →
      (wantsSet s x = true → exec (.contextYield x) s = .next s) ∧
      (wantsSet s x = false → ∃ u, exec (.contextYield x) s = .next u ∧ (u.ctx x).leaving = true ∧ u.ctxState x = 1 ∧
        u.hbm = s.hbm)) ∧
    (s.ctxState x = 1 → y.leaving = true → cs.all (coreStopped s x) = true →
      ((∃ c, c ∈ cs ∧ (s.win x c).st = .live) → (∀ c, c ∈ cs → (s.seat c).resv = []) →
        ∃ u, exec (.switchOutComplete x) s = .next u ∧ u.cores = s.cores ∧ u.hbm = s.hbm ∧ u.ctxState x = 1 ∧
          ∀ c, c ∈ cs → (u.win x c).st = .held) ∧
      (∀ c, cs = [c] → (s.core c).owner = some x → s.win x c = ⟨.held, []⟩ → (s.seat c).resv = [] → (s.st c false).dev = none →
        (s.st c true).dev = none →
        (∀ t, (s.st c t).held = none ∧ (∀ a, a ∈ (s.st c t).acc → ∀ ch at_, a.op ≠ .loadCh ch at_) ∧
          ∀ e, e ∈ (s.st c t).landing → ∀ ch ws, e.dest ≠ .chan ch ws) →
        ∃ u, exec (.switchOutComplete x) s = .next u ∧ u.ctxState x = 2 ∧ (u.ctx x).leaving = false ∧ (u.core c).owner = none ∧
          u.win x c = ⟨.image, []⟩ ∧ Tab.get Seat.reset (u.ctx x).saved c = s.seat c ∧ (∀ e, e ≠ c → u.core e = s.core e))) ∧
    (nextHolder s x = false → exec (.switchIn x) s = .next s) ∧
    (nextHolder s x = true → ∀ c, cs = [c] → s.win x c = ⟨.image, []⟩ → y.taint = [] →
      ∃ u, exec (.switchIn x) s = .next u ∧ u.ctxState x = 1 ∧ (u.core c).owner = some x ∧ u.win x c = ⟨.live, []⟩ ∧
        (u.ctx x).qstart = s.gtb ∧
        (∀ t, (u.st c t).regs = ((Tab.get Seat.zero y.saved c).st t).regs ∧ (u.st c t).pc = ((Tab.get Seat.zero y.saved c).st t).pc ∧
          (u.st c t).task = ((Tab.get Seat.zero y.saved c).st t).task) ∧
        (∀ b, b < 0x600000 → Mem.byte (u.seat c).spad b = Mem.byte s.hbm (s.imgAddr x c + b)) ∧
        (∀ e, e ≠ c → u.core e = s.core e) ∧ u.hbm = s.hbm) ∧
    (let per := s.fld (dbgOff x) 32 16 * 1024
     (per = 0 ∨ s.gtb.toNat % per ≠ 0 → exec (.sampleRecord x) s = .next s) ∧
     (per ≠ 0 → s.gtb.toNat % per = 0 →
       ∃ u, exec (.sampleRecord x) s = .next u ∧ u.cores = s.cores ∧
         (y.dbga = false ∨ s.flag (dbgOff x) 1 = false → u = s) ∧
         (y.dbga = true → s.flag (dbgOff x) 1 = true → s.fld (dbgOff x + 0x10) 0 64 = s.fld (dbgOff x + 0x18) 0 64 →
           ∀ c, cs = [c] → (s.core c).owner = some x → (s.st c false).task.isSome = true → (s.st c true).task = none →
             u.fld (dbgOff x + 0x10) 0 64 = (s.fld (dbgOff x + 0x10) 0 64 + 1) % 2 ^ 64)))

/-! ## Tiles and tables (R75, R81, R115, R123, R124, R295, R296, R305, R433) -/

/-- R123, R115, R124: what a TCTL does to the tiles it names and to their bytes, when it traps, and that a SYSW to TCTL does it in
its own tick. -/
def Obligations.TileControl : Prop :=
  ∀ (s : State) (c : Nat) (t : Bool) (v : Word) (a : RegF),
    let x := s.seat c
    let lo := v.toNat / 2 ^ 16 % 2 ^ 11
    let n := v.toNat / 2 ^ 32 % 2 ^ 11
    let op := v.toNat % 16
    let named := fun i => decide (lo ≤ i) && decide (i < lo + n)
    let does := fun (i : Instr) (f : Tile → Tile) (unit : Nat → Nat → Nat) (moves : Bool → Bool) (arm : List Arming) =>
      ∃ u, exec i s = .next u ∧ (u.seat c).takes = x.takes ∧ (u.seat c).armings = arm ∧
        (∀ i, (u.seat c).tile i = if named i then f (x.tile i) else x.tile i) ∧
        (∀ i r j b, r < 16 → j < 16 → b < 16 → Mem.byte (u.seat c).spad (4096 * i + 256 * r + 16 * j + b) =
          if named i && moves (x.tile i).skew then Mem.byte x.spad (4096 * i + 256 * r + 16 * unit r j + b)
          else Mem.byte x.spad (4096 * i + 256 * r + 16 * j + b)) ∧
        (∀ z, u.st c z = s.st c z) ∧ (∀ e, e ≠ c → u.core e = s.core e) ∧ u.hbm = s.hbm
    let stays := fun (_ : Bool) => false
    let here := fun (_ j : Nat) => j
    let all := fun (o : Owner) => ∀ i, named i = true → (x.tile i).st = o
    (0 < n → lo + n ≤ 1536 →
      ((∀ k, k ∈ x.takes → named k.tile = false) →
        (op = 0 → does (.tctlNone c t v) id here stays x.armings) ∧
        (op = 1 → all .core → does (.tctlSetSkew c t v) (fun y => { y with skew := true }) (fun r j => (r + j) % 16) not x.armings) ∧
        (op = 2 → all .core → does (.tctlClearSkew c t v) (fun y => { y with skew := false }) (fun r j => (j + 16 - r) % 16) id x.armings) ∧
        (op = 3 → all .core → does (.tctlMakeMailbox c t v) (fun y => { y with st := .mbx }) here stays x.armings)) ∧
      (x.takes = [] →
        (op = 4 → all .mbx → does (.tctlReleaseMailbox c t v) (fun y => { y with st := .core }) here stays x.armings) ∧
        (∀ r, op = 5 → all .fab → x.armings = [r] → r.tile = lo → r.count = n →
          does (.tctlDisarm c t v) (fun y => { y with st := .core }) here stays []))) ∧
    (QueuesLive s [a] → c = s.cur.core → v = rdS s a →
      (6 ≤ op ∨ n = 0 ∨ 1536 < lo + n → Traps (.sysw a 0x30) s tcILLI 0) ∧
      (0 < n → lo + n ≤ 1536 →
        ((1 ≤ op ∧ op ≤ 3 ∧ ∃ i, named i = true ∧ (x.tile i).st ≠ .core) ∨ (op = 4 ∧ ∃ i, named i = true ∧ (x.tile i).st ≠ .mbx) ∨
          (op = 5 ∧ ∃ i, named i = true ∧ (x.tile i).st ≠ .fab) ∨
          (op ≤ 5 ∧ ∃ k, k ∈ x.takes ∧ named k.tile = true) ∨
          (op = 5 ∧ ∀ r, r ∈ x.armings → r.tile ≠ lo ∨ r.count ≠ n) →
          Traps (.sysw a 0x30) s tcOWNVIOL 0)) ∧
      (∀ w, doTctl c s.cur.sec v s = .ok w →
        ∃ u, exec (.sysw a 0x30) s = .next u ∧ (u.seat c).tiles = (w.seat c).tiles ∧ (u.seat c).spad = (w.seat c).spad ∧
          (u.seat c).armings = (w.seat c).armings ∧ u.cst.regs = s.cst.regs ∧ u.cst.landing = s.cst.landing))

/-- R75, R81, R295, R296, R305, R433: a GO sets BUSY or, while BUSY, is ignored; when BUSY clears, the named translations are gone
and the named entries of the range, group, channel and ring tables hold what the table in HBM holds, unless its line holds an error
(R424). The model's choices: XINVA and RNGBASE are read when BUSY clears (log entry 69), the credits of a reloaded channel (log
entry 58), and entries whose V is 0 are checked like others (log entry 54). -/
def Obligations.TranslationsAndTablesReload : Prop :=
  ∀ (s : State) (x : Nat), x < 16 →
    let y := s.ctx x
    let oX := trOff x + 0x18
    let oM := trOff x + 0x30
    let oC := clOff x + 0x10
    let still := fun (u : State) => u.cores = s.cores ∧ u.hbm = s.hbm ∧ u.launches = s.launches
    let goes := fun (i : Instr) (o w k : Nat) =>
      (s.flag o 1 = true → exec i s = .next s) ∧
      (s.flag o 1 = false →
        ∃ u, exec i s = .next u ∧ u.flag o 1 = true ∧ u.fld o (if o = oX then 2 else 3) w = k ∧ still u ∧ u.ctxs = s.ctxs)
    let word := fun (a : Nat) => (BitVec.ofNat 64 (Mem.num s.hbm a 8) : Word)
    goes (.xinvContext x) oX 2 0 ∧ goes (.xinvPages x) oX 2 1 ∧ goes (.xinvRanges x) oX 2 2 ∧
    exec (.xinvNop x) s = .next s ∧
    goes (.mgctlReloadReduction x) oM 1 0 ∧ goes (.mgctlReloadMulticast x) oM 1 1 ∧
    (s.fld oC 32 12 + s.fld oC 20 12 < 4096 → goes (.clctlReloadChannels x) oC 1 0) ∧
    (s.fld oC 32 12 + s.fld oC 20 12 < 1024 → goes (.clctlReloadRings x) oC 1 1) ∧
    (s.flag oC 1 = false →
      (4096 ≤ s.fld oC 32 12 + s.fld oC 20 12 → ∃ u, exec (.clctlReloadChannels x) s = .next u ∧ u.flag oC 1 = false ∧
        u.flag oC 2 = true ∧ u.ctxs = s.ctxs) ∧
      (1024 ≤ s.fld oC 32 12 + s.fld oC 20 12 → ∃ u, exec (.clctlReloadRings x) s = .next u ∧ u.flag oC 1 = false ∧
        u.flag oC 2 = true ∧ u.ctxs = s.ctxs)) ∧
    (s.flag oX 1 = false → exec (.xinvComplete x) s = .next s) ∧
    (s.flag oX 1 = true →
      ∃ u, exec (.xinvComplete x) s = .next u ∧ u.flag oX 1 = false ∧ still u ∧ (u.ctx x).groups = y.groups ∧
        (s.fld oX 2 2 = 0 → (u.ctx x).tlb = []) ∧
        (s.fld oX 2 2 = 1 → (u.ctx x).rng = y.rng ∧
          let first := (s.reg (trOff x + 0x10)).toNat / 4096
          let count := if s.fld oX 16 16 = 0 then 65536 else s.fld oX 16 16
          ∀ e, e ∈ (u.ctx x).tlb ↔ e ∈ y.tlb ∧ ¬(e.vpn < first + count ∧ first < e.vpn + e.len)) ∧
        (s.fld oX 2 2 = 2 → (u.ctx x).tlb = y.tlb) ∧
        (s.fld oX 2 2 = 0 ∨ s.fld oX 2 2 = 2 →
          let base := pageOf (s.reg (trOff x + 8)).toNat * 4096
          s.ownHbm base 4096 = true → s.poisoned (base % 2 ^ 44) 4096 = false → ∀ i n, i < 64 → n < 8 →
            Tab.get 0 (u.ctx x).rng (8 * i + n) =
              if s.fld oX 2 2 = 0 ∨ bitN (s.reg (trOff x + 0x10)).toNat i = true then word (base % 2 ^ 44 + 64 * i + 8 * n)
              else Tab.get 0 y.rng (8 * i + n))) ∧
    (s.flag oM 1 = true → s.fld oM 12 10 = 0 →
      let i := s.fld oM 22 10
      let table := fun (o : Nat) => (s.reg (trOff x + o)).toNat % 2 ^ 56 / 0x10000 * 0x10000
      ∃ u, exec (.mgctlReloadDone x) s = .next u ∧ u.flag oM 1 = false ∧ still u ∧ (u.ctx x).rounds = y.rounds ∧
        (s.flag oM 3 = false → s.ownHbm (table 0x20) 0x10000 = true → s.poisoned (table 0x20 % 2 ^ 44 + 64 * i) 64 = false →
          let e := (List.range 8).map fun n => word (table 0x20 % 2 ^ 44 + 64 * i + 8 * n)
          (groupOk e = true → Tab.has y.rounds i = false → u.flag oM 2 = s.flag oM 2 ∧
            (∀ n, n < 8 → Tab.get 0 (u.ctx x).groups (8 * i + n) = nth 0 e n) ∧
            ∀ j, j / 8 ≠ i → Tab.get 0 (u.ctx x).groups j = Tab.get 0 y.groups j) ∧
          (groupOk e = false ∨ Tab.has y.rounds i = true → u.flag oM 2 = true ∧ (u.ctx x).groups = y.groups)) ∧
        (s.flag oM 3 = true → i < 64 → s.ownHbm (table 0x28) 0x10000 = true →
          s.poisoned (table 0x28 % 2 ^ 44 + 1024 * i) 1024 = false →
          ∀ n, n < 128 → Tab.get 0 (u.ctx x).mgroups (128 * i + n) = word (table 0x28 % 2 ^ 44 + 1024 * i + 8 * n))) ∧
    (s.flag oC 1 = true → s.fld oC 20 12 = 0 →
      let i := s.fld oC 32 12
      let table := fun (o size : Nat) => (s.reg (clOff x + o)).toNat % 2 ^ 56 / size * size
      ∃ u, exec (.clctlReloadDone x) s = .next u ∧ u.flag oC 1 = false ∧ still u ∧
        (s.flag oC 3 = false → s.ownHbm (table 0 0x40000) 0x40000 = true →
          s.poisoned (table 0 0x40000 % 2 ^ 44 + 64 * i) 64 = true → u.flag oECCSTAT 0 = true) ∧
        (s.flag oC 3 = false → s.ownHbm (table 0 0x40000) 0x40000 = true →
          s.poisoned (table 0 0x40000 % 2 ^ 44 + 64 * i) 64 = false →
          (∀ n, n < 8 → Tab.get 0 (u.ctx x).chans (8 * i + n) = word (table 0 0x40000 % 2 ^ 44 + 64 * i + 8 * n)) ∧
          (u.ctx x).chst_ i =
            (if chanInUse s x i then (y.chst_ i).1 else cDepth [word (table 0 0x40000 % 2 ^ 44 + 64 * i)], (y.chst_ i).2) ∧
          (u.ctx x).rings = y.rings) ∧
        (s.flag oC 3 = true → s.ownHbm (table 8 0x10000) 0x10000 = true →
          s.poisoned (table 8 0x10000 % 2 ^ 44 + 64 * i) 64 = false →
          (∀ n, n < 8 → Tab.get 0 (u.ctx x).rings (8 * i + n) = word (table 8 0x10000 % 2 ^ 44 + 64 * i + 8 * n)) ∧
          (u.ctx x).chans = y.chans ∧ (u.ctx x).chst = y.chst))

/-! ## Launches (R359 to R372) -/

/-- R363 to R372, R353: a queue restarts, reads its tail and stops with OVF past its capacity; an accepted header becomes a launch;
a unit claims its streams and its tasks start as R371 says, in gangs on one die with numbered members (R374, R375) where the launch
asks for them; an image is loaded; a finished launch leaves. The model's choices: only a write of LQBASE that takes EN from 0 to 1
restarts the queue (log entry 34); what an image load writes and when (log entry 39); which free streams a unit takes (log entry
80). -/
def Obligations.LaunchesRun : Prop :=
  ∀ (s : State) (q c x l : Nat) (v : Word) (m : Launch),
    let still := fun (u : State) => u.cores = s.cores ∧ u.hbm = s.hbm ∧ u.ctxs = s.ctxs
    let head := lqOff q + 0x10
    -- a read of the launch manager whose answers are all there
    let answered := fun (a : Agent) (va n : Nat) (bs : List Byte) =>
      (n = 0 ∧ bs = []) ∨
      (n ≠ 0 ∧ reqsOf s a ≠ [] ∧ (∀ r, r ∈ reqsOf s a → ∃ z, r.res = some z ∧ z.status = 0) ∧ bs = gotBytes (reqsOf s a) va n)
    let accepted := fun (u : State) (y : Nat) (h : List Word) (e cl al : Nat) =>
      ∃ k, u.launches = s.launches ++ [k] ∧ k.ctx = y ∧ k.hdr = h ∧ k.entry = e ∧ k.clen = cl ∧ k.alen = al ∧ k.unit = 0 ∧
        k.running = 0 ∧ k.status = 0
    (q < 64 →
      (∃ u, exec (.lqbaseWrite q v) s = .next u ∧ still u ∧ u.flag (lqOff q) 0 = v.getLsbD 0 ∧
        u.fld (lqOff q) 12 44 = v.toNat / 2 ^ 12 % 2 ^ 44 ∧ u.fld (lqOff q) 4 8 = v.toNat / 2 ^ 4 % 2 ^ 8 ∧
        (if v.getLsbD 0 = true ∧ s.flag (lqOff q) 0 = false
          then u.fld head 0 64 = 0 ∧ q ∉ u.stopped ∧ Tab.get 0 u.tails q = 0 ∧ .launchQueuePoll q ∈ u.agenda
          else u.fld head 0 64 = s.fld head 0 64 ∧ u.stopped = s.stopped ∧ u.tails = s.tails)) ∧
      (let g := (s.reg (lqOff q + 8)).toNat
       let tail := Mem.num s.hbm (g % 2 ^ 44) 8
       let n := (tail + 2 ^ 64 - s.fld head 0 64) % 2 ^ 64
       s.flag (lqOff q) 0 = true → s.ownHbm g 8 = true → q ∉ s.stopped →
         ∃ u, exec (.launchQueuePoll q) s = .next u ∧ still u ∧ u.launches = s.launches ∧
           Tab.get 0 u.tails q = BitVec.ofNat 64 tail ∧
           (n ≤ 2 ^ (s.fld (lqOff q) 4 4 + 4) → u.stopped = s.stopped ∧ u.regs = s.regs) ∧
           (2 ^ (s.fld (lqOff q) 4 4 + 4) < n → q ∈ u.stopped ∧ u.flag (lqOff q + 0x18) 0 = true ∧ u.fld head 0 64 = s.fld head 0 64)) ∧
      (lqServed s q = false → exec (.launchAccept (some q)) s = .next s) ∧
      (let h0 := s.fld head 0 64
       let a := (s.reg (lqOff q)).toNat % 2 ^ 44 / 2 ^ 12 * 2 ^ 12 + 128 * (h0 % lqCap s q)
       let y := s.fld (lqOff q) 8 4
       -- the header, which is read once
       let h := (Tab.find s.heads q).getD (wordsOf (Mem.bytes s.hbm a 128) 16)
       let sound := Tab.find s.heads q = none → s.poisoned a 128 = false
       lqServed s q = true → s.launches.length < 4096 →
         (Tab.find s.heads q = none → s.poisoned a 128 = true → ∃ u, exec (.launchAccept (some q)) s = .next u ∧ still u ∧ u.launches = s.launches ∧
           q ∈ u.stopped ∧ u.flag (lqOff q + 0x18) 1 = true ∧ u.fld head 0 64 = h0) ∧
         (sound → headerOk s y h = false → hNorec h = true →
           ∃ u, exec (.launchAccept (some q)) s = .next u ∧ still u ∧ u.launches = s.launches ∧
             u.fld head 0 64 = (h0 + 1) % 2 ^ 64) ∧
         (∀ d cl al eb, sound → headerOk s y h = true → answered (.hdr (4 * q) 1) (hImage h) 64 d →
           descOk d (hTask h) = some (cl, al) → answered (.hdr (4 * q) 2) (hImage h + 64 + cl + al + 4 * hTask h) 4 eb →
           entryOk (leNat eb) = true →
             ∃ u, exec (.launchAccept (some q)) s = .next u ∧ still u ∧ accepted u y h (leNat eb) cl al ∧
               u.fld head 0 64 = (h0 + 1) % 2 ^ 64 ∧ u.robin = (q + 1) % 64))) ∧
    (∀ p ps, s.spawns = p :: ps → s.launches.length < 4096 →
      let n := 4 * p.id + 1
      (takesLaunches s p.ctx = false →
        ∃ u, exec (.launchAccept none) s = .next u ∧ still u ∧ u.spawns = ps ∧ u.launches = s.launches) ∧
      (∀ hb d cl al eb,
        let ws := wordsOf hb 16
        let h := setAt (setAt ws 6 p.kseed) 7 (BitVec.ofNat 64 (hdw ws 7 / 2 ^ 32 * 2 ^ 32 + p.kstep.toNat))
        takesLaunches s p.ctx = true → answered (.hdr n 0) p.va 128 hb →
        headerOk s p.ctx h = true → answered (.hdr n 1) (hImage h) 64 d → descOk d (hTask h) = some (cl, al) →
        answered (.hdr n 2) (hImage h + 64 + cl + al + 4 * hTask h) 4 eb → entryOk (leNat eb) = true →
          ∃ u, exec (.launchAccept none) s = .next u ∧ still u ∧ u.spawns = ps ∧ accepted u p.ctx h (leNat eb) cl al)) ∧
    (s.launches.find? (fun k => decide (k.id = l)) = some m →
      (∀ k ps, holdsSet s m.ctx = true → chosen s m.ctx = some k → k.id = l → hGsm1 m.hdr = 0 → placement s m = some ps → ps.Nodup →
        ∃ u, exec (.unitDispatch l) s = .next u ∧ u.hbm = s.hbm ∧ u.ctxs = s.ctxs ∧
          (∀ i, i < ps.length →
            let z := ps.getD i (0, false)
            let y := u.st z.1 z.2
            y.pc = m.entry ∧ y.regs = Regs.reset ∧ y.wid = BitVec.ofNat 64 (workId m.hdr m.unit i) ∧ y.landing = [] ∧ y.acc = [] ∧
              y.trap = (s.st z.1 z.2).trap ∧ y.sys = { SysRegs.reset with
                kseed := if nth 0 m.hdr 6 = 0 then (s.ctx m.ctx).cseed else nth 0 m.hdr 6
                kstep := (nth 0 m.hdr 7).truncate 32 }) ∧
          (∀ e b, (e, b) ∉ ps → u.st e b = s.st e b) ∧ (∀ e, (u.seat e).spad = (s.seat e).spad) ∧
          u.launches.map Launch.running = s.launches.map (fun k => if k.id = l then k.running + ps.length else k.running) ∧
          u.launches.map Launch.unit = s.launches.map fun k => if k.id = l then k.unit + 1 else k.unit) ∧
      (∀ k ps, holdsSet s m.ctx = true → chosen s m.ctx = some k → k.id = l → hGsm1 m.hdr ≠ 0 → placement s m = some ps → ps.Nodup →
        let n := hGsm1 m.hdr + 1
        let at_ := fun (i : Nat) => ps.getD i (0, false)
        ∃ u, exec (.unitDispatch l) s = .next u ∧ u.hbm = s.hbm ∧ u.ctxs = s.ctxs ∧
          (∀ i, i < ps.length →
            let y := u.st (at_ i).1 false
            (at_ i).2 = false ∧ freeStream s (at_ i).1 false = true ∧ (at_ i).1 / 48 = (at_ (i / n * n)).1 / 48 ∧
              y.pc = m.entry ∧ y.regs = Regs.reset ∧ y.wid = BitVec.ofNat 64 (workId m.hdr m.unit i) ∧
              ∃ t, y.task = some t ∧ t.gang = some (s.nextId + i / n) ∧ t.gidx = i % n ∧ t.gsize = n - 1 ∧
                t.lead = (at_ (i / n * n)).1) ∧
          (∀ j, j * n < ps.length → Tab.find u.gangs (s.nextId + j) =
            some ⟨((ps.drop (j * n)).take n).map fun p => p.1, hSkew m.hdr, s.cycle, none⟩) ∧
          (∀ e b, (e, b) ∉ ps → u.st e b = s.st e b) ∧ (∀ e, (u.seat e).spad = (s.seat e).spad) ∧
          u.launches.map Launch.running = s.launches.map (fun k => if k.id = l then k.running + ps.length else k.running) ∧
          u.launches.map Launch.unit = s.launches.map fun k => if k.id = l then k.unit + 1 else k.unit) ∧
      (let done := (m.stop = true ∨ groupCount m.hdr (hColvl m.hdr) ≤ m.unit) ∧ m.running = 0 ∧ ready s m = true ∧
         launchBusy s m = false
       let gone := ∃ u, exec (.launchComplete l) s = .next u ∧ still u ∧
         u.launches = s.launches.filter fun k => decide (k.id ≠ l)
       (m.closing = false → done → hNorec m.hdr = true → gone) ∧
       (m.closing = true → recPending s (.launch l) = false → gone) ∧
       (m.closing = false → ¬ done → exec (.launchComplete l) s = .next s))) ∧
    (∃ u, exec (.launchAged l) s = .next u ∧ still u ∧
      u.launches.map Launch.aged = s.launches.map fun k => k.aged || (decide (k.id = l) && decide (2 ^ 20 ≤ k.age) && waiting s k)) ∧
    (∀ cb ab, (s.core c).owner = some x → loadFor s x c = some m → holdsSet s x = true → freeStream s c false = true →
      freeStream s c true = true → answered (.hdr (4 * (256 * m.id + c) + 2) 1) (hImage m.hdr + 64) m.clen cb →
      answered (.hdr (4 * (256 * m.id + c) + 2) 2) (hImage m.hdr + 64 + m.clen) m.alen ab → m.clen ≤ 0x8000 →
        ∃ u, exec (.imageLoad c) s = .next u ∧ (u.seat c).image = some (hImage m.hdr) ∧
          (∀ i, i < m.clen → Mem.byte (u.seat c).ispad (0x8000 + i) = nth 0 cb i) ∧
          (∀ i, i < m.alen → Mem.byte (u.seat c).ispad (0x10000 + i) = nth 0 ab i) ∧
          (∀ i, i < 0x8000 ∨ (0x8000 + m.clen ≤ i ∧ i < 0x10000) ∨ 0x10000 + m.alen ≤ i →
            Mem.byte (u.seat c).ispad i = Mem.byte (s.seat c).ispad i) ∧
          (u.seat c).spad = (s.seat c).spad ∧ (∀ e, e ≠ c → u.core e = s.core e) ∧ u.hbm = s.hbm)

/-! ## Requests across the fabric, links and time (R65, R66, R281 to R302) -/

/-- R65, R66, R285, R290 to R293, R297, R301: a request of another package is checked, performs on the bytes it names and nothing
else, and is answered; a response or its timeout answers the request it belongs to; a packet takes the port of its route. The model's choices: MASHERR for an
atomic on a line with an error (log entry 31), statuses and causes that stand in fields of a response (log entry 17), when a REDUCE is
sent again (log entry 36), copies of a multicast and the table that names its members (log entries 18 and 82), packets of contexts that
a warm start killed (log entry 44), the ways to which requests are bound (log entries 78 and 81). -/
def Obligations.FabricRequests : Prop :=
  ∀ (s : State) (p : Packet) (op : AOp) (f : AFmt) (tag x g : Nat),
    let a := p.addr % 2 ^ 44
    let n := p.payload.length
    let still := fun (u : State) => u.cores = s.cores ∧ u.reqs = s.reqs ∧ u.launches = s.launches
    let reply := fun (u : State) (k : PKind) (r : Resp) => u.outbox = s.outbox ++ [responseTo s { p with kind := k } r]
    let turned := fun (i : Instr) (k : PKind) (st : Nat) => ∃ u, exec i s = .next u ∧ still u ∧ reply u k ⟨st, 0, []⟩ ∧ u.hbm = s.hbm
    let wrote := fun (u : State) (bs : List Byte) =>
      ∀ b, Mem.byte u.hbm b = if a ≤ b ∧ b < a + bs.length then nth 0 bs (b - a) else Mem.byte s.hbm b
    (p.srcPkg ≠ s.pkg → s.recs = [] →
      (ctxCheck s p.dctx = stOK →
        (rowRun a n = some .hbm → ∃ u, exec (.write p) s = .next u ∧ still u ∧ reply u .write ⟨stOK, 0, []⟩ ∧ wrote u p.payload) ∧
        (let m := { p with kind := .mcwrite }
         rowRun a n = some .hbm → (entersGroup s m = true → s.pkg ∈ groupHere s m) →
          ∃ u, exec (.mcwrite p) s = .next u ∧ still u ∧ wrote u p.payload ∧
            u.outbox = s.outbox ++ (if entersGroup s m then ((groupHere s m).filter (· ≠ s.pkg)).map (castTo m) else []) ++
              [responseTo s m ⟨stOK, 0, []⟩]) ∧
        (rowRun a p.len = some .hbm → s.poisoned a p.len = false →
          ∃ u, exec (.readreq p) s = .next u ∧ still u ∧ u.hbm = s.hbm ∧ reply u .readreq ⟨stOK, 0, Mem.bytes s.hbm a p.len⟩) ∧
        (rowRun a p.len = some .hbm → s.poisoned a p.len = true → turned (.readreq p) .readreq stMEMERR) ∧
        (aopOf p.op = some op → afmtOf p.fmt = some f → rowRun a (afmtSize f) = some .hbm → s.poisoned a (afmtSize f) = true →
          turned (.atomic p) .atomic stMASHERR) ∧
        (aopOf p.op = some op → afmtOf p.fmt = some f → rowRun a (afmtSize f) = some .hbm → s.poisoned a (afmtSize f) = false →
          (p.dctx, 1024) ∉ s.mashBad →
          let old := Mem.num s.hbm a (afmtSize f)
          let r := atomicNew op f old (leNat (p.payload.take (afmtSize f))) (leNat (p.payload.drop (afmtSize f)))
          ∃ u, exec (.atomic p) s = .next u ∧ still u ∧ reply u .atomic ⟨stOK, r.2, Mem.bytes s.hbm a (afmtSize f)⟩ ∧
            wrote u (match r.1 with | some v => leBytes (afmtSize f) v | none => []))) ∧
      (rowRun a n = none → turned (.write p) .write stBADADDR) ∧ (rowRun a p.len = none → turned (.readreq p) .readreq stBADADDR) ∧
      (s.ctxState p.dctx = 3 ∨ s.ctxState p.dctx = 4 → rowRun a n = some .hbm → turned (.write p) .write stGONE) ∧
      (s.ctxState p.dctx = 0 → rowRun a n = some .hbm →
        turned (.write p) .write (if p.dctx ∈ s.gone then stGONE else stBADADDR))) ∧
    (s.recs = [] → p.srcPkg ≠ s.pkg → p.addr / 2 ^ 44 = s.pkg → rowRun a n = none → turned (.reduce p) .reduce stBADADDR) ∧
    (s.recs = [] → p.srcPkg ≠ s.pkg → p.addr / 2 ^ 44 = s.pkg → ctxCheck s p.dctx = stOK → rowRun a n = some .hbm →
      (s.flag (trOff p.dctx + 0x20) 0 = false → turned (.reduce p) .reduce stNOGROUP) ∧
      (∀ gi e rank, s.flag (trOff p.dctx + 0x20) 0 = true → findGroup (s.ctx p.dctx) a 1024 0 = some (gi, e) →
        let w := afmtSize e.fmt
        let first := (a - e.dst) / w
        let r := Tab.get ⟨s.cycle, []⟩ (s.ctx p.dctx).rounds gi
        let r' : Round := { r with contribs := r.contribs ++ (payloadElems w (n / w) p.payload).mapIdx fun i v => (rank, first + i, v) }
        (a - e.dst) % w = 0 → n % w = 0 → a + n ≤ e.dst + e.len * w → aopOf p.op = some e.op → afmtOf p.fmt = some e.fmt →
        p.frac = e.fxp → p.det = false → rankOf s e.memb p.srcPkg p.srcCore e.n 0 = some rank →
        ((∀ k, k ∈ r.contribs → k.1 = rank → k.2.1 < first ∨ first + n / w ≤ k.2.1) → r'.full e = false →
          (∀ b, b ∈ s.mashBad → b ≠ (p.dctx, gi)) →
          ∃ u, exec (.reduce p) s = .next u ∧ still u ∧ reply u .reduce ⟨stOK, 0, []⟩ ∧ u.hbm = s.hbm ∧
            Tab.find (u.ctx p.dctx).rounds gi = some r') ∧
        ((∃ k, k ∈ r.contribs ∧ k.1 = rank ∧ first ≤ k.2.1 ∧ k.2.1 < first + n / w) → turned (.reduce p) .reduce stDUP))) ∧
    (p.addr / 2 ^ 44 ≠ s.pkg → exec (.reduce p) s = .next { s with returned := s.returned ++ [(s.cycle, p)] }) ∧
    (∃ u, exec .reduceResend s = .next u ∧ still u ∧ (∀ r, r ∈ u.returned ↔ r ∈ s.returned ∧ s.cycle < r.1 + 1100) ∧
      u.outbox = s.outbox ++ (s.returned.filter fun r => decide (r.1 + 1100 ≤ s.cycle)).map fun r => { r.2 with hops := 0 }) ∧
    (∀ r e, Tab.find (s.ctx x).rounds g = some r → (s.ctx x).group g = some e →
      (s.cycle < r.start + e.tmo * 1100 → exec (.roundTimeout x g) s = .next s) ∧
      (r.start + e.tmo * 1100 ≤ s.cycle →
        ∃ u, exec (.roundTimeout x g) s = .next u ∧ Tab.find (u.ctx x).rounds g = none ∧ u.launches = s.launches ∧ u.gtb = s.gtb)) ∧
    (s.recs = [] →
      let st := if p.status = stXLAT ∧ p.frac ≠ 0 then 0x40 + p.frac else p.status
      let rtmo := max (s.fld oFCFG 40 24) 1 * 1100
      let got := { s with
        reqs := s.reqs.map fun q =>
          if q.tag = p.tag ∧ q.dpkg = p.srcPkg ∧ q.res = none then { q with res := some ⟨st, p.op + 8 * p.fmt, p.payload⟩ } else q
        binds := s.binds.filter fun b => !(decide (b.src = s.pkg) && decide (b.dst = p.srcPkg) && decide (b.tag = p.tag)) }
      let late := { s with
        reqs := s.reqs.map fun q =>
          if q.tag = tag ∧ q.res = none ∧ q.cyc + rtmo ≤ s.cycle then { q with res := some ⟨stUNREACH, 0, []⟩ } else q
        binds := s.binds.filter fun b => decide (s.cycle < b.cyc + rtmo) }
      let ours := s.reqs.find? fun q => decide (q.tag = p.tag) && decide (q.dpkg = p.srcPkg)
      exec (.readdata p) s = .next got ∧ exec (.ack p) s = .next got ∧ exec (.responseTimeout tag) s = .next late ∧
      (ours = none → exec (.atomicdata p) s = .next got) ∧
      (∀ q c id w, ours = some q → q.agent = .cmd c id w → exec (.atomicdata p) s = exec (.copyChunk c id) got) ∧
      (∀ q c id z k o e, ours = some q → q.agent = .cmd c id 0 → q.res = none → reqsOf s (.cmd c id 0) = [q] →
        cmdHome s c id = some z → (s.core c).owner = some z → cmdOf s z c id = some k → k.kind = .ratom o e → k.phase = 1 →
        k.status = 0 → k.tiles = [] → k.crec.none = true → p.status = 0 →
          let iorg := setDw k.set 2
          let left := fun (u : State) => (u.seat c).cmds = (s.seat c).cmds.filter (fun j => decide (j.id ≠ id)) ∧
            (∀ r, r ∈ u.reqs → r.agent ≠ .cmd c id 0 ∧ (r.agent = .cmd c id 1 → bitN iorg 63 = true)) ∧
            (u.seat c).spad = (s.seat c).spad ∧ (∀ b, u.st c b = s.st c b) ∧ ∀ e, e ≠ c → u.core e = s.core e
          (bitN iorg 63 = true → ∃ u, exec (.atomicdata p) s = .next u ∧ left u ∧ u.hbm = s.hbm) ∧
          (∀ l, bitN iorg 63 = false → xlate s z k.org iorg .write = .ok l → l.phys / 2 ^ 44 = s.pkg → p.payload.length = afmtSize e →
            rowRun (l.phys % 2 ^ 44) (afmtSize e) = some .hbm → ctxCheck s l.dctx = stOK →
            (∀ r, r ∈ s.reqs → r.tag ≠ s.nextTag ∧ r.agent ≠ .cmd c id 1) →
              ∃ u, exec (.atomicdata p) s = .next u ∧ left u ∧
                ∀ b, Mem.byte u.hbm b = if l.phys % 2 ^ 44 ≤ b ∧ b < l.phys % 2 ^ 44 + afmtSize e
                  then nth 0 p.payload (b - l.phys % 2 ^ 44) else Mem.byte s.hbm b))) ∧
    (let route := (s.reg (routeOff (p.addr / 2 ^ 44 % 4096))).toNat
     let rest := { s with outbox := s.outbox.erase p }
     let ports := routePorts s (p.addr / 2 ^ 44 % 4096)
     (bitN route 30 = true → exec (.packetForward p) s = .next { rest with agenda := packetStep 0 p :: s.agenda }) ∧
     (bitN route 30 = false → ports = [] →
       ∃ u, exec (.packetForward p) s = .next u ∧ u.outbox = s.outbox.erase p ∧ u.ports = s.ports ∧
         u.fld oFSTAT 32 32 = min (s.fld oFSTAT 32 32 + 1) (2 ^ 32 - 1)) ∧
     (bitN route 30 = false → ports ≠ [] → behindOlder s p = true ∨ choosePort s ports p = none →
       exec (.packetForward p) s = .next s) ∧
     (∀ i, bitN route 30 = false → ports ≠ [] → behindOlder s p = false → choosePort s ports p = some i →
       1024 < (s.port i).replay.length + (p.payload.length + 279) / 248 → exec (.packetForward p) s = .next s) ∧
     (∀ i, bitN route 30 = false → ports ≠ [] → behindOlder s p = false → choosePort s ports p = some i →
       (s.port i).replay.length + (p.payload.length + 279) / 248 ≤ 1024 →
       ∃ u, exec (.packetForward p) s = .next u ∧ u.outbox = s.outbox.erase p ∧ (∀ j, j ≠ i → u.port j = s.port j) ∧
         (u.port i).replay = (s.port i).replay ++ flitsOf p.vc (((s.port i).recvSeq + 4095) % 4096) (s.port i).nak 10
           (s.port i).sendSeq true (packetBytes { p with hops := p.hops + 1 }) ∧ u.hbm = s.hbm ∧ u.cores = s.cores))

/-- R281 to R283, R302: a flit is accepted in sequence or discarded, the first of a gap and every one that fails its check with a NAK due; a port that fails goes down
and comes up afresh; TIME packets set the GTB once, before any context exists, and keep GTBOK; each up port sends its own every
65,536 cycles; a correction adds or drops one cycle at most every 1,024. The model's choices: the layout of TIME's payload, the GTB in bytes 7:0 and
the distance in byte 8 with 255 for none (log entry 17), what travels in which flit and when (log entry 27), and the measure of a
link's round trip (log entry 83). -/
def Obligations.LinksAndTime : Prop :=
  ∀ (s : State) (i : Nat) (bs : List Byte) (p : Packet) (b : Bool),
    let q := s.port i
    let w := leNat (bs.take 2)
    let sound := bs.length = 256 ∧ crc32c (bs.take 252) = leNat (bs.drop 252)
    let good := sound ∧ w % 4096 = q.recvSeq
    let others := fun (u : State) => (∀ j, j ≠ i → u.port j = s.port j) ∧ u.cores = s.cores ∧ u.hbm = s.hbm
    (q.up = false → exec (.flit i bs) s = .next s) ∧
    (q.up = true → ¬ good →
      exec (.flit i bs) s = .next (s.putPort i { q with nak := q.nak || !q.gap || !decide sound, gap := true })) ∧
    (q.up = true → good →
      ∃ u, exec (.flit i bs) s = .next u ∧ others u ∧ (u.port i).recvSeq = (q.recvSeq + 1) % 4096 ∧ (u.port i).nak = false ∧
        (w.testBit 15 = false → Tab.get [] (u.port i).asm (w / 2 ^ 12 % 4) =
          (if w.testBit 14 then [] else Tab.get [] q.asm (w / 2 ^ 12 % 4)) ++ (bs.drop 4).take 248) ∧
        (w.testBit 15 = true → Tab.get [] (u.port i).asm (w / 2 ^ 12 % 4) = [])) ∧
    (q.up = true → q.failed s.cycle = true →
      ∃ u, exec (.portDown i) s = .next u ∧ others u ∧ (u.port i).up = false ∧ (u.port i).replay = [] ∧ (u.port i).asm = []) ∧
    (q.failed s.cycle = false → exec (.portDown i) s = .next s) ∧
    (q.up = true → exec (.portUp i) s = .next s) ∧
    (q.up = false → ∃ u, exec (.portUp i) s = .next u ∧ others u ∧ (u.port i).up = true ∧ (u.port i).sendSeq = 0 ∧
      (u.port i).recvSeq = 0 ∧ (u.port i).replay = []) ∧
    (let m := leNat ((p.payload.drop 8).take 1)
     let h := if m = 255 then none else some m
     let v := s.putPort i { q with hop := h }
     let goal := leNat (p.payload.take 8) + linkDelay s i
     let ok := fun (u : State) => u.flag oFSTAT 0 = true ↔ 0 < u.timeCyc ∧ u.cycle < u.timeCyc - 1 + 2 ^ 24 ∧ -4 ≤ u.timeErr ∧ u.timeErr ≤ 4
     ∃ u, exec (.time i p) s = .next u ∧ others u ∧ (u.port i).hop = h ∧ u.timeCyc = s.cycle + 1 ∧ u.cycle = s.cycle ∧ ok u ∧
       (s.flag oFCFG 13 = true → u.gtb = s.gtb ∧ u.timeErr = 0) ∧
       (s.flag oFCFG 13 = false →
         ((∀ n, followed v ≠ some (i, n)) → u.gtb = s.gtb ∧ u.timeErr = s.timeErr) ∧
         ((∃ n, followed v = some (i, n)) →
           (s.timeSet = false → anyContext s = false → u.gtb = BitVec.ofNat 64 goal ∧ u.timeSet = true ∧ u.timeErr = 0) ∧
           (s.timeSet = true ∨ anyContext s = true → u.gtb = s.gtb ∧ u.timeErr = (goal : Int) - s.gtb.toNat)))) ∧
    ((∀ n, (s.port i).rtt = some n → linkDelay s i = n / 2)) ∧
    (let due := fun (j : Nat) => s.cycle % 65536 = 0 ∨ (s.port j).timeDue = true
     ((∀ j, j < 128 → ¬ due j) → exec .timeSend s = .next s) ∧
     ∃ u, exec .timeSend s = .next u ∧ u.cores = s.cores ∧ u.hbm = s.hbm ∧ u.gtb = s.gtb ∧
       ∀ j, j < 128 → (¬ due j ∨ (s.port j).up = false → u.port j = s.port j) ∧
         (due j → (s.port j).up = true →
           ((s.port j).replay.length < 1024 → (u.port j).replay.length = (s.port j).replay.length + 1 ∧
             (u.port j).sendSeq = ((s.port j).sendSeq + 1) % 4096 ∧ (u.port j).timeDue = false) ∧
           (1024 ≤ (s.port j).replay.length → u.port j = { s.port j with timeDue := true }))) ∧
    (let lost := s.timeCyc = 0 ∨ s.timeCyc - 1 + 2 ^ 24 ≤ s.cycle ∨ s.timeErr < -4 ∨ 4 < s.timeErr
     (s.flag oFSTAT 0 = true → lost →
       ∃ u, exec .gtbokLoss s = .next u ∧ u.flag oFSTAT 0 = false ∧ u.gtb = s.gtb ∧ u.ports = s.ports) ∧
     (s.flag oFSTAT 0 = false ∨ ¬ lost → exec .gtbokLoss s = .next s)) ∧
    (s.flag oFCFG 13 = false → s.corrCyc ≤ s.cycle → (if b then 0 < s.timeErr else s.timeErr < 0) →
      ∃ u, exec (.gtbCorrection b) s = .next u ∧ u.gtbStep = (if b then 2 else 0) ∧ u.corrCyc = s.cycle + 1024 ∧ u.gtb = s.gtb ∧
        u.timeErr = s.timeErr + (if b then -1 else 1)) ∧
    (s.cycle < s.corrCyc → exec (.gtbCorrection b) s = .next s)

/-! ## Collectives (R310, R313, R323, R326, R327, R330, R331, R433) -/

/-- R310, R313, R323, R326, R327, R330, R331, R333, R433: what a chunk, a marker, credits, a start, a timeout and the end of a command
do. A command that can go on then moves until it must wait (`pumped`); where nothing can move, the next state is given. The model's choices: the package stands in bits 55:44 of a chunk's address field (log
entry 17), a marker waits for its command like a chunk (log entry 58), and a CRECV cuts by its own entry's CSH (log entry 92). -/
def Obligations.CollectivesAdvance : Prop :=
  ∀ (s : State) (p : Packet) (id port : Nat) (k : Coll),
    let h := headOf p
    let x := p.dctx
    let y := s.ctx x
    let e := y.chan h.ch
    let still := fun (u : State) => u.cores = s.cores ∧ u.hbm = s.hbm ∧ u.launches = s.launches
    let held := { s with ctxs := Tab.put s.ctxs x { y with chHeld := y.chHeld ++ [p] } }
    let next := (y.chst_ h.ch).2
    let backTo := giveCredit e h.wf h.kind h.step h.seq s
    -- nothing of the command or of a record is on its way
    let quiet := fun (i : Nat) => s.recs = [] ∧ reqsOf s (.coll i 2) = []
    let stopped := fun (u : State) (j : Coll) (a : Nat × Nat × Nat × Nat) =>
      u.colls = s.colls.map (fun i => if i.id = j.id then { j with abort := some a, toSend := [], early := [] } else i) ∧
      ∀ r, r ∈ u.reqs ↔ r ∈ s.reqs ∧ ∀ w, w ∈ [1, 4, 5, 6, 8] → r.agent ≠ .coll j.id w
    let live := s.ctxState x ≠ 0 ∧ s.ctxState x ≠ 3 ∧ s.ctxState x ≠ 4
    -- no command of the channel runs
    (live → onChannel s x h.ch false = none →
      (h.seq = next ∨ seqLater h.seq next = true → exec (.chunk p) s = .next held) ∧
      (h.seq ≠ next → seqLater h.seq next = false → exec (.chunk p) s = .next backTo)) ∧
    (s.ctxState x = 0 → exec (.chunk p) s = .next s) ∧
    (s.ctxState x = 3 ∨ s.ctxState x = 4 → p.srcPkg ≠ s.pkg →
      ∃ u m, exec (.chunk p) s = .next u ∧ still u ∧ u.ctxs = s.ctxs ∧ u.outbox = s.outbox ++ [m] ∧ m.kind = .chunk ∧
        m.addr = p.srcPkg * 2 ^ 44 ∧ m.dctx = cPctx e ∧ bitN (leNat (m.payload.take 2)) 13 = true ∧ (headOf m).ch = cPch e % 4096 ∧
        (headOf m).seq = h.seq % 65536 ∧ (headOf m).low = (s.pkg + 6 * 2 ^ 12) % 2 ^ 64) ∧
    (live → onChannel s x h.ch false = some k →
      (h.seq = k.seq → k.abort.isSome = true →
        exec (.chunk p) s = .next (giveCredit k.re h.wf h.kind h.step h.seq
          (if k.shape h p.payload.length = true
            then putColl { k with got := k.got ++ [(h.step, h.low % 2 ^ 40, h.low / 2 ^ 40 % 2 ^ 11 + 1, h.last)] } s else s))) ∧
      (h.seq = k.seq → k.abort = none → k.shape h p.payload.length = true →
        let w : Wire := ⟨h.step, h.low % 2 ^ 40, h.low / 2 ^ 40 % 2 ^ 11 + 1, h.last, p.payload.drop 16⟩
        ((∀ v, v ∈ k.got → v.1 ≠ w.step ∨ v.2.1 ≠ w.off) → (∀ v, v ∈ k.early → v.step ≠ w.step ∨ v.off ≠ w.off) →
          exec (.chunk p) s = .next (pumped k.id (putColl { k with early := k.early ++ [w], timer := 0 } s)) ∧
          (k.phase = 1 → s.recs = [] → exec (.chunk p) s = .next (putColl { k with early := k.early ++ [w], timer := 0 } s))) ∧
        ((∃ v, v ∈ k.got ∧ v.1 = w.step ∧ v.2.1 = w.off) →
          exec (.chunk p) s = .next (giveCredit k.re h.wf h.kind h.step h.seq s))) ∧
      (h.seq = k.seq → k.abort = none → k.shape h p.payload.length = false →
        exec (.chunk p) s = .next (abortColl k 5 0 none none (giveCredit k.re h.wf h.kind h.step h.seq s))) ∧
      (h.seq ≠ k.seq → seqLater h.seq k.seq = true → exec (.chunk p) s = .next held) ∧
      (h.seq ≠ k.seq → seqLater h.seq k.seq = false → exec (.chunk p) s = .next backTo)) ∧
    -- a marker for no command here, then one for a running command
    ((∀ j b, onChannel s x h.ch b = some j → h.seq ≠ j.seq) →
      (live → (h.seq = next ∨ seqLater h.seq next = true) → exec (.abortMarker p) s = .next held) ∧
      (¬ live ∨ (h.seq ≠ next ∧ seqLater h.seq next = false) → exec (.abortMarker p) s = .next s)) ∧
    (h.seq = k.seq → onChannel s x h.ch false = some k ∨
        (onChannel s x h.ch true = some k ∧ ∀ j, onChannel s x h.ch false = some j → h.seq ≠ j.seq) →
      (k.abort.isSome = true → exec (.abortMarker p) s = .next (pumped k.id s)) ∧
      (k.abort = none → quiet k.id → k.early = [] →
        ∃ u, exec (.abortMarker p) s = .next u ∧ still u ∧ u.ctxs = s.ctxs ∧ stopped u k (1, h.low / 2 ^ 12 % 8, h.step, h.low % 2 ^ 12) ∧
          (k.kind < 6 → h.ch = k.rch → h.ch ≠ k.sch → cPeer k.se ≠ s.pkg →
            ∃ m, u.outbox = s.outbox ++ [m] ∧ m.kind = .chunk ∧ m.addr = cPeer k.se * 2 ^ 44 ∧
              bitN (leNat (m.payload.take 2)) 13 = true ∧ (headOf m).step = h.step % 65536 ∧ (headOf m).seq = k.seq % 65536))) ∧
    (let n := h.low % 128
     let old := ∃ q, Tab.find y.chNum h.ch = some q ∧ 32768 ≤ (h.seq + 65536 - q % 65536) % 65536
     (old → exec (.creditReturn p) s = .next s) ∧
     (¬ old → onChannel s x h.ch true = none →
       ∃ u, exec (.creditReturn p) s = .next u ∧ still u ∧ (u.ctx x).chst_ h.ch = ((y.chst_ h.ch).1 + n, next) ∧ u.colls = s.colls)) ∧
    (collOf s id = some k → k.phase = 0 →
      (mayStart s k = false → exec (.collectiveStart id) s = .next s) ∧
      (mayStart s k = true → (s.ctx k.ctx).chHeld = [] → cOpt k.gov = 0 →
        let number := fun (u : State) (c : Nat) => ((u.ctx k.ctx).chst_ c).2
        let j := { k with seq := number s k.sch, phase := 2 }
        let began := fun (u : State) => ∀ c, c ∈ k.chansOf → number u c = (number s c + 1) % 65536
        (∃ u i, exec (.collectiveStart id) s = .next u ∧ began u ∧ collOf u id = some i ∧ i.phase = 2 ∧ i.seq = j.seq ∧
          i.kind = k.kind ∧ i.addr = k.addr ∧ i.n = k.n ∧ i.org = k.org) ∧
        (s.recs = [] → (∀ w, reqsOf s (.coll id w) = []) → k.ownSeg = none → k.toSend = [] → k.early = [] →
          ∃ u, exec (.collectiveStart id) s = .next u ∧ still u ∧ began u ∧ u.reqs = s.reqs ∧ u.outbox = s.outbox ∧
            u.colls = s.colls.map fun i => if i.id = id then j else i))) ∧
    (collOf s id = some k → k.phase = 1 ∨ k.phase = 2 → k.abort = none →
      (k.timer < k.tmo → exec (.stepTimeout id) s = .next s) ∧
      (k.tmo ≤ k.timer → quiet id → k.early = [] →
        ∃ u, exec (.stepTimeout id) s = .next u ∧ still u ∧ u.ctxs = s.ctxs ∧ stopped u { k with phase := 2 } (0, 0, k.blame.1, k.blame.2))) ∧
    (collOf s id = some k → k.phase = 2 → k.abort = none → s.recs = [] → (∀ w, reqsOf s (.coll id w) = []) → k.toSend = [] → k.early = [] →
      k.optEnt = [] → k.ownSeg.bind (fun z => k.cut z.1 z.2 k.own) = none → (∀ i, i < k.steps → k.stepDone i = true) →
        exec (.collectiveComplete id) s = .next (endColl k (collLo stOK 0 k.flags 0 0xFFFF 0xFFFF) s) ∧
        ∃ u, exec (.collectiveComplete id) s = .next u ∧
          (∀ j, j ∈ u.colls → if j.id = id then j = { k with phase := 3 } else j ∈ s.colls) ∧
          (∀ j, j ∈ s.colls → j.id ≠ id → j ∈ u.colls) ∧
          u.fld (clOff k.ctx + 0x18) 0 11 = (u.colls.filter fun j => decide (j.ctx = k.ctx)).length % 2 ^ 11) ∧
    (collOf s id = some k → k.phase = 3 → s.recs = [] →
      ∃ u, exec (.collectiveComplete id) s = .next u ∧ still u ∧ u.colls = s.colls.filter (fun j => decide (j.id ≠ id)) ∧
        u.fld (clOff k.ctx + 0x18) 0 11 = (u.colls.filter fun j => decide (j.ctx = k.ctx)).length % 2 ^ 11) ∧
    (∃ u, exec (.prioritySwitch port) s = .next u ∧ still u ∧ (∀ j, j ≠ port → u.port j = s.port j) ∧
      ((u.port port).shadow = true ↔
        ∃ j, j ∈ s.colls ∧ cPri j.gov = true ∧ (j.phase = 1 ∨ j.phase = 2) ∧ port ∈ routePorts s (cPeer j.se)) ∧
      u.port port = { s.port port with shadow := (u.port port).shadow })

/-! ## Engines, gather queues and reports (R58, R59, R80, R85, R94 to R108, R344, R356, R358) -/

/-- R91, R97, R103, R108, R344, R356, R358: a chunk of a copy within a scratchpad writes its units and no byte beyond its
destination's footprint; where the formats agree a unit is the source's bytes at its place (an element by its strides, a block by
its planes); a command that has done everything and asked for no record leaves; a row with an answer or an index beyond the limit
is delivered; an index is fetched. The model's choices: a step moves a whole chunk (log entry 27), and how many units a chunk holds,
4 KiB at most, between formats too (log entry 73). -/
def Obligations.EngineSteps : Prop :=
  ∀ (s : State) (c id q x : Nat) (k : Cmd),
    let y := s.seat c
    (cmdHome s c id = some x → cmdOf s x c id = some k → (s.core c).owner = some x →
      let gone := fun (i : Instr) => ∃ u, exec i s = .next u ∧ u.hbm = s.hbm ∧ (u.seat c).spad = y.spad ∧
        (u.seat c).cmds = y.cmds.filter (fun j => decide (j.id ≠ k.id)) ∧ (u.seat c).mxe = y.mxe ∧ (∀ b, u.st c b = s.st c b) ∧
        (∀ e, e ≠ c → u.core e = s.core e)
      (∀ g, geoOf k.set = some g → (k.kind = .cpy ∨ k.kind = .cpyc) → g.ssp = 1 → g.dsp = 1 → (s.ctx x).leaving = false →
        k.phase = 0 → k.next < g.units g.dfmt → mayBegin s x c k = true → k.cut = false → y.bad = [] → y.resv = [] →
        (∀ r, r ∈ s.reqs → r.agent ≠ .cmd c k.id 0 ∧ r.agent ≠ .cmd c k.id 1) → overlaps s x c k g = false →
        (g.rnd = .sr → g.sfmt = g.dfmt) →
          let ns := g.chunkUnits k.next
          let us := ns.map
            (g.unit (fun a m => Mem.bytes y.spad a.toNat m) (k.a.toNat % 2 ^ 23 : Nat) (k.b.toNat % 2 ^ 23 : Nat)
              (keyOf k.org.kseed.toNat g.tensor k.org.kstep.toNat))
          (g.tiled = false → ns = (List.range (g.chunkFrom k.next)).map (k.next + ·)) ∧
          ∃ u, exec (.copyChunk c id) s = .next u ∧ u.hbm = s.hbm ∧ (∀ e, e ≠ c → u.core e = s.core e) ∧
            (∀ b, u.st c b = s.st c b) ∧ (u.seat c).mxe = y.mxe ∧ (u.seat c).tiles = y.tiles ∧
            (u.seat c).spad = (us.flatMap fun z => z.writes).foldl
              (fun m w => Mem.setBytes m w.1.toNat w.2) y.spad ∧
            (let f := g.foot false (k.b.toNat % 2 ^ 23 : Nat)
             0 ≤ f.1 → ∀ b : Nat, (b : Int) < f.1 ∨ f.2 < b → Mem.byte (u.seat c).spad b = Mem.byte y.spad b) ∧
            (u.seat c).cmds.map Cmd.next = y.cmds.map fun j => if j.id = k.id then k.next + ns.length else j.next) ∧
      (∀ g, geoOf k.set = some g → (k.kind = .cpy ∨ k.kind = .cpyc) → k.phase = 0 → g.units g.dfmt ≤ k.next → k.crec.none = true →
        gone (.copyComplete c id)) ∧
      (k.kind = .efence → k.phase = 0 →
        (fenceWaits s y k.after = true → exec (.efenceComplete c id) s = .next s) ∧
        (fenceWaits s y k.after = false → k.crec.none = true → gone (.efenceComplete c id))) ∧
      (k.kind = .digest → k.phase = 0 → k.crec.none = true → k.status ≠ 0 → gone (.digestComplete c id)) ∧
      (∀ l, k.kind = .digest → k.phase = 0 → k.crec.none = true → k.status = 0 → k.b.toNat ≤ k.next →
        xlate s x k.org (setDw k.set 2) .write = .ok l → l.phys / 2 ^ 44 = s.pkg → l.phys % 2 ^ 44 + 32 ≤ 0x6C00000000 →
        ctxCheck s l.dctx = stOK → (∀ r, r ∈ s.reqs → r.tag ≠ s.nextTag ∧ r.agent ≠ .cmd c k.id 1) →
          ∃ u, exec (.digestComplete c id) s = .next u ∧ (u.seat c).cmds = y.cmds.filter (fun j => decide (j.id ≠ k.id)) ∧
            (u.seat c).spad = y.spad ∧
            ∀ b, Mem.byte u.hbm b = if l.phys % 2 ^ 44 ≤ b ∧ b < l.phys % 2 ^ 44 + 32
              then nth 0 (leBytes 32 k.sum) (b - l.phys % 2 ^ 44) else Mem.byte s.hbm b)) ∧
    (∀ (g : Geo) (rd : Int → Nat → List Byte) (sb db : Int) (key n : Nat) (is : List Nat),
      (∀ a m, (rd a m).length = m) → g.sfmt = g.dfmt →
        let at_ := fun (packed : Bool) (base hoff : Int) =>
          if packed = true ∧ g.dfmt.kbf.isSome = true then
            (base + (n * (g.dfmt.planeBytes + 2) + 2 : Nat), base + (n * (g.dfmt.planeBytes + 2) : Nat))
          else (base + (n * g.dfmt.planeBytes : Nat), base + hoff + (n * g.dfmt.headBytes : Nat))
        let z := g.unit rd sb db key
        (g.dfmt.block = false → is.length = g.dims.length → (∀ e, e ∈ is.zip g.dims → e.1 < e.2.1) →
          let from_ := sb + ((is.zip g.dims).map fun e => e.2.2.1 * (e.1 : Int)).sum
          let to_ := db + ((is.zip g.dims).map fun e => e.2.2.2 * (e.1 : Int)).sum
          (z (linear g.exts is)).writes = [(to_, rd from_ g.dfmt.bytes)] ∧ (z (linear g.exts is)).flags = 0) ∧
        (g.dfmt.block = true → g.trans = false →
          (z n).writes = [((at_ g.dpk db g.dhoff).2, rd (at_ g.spk sb g.shoff).2 g.dfmt.headBytes),
            ((at_ g.dpk db g.dhoff).1, rd (at_ g.spk sb g.shoff).1 g.dfmt.planeBytes)] ∧ (z n).flags = 0)) ∧
    (∀ e es, (s.core c).owner = some x → (y.q q).aq = e :: es → (y.q q).dq.length < 16 →
      let w := e.gqc.toNat
      let n := 8 * (w / 2 ^ 10 % 64 + 1)
      let va := (e.gqb.toNat % 2 ^ 56 + e.index.toNat * (w / 2 ^ 32)) % 2 ^ 56
      let gives := fun (bs : List Byte) (oob : Bool) =>
        ∃ u, exec (.gatherRowDelivery c q) s = .next u ∧ u.hbm = s.hbm ∧ (u.seat c).spad = y.spad ∧ (∀ b, u.st c b = s.st c b) ∧
          (∀ j, j % 4 ≠ q % 4 → (u.seat c).q (j % 4) = y.q (j % 4)) ∧
          (u.seat c).q q = { y.q q with aq := es, dq := (y.q q).dq ++ [⟨bitN w 9, bs ++ (if bitN w 9 then List.replicate (512 - n) 0 else [])⟩],
                                        oob := (y.q q).oob || oob }
      let rs := reqsOf s (.row c q 0)
      (rs = [] → e.gql.toNat % 2 ^ 32 ≠ 0 → e.gql.toNat % 2 ^ 32 ≤ e.index.toNat → gives (List.replicate n 0) true) ∧
      (rs ≠ [] → (∀ r, r ∈ rs → ∃ z, r.res = some z ∧ z.status = 0) → gives (gotBytes rs va n) false)) ∧
    ((y.q q).aq = [] ∨ 16 ≤ (y.q q).dq.length → exec (.gatherRowDelivery c q) s = .next s) ∧
    (∀ a, (y.q q).gs = some a → (s.core c).owner.isSome = true → y.granted a.id = true → (y.q q).aq.length < 32 → y.bad = [] →
      ∃ u, exec (.gstartIndexEntry c q) s = .next u ∧ u.hbm = s.hbm ∧ (u.seat c).spad = y.spad ∧ (∀ b, u.st c b = s.st c b) ∧
        ((u.seat c).q q).aq = (y.q q).aq ++ [⟨y.dword (a.addr + 8 * a.next), a.gqb, a.gqc, a.gql, a.org⟩] ∧
        ((u.seat c).q q).gs = (if a.n ≤ a.next + 1 then none else some { a with next := a.next + 1 }) ∧
        ((u.seat c).q q).dq = (y.q q).dq)

/-- R58 to R60, R80, R85, R400: a key-use report enters the log of 64, where the oldest goes, or conflicts with an entry; a fault
record reaches its stream's queue of eight, counts in FLOST past it, or vanishes with a killed context; that of a routine (cause 10)
becomes a trap condition of its stream, of first place if its code is ECC (R386); a walk's result is held. That every walk's result
joins the cache, which holds it until an invalidation drops it, is the model's choice (log entry 30). -/
def Obligations.ReportsAndWalks : Prop :=
  ∀ (s : State) (x : Nat),
    let y := s.ctx x
    (∀ r rs, y.keyReps = r :: rs →
      let clash := fun e => e ∈ y.keylog ∧ e.1 = r.ktens ∧ e.2.1 = r.kstep
      ((∀ e, ¬ clash e) →
        ∃ u, exec (.keyUseReport x) s = .next u ∧ (u.ctx x).keyReps = rs ∧ (u.ctx x).keylog =
          (if 64 ≤ y.keylog.length then y.keylog.drop 1 else y.keylog) ++ [(r.ktens, r.kstep, r.ident)] ∧
          u.cores = s.cores ∧ u.hbm = s.hbm) ∧
      (∀ e, y.keylog.find? (fun e => decide (e.1 = r.ktens) && decide (e.2.1 = r.kstep)) = some e →
        (e.2.2 = r.ident ∨ r.org.kwen = false →
          ∃ u, exec (.keyUseReport x) s = .next u ∧ (u.ctx x).keyReps = rs ∧ (u.ctx x).keylog = y.keylog ∧ u.cores = s.cores ∧
            u.hbm = s.hbm) ∧
        (e.2.2 ≠ r.ident → r.org.kwen = true → (s.core r.core).owner = some x → issuerAlive s x r.core r.org = true →
          ∃ u, exec (.keyUseReport x) s = .next u ∧ (u.ctx x).keyReps = rs ∧ (u.ctx x).keylog = y.keylog ∧ u.hbm = s.hbm ∧
            ∃ f : FRec, f.va = r.ident ∧ f.cause = 9 ∧ f.bundle = r.org.bundle ∧ f.slot = r.org.slot ∧ f.time = s.gtb ∧
              u.st r.core r.org.sec = { s.st r.core r.org.sec with pend :=
                { (s.st r.core r.org.sec).pend with keywarns := (s.st r.core r.org.sec).pend.keywarns ++ [f] } }))) ∧
    (∀ p ps, y.posts = p :: ps →
      let z := s.st p.core p.org.sec
      (s.ctxState x = 3 ∨ s.ctxState x = 4 → ∃ u, exec (.faultRecordPost x) s = .next u ∧ (u.ctx x).posts = ps ∧
        u.cores = s.cores ∧ u.hbm = s.hbm) ∧
      (s.ctxState x ≠ 3 → s.ctxState x ≠ 4 → (s.core p.core).owner = some x → issuerAlive s x p.core p.org = true →
        p.frec.cause ≠ 10 →
          ∃ u, exec (.faultRecordPost x) s = .next u ∧ (u.ctx x).posts = ps ∧ u.hbm = s.hbm ∧
            u.st p.core p.org.sec =
              (if z.pend.faults.length < 8 then { z with pend := { z.pend with faults := z.pend.faults ++ [p.frec] } }
              else { z with trap := { z.trap with flost := (z.trap.flost + 1) % 2 ^ 32 }, pend := { z.pend with lost := true } })) ∧
      (s.ctxState x ≠ 3 → s.ctxState x ≠ 4 → (s.core p.core).owner = some x → issuerAlive s x p.core p.org = true →
        p.frec.cause = 10 →
          let a : Async := ⟨p.frec.code, p.frec.bundle, p.frec.slot, p.frec.va.toNat, some p.frec⟩
          ∃ u, exec (.faultRecordPost x) s = .next u ∧ (u.ctx x).posts = ps ∧ u.hbm = s.hbm ∧
            u.st p.core p.org.sec = { z with pend :=
              if a.code = 14 then { z.pend with ecc := z.pend.ecc ++ [a] } else { z.pend with routine := z.pend.routine ++ [a] } }) ∧
      (s.ctxState x ≠ 3 → s.ctxState x ≠ 4 → issuerAlive s x p.core p.org = false →
        ∃ u, exec (.faultRecordPost x) s = .next u ∧ (u.ctx x).posts = ps ∧ u.cores = s.cores ∧
          u.fld (ccbOff x + 0x38) 0 64 = (s.fld (ccbOff x + 0x38) 0 64 + 1) % 2 ^ 64)) ∧
    (∀ r rs, y.walks = r :: rs →
      ∃ u, exec (.pageWalk x) s = .next u ∧ (u.ctx x).walks = rs ∧ (u.ctx x).tlb = y.tlb ++ [walk s x (r.va / 4096)] ∧
        u.cores = s.cores ∧ u.hbm = s.hbm) ∧
    (y.keyReps = [] → exec (.keyUseReport x) s = .next s) ∧ (y.posts = [] → exec (.faultRecordPost x) s = .next s) ∧
    (y.walks = [] → exec (.pageWalk x) s = .next s)

/-! ## The whole machine -/

/-- Every step of the machine keeps every memory in its canonical form: rising addresses and no zero listed, so that equal
memories are equal data. It holds of HBM, host memory, the staging area, and the scratchpads of every core and of every context
that is off its cores; no premise but that the state before has the form. How a memory is listed is the model's own choice (log
entry 65), no rule of the spec; that a write changes exactly the bytes it covers is R62. -/
def Obligations.MemoriesStayCanonical : Prop :=
  ∀ (s t : State), s.memWf = true → Sys2Proof.Machine.step s = .next t → t.memWf = true

/-- No instruction stops the machine: a step answers a next state in every state in which the clocks run, whatever stands in
registers, memories and the list of what is due. Every clock stands only while STAGE is HALTED after a thermal trip (R426), not
after a failed training (R425). What a step then does is the model's choice (log entry 60): a cold start happens and the host's
reads of registers are answered, everything else that comes is lost, and the one fault of the model is that nothing is to come any
more. No step refuses. -/
def Obligations.StepsStopOnlyWhileHalted : Prop :=
  ∀ (s : State),
    (s.clocksStand = false → ∃ t, Sys2Proof.Machine.step s = .next t) ∧
    (s.clocksStand = true ↔ s.stage = 5 ∧ s.flag oTHERM 17 = true) ∧
    (s.clocksStand = true → s.agenda = [] → s.inputs = [] → Sys2Proof.Machine.step s = .fault .clocksStopped) ∧
    (s.clocksStand = true → s.agenda ≠ [] ∨ s.inputs ≠ [] → ∃ t, Sys2Proof.Machine.step s = .next t) ∧
    (∀ i es, s.clocksStand = true → s.agenda = i :: es → i ≠ .coldStart → isRegRead i = false →
      Sys2Proof.Machine.step s = .next { s with agenda := es }) ∧
    (∀ es, s.clocksStand = true → s.agenda = .coldStart :: es →
      Sys2Proof.Machine.step s = execColdStart { s with agenda := es }) ∧
    (∀ r, Sys2Proof.Machine.step s ≠ .refused r)

/-! ## Translation (R69, R71 to R73, R83) -/

/-- R69, R71, R72, R73, R78, R83: a range entry matches where V is 1, its RSV bits are 0 and the page lies from BASE to LIMIT; the
lowest match counts, and the physical address is the sum modulo 2^56 with the offset that R73 selects; without a match the tables
answer, and without tables there is no translation. The model's choices: the sixteen reserved bytes of an entry count as RSV (log
entry 28), and a missing generation counts before a missing permission (log entry 90). -/
def Obligations.TranslationFollowsTheLowestMatch : Prop :=
  ∀ (s : State) (x va : Nat) (o : Origin) (need : Need),
    let y := s.ctx x
    let page := va / 4096
    let w := y.rngDw
    let hits := fun (i : Nat) => (w i 0).testBit 0 = true ∧ (∀ n, n < 8 → w i n &&& rngRsv n = 0) ∧
      w i 0 / 2 ^ 12 % 2 ^ 44 ≤ page ∧ page ≤ w i 1 / 2 ^ 12 % 2 ^ 44
    let cur := fun (i : Nat) => if (w i 0).testBit 6 then 1 else 0
    let gen := fun (i g : Nat) => w i (3 + g) / 2 ^ 12 % 2 ^ 44 * 2 ^ 12
    let tag := fun (i g : Nat) => w i 5 / 2 ^ (16 * g) % 2 ^ 16
    let allowed := fun (i : Nat) => match need with
      | .read => (w i 0).testBit 1 | .write => (w i 0).testBit 2 | .remote => (w i 0).testBit 2 && (w i 0).testBit 3
    -- the offset of R73
    let offset := fun (i off : Nat) =>
      ((w i 0).testBit 5 = false ∧ off = w i 2 / 2 ^ 12 % 2 ^ 44 * 2 ^ 12) ∨
      ((w i 0).testBit 5 = true ∧ (o.replay = false ∨ ∀ p, p ∈ o.pairs → p.1 ≠ i) ∧ off = gen i (cur i)) ∨
      ((w i 0).testBit 5 = true ∧ o.replay = true ∧ ∃ p, o.pairs.find? (fun p => decide (p.1 = i)) = some p ∧ p.2 ≠ 0 ∧
        ((tag i 0 = p.2 ∧ off = gen i 0) ∨ (tag i 0 ≠ p.2 ∧ tag i 1 = p.2 ∧ off = gen i 1)))
    (2 ^ 56 ≤ va → xlate s x o va need = .error cNONCANON) ∧
    (va < 2 ^ 56 →
      (∀ i, i < 64 → hits i → (∀ j, j < i → ¬ hits j) →
        (∀ off, offset i off → allowed i = true →
          xlate s x o va need = .ok ⟨(va + off) % 2 ^ 56, w i 0 / 2 ^ 8 % 16, (w i 0).testBit 4, some i⟩ ∧ off % 4096 = 0) ∧
        (∀ off, offset i off → allowed i = false → xlate s x o va need = .error cPERM) ∧
        ((w i 0).testBit 5 = true → o.replay = true → (∃ p, o.pairs.find? (fun p => decide (p.1 = i)) = some p ∧
          (p.2 = 0 ∨ (tag i 0 ≠ p.2 ∧ tag i 1 ≠ p.2))) → xlate s x o va need = .error cGENMISS)) ∧
      ((∀ i, i < 64 → ¬ hits i) →
        (s.flag (trOff x) 0 = false → xlate s x o va need = .error cNOMAP) ∧
        (s.flag (trOff x) 0 = true → y.cached page = none →
          let e := walk s x page
          (e.fault ≠ 0 → xlate s x o va need = .error e.fault) ∧
          (e.fault = 0 → permits need e.rd e.w e.a = true →
            xlate s x o va need = .ok ⟨(e.pbase + (page - e.vpn) * 4096 + va % 4096) % 2 ^ 56, e.dctx, e.d, none⟩))))

end
end

