-- ==== Sys2Proof/Laws/Tab.lean ====
section
/-! SUPPORT. The laws of sparse tables: read after write, and the canonical form is kept. -/

namespace Sys2Proof.Machine.Tab

variable {α : Type}

@[simp] theorem get_nil (d : α) (k : Nat) : get d [] k = d := rfl

@[simp] theorem get_put (d : α) (t : Tab α) (k : Nat) (x : α) (j : Nat) :
    get d (put t k x) j = if j = k then x else get d t j := by
  induction t with
  | nil => simp [put, get]
  | cons e t ih =>
    obtain ⟨i, y⟩ := e
    simp only [put]
    split
    · simp [get]
    · split
      · subst_vars; simp only [get]; split <;> rfl
      · rename_i h1 h2
        simp only [get, ih]
        split
        · subst_vars; simp [Ne.symm h2]
        · rfl

@[simp] theorem get_del (d : α) (t : Tab α) (k j : Nat) :
    get d (del t k) j = if j = k then d else get d t j := by
  induction t with
  | nil => simp [del, get]
  | cons e t ih =>
    obtain ⟨i, y⟩ := e
    simp only [del]
    split
    · subst_vars
      rw [ih]
      by_cases h : j = i <;> simp [get, h]
    · rename_i h1
      simp only [get, ih]
      split
      · subst_vars; simp [h1]
      · rfl

/-- Read after write. -/
@[simp] theorem get_set [DecidableEq α] (d : α) (t : Tab α) (k : Nat) (x : α) (j : Nat) :
    get d (set d t k x) j = if j = k then x else get d t j := by
  unfold set
  split
  · subst_vars; simp
  · simp

theorem canon_le [DecidableEq α] {d : α} {t : Tab α} : ∀ {a b : Nat}, b ≤ a → canon d a t = true → canon d b t = true := by
  cases t with
  | nil => intros; rfl
  | cons e t =>
    intro a b hab h
    simp only [canon, Bool.and_eq_true, decide_eq_true_eq] at h ⊢
    exact ⟨⟨Nat.le_trans hab h.1.1, h.1.2⟩, h.2⟩

theorem canon_del [DecidableEq α] (d : α) (k : Nat) : ∀ (t : Tab α) (lo : Nat),
    canon d lo t = true → canon d lo (del t k) = true := by
  intro t
  induction t with
  | nil => intros; rfl
  | cons e t ih =>
    obtain ⟨i, y⟩ := e
    intro lo h
    simp only [canon, Bool.and_eq_true, decide_eq_true_eq] at h
    simp only [del]
    split
    · exact canon_le (by omega) (ih (i + 1) h.2)
    · simp only [canon, Bool.and_eq_true, decide_eq_true_eq]
      exact ⟨h.1, ih _ h.2⟩

theorem canon_put [DecidableEq α] (d : α) (k : Nat) (x : α) (hx : x ≠ d) : ∀ (t : Tab α) (lo : Nat),
    lo ≤ k → canon d lo t = true → canon d lo (put t k x) = true := by
  intro t
  induction t with
  | nil => intro lo hk _; simp [put, canon, hk, hx]
  | cons e t ih =>
    obtain ⟨i, y⟩ := e
    intro lo hk h
    simp only [canon, Bool.and_eq_true, decide_eq_true_eq] at h
    simp only [put]
    split
    · simp only [canon, Bool.and_eq_true, decide_eq_true_eq]
      exact ⟨⟨hk, hx⟩, ⟨by omega, h.1.2⟩, h.2⟩
    · split
      · subst_vars
        simp only [canon, Bool.and_eq_true, decide_eq_true_eq]
        exact ⟨⟨hk, hx⟩, h.2⟩
      · simp only [canon, Bool.and_eq_true, decide_eq_true_eq]
        exact ⟨h.1, ih _ (by omega) h.2⟩

theorem wf_set [DecidableEq α] (d : α) (t : Tab α) (k : Nat) (x : α) (h : wf d t = true) :
    wf d (set d t k x) = true := by
  unfold set
  split
  · exact canon_del d k t 0 h
  · rename_i hx
    exact canon_put d k x hx t 0 (Nat.zero_le _) h

theorem wf_setRun [DecidableEq α] (d : α) (xs : List α) : ∀ (t : Tab α) (k : Nat), wf d t = true →
    wf d (setRun d t k xs) = true := by
  induction xs with
  | nil => intro t k h; exact h
  | cons x xs ih => intro t k h; exact ih _ _ (wf_set d t k x h)

theorem canon_filter [DecidableEq α] (d : α) (p : Nat × α → Bool) : ∀ (t : Tab α) (lo : Nat),
    canon d lo t = true → canon d lo (t.filter p) = true := by
  intro t
  induction t with
  | nil => intros; rfl
  | cons e t ih =>
    intro lo h
    simp only [canon, Bool.and_eq_true, decide_eq_true_eq] at h
    simp only [List.filter]
    split
    · simp only [canon, Bool.and_eq_true, decide_eq_true_eq]
      exact ⟨h.1, ih _ h.2⟩
    · exact canon_le (by omega) (ih _ h.2)

theorem wf_clear [DecidableEq α] (d : α) (t : Tab α) (lo hi : Nat) (h : wf d t = true) : wf d (clear t lo hi) = true :=
  canon_filter d _ t 0 h

end Sys2Proof.Machine.Tab
end

