-- ==== Sys2Proof/Laws/Memory.lean ====
section
/-! SUPPORT. The laws of memories: a read after a write, and that every operation on a memory keeps its canonical form. -/

namespace Sys2Proof.Machine

/-! ## Reads after writes -/

@[simp] theorem Mem.byte_setByte (m : Mem) (a : Nat) (b : Byte) (k : Nat) :
    Mem.byte (Mem.setByte m a b) k = if k = a then b else Mem.byte m k := Tab.get_set 0 m a b k

/-- What a run of bytes leaves at each address: byte `k - a` of the run inside it, the byte before outside. -/
theorem Mem.byte_setBytes : ∀ (bs : List Byte) (m : Mem) (a k : Nat),
    Mem.byte (Mem.setBytes m a bs) k = if a ≤ k ∧ k < a + bs.length then nth 0 bs (k - a) else Mem.byte m k
  | [], m, a, k => by
    have h : ¬(a ≤ k ∧ k < a + ([] : List Byte).length) := by simp only [List.length_nil]; omega
    rw [if_neg h]; rfl
  | b :: bs, m, a, k => by
    have e : Mem.setBytes m a (b :: bs) = Mem.setBytes (Mem.setByte m a b) (a + 1) bs := rfl
    rw [e, Mem.byte_setBytes bs, Mem.byte_setByte]
    simp only [List.length_cons]
    by_cases h : a + 1 ≤ k ∧ k < a + 1 + bs.length
    · obtain ⟨j, rfl⟩ : ∃ j, k = a + 1 + j := ⟨k - (a + 1), by omega⟩
      rw [if_pos h, if_pos ⟨by omega, by omega⟩, show a + 1 + j - (a + 1) = j by omega,
        show a + 1 + j - a = j + 1 by omega]; rfl
    · rw [if_neg h]
      by_cases h2 : k = a
      · subst h2; rw [if_pos rfl, if_pos ⟨by omega, by omega⟩, Nat.sub_self]; rfl
      · rw [if_neg h2, if_neg (by omega)]

/-- A byte outside a written run reads as before. -/
theorem Mem.byte_setBytes_outside (m : Mem) (a k : Nat) (bs : List Byte) (h : k < a ∨ a + bs.length ≤ k) :
    Mem.byte (Mem.setBytes m a bs) k = Mem.byte m k := by
  rw [Mem.byte_setBytes, if_neg (by omega)]

/-! ## The canonical form is kept -/

theorem Mem.wf_setByte {m : Mem} (a : Nat) (b : Byte) (h : Mem.wf m = true) : Mem.wf (Mem.setByte m a b) = true :=
  Tab.wf_set 0 m a b h

theorem Mem.wf_setBytes {m : Mem} (a : Nat) (bs : List Byte) (h : Mem.wf m = true) : Mem.wf (Mem.setBytes m a bs) = true :=
  Tab.wf_setRun 0 bs m a h

theorem Mem.wf_setNum {m : Mem} (a n w : Nat) (h : Mem.wf m = true) : Mem.wf (Mem.setNum m a n w) = true :=
  Mem.wf_setBytes a _ h

/-- Two canonical tables, the second beyond the first, are canonical together. -/
theorem Tab.canon_append {α : Type} [DecidableEq α] {d : α} {k : Nat} {u : Tab α} (hu : Tab.canon d k u = true) :
    ∀ (t : Tab α) (lo : Nat), Tab.canon d lo t = true → (∀ e, e ∈ t → e.1 < k) → lo ≤ k → Tab.canon d lo (t ++ u) = true
  | [], lo, _, _, hk => Tab.canon_le hk hu
  | (i, x) :: t, lo, h, hb, _ => by
    simp only [List.cons_append, Tab.canon, Bool.and_eq_true, decide_eq_true_eq] at h ⊢
    exact ⟨h.1, Tab.canon_append hu t (i + 1) h.2 (fun e he => hb e (by simp [he])) (hb (i, x) (by simp))⟩

/-- A canonical table whose keys are all at least `k` is canonical from `k` on. -/
theorem Tab.canon_from {α : Type} [DecidableEq α] {d : α} {k : Nat} : ∀ (t : Tab α) (lo : Nat), Tab.canon d lo t = true →
    (∀ e, e ∈ t → k ≤ e.1) → Tab.canon d k t = true
  | [], _, _, _ => rfl
  | (i, x) :: t, lo, h, hb => by
    simp only [Tab.canon, Bool.and_eq_true, decide_eq_true_eq] at h ⊢
    exact ⟨⟨hb (i, x) (by simp), h.1.2⟩, h.2⟩

/-- Keys moved by a function that keeps their order. -/
theorem Tab.canon_map {α : Type} [DecidableEq α] {d : α} (f : Nat → Nat) : ∀ (t : Tab α) (lo k : Nat),
    Tab.canon d lo t = true → (∀ e, e ∈ t → k ≤ f e.1) → (∀ i j, i ∈ t.map Prod.fst → i < j → j ∈ t.map Prod.fst → f i < f j) →
    Tab.canon d k (t.map fun e => (f e.1, e.2)) = true
  | [], _, _, _, _, _ => rfl
  | (i, x) :: t, lo, k, h, hb, hm => by
    simp only [List.map_cons, Tab.canon, Bool.and_eq_true, decide_eq_true_eq] at h ⊢
    refine ⟨⟨hb (i, x) (by simp), h.1.2⟩, Tab.canon_map f t (i + 1) (f i + 1) h.2 (fun e he => ?_) (fun a b ha hab hb' => ?_)⟩
    · have hlt : ∀ (u : Tab α) (l : Nat), Tab.canon d l u = true → ∀ e, e ∈ u → l ≤ e.1 := by
        intro u
        induction u with
        | nil => intro l _ e he; simp at he
        | cons y u ih =>
          intro l hc e he
          simp only [Tab.canon, Bool.and_eq_true, decide_eq_true_eq] at hc
          rcases List.mem_cons.mp he with rfl | he
          · exact hc.1.1
          · exact Nat.le_trans (by omega) (ih _ hc.2 e he)
      exact hm i e.1 (by simp) (hlt t (i + 1) h.2 e he) (by simp only [List.map_cons, List.mem_cons]; exact .inr (List.mem_map_of_mem he))
    · exact hm a b (by simp [ha]) hab (by simp only [List.map_cons, List.mem_cons]; exact .inr hb')

theorem Tab.wf_filter {α : Type} [DecidableEq α] {d : α} {t : Tab α} (p : Nat × α → Bool) (h : Tab.wf d t = true) :
    Tab.wf d (t.filter p) = true := Tab.canon_filter d p t 0 h

theorem Tab.canon_sparse {α : Type} [DecidableEq α] (d : α) : ∀ (xs : List α) (k lo : Nat), lo ≤ k →
    Tab.canon d lo (sparse d k xs) = true
  | [], _, _, _ => rfl
  | x :: xs, k, lo, h => by
    unfold sparse
    split
    · exact Tab.canon_sparse d xs (k + 1) lo (by omega)
    · rename_i hx
      simp only [Tab.canon, Bool.and_eq_true, decide_eq_true_eq]
      exact ⟨⟨h, hx⟩, Tab.canon_sparse d xs (k + 1) (k + 1) (Nat.le_refl _)⟩

theorem Tab.lt_sparse {α : Type} [DecidableEq α] (d : α) : ∀ (xs : List α) (k : Nat) (e : Nat × α), e ∈ sparse d k xs →
    e.1 < k + xs.length
  | [], k, e, h => by simp [sparse] at h
  | x :: xs, k, e, h => by
    unfold sparse at h
    simp only [List.length_cons]
    split at h
    · have := Tab.lt_sparse d xs (k + 1) e h; omega
    · rcases List.mem_cons.mp h with rfl | h
      · show k < _; omega
      · have := Tab.lt_sparse d xs (k + 1) e h; omega

/-- Three canonical pieces, one beyond the other. -/
theorem Tab.wf_three {α : Type} [DecidableEq α] {d : α} {t u : Tab α} {a b : Nat} (ht : Tab.wf d t = true)
    (hu : Tab.canon d a u = true) (hub : ∀ e, e ∈ u → e.1 < b) (hab : a ≤ b) :
    Tab.wf d (t.filter (fun e => decide (e.1 < a)) ++ u ++ t.filter (fun e => decide (b ≤ e.1))) = true := by
  have hlast : Tab.canon d b (t.filter (fun e => decide (b ≤ e.1))) = true :=
    Tab.canon_from _ 0 (Tab.wf_filter _ ht) (fun e he => by simpa using (List.mem_filter.mp he).2)
  rw [List.append_assoc]
  refine Tab.canon_append (k := a) (Tab.canon_append (k := b) hlast u a hu hub hab) _ 0 (Tab.wf_filter _ ht) (fun e he => ?_) (Nat.zero_le _)
  simpa using (List.mem_filter.mp he).2

theorem Tab.wf_putRun {α : Type} [DecidableEq α] {d : α} {t : Tab α} (k : Nat) (xs : List α) (h : Tab.wf d t = true) :
    Tab.wf d (Tab.putRun d t k xs) = true :=
  Tab.wf_three h (Tab.canon_sparse d xs k k (Nat.le_refl k)) (Tab.lt_sparse d xs k) (Nat.le_add_right _ _)

theorem Tab.wf_part {α : Type} [DecidableEq α] {d : α} {t : Tab α} (base len : Nat) (h : Tab.wf d t = true) :
    Tab.wf d (Tab.part t base len) = true := by
  have hin : ∀ e, e ∈ Tab.slice t base (base + len) → base ≤ e.1 := fun e he => by
    have := (List.mem_filter.mp he).2
    simp only [Bool.and_eq_true, decide_eq_true_eq] at this; exact this.1
  refine Tab.canon_map (fun i => i - base) _ 0 0 (Tab.wf_filter _ h) (fun _ _ => Nat.zero_le _) (fun i j hi hij hj => ?_)
  obtain ⟨e, he, rfl⟩ := List.mem_map.mp hi
  have := hin e he
  show e.1 - base < j - base
  omega

/-- Every key moved up by `b`. -/
theorem Tab.canon_shift {α : Type} [DecidableEq α] {d : α} {t : Tab α} (b : Nat) (h : Tab.wf d t = true) :
    Tab.canon d b (t.map fun e => (b + e.1, e.2)) = true :=
  Tab.canon_map (fun i => b + i) t 0 b h (fun _ _ => Nat.le_add_right _ _) (fun i j _ hij _ => by show b + i < b + j; omega)

theorem Tab.wf_shift {α : Type} [DecidableEq α] {d : α} {t : Tab α} (b : Nat) (h : Tab.wf d t = true) :
    Tab.wf d (t.map fun e => (b + e.1, e.2)) = true := Tab.canon_le (Nat.zero_le b) (Tab.canon_shift b h)

theorem Tab.wf_graft {α : Type} [DecidableEq α] {d : α} {t u : Tab α} (base len : Nat) (ht : Tab.wf d t = true)
    (hu : Tab.wf d u = true) : Tab.wf d (Tab.graft t base len u) = true := by
  refine Tab.wf_three ht (Tab.canon_shift base (Tab.wf_filter _ hu)) (fun e he => ?_) (Nat.le_add_right _ _)
  obtain ⟨y, hy, rfl⟩ := List.mem_map.mp he
  have := (List.mem_filter.mp hy).2
  simp only [Bool.and_eq_true, decide_eq_true_eq] at this
  show base + y.1 < base + len
  omega

theorem wf_turnTile {m : Mem} (t : Nat) (set : Bool) (h : Mem.wf m = true) : Mem.wf (turnTile m t set) = true :=
  Tab.wf_setRun 0 _ _ _ h

end Sys2Proof.Machine
end

