-- ==== Sys2Proof/Laws/Canon.lean ====
section
/-! SUPPORT. What keeps every memory of the machine in its canonical form: the laws by which a step is taken apart. -/

namespace Sys2Proof.Machine

/-- `Seat.memWf` as a proposition. -/
structure Seat.Ok (x : Seat) : Prop where
  spad  : Mem.wf x.spad = true
  ispad : Mem.wf x.ispad = true

structure Core.Ok (k : Core) : Prop where
  seat : k.seat.Ok
  svr  : Mem.wf k.svr = true

def SeatsOk (t : Tab Seat) : Prop := ∀ e, e ∈ t → e.2.Ok

def CoresOk (t : Tab Core) : Prop := ∀ e, e ∈ t → e.2.Ok

structure Ctx.Ok (y : Ctx) : Prop where
  saved : SeatsOk y.saved

def CtxsOk (t : Tab Ctx) : Prop := ∀ e, e ∈ t → e.2.Ok

structure State.Ok (s : State) : Prop where
  hbm  : Mem.wf s.hbm = true
  host : Mem.wf s.hostMem = true
  stag : Mem.wf s.staging = true
  cor  : CoresOk s.cores
  con  : CtxsOk s.ctxs

theorem Seat.memWf_iff (x : Seat) : x.memWf = true ↔ x.Ok := by
  simp only [Seat.memWf, Bool.and_eq_true]
  exact ⟨fun h => ⟨h.1, h.2⟩, fun h => ⟨h.spad, h.ispad⟩⟩

theorem State.memWf_iff (s : State) : s.memWf = true ↔ s.Ok := by
  simp only [State.memWf, Bool.and_eq_true, List.all_eq_true, Seat.memWf_iff]
  constructor
  · rintro ⟨⟨⟨⟨a, b⟩, c⟩, d⟩, e⟩
    exact ⟨a, b, c, fun x hx => ⟨(d x hx).1, (d x hx).2⟩, fun x hx => ⟨e x hx⟩⟩
  · rintro ⟨a, b, c, d, e⟩
    exact ⟨⟨⟨⟨a, b⟩, c⟩, fun x hx => ⟨(d x hx).seat, (d x hx).svr⟩⟩, fun x hx => (e x hx).saved⟩

/-- An outcome whose next state, if there is one, is canonical. -/
def OutOk : Host.Outcome State Fault Refusal → Prop
  | .next t => t.Ok
  | _ => True

theorem Seat.ok_congr {x y : Seat} (h1 : y.spad = x.spad) (h2 : y.ispad = x.ispad) (h : x.Ok) : y.Ok :=
  ⟨h1 ▸ h.spad, h2 ▸ h.ispad⟩

theorem Core.ok_congr {x y : Core} (h1 : y.seat = x.seat) (h2 : y.svr = x.svr) (h : x.Ok) : y.Ok :=
  ⟨h1 ▸ h.seat, h2 ▸ h.svr⟩

theorem Ctx.ok_congr {x y : Ctx} (h1 : y.saved = x.saved) (h : x.Ok) : y.Ok := ⟨h1 ▸ h.saved⟩

theorem State.ok_congr {s t : State} (h1 : t.hbm = s.hbm) (h2 : t.hostMem = s.hostMem) (h3 : t.staging = s.staging)
    (h4 : t.cores = s.cores) (h5 : t.ctxs = s.ctxs) (h : s.Ok) : t.Ok :=
  ⟨h1 ▸ h.hbm, h2 ▸ h.host, h3 ▸ h.stag, h4 ▸ h.cor, h5 ▸ h.con⟩

theorem Seat.mk_ok {f_prim : Stream} {f_sec : Stream} {f_spad : Tab Byte} {f_ispad : Tab Byte} {f_tiles : Tab Tile} {f_takes : List Take} {f_armings : List Arming} {f_resv : List Resv} {f_just : List (Nat × Nat × Nat)} {f_mxe : Mxe} {f_gq : Tab GQueue} {f_drops : List (Nat × Nat)} {f_cmds : List Cmd} {f_msgs : List GMsg} {f_image : Option Nat} {f_bad : List Nat} {f_ibad : List Nat} {s : Seat} (h0 : f_spad = s.spad) (h1 : f_ispad = s.ispad) (h : s.Ok) :
    (Seat.mk f_prim f_sec f_spad f_ispad f_tiles f_takes f_armings f_resv f_just f_mxe f_gq f_drops f_cmds f_msgs f_image f_bad f_ibad).Ok := ⟨h0 ▸ h.spad, h1 ▸ h.ispad⟩

theorem Seat.mk_ok2 {f_prim : Stream} {f_sec : Stream} {f_spad : Tab Byte} {f_ispad : Tab Byte} {f_tiles : Tab Tile} {f_takes : List Take} {f_armings : List Arming} {f_resv : List Resv} {f_just : List (Nat × Nat × Nat)} {f_mxe : Mxe} {f_gq : Tab GQueue} {f_drops : List (Nat × Nat)} {f_cmds : List Cmd} {f_msgs : List GMsg} {f_image : Option Nat} {f_bad : List Nat} {f_ibad : List Nat} (h0 : Mem.wf f_spad = true) (h1 : Mem.wf f_ispad = true) :
    (Seat.mk f_prim f_sec f_spad f_ispad f_tiles f_takes f_armings f_resv f_just f_mxe f_gq f_drops f_cmds f_msgs f_image f_bad f_ibad).Ok := ⟨h0, h1⟩

theorem Core.mk_ok {f_seat : Seat} {f_owner : Option Nat} {f_svr : Tab Byte} {f_pwrfz : Word} {f_tok : Nat} {f_charges : List Nat} {f_epoch : Nat} {f_epochFz : Bool} {f_frozen : Option Freeze} {f_bare : Tab Byte} {f_halted : Bool} {f_svrBad : List Nat} {s : Core} (h0 : f_seat = s.seat) (h1 : f_svr = s.svr) (h : s.Ok) :
    (Core.mk f_seat f_owner f_svr f_pwrfz f_tok f_charges f_epoch f_epochFz f_frozen f_bare f_halted f_svrBad).Ok := ⟨h0 ▸ h.seat, h1 ▸ h.svr⟩

theorem Core.mk_ok2 {f_seat : Seat} {f_owner : Option Nat} {f_svr : Tab Byte} {f_pwrfz : Word} {f_tok : Nat} {f_charges : List Nat} {f_epoch : Nat} {f_epochFz : Bool} {f_frozen : Option Freeze} {f_bare : Tab Byte} {f_halted : Bool} {f_svrBad : List Nat} (h0 : f_seat.Ok) (h1 : Mem.wf f_svr = true) :
    (Core.mk f_seat f_owner f_svr f_pwrfz f_tok f_charges f_epoch f_epochFz f_frozen f_bare f_halted f_svrBad).Ok := ⟨h0, h1⟩

theorem Ctx.mk_ok {f_dbga : Bool} {f_cseed : Word} {f_rng : Tab Word} {f_tlb : List TlbEntry} {f_walks : List WalkReq} {f_keylog : List (W32 × W32 × Word)} {f_keyReps : List KeyRep} {f_posts : List FPost} {f_groups : Tab Word} {f_mgroups : Tab Word} {f_rounds : Tab Round} {f_chans : Tab Word} {f_rings : Tab Word} {f_chst : Tab (Nat × Nat)} {f_chNum : Tab Nat} {f_chHeld : List Packet} {f_wins : Tab Win} {f_saved : Tab Seat} {f_taint : List Nat} {f_odd : List (Nat × Nat)} {f_drain : List Nat} {f_tookAt : Nat} {f_qstart : Word} {f_leaving : Bool} {s : Ctx} (h0 : f_saved = s.saved) (h : s.Ok) :
    (Ctx.mk f_dbga f_cseed f_rng f_tlb f_walks f_keylog f_keyReps f_posts f_groups f_mgroups f_rounds f_chans f_rings f_chst f_chNum f_chHeld f_wins f_saved f_taint f_odd f_drain f_tookAt f_qstart f_leaving).Ok := ⟨h0 ▸ h.saved⟩

theorem Ctx.mk_ok2 {f_dbga : Bool} {f_cseed : Word} {f_rng : Tab Word} {f_tlb : List TlbEntry} {f_walks : List WalkReq} {f_keylog : List (W32 × W32 × Word)} {f_keyReps : List KeyRep} {f_posts : List FPost} {f_groups : Tab Word} {f_mgroups : Tab Word} {f_rounds : Tab Round} {f_chans : Tab Word} {f_rings : Tab Word} {f_chst : Tab (Nat × Nat)} {f_chNum : Tab Nat} {f_chHeld : List Packet} {f_wins : Tab Win} {f_saved : Tab Seat} {f_taint : List Nat} {f_odd : List (Nat × Nat)} {f_drain : List Nat} {f_tookAt : Nat} {f_qstart : Word} {f_leaving : Bool} (h0 : SeatsOk f_saved) :
    (Ctx.mk f_dbga f_cseed f_rng f_tlb f_walks f_keylog f_keyReps f_posts f_groups f_mgroups f_rounds f_chans f_rings f_chst f_chNum f_chHeld f_wins f_saved f_taint f_odd f_drain f_tookAt f_qstart f_leaving).Ok := ⟨h0⟩

theorem State.mk_ok {f_cores : Tab Core} {f_ctxs : Tab Ctx} {f_regs : Tab Word} {f_staging : Tab Byte} {f_flash : List Byte} {f_hbm : Tab Byte} {f_poison : List Nat} {f_hostMem : Tab Byte} {f_hostFeed : List (List (Nat × Byte))} {f_upsets : List (List Upset)} {f_upset : List Upset} {f_ports : Tab Port} {f_binds : List Bind} {f_outbox : List Packet} {f_reqs : List Req} {f_recs : List RecJob} {f_nextTag : Nat} {f_mashBad : List (Nat × Nat)} {f_returned : List (Nat × Packet)} {f_timeCyc : Nat} {f_corrCyc : Nat} {f_timeErr : Int} {f_gtbStep : Nat} {f_timeSet : Bool} {f_spawns : List Spawn} {f_launches : List Launch} {f_tails : Tab Word} {f_stopped : List Nat} {f_heads : Tab (List Word)} {f_robin : Nat} {f_gone : List Nat} {f_cert : List Byte} {f_gangs : Tab Gang} {f_colls : List Coll} {f_dies : Tab Die} {f_nextId : Nat} {f_msix : List Nat} {f_hostReply : List Byte × Bool} {f_cycle : Nat} {f_gtb : Word} {f_agenda : List Instr} {f_inputs : List (List Instr)} {f_turn : Turn} {f_cur : Cursor} {f_free : Nat} {s : State} (h0 : f_hbm = s.hbm) (h1 : f_hostMem = s.hostMem) (h2 : f_staging = s.staging) (h3 : f_cores = s.cores) (h4 : f_ctxs = s.ctxs) (h : s.Ok) :
    (State.mk f_cores f_ctxs f_regs f_staging f_flash f_hbm f_poison f_hostMem f_hostFeed f_upsets f_upset f_ports f_binds f_outbox f_reqs f_recs f_nextTag f_mashBad f_returned f_timeCyc f_corrCyc f_timeErr f_gtbStep f_timeSet f_spawns f_launches f_tails f_stopped f_heads f_robin f_gone f_cert f_gangs f_colls f_dies f_nextId f_msix f_hostReply f_cycle f_gtb f_agenda f_inputs f_turn f_cur f_free).Ok := ⟨h0 ▸ h.hbm, h1 ▸ h.host, h2 ▸ h.stag, h3 ▸ h.cor, h4 ▸ h.con⟩

theorem State.mk_hbm_ok {f_cores : Tab Core} {f_ctxs : Tab Ctx} {f_regs : Tab Word} {f_staging : Tab Byte} {f_flash : List Byte} {f_hbm : Tab Byte} {f_poison : List Nat} {f_hostMem : Tab Byte} {f_hostFeed : List (List (Nat × Byte))} {f_upsets : List (List Upset)} {f_upset : List Upset} {f_ports : Tab Port} {f_binds : List Bind} {f_outbox : List Packet} {f_reqs : List Req} {f_recs : List RecJob} {f_nextTag : Nat} {f_mashBad : List (Nat × Nat)} {f_returned : List (Nat × Packet)} {f_timeCyc : Nat} {f_corrCyc : Nat} {f_timeErr : Int} {f_gtbStep : Nat} {f_timeSet : Bool} {f_spawns : List Spawn} {f_launches : List Launch} {f_tails : Tab Word} {f_stopped : List Nat} {f_heads : Tab (List Word)} {f_robin : Nat} {f_gone : List Nat} {f_cert : List Byte} {f_gangs : Tab Gang} {f_colls : List Coll} {f_dies : Tab Die} {f_nextId : Nat} {f_msix : List Nat} {f_hostReply : List Byte × Bool} {f_cycle : Nat} {f_gtb : Word} {f_agenda : List Instr} {f_inputs : List (List Instr)} {f_turn : Turn} {f_cur : Cursor} {f_free : Nat} {s : State} (h0 : f_hostMem = s.hostMem) (h1 : f_staging = s.staging) (h2 : f_cores = s.cores) (h3 : f_ctxs = s.ctxs) (hm : Mem.wf f_hbm = true) (h : s.Ok) :
    (State.mk f_cores f_ctxs f_regs f_staging f_flash f_hbm f_poison f_hostMem f_hostFeed f_upsets f_upset f_ports f_binds f_outbox f_reqs f_recs f_nextTag f_mashBad f_returned f_timeCyc f_corrCyc f_timeErr f_gtbStep f_timeSet f_spawns f_launches f_tails f_stopped f_heads f_robin f_gone f_cert f_gangs f_colls f_dies f_nextId f_msix f_hostReply f_cycle f_gtb f_agenda f_inputs f_turn f_cur f_free).Ok := ⟨hm, h0 ▸ h.host, h1 ▸ h.stag, h2 ▸ h.cor, h3 ▸ h.con⟩

theorem State.mk_host_ok {f_cores : Tab Core} {f_ctxs : Tab Ctx} {f_regs : Tab Word} {f_staging : Tab Byte} {f_flash : List Byte} {f_hbm : Tab Byte} {f_poison : List Nat} {f_hostMem : Tab Byte} {f_hostFeed : List (List (Nat × Byte))} {f_upsets : List (List Upset)} {f_upset : List Upset} {f_ports : Tab Port} {f_binds : List Bind} {f_outbox : List Packet} {f_reqs : List Req} {f_recs : List RecJob} {f_nextTag : Nat} {f_mashBad : List (Nat × Nat)} {f_returned : List (Nat × Packet)} {f_timeCyc : Nat} {f_corrCyc : Nat} {f_timeErr : Int} {f_gtbStep : Nat} {f_timeSet : Bool} {f_spawns : List Spawn} {f_launches : List Launch} {f_tails : Tab Word} {f_stopped : List Nat} {f_heads : Tab (List Word)} {f_robin : Nat} {f_gone : List Nat} {f_cert : List Byte} {f_gangs : Tab Gang} {f_colls : List Coll} {f_dies : Tab Die} {f_nextId : Nat} {f_msix : List Nat} {f_hostReply : List Byte × Bool} {f_cycle : Nat} {f_gtb : Word} {f_agenda : List Instr} {f_inputs : List (List Instr)} {f_turn : Turn} {f_cur : Cursor} {f_free : Nat} {s : State} (h0 : f_hbm = s.hbm) (h1 : f_staging = s.staging) (h2 : f_cores = s.cores) (h3 : f_ctxs = s.ctxs) (hm : Mem.wf f_hostMem = true) (h : s.Ok) :
    (State.mk f_cores f_ctxs f_regs f_staging f_flash f_hbm f_poison f_hostMem f_hostFeed f_upsets f_upset f_ports f_binds f_outbox f_reqs f_recs f_nextTag f_mashBad f_returned f_timeCyc f_corrCyc f_timeErr f_gtbStep f_timeSet f_spawns f_launches f_tails f_stopped f_heads f_robin f_gone f_cert f_gangs f_colls f_dies f_nextId f_msix f_hostReply f_cycle f_gtb f_agenda f_inputs f_turn f_cur f_free).Ok := ⟨h0 ▸ h.hbm, hm, h1 ▸ h.stag, h2 ▸ h.cor, h3 ▸ h.con⟩

theorem State.mk_stag_ok {f_cores : Tab Core} {f_ctxs : Tab Ctx} {f_regs : Tab Word} {f_staging : Tab Byte} {f_flash : List Byte} {f_hbm : Tab Byte} {f_poison : List Nat} {f_hostMem : Tab Byte} {f_hostFeed : List (List (Nat × Byte))} {f_upsets : List (List Upset)} {f_upset : List Upset} {f_ports : Tab Port} {f_binds : List Bind} {f_outbox : List Packet} {f_reqs : List Req} {f_recs : List RecJob} {f_nextTag : Nat} {f_mashBad : List (Nat × Nat)} {f_returned : List (Nat × Packet)} {f_timeCyc : Nat} {f_corrCyc : Nat} {f_timeErr : Int} {f_gtbStep : Nat} {f_timeSet : Bool} {f_spawns : List Spawn} {f_launches : List Launch} {f_tails : Tab Word} {f_stopped : List Nat} {f_heads : Tab (List Word)} {f_robin : Nat} {f_gone : List Nat} {f_cert : List Byte} {f_gangs : Tab Gang} {f_colls : List Coll} {f_dies : Tab Die} {f_nextId : Nat} {f_msix : List Nat} {f_hostReply : List Byte × Bool} {f_cycle : Nat} {f_gtb : Word} {f_agenda : List Instr} {f_inputs : List (List Instr)} {f_turn : Turn} {f_cur : Cursor} {f_free : Nat} {s : State} (h0 : f_hbm = s.hbm) (h1 : f_hostMem = s.hostMem) (h2 : f_cores = s.cores) (h3 : f_ctxs = s.ctxs) (hm : Mem.wf f_staging = true) (h : s.Ok) :
    (State.mk f_cores f_ctxs f_regs f_staging f_flash f_hbm f_poison f_hostMem f_hostFeed f_upsets f_upset f_ports f_binds f_outbox f_reqs f_recs f_nextTag f_mashBad f_returned f_timeCyc f_corrCyc f_timeErr f_gtbStep f_timeSet f_spawns f_launches f_tails f_stopped f_heads f_robin f_gone f_cert f_gangs f_colls f_dies f_nextId f_msix f_hostReply f_cycle f_gtb f_agenda f_inputs f_turn f_cur f_free).Ok := ⟨h0 ▸ h.hbm, h1 ▸ h.host, hm, h2 ▸ h.cor, h3 ▸ h.con⟩

theorem State.mk_core_ok {f_cores : Tab Core} {f_ctxs : Tab Ctx} {f_regs : Tab Word} {f_staging : Tab Byte} {f_flash : List Byte} {f_hbm : Tab Byte} {f_poison : List Nat} {f_hostMem : Tab Byte} {f_hostFeed : List (List (Nat × Byte))} {f_upsets : List (List Upset)} {f_upset : List Upset} {f_ports : Tab Port} {f_binds : List Bind} {f_outbox : List Packet} {f_reqs : List Req} {f_recs : List RecJob} {f_nextTag : Nat} {f_mashBad : List (Nat × Nat)} {f_returned : List (Nat × Packet)} {f_timeCyc : Nat} {f_corrCyc : Nat} {f_timeErr : Int} {f_gtbStep : Nat} {f_timeSet : Bool} {f_spawns : List Spawn} {f_launches : List Launch} {f_tails : Tab Word} {f_stopped : List Nat} {f_heads : Tab (List Word)} {f_robin : Nat} {f_gone : List Nat} {f_cert : List Byte} {f_gangs : Tab Gang} {f_colls : List Coll} {f_dies : Tab Die} {f_nextId : Nat} {f_msix : List Nat} {f_hostReply : List Byte × Bool} {f_cycle : Nat} {f_gtb : Word} {f_agenda : List Instr} {f_inputs : List (List Instr)} {f_turn : Turn} {f_cur : Cursor} {f_free : Nat} {s : State} (h0 : f_hbm = s.hbm) (h1 : f_hostMem = s.hostMem) (h2 : f_staging = s.staging) (hc : CoresOk f_cores) (hx : CtxsOk f_ctxs) (h : s.Ok) :
    (State.mk f_cores f_ctxs f_regs f_staging f_flash f_hbm f_poison f_hostMem f_hostFeed f_upsets f_upset f_ports f_binds f_outbox f_reqs f_recs f_nextTag f_mashBad f_returned f_timeCyc f_corrCyc f_timeErr f_gtbStep f_timeSet f_spawns f_launches f_tails f_stopped f_heads f_robin f_gone f_cert f_gangs f_colls f_dies f_nextId f_msix f_hostReply f_cycle f_gtb f_agenda f_inputs f_turn f_cur f_free).Ok := ⟨h0 ▸ h.hbm, h1 ▸ h.host, h2 ▸ h.stag, hc, hx⟩
theorem Tab.mem_put {α : Type} : ∀ (t : Tab α) (k : Nat) (x : α) (e : Nat × α), e ∈ Tab.put t k x → e = (k, x) ∨ e ∈ t
  | [], _, _, e, h => by simpa [Tab.put] using h
  | (i, y) :: t, k, x, e, h => by
    unfold Tab.put at h
    split at h
    · simpa using h
    · split at h
      · rcases List.mem_cons.mp h with h | h
        · exact .inl h
        · exact .inr (by simp [h])
      · rcases List.mem_cons.mp h with h | h
        · exact .inr (by simp [h])
        · rcases Tab.mem_put t k x e h with h | h
          · exact .inl h
          · exact .inr (by simp [h])

theorem Tab.get_of_all {α : Type} {P : α → Prop} {d : α} (hd : P d) : ∀ (t : Tab α) (k : Nat), (∀ e, e ∈ t → P e.2) → P (Tab.get d t k)
  | [], _, _ => hd
  | (i, x) :: t, k, h => by
    unfold Tab.get
    split
    · exact h (i, x) (by simp)
    · exact Tab.get_of_all hd t k (fun e he => h e (by simp [he]))

theorem Tab.find_of_all {α : Type} {P : α → Prop} {x : α} : ∀ (t : Tab α) (k : Nat), (∀ e, e ∈ t → P e.2) → Tab.find t k = some x → P x
  | [], _, _, h => by cases h
  | (i, y) :: t, k, h, hf => by
    unfold Tab.find at hf
    split at hf
    · injection hf with hf
      exact hf ▸ h (i, y) (by simp)
    · exact Tab.find_of_all t k (fun e he => h e (by simp [he])) hf

theorem Seat.reset_ok : Seat.reset.Ok := ⟨rfl, rfl⟩
theorem Core.reset_ok : Core.reset.Ok := ⟨Seat.reset_ok, rfl⟩
theorem Ctx.reset_ok : Ctx.reset.Ok := ⟨fun _ h => by simp [Ctx.reset] at h⟩

theorem State.core_ok {s : State} (h : s.Ok) (c : Nat) : (s.core c).Ok := Tab.get_of_all Core.reset_ok _ _ h.cor
theorem State.seat_ok {s : State} (h : s.Ok) (c : Nat) : (s.seat c).Ok := (State.core_ok h c).seat
theorem State.ctx_ok {s : State} (h : s.Ok) (x : Nat) : (s.ctx x).Ok := Tab.get_of_all Ctx.reset_ok _ _ h.con
theorem Ctx.seat_ok {y : Ctx} (h : y.Ok) (c : Nat) : (Tab.get Seat.reset y.saved c).Ok := Tab.get_of_all Seat.reset_ok _ _ h.saved

theorem State.putCore_ok {s : State} {c : Nat} {k : Core} (h : s.Ok) (hk : k.Ok) : (s.putCore c k).Ok :=
  ⟨h.hbm, h.host, h.stag, fun e he => by
    rcases Tab.mem_put _ _ _ _ he with rfl | he
    · exact hk
    · exact h.cor e he, h.con⟩

theorem State.putSeat_ok {s : State} {c : Nat} {x : Seat} (h : s.Ok) (hx : x.Ok) : (s.putSeat c x).Ok :=
  State.putCore_ok h ⟨hx, (State.core_ok h c).svr⟩

theorem Seat.putSt_ok {x : Seat} {t : Bool} {y : Stream} (h : x.Ok) : (x.putSt t y).Ok := by
  cases t <;> exact ⟨h.spad, h.ispad⟩

theorem State.putSt_ok {s : State} {c : Nat} {t : Bool} {y : Stream} (h : s.Ok) : (s.putSt c t y).Ok :=
  State.putSeat_ok h (Seat.putSt_ok (State.seat_ok h c))

theorem State.putCst_ok {s : State} {y : Stream} (h : s.Ok) : (s.putCst y).Ok := State.putSt_ok h

theorem State.putCtx_ok {s : State} {x : Nat} {y : Ctx} (h : s.Ok) (hy : y.Ok) : (s.putCtx x y).Ok :=
  ⟨h.hbm, h.host, h.stag, h.cor, fun e he => by
    rcases Tab.mem_put _ _ _ _ he with rfl | he
    · exact hy
    · exact h.con e he⟩

theorem foldl_ok {α : Type} {f : State → α → State} (l : List α) (hf : ∀ s a, s.Ok → (f s a).Ok) :
    ∀ {s : State}, s.Ok → (l.foldl f s).Ok := by
  induction l with
  | nil => intro s h; exact h
  | cons a l ih => intro s h; exact ih (hf s a h)

theorem foldl_seat_ok {α : Type} {f : Seat → α → Seat} (l : List α) (hf : ∀ s a, s.Ok → (f s a).Ok) :
    ∀ {s : Seat}, s.Ok → (l.foldl f s).Ok := by
  induction l with
  | nil => intro s h; exact h
  | cons a l ih => intro s h; exact ih (hf s a h)

theorem nextOf_ok {o : Host.Outcome State Fault Refusal} {s : State} (ho : OutOk o) (h : s.Ok) : (nextOf o s).Ok := by
  cases o <;> first | exact ho | exact h

def PerfOk : Perf → Prop
  | .done t _ => t.Ok
  | .hold _ _ => True
  | .later _ => True

theorem outok_next {o : Host.Outcome State Fault Refusal} {t : State} (h : o = .next t) (ho : OutOk o) : t.Ok := by
  subst h; exact ho
theorem perf_done {o : Perf} {t : State} {r : Resp} (h : o = .done t r) (ho : PerfOk o) : t.Ok := by
  subst h; exact ho
theorem fst_ok {α : Type} {p : State × α} {a : State} {b : α} (h : p = (a, b)) (hp : p.1.Ok) : a.Ok := by
  subst h; exact hp
theorem snd_ok {α : Type} {p : α × State} {a : α} {b : State} (h : p = (a, b)) (hp : p.2.Ok) : b.Ok := by
  subst h; exact hp

theorem OutOk_fault {r : Fault} : OutOk (.fault r) := trivial
theorem OutOk_next {t : State} (h : t.Ok) : OutOk (.next t) := h
theorem PerfOk_done {t : State} {r : Resp} (h : t.Ok) : PerfOk (.done t r) := h
theorem PerfOk_hold {x c : Nat} : PerfOk (.hold x c) := trivial
theorem PerfOk_later {c : Nat} : PerfOk (.later c) := trivial
theorem OutOk_of {o : Host.Outcome State Fault Refusal} (h : ∀ t, o = .next t → t.Ok) : OutOk o := by
  cases o with
  | next t => exact h t rfl
  | fault _ => trivial
  | refused _ => trivial

theorem foldl_fst_ok {α β : Type} {f : State × β → α → State × β} (l : List α) (hf : ∀ z a, z.1.Ok → (f z a).1.Ok) :
    ∀ {z : State × β}, z.1.Ok → (l.foldl f z).1.Ok := by
  induction l with
  | nil => intro z h; exact h
  | cons a l ih => intro z h; exact ih (hf z a h)

theorem foldl_snd_ok {α β : Type} {f : β × State → α → β × State} (l : List α) (hf : ∀ z a, z.2.Ok → (f z a).2.Ok) :
    ∀ {z : β × State}, z.2.Ok → (l.foldl f z).2.Ok := by
  induction l with
  | nil => intro z h; exact h
  | cons a l ih => intro z h; exact ih (hf z a h)

theorem foldl_mem_ok {α : Type} {f : Mem → α → Mem} (l : List α) (hf : ∀ m a, Mem.wf m = true → Mem.wf (f m a) = true) :
    ∀ {m : Mem}, Mem.wf m = true → Mem.wf (l.foldl f m) = true := by
  induction l with
  | nil => intro m h; exact h
  | cons a l ih => intro m h; exact ih (hf m a h)

theorem Tab.all_map {α : Type} {P : α → Prop} {t : Tab α} {f : Nat × α → Nat × α} (hf : ∀ e, P e.2 → P (f e).2)
    (h : ∀ e, e ∈ t → P e.2) : ∀ e, e ∈ t.map f → P e.2 := by
  intro e he
  obtain ⟨x, hx, rfl⟩ := List.mem_map.mp he
  exact hf x (h x hx)

theorem Tab.all_put {α : Type} {P : α → Prop} {t : Tab α} {k : Nat} {x : α} (hx : P x) (h : ∀ e, e ∈ t → P e.2) :
    ∀ e, e ∈ Tab.put t k x → P e.2 := by
  intro e he
  rcases Tab.mem_put _ _ _ _ he with rfl | he
  · exact hx
  · exact h e he

theorem CoresOk.nil : CoresOk [] := fun _ h => by cases h
theorem CtxsOk.nil : CtxsOk [] := fun _ h => by cases h
theorem SeatsOk.nil : SeatsOk [] := fun _ h => by cases h
theorem CoresOk.map {t : Tab Core} {f : Nat × Core → Nat × Core} (hf : ∀ e : Nat × Core, e.2.Ok → (f e).2.Ok) (h : CoresOk t) :
    CoresOk (t.map f) := Tab.all_map hf h
theorem CtxsOk.map {t : Tab Ctx} {f : Nat × Ctx → Nat × Ctx} (hf : ∀ e : Nat × Ctx, e.2.Ok → (f e).2.Ok) (h : CtxsOk t) :
    CtxsOk (t.map f) := Tab.all_map hf h
theorem SeatsOk.put {t : Tab Seat} {k : Nat} {x : Seat} (hx : x.Ok) (h : SeatsOk t) : SeatsOk (Tab.put t k x) := Tab.all_put hx h
theorem SeatsOk.upd {t : Tab Seat} {k : Nat} {f : Seat → Seat} (hf : ∀ x, x.Ok → (f x).Ok) (h : SeatsOk t) :
    SeatsOk (Tab.upd Seat.reset t k f) := Tab.all_put (hf _ (Tab.get_of_all Seat.reset_ok t k h)) h
theorem SeatsOk.zip {β : Type} {x : Seat} (h : x.Ok) (f : β → Nat) (l : List β) : SeatsOk (l.map fun c => (f c, x)) := by
  intro e he
  obtain ⟨c, _, rfl⟩ := List.mem_map.mp he
  exact h

theorem Tab.mem_del {α : Type} : ∀ (t : Tab α) (k : Nat) (e : Nat × α), e ∈ Tab.del t k → e ∈ t
  | [], _, _, h => h
  | (i, y) :: t, k, e, h => by
    unfold Tab.del at h
    split at h
    · exact List.mem_cons_of_mem _ (Tab.mem_del t k e h)
    · rcases List.mem_cons.mp h with h | h
      · exact h ▸ List.mem_cons_self
      · exact List.mem_cons_of_mem _ (Tab.mem_del t k e h)

theorem SeatsOk.del {t : Tab Seat} {k : Nat} (h : SeatsOk t) : SeatsOk (Tab.del t k) := fun e he => h e (Tab.mem_del t k e he)

def SomeOk : Option State → Prop
  | some t => t.Ok
  | none => True
theorem SomeOk_some {t : State} (h : t.Ok) : SomeOk (some t) := h
theorem SomeOk_none : SomeOk none := trivial
theorem some_ok {o : Option State} {t : State} (h : o = some t) (ho : SomeOk o) : t.Ok := by subst h; exact ho

def ExcOk : SlotRes → Prop
  | .ok t => t.Ok
  | .error _ => True
theorem ExcOk_ok {t : State} (h : t.Ok) : ExcOk (.ok t) := h
theorem ExcOk_error {e : Nat × Nat} : ExcOk (.error e) := trivial
theorem exc_ok {o : SlotRes} {t : State} (h : o = .ok t) (ho : ExcOk o) : t.Ok := by subst h; exact ho
theorem excCase_ok {t : State} (h : ExcOk (.ok t)) : t.Ok := h

theorem OutOk_refused {r : Refusal} : OutOk (.refused r) := trivial

def MicOk : Except Nat MicroOut → Prop
  | .ok o => o.seat.Ok
  | .error _ => True
theorem MicOk_ok {y : Seat} {r : Routine} {n : Nat} {k : Option Word} (h : y.Ok) : MicOk (.ok ⟨y, r, n, k⟩) := h
theorem MicOk_error {e : Nat} : MicOk (.error e) := trivial
theorem mic_ok {o : Except Nat MicroOut} {t : MicroOut} (h : o = .ok t) (ho : MicOk o) : t.seat.Ok := by subst h; exact ho

theorem Mem.wf_putRun {m : Mem} (a : Nat) (bs : List Byte) (h : Mem.wf m = true) : Mem.wf (Tab.putRun 0 m a bs) = true :=
  Tab.wf_putRun a bs h
theorem Mem.wf_part {m : Mem} (a n : Nat) (h : Mem.wf m = true) : Mem.wf (Tab.part m a n) = true := Tab.wf_part a n h
theorem Mem.wf_shift {m : Mem} (b : Nat) (h : Mem.wf m = true) : Mem.wf (m.map fun e => (b + e.1, e.2)) = true := Tab.wf_shift b h
theorem Mem.wf_graft {m u : Mem} (a n : Nat) (h : Mem.wf m = true) (hu : Mem.wf u = true) : Mem.wf (Tab.graft m a n u) = true :=
  Tab.wf_graft a n h hu
theorem Mem.wf_clear {m : Mem} (a n : Nat) (h : Mem.wf m = true) : Mem.wf (Tab.clear m a n) = true := Tab.wf_clear 0 m a n h
theorem Core.seat_ok {k : Core} (h : k.Ok) : k.seat.Ok := h.seat
theorem id_ok {x : Seat} (h : x.Ok) : (id x).Ok := h
theorem State.reset_ok : State.reset.Ok := ⟨rfl, rfl, rfl, CoresOk.nil, CtxsOk.nil⟩

end Sys2Proof.Machine
end

