-- ==== Sys2Proof/Laws/CanonUnits.lean ====
section
/-! SUPPORT. Every memory keeps its canonical form: registers, memories, requests, tiles, packets, the copy and gather engines. One law per function. -/

namespace Sys2Proof.Machine

/-! ## Regs.lean -/

theorem State.setReg_ok (s : State) (o : Nat) (v : Word) (hs : s.Ok) : (State.setReg s o v).Ok := by
  unfold State.setReg
  repeat' first | with_reducible assumption | with_reducible refine State.mk_ok rfl rfl rfl rfl rfl ?_

theorem State.setFld_ok (s : State) (o : Nat) (lo : Nat) (n : Nat) (v : Nat) (hs : s.Ok) :
    (State.setFld s o lo n v).Ok := by
  unfold State.setFld
  repeat' first | with_reducible assumption | with_reducible apply State.setReg_ok

theorem State.bump_ok (s : State) (o : Nat) (lo : Nat) (n : Nat) (by_ : Nat) (hs : s.Ok) :
    (State.bump s o lo n by_).Ok := by
  unfold State.bump
  repeat' first | with_reducible assumption | with_reducible apply State.setFld_ok

theorem State.msi_ok (s : State) (v : Nat) (hs : s.Ok) : (State.msi s v).Ok := by
  unfold State.msi
  repeat' first | with_reducible assumption | with_reducible refine State.mk_ok rfl rfl rfl rfl rfl ?_

theorem State.setStage_ok (s : State) (v : Nat) (hs : s.Ok) : (State.setStage s v).Ok := by
  unfold State.setStage
  dsimp only
  repeat' first
    | with_reducible assumption
    | with_reducible apply State.setFld_ok
    | with_reducible apply State.msi_ok
    | split

theorem State.setLastErr_ok (s : State) (v : Nat) (hs : s.Ok) : (State.setLastErr s v).Ok := by
  unfold State.setLastErr
  repeat' first | with_reducible assumption | with_reducible apply State.setFld_ok

theorem State.setCtxState_ok (s : State) (x : Nat) (v : Nat) (hs : s.Ok) : (State.setCtxState s x v).Ok := by
  unfold State.setCtxState
  dsimp only
  repeat' first
    | with_reducible assumption
    | with_reducible apply State.setFld_ok
    | with_reducible apply State.msi_ok
    | split

theorem State.setCtxBusy_ok (s : State) (x : Nat) (b : Bool) (hs : s.Ok) : (State.setCtxBusy s x b).Ok := by
  unfold State.setCtxBusy
  repeat' first | with_reducible assumption | with_reducible apply State.setFld_ok

theorem State.setCtxErr_ok (s : State) (x : Nat) (hs : s.Ok) : (State.setCtxErr s x).Ok := by
  unfold State.setCtxErr
  repeat' first | with_reducible assumption | with_reducible apply State.setFld_ok

theorem State.setUE_ok (s : State) (hs : s.Ok) : (State.setUE s).Ok := by
  unfold State.setUE
  repeat' first
    | with_reducible assumption
    | with_reducible apply State.setFld_ok
    | with_reducible apply State.msi_ok
    | split

/-! ## Ops.lean -/

theorem State.used_ok (s : State) (hs : s.Ok) : (State.used s).Ok := by
  unfold State.used
  repeat' first | with_reducible assumption | with_reducible refine State.mk_ok rfl rfl rfl rfl rfl ?_

theorem eccAt_ok (c : Nat) (t : Bool) (op : Nat × Nat) (s : State) (hs : s.Ok) : (eccAt c t op s).Ok := by
  unfold eccAt
  dsimp only
  repeat' first | with_reducible assumption | with_reducible apply State.setUE_ok | with_reducible apply State.putSt_ok

theorem land_ok (d : Dest) (flags : Nat) (L : Nat) (s : State) (hs : s.Ok) : (land d flags L s).Ok := by
  unfold land
  dsimp only
  repeat' first | with_reducible assumption | with_reducible apply State.putCst_ok

theorem pend_ok (op : AccOp) (rem : Nat) (lat : Nat) (al : Bool) (s : State) (hs : s.Ok) : (pend op rem lat al s).Ok := by
  unfold pend
  dsimp only
  repeat' first | with_reducible assumption | with_reducible apply State.putCst_ok

theorem Seat.putTile_ok (x : Seat) (t : Nat) (y : Tile) (hx : x.Ok) : (Seat.putTile x t y).Ok := by
  unfold Seat.putTile
  repeat' first | with_reducible assumption | with_reducible refine Seat.mk_ok rfl rfl ?_

theorem Seat.write_ok (x : Seat) (who : Option Bool) (cyc : Nat) (a : Nat) (bs : List Byte) (hx : x.Ok) :
    (Seat.write x who cyc a bs).Ok := by
  unfold Seat.write
  repeat' first
    | with_reducible assumption
    | with_reducible apply Mem.wf_setBytes
    | with_reducible apply Seat.Ok.spad
    | with_reducible apply Seat.Ok.ispad
    | split
    | with_reducible refine Seat.mk_ok rfl rfl ?_
    | with_reducible refine Seat.mk_ok2 ?_ ?_

theorem Seat.putDword_ok (x : Seat) (a : Nat) (v : Word) (hx : x.Ok) : (Seat.putDword x a v).Ok := by
  unfold Seat.putDword
  repeat' first
    | with_reducible assumption
    | with_reducible apply Mem.wf_setNum
    | with_reducible apply Seat.Ok.spad
    | with_reducible apply Seat.Ok.ispad
    | with_reducible refine Seat.mk_ok2 ?_ ?_

theorem Seat.amoPut_ok (x : Seat) (a : Nat) (op : AmoOp) (w : Word) (v : Word) (e : Word) (hx : x.Ok) :
    (Seat.amoPut x a op w v e).Ok := by
  unfold Seat.amoPut
  repeat' first | with_reducible assumption | with_reducible apply Seat.putDword_ok | split

theorem Seat.defer_ok (x : Seat) (a : Nat) (d : Deferred) (hx : x.Ok) : (Seat.defer x a d).Ok := by
  unfold Seat.defer
  repeat' first | with_reducible assumption | with_reducible refine Seat.mk_ok rfl rfl ?_

theorem Seat.amoWhole_ok (x : Seat) (t : Bool) (acc : Access) (d : Nat) (a : Nat) (op : AmoOp) (v : Word) (e : Word) (hx : x.Ok) :
    (Seat.amoWhole x t acc d a op v e).Ok := by
  unfold Seat.amoWhole
  repeat' first | with_reducible assumption | with_reducible apply Seat.amoPut_ok | with_reducible apply Seat.putSt_ok

theorem Seat.releaseOne_ok (x : Seat) (a1 : Deferred) (hx : x.Ok) : (Seat.releaseOne x a1).Ok := by
  unfold Seat.releaseOne
  dsimp only
  repeat' first
    | with_reducible assumption
    | with_reducible apply Seat.write_ok
    | with_reducible apply Seat.defer_ok
    | with_reducible apply Seat.amoWhole_ok
    | with_reducible apply Seat.putSt_ok
    | split
    | with_reducible refine Seat.mk_ok rfl rfl ?_

theorem Seat.haltBoth_ok (x : Seat) (hx : x.Ok) : (Seat.haltBoth x).Ok := by
  unfold Seat.haltBoth
  repeat' first | with_reducible assumption | with_reducible refine Seat.mk_ok rfl rfl ?_

theorem haltCtx_ok (x : Nat) (s : State) (hs : s.Ok) : (haltCtx x s).Ok := by
  unfold haltCtx
  dsimp only
  repeat' first
    | with_reducible assumption
    | with_reducible apply Seat.haltBoth_ok
    | with_reducible apply CoresOk.map
    | with_reducible apply State.Ok.cor
    | with_reducible apply State.Ok.con
    | intro _
    | with_reducible apply Core.seat_ok
    | split
    | dsimp only
    | with_reducible refine Core.mk_ok2 ?_ ?_
    | with_reducible apply Core.Ok.svr
    | with_reducible refine State.mk_core_ok rfl rfl rfl ?_ ?_ ?_

theorem contextFault_ok (c : Nat) (t : Bool) (code : Nat) (s : State) (hs : s.Ok) : (contextFault c t code s).Ok := by
  unfold contextFault
  dsimp only
  repeat' first
    | with_reducible assumption
    | with_reducible apply State.setFld_ok
    | with_reducible apply State.setCtxState_ok
    | with_reducible apply haltCtx_ok

theorem takeTrap_ok (c : Nat) (t : Bool) (i : TrapInfo) (same : Bool) (s : State) (hs : s.Ok) :
    (takeTrap c t i same s).Ok := by
  unfold takeTrap
  dsimp only
  repeat' first
    | with_reducible assumption
    | with_reducible apply contextFault_ok
    | with_reducible apply State.putSt_ok
    | split

theorem slotTrap_ok (code : Nat) (arg : Nat) (s : State) (hs : s.Ok) : (slotTrap code arg s).Ok := by
  unfold slotTrap
  dsimp only
  repeat' first
    | with_reducible assumption
    | with_reducible apply takeTrap_ok
    | with_reducible apply State.putCst_ok
    | with_reducible refine State.mk_ok rfl rfl rfl rfl rfl ?_

theorem Seat.putQ_ok (x : Seat) (n : Nat) (q : GQueue) (hx : x.Ok) : (Seat.putQ x n q).Ok := by
  unfold Seat.putQ
  repeat' first | with_reducible assumption | with_reducible refine Seat.mk_ok rfl rfl ?_

theorem popQ_ok (n : Nat) (s : State) (hs : s.Ok) : (popQ n s).Ok := by
  unfold popQ
  dsimp only
  repeat' first
    | with_reducible assumption
    | with_reducible apply Seat.putQ_ok
    | with_reducible apply State.putSeat_ok
    | with_reducible apply State.seat_ok

theorem popFields_ok (fs : List RegF) (s : State) (hs : s.Ok) : (popFields fs s).Ok := by
  unfold popFields
  repeat' first
    | with_reducible assumption
    | with_reducible apply popQ_ok
    | intro _
    | with_reducible apply foldl_ok
    | split

theorem runSlot_ok (fs : List RegF) (body : SlotRes) (s : State) (hbody : ExcOk body) (hs : s.Ok) :
    OutOk (runSlot fs body s) := by
  unfold runSlot
  split
  · exact slotTrap_ok _ _ _ hs
  · cases body with
    | ok t => exact State.used_ok _ (popFields_ok _ _ hbody)
    | error e => exact slotTrap_ok _ _ _ hs

/-! ## Translate.lean -/

theorem rngSeen_ok (s : State) (x : Nat) (hs : s.Ok) : (rngSeen s x).Ok := by
  unfold rngSeen
  dsimp only
  repeat' first
    | with_reducible assumption
    | with_reducible apply State.ctx_ok
    | split
    | with_reducible refine Ctx.mk_ok rfl ?_

theorem askWalk_ok (x : Nat) (va : Nat) (s : State) (hs : s.Ok) : (askWalk x va s).Ok := by
  unfold askWalk
  dsimp only
  repeat' first
    | with_reducible assumption
    | with_reducible apply State.putCtx_ok
    | with_reducible apply State.ctx_ok
    | split
    | with_reducible refine Ctx.mk_ok rfl ?_

/-! ## Access.lean -/

theorem Perf.status_ok (s : State) (st : Nat) (hs : s.Ok) : PerfOk (Perf.status s st) := by
  unfold Perf.status
  repeat' first | with_reducible assumption | with_reducible apply PerfOk_done

theorem hbmPut_ok (a : Nat) (bs : List Byte) (s : State) (hs : s.Ok) : (hbmPut a bs s).Ok := by
  unfold hbmPut
  repeat' first
    | with_reducible assumption
    | with_reducible apply Mem.wf_setBytes
    | with_reducible apply State.Ok.hbm
    | with_reducible refine State.mk_hbm_ok rfl rfl rfl rfl ?_ ?_

theorem Seat.mend_ok (y : Seat) (lo : Nat) (n : Nat) (hy : y.Ok) : (Seat.mend y lo n).Ok := by
  unfold Seat.mend
  repeat' first | with_reducible assumption | split | with_reducible refine Seat.mk_ok rfl rfl ?_

theorem mendImage_ok (x : Nat) (c : Nat) (lo : Nat) (n : Nat) (s : State) (hs : s.Ok) : (mendImage x c lo n s).Ok := by
  unfold mendImage
  dsimp only
  split
  · split
    · exact hs
    · rename_i z hz _
      exact State.putCtx_ok hs ⟨SeatsOk.put (Seat.mend_ok _ _ _ (Tab.find_of_all _ _ (State.ctx_ok hs x).saved hz)) (State.ctx_ok hs x).saved⟩
  · exact hs

theorem markImage_ok (x : Nat) (c : Nat) (lo : Nat) (hi : Nat) (s : State) (hs : s.Ok) : (markImage x c lo hi s).Ok := by
  unfold markImage
  dsimp only
  repeat' first
    | with_reducible assumption
    | with_reducible apply mendImage_ok
    | with_reducible apply State.putCtx_ok
    | with_reducible apply State.ctx_ok
    | split
    | with_reducible refine Ctx.mk_ok rfl ?_

theorem imageTouch_ok (a : Nat) (n : Nat) (s : State) (hs : s.Ok) : (imageTouch a n s).Ok := by
  unfold imageTouch
  dsimp only
  repeat' first
    | with_reducible assumption
    | with_reducible apply markImage_ok
    | intro _
    | with_reducible apply foldl_ok
    | split

theorem hbmWrite_ok (a : Nat) (bs : List Byte) (s : State) (hs : s.Ok) : (hbmWrite a bs s).Ok := by
  unfold hbmWrite
  repeat' first | with_reducible assumption | with_reducible apply hbmPut_ok | with_reducible apply imageTouch_ok

theorem addRec_ok (owner : RecOwner) (x : Nat) (c : Nat) (o : Origin) (unit : Nat) (va : Nat) (lo : Word) (hi : Word) (s : State) (hs : s.Ok) :
    (addRec owner x c o unit va lo hi s).Ok := by
  unfold addRec
  repeat' first | with_reducible assumption | with_reducible refine State.mk_ok rfl rfl rfl rfl rfl ?_

theorem State.seatOf_ok (s : State) (x : Nat) (c : Nat) (hs : s.Ok) : (State.seatOf s x c).Ok := by
  unfold State.seatOf
  repeat' first
    | with_reducible assumption
    | with_reducible apply State.seat_ok
    | with_reducible apply State.ctx_ok
    | with_reducible apply Ctx.seat_ok
    | split

theorem State.putSeatOf_ok (s : State) (x : Nat) (c : Nat) (y : Seat) (hs : s.Ok) (hy : y.Ok) :
    (State.putSeatOf s x c y).Ok := by
  unfold State.putSeatOf
  split
  · exact State.putSeat_ok hs hy
  · exact State.putCtx_ok hs ⟨SeatsOk.put hy (State.ctx_ok hs x).saved⟩

theorem imgWrite_ok (x : Nat) (c : Nat) (off : Nat) (bs : List Byte) (s : State) (hs : s.Ok) :
    (imgWrite x c off bs s).Ok := by
  unfold imgWrite
  repeat' first | with_reducible assumption | with_reducible apply hbmPut_ok | with_reducible apply mendImage_ok

theorem Seat.count_ok (x : Seat) (a : Nat) (n : Nat) (hx : x.Ok) : (Seat.count x a n).1.Ok := by
  unfold Seat.count
  dsimp only
  repeat' first | with_reducible assumption | with_reducible refine Seat.mk_ok rfl rfl ?_

theorem Seat.writeWords_ok (x : Seat) (a : Nat) (a2 : Nat) (a3 : List Byte) (hx : x.Ok) :
    (Seat.writeWords x a a2 a3).Ok := by
  induction a2 generalizing x a a3 with
  | zero => exact hx
  | succ f ih =>
    cases a3 with
    | nil => exact hx
    | cons b bs => exact ih _ _ _ (Seat.write_ok _ _ _ _ _ hx)

theorem Seat.writeCode_ok (x : Seat) (off : Nat) (bs : List Byte) (hx : x.Ok) : (Seat.writeCode x off bs).Ok := by
  unfold Seat.writeCode
  dsimp only
  repeat' first
    | with_reducible assumption
    | with_reducible apply Mem.wf_setBytes
    | with_reducible apply Seat.Ok.spad
    | with_reducible apply Seat.Ok.ispad
    | with_reducible refine Seat.mk_ok2 ?_ ?_

theorem armRecs_ok (x : Nat) (c : Nat) (a2 : List Arming) (a3 : State) (ha3 : a3.Ok) : (armRecs x c a2 a3).Ok := by
  induction a2 generalizing x c a3 with
  | nil =>
  unfold armRecs
  repeat' first | with_reducible apply ih | with_reducible assumption | with_reducible apply addRec_ok | split
  | cons q_ qs_ ih =>
  unfold armRecs
  repeat' first | with_reducible apply ih | with_reducible assumption | with_reducible apply addRec_ok | split

theorem State.seatIn_ok (s : State) (x : Nat) (c : Nat) (live : Bool) (ts : List Nat) (hs : s.Ok) :
    (State.seatIn s x c live ts).Ok := by
  unfold State.seatIn
  dsimp only
  repeat' first
    | with_reducible assumption
    | with_reducible apply Seat.putTile_ok
    | with_reducible apply State.seatOf_ok
    | intro _
    | with_reducible apply foldl_seat_ok
    | split

theorem dataWrite_ok (x : Nat) (c : Nat) (live : Bool) (off : Nat) (bs : List Byte) (s : State) (hs : s.Ok) :
    PerfOk (dataWrite x c live off bs s) := by
  unfold dataWrite
  dsimp only
  repeat' first
    | with_reducible assumption
    | with_reducible apply Perf.status_ok
    | with_reducible apply hbmPut_ok
    | with_reducible apply Seat.mend_ok
    | with_reducible apply State.putSeatOf_ok
    | with_reducible apply Seat.count_ok
    | with_reducible apply Seat.writeWords_ok
    | with_reducible apply armRecs_ok
    | with_reducible apply State.seatIn_ok
    | intro _
    | with_reducible apply PerfOk_done
    | with_reducible apply foldl_ok
    | split

theorem State.putWin_ok (s : State) (x : Nat) (c : Nat) (w : Win) (hs : s.Ok) : (State.putWin s x c w).Ok := by
  unfold State.putWin
  dsimp only
  repeat' first
    | with_reducible assumption
    | with_reducible apply State.putCtx_ok
    | with_reducible apply State.ctx_ok
    | with_reducible refine Ctx.mk_ok rfl ?_

theorem perfRead_ok (own : Bool) (sup : Bool) (x : Nat) (a : Nat) (n : Nat) (s : State) (hs : s.Ok) :
    PerfOk (perfRead own sup x a n s) := by
  unfold perfRead
  dsimp only
  repeat' first
    | with_reducible assumption
    | with_reducible apply State.setUE_ok
    | with_reducible apply Perf.status_ok
    | with_reducible apply PerfOk_done
    | with_reducible apply PerfOk_hold
    | with_reducible exact PerfOk_later
    | split

theorem perfWrite_ok (own : Bool) (x : Nat) (a : Nat) (bs : List Byte) (s : State) (hs : s.Ok) :
    PerfOk (perfWrite own x a bs s) := by
  unfold perfWrite
  dsimp only
  repeat' first
    | with_reducible assumption
    | with_reducible apply Perf.status_ok
    | with_reducible apply hbmWrite_ok
    | with_reducible apply imgWrite_ok
    | with_reducible apply Seat.writeCode_ok
    | with_reducible apply dataWrite_ok
    | with_reducible apply PerfOk_hold
    | with_reducible exact PerfOk_later
    | with_reducible apply State.putSeat_ok
    | with_reducible apply State.seat_ok
    | split

theorem State.mashMet_ok (s : State) (x : Nat) (g : Nat) (hs : s.Ok) : (State.mashMet s x g).Ok := by
  unfold State.mashMet
  repeat' first | with_reducible assumption | with_reducible refine State.mk_ok rfl rfl rfl rfl rfl ?_

theorem perfAtomic_ok (own : Bool) (x : Nat) (a : Nat) (op : AOp) (f : AFmt) (v : Nat) (e : Nat) (s : State) (hs : s.Ok) :
    PerfOk (perfAtomic own x a op f v e s) := by
  unfold perfAtomic
  dsimp only
  repeat' first
    | with_reducible assumption
    | with_reducible apply State.setUE_ok
    | with_reducible apply Perf.status_ok
    | with_reducible apply hbmWrite_ok
    | with_reducible apply imgWrite_ok
    | with_reducible apply Seat.writeWords_ok
    | with_reducible apply State.seatIn_ok
    | with_reducible apply State.mashMet_ok
    | with_reducible apply PerfOk_done
    | with_reducible apply PerfOk_hold
    | with_reducible exact PerfOk_later
    | with_reducible apply State.putSeat_ok
    | split

theorem closeRound_ok (x : Nat) (gi : Nat) (g : Group) (status : Nat) (flags : Nat) (missing : Nat) (s : State) (hs : s.Ok) :
    (closeRound x gi g status flags missing s).Ok := by
  unfold closeRound
  dsimp only
  repeat' first
    | with_reducible assumption
    | with_reducible apply addRec_ok
    | with_reducible apply State.mashMet_ok
    | with_reducible apply State.putCtx_ok
    | with_reducible apply State.ctx_ok
    | with_reducible refine Ctx.mk_ok rfl ?_

theorem completeRound_ok (x : Nat) (gi : Nat) (g : Group) (s : State) (hs : s.Ok) : (completeRound x gi g s).Ok := by
  unfold completeRound
  dsimp only
  repeat' first
    | with_reducible assumption
    | with_reducible apply hbmWrite_ok
    | with_reducible apply closeRound_ok
    | intro _
    | with_reducible apply foldl_ok
    | split

theorem seenBad_ok (bad : Bool) (s : State) (hs : s.Ok) : (seenBad bad s).Ok := by
  unfold seenBad
  split
  · exact State.mk_ok rfl rfl rfl rfl rfl (State.setUE_ok s hs)
  · exact hs

theorem hbmSeen_ok (a n : Nat) (s : State) (hs : s.Ok) : (hbmSeen a n s).Ok := seenBad_ok _ s hs

theorem perfContrib_ok (p : Packet) (s : State) (hs : s.Ok) : PerfOk (perfContrib p s) := by
  unfold perfContrib
  dsimp only
  repeat' first
    | with_reducible assumption
    | with_reducible apply Perf.status_ok
    | with_reducible apply completeRound_ok
    | with_reducible apply hbmSeen_ok
    | with_reducible apply State.putCtx_ok
    | with_reducible apply State.ctx_ok
    | split
    | with_reducible refine Ctx.mk_ok rfl ?_

theorem perfReduce_ok (own : Bool) (p : Packet) (s : State) (hs : s.Ok) : PerfOk (perfReduce own p s) := by
  unfold perfReduce
  dsimp only
  repeat' first
    | with_reducible assumption
    | with_reducible apply Perf.status_ok
    | with_reducible apply perfContrib_ok
    | with_reducible apply PerfOk_hold
    | split

theorem perform_ok (own : Bool) (sup : Bool) (p : Packet) (s : State) (hs : s.Ok) : PerfOk (perform own sup p s) := by
  unfold perform
  dsimp only
  repeat' first
    | with_reducible assumption
    | with_reducible apply Perf.status_ok
    | with_reducible apply perfRead_ok
    | with_reducible apply perfWrite_ok
    | with_reducible apply perfAtomic_ok
    | with_reducible apply perfReduce_ok
    | split

/-! ## Request.lean -/

theorem postFault_ok (x : Nat) (c : Nat) (o : Origin) (va : Word) (cause : Nat) (kind : Nat) (unit : Nat) (code : Nat) (s : State) (hs : s.Ok) :
    (postFault x c o va cause kind unit code s).Ok := by
  unfold postFault
  dsimp only
  repeat' first
    | with_reducible assumption
    | with_reducible apply State.putCtx_ok
    | with_reducible apply State.ctx_ok
    | with_reducible refine Ctx.mk_ok rfl ?_

theorem postKey_ok (x : Nat) (c : Nat) (unit : Nat) (o : Origin) (ktens : W32) (kstep : W32) (ident : Word) (s : State) (hs : s.Ok) :
    (postKey x c unit o ktens kstep ident s).Ok := by
  unfold postKey
  dsimp only
  repeat' first
    | with_reducible assumption
    | with_reducible apply State.putCtx_ok
    | with_reducible apply State.ctx_ok
    | with_reducible refine Ctx.mk_ok rfl ?_

theorem addDigest_ok (x : Nat) (va : Nat) (bs : List Byte) (s : State) (hs : s.Ok) : (addDigest x va bs s).Ok := by
  unfold addDigest
  dsimp only
  repeat' first | with_reducible assumption | with_reducible apply State.setFld_ok

theorem unbind_ok (src : Nat) (dst : Nat) (tag : Nat) (s : State) (hs : s.Ok) : (unbind src dst tag s).Ok := by
  unfold unbind
  repeat' first | with_reducible assumption | with_reducible refine State.mk_ok rfl rfl rfl rfl rfl ?_

theorem respond_ok (src : Nat) (tag : Nat) (r : Resp) (s : State) (hs : s.Ok) : (respond src tag r s).Ok := by
  unfold respond
  dsimp only
  repeat' first
    | with_reducible assumption
    | with_reducible apply unbind_ok
    | with_reducible refine State.mk_ok rfl rfl rfl rfl rfl ?_

theorem reply_ok (p : Packet) (r : Resp) (s : State) (hs : s.Ok) : (reply p r s).Ok := by
  unfold reply
  repeat' first
    | with_reducible assumption
    | with_reducible apply respond_ok
    | split
    | with_reducible refine State.mk_ok rfl rfl rfl rfl rfl ?_

theorem arrive_ok (p : Packet) (s : State) (hs : s.Ok) : (arrive p s).Ok := by
  unfold arrive
  dsimp only
  repeat' first
    | with_reducible assumption
    | with_reducible apply Seat.defer_ok
    | with_reducible apply State.putWin_ok
    | with_reducible apply perform_ok
    | with_reducible apply reply_ok
    | with_reducible apply State.putSeat_ok
    | with_reducible apply State.seat_ok
    | split
    | with_reducible refine perf_done (by with_reducible assumption) ?_

theorem releaseLate_ok (c : Nat) (a1 : List Deferred) (a2 : State) (ha2 : a2.Ok) : (releaseLate c a1 a2).Ok := by
  induction a1 generalizing a2 with
  | nil => exact ha2
  | cons d ds ih =>
    cases d with
    | write w k a bs => exact ih _ (State.putSeat_ok ha2 (Seat.releaseOne_ok _ _ (State.seat_ok ha2 _)))
    | sample w a => exact ih _ (State.putSeat_ok ha2 (Seat.releaseOne_ok _ _ (State.seat_ok ha2 _)))
    | packet p => exact ih _ (arrive_ok _ _ ha2)

theorem endResvs_ok (ended : Resv → Bool) (s : State) (c : Nat) (hs : s.Ok) : (endResvs ended s c).Ok := by
  unfold endResvs
  dsimp only
  repeat' first
    | with_reducible assumption
    | with_reducible apply releaseLate_ok
    | with_reducible apply State.putSeat_ok
    | with_reducible apply State.seat_ok
    | split
    | with_reducible refine Seat.mk_ok rfl rfl ?_

theorem request_ok (i : ReqInfo) (l : Xl) (s : State) (hs : s.Ok) : (request i l s).Ok := by
  unfold request
  dsimp only
  repeat' first
    | with_reducible assumption
    | with_reducible apply arrive_ok
    | split
    | with_reducible refine State.mk_ok rfl rfl rfl rfl rfl ?_

theorem dropReqs_ok (a : Agent) (s : State) (hs : s.Ok) : (dropReqs a s).Ok := by
  unfold dropReqs
  repeat' first | with_reducible assumption | with_reducible refine State.mk_ok rfl rfl rfl rfl rfl ?_

theorem digestReqs_ok (x : Nat) (a1 : List Req) (a2 : State) (ha2 : a2.Ok) : (digestReqs x a1 a2).Ok := by
  induction a1 generalizing x a2 with
  | nil =>
  unfold digestReqs
  repeat' first | with_reducible apply ih | with_reducible assumption | with_reducible apply addDigest_ok | split
  | cons q_ qs_ ih =>
  unfold digestReqs
  repeat' first | with_reducible apply ih | with_reducible assumption | with_reducible apply addDigest_ok | split

theorem faultReqs_ok (x : Nat) (c : Nat) (o : Origin) (kind : Nat) (unit : Nat) (rs : List Req) (s : State) (hs : s.Ok) :
    (faultReqs x c o kind unit rs s).Ok := by
  unfold faultReqs
  dsimp only
  repeat' first | with_reducible assumption | with_reducible apply postFault_ok | split

theorem dropRec_ok (n : Nat) (s : State) (hs : s.Ok) : (dropRec n s).Ok := by
  unfold dropRec
  dsimp only
  repeat' first
    | with_reducible assumption
    | with_reducible apply dropReqs_ok
    | with_reducible refine State.mk_ok rfl rfl rfl rfl rfl ?_

theorem putRec_ok (j : RecJob) (s : State) (hs : s.Ok) : (putRec j s).Ok := by
  unfold putRec
  repeat' first | with_reducible assumption | with_reducible refine State.mk_ok rfl rfl rfl rfl rfl ?_

theorem moveRec_ok (j : RecJob) (s : State) (hs : s.Ok) : (moveRec j s).Ok := by
  unfold moveRec
  dsimp only
  repeat' first
    | with_reducible assumption
    | with_reducible apply postFault_ok
    | with_reducible apply request_ok
    | with_reducible apply dropReqs_ok
    | with_reducible apply dropRec_ok
    | with_reducible apply putRec_ok
    | split

theorem flushRecs_ok (a0 : Nat) (a1 : State) (ha1 : a1.Ok) : (flushRecs a0 a1).Ok := by
  induction a0 generalizing a1 with
  | zero =>
  unfold flushRecs
  repeat' first | with_reducible apply ih | with_reducible assumption | with_reducible apply moveRec_ok | split
  | succ f_ ih =>
  unfold flushRecs
  repeat' first | with_reducible apply ih | with_reducible assumption | with_reducible apply moveRec_ok | split

theorem settle_ok (s : State) (hs : s.Ok) : (settle s).Ok := by
  unfold settle
  repeat' first | with_reducible assumption | with_reducible apply flushRecs_ok | split

theorem releaseHeld_ok (x : Nat) (c : Nat) (s : State) (hs : s.Ok) : (releaseHeld x c s).Ok := by
  unfold releaseHeld
  dsimp only
  repeat' first
    | with_reducible assumption
    | with_reducible apply State.putWin_ok
    | with_reducible apply arrive_ok
    | intro _
    | with_reducible apply foldl_ok

/-! ## Takes.lean -/

theorem Seat.grant_ok (x : Seat) (k : Take) (hx : x.Ok) : (Seat.grant x k).Ok := by
  unfold Seat.grant
  dsimp only
  repeat' first | with_reducible assumption | with_reducible apply Seat.putTile_ok

theorem grantAll_ok (a0 : List Take) (a1 : List Take) (a2 : Seat) (ha2 : a2.Ok) : (grantAll a0 a1 a2).Ok := by
  induction a0 generalizing a1 a2 with
  | nil =>
  unfold grantAll
  repeat' first
    | with_reducible apply ih
    | with_reducible assumption
    | with_reducible apply Seat.grant_ok
    | split
    | with_reducible refine Seat.mk_ok rfl rfl ?_
  | cons q_ qs_ ih =>
  unfold grantAll
  repeat' first
    | with_reducible apply ih
    | with_reducible assumption
    | with_reducible apply Seat.grant_ok
    | split
    | with_reducible refine Seat.mk_ok rfl rfl ?_

theorem Seat.grants_ok (x : Seat) (hx : x.Ok) : (Seat.grants x).Ok := by
  unfold Seat.grants
  repeat' first | with_reducible assumption | with_reducible apply grantAll_ok

theorem Seat.takeTiles_ok (x : Seat) (id : Nat) (cyc : Nat) (ts : List (Nat × Bool)) (hx : x.Ok) :
    (Seat.takeTiles x id cyc ts).Ok := by
  unfold Seat.takeTiles
  repeat' first
    | with_reducible assumption
    | with_reducible apply Seat.grants_ok
    | with_reducible refine Seat.mk_ok rfl rfl ?_

theorem Seat.endHold_ok (x : Seat) (t : Nat × Bool) (hx : x.Ok) : (Seat.endHold x t).Ok := by
  unfold Seat.endHold
  dsimp only
  repeat' first | with_reducible assumption | with_reducible apply Seat.putTile_ok | split

theorem Seat.release_ok (x : Seat) (id : Nat) (ts : List (Nat × Bool)) (hx : x.Ok) : (Seat.release x id ts).Ok := by
  unfold Seat.release
  dsimp only
  repeat' first
    | with_reducible assumption
    | with_reducible apply Seat.grants_ok
    | with_reducible apply Seat.endHold_ok
    | with_reducible apply foldl_seat_ok
    | with_reducible refine Seat.mk_ok rfl rfl ?_

theorem execTakeGrant_ok (c : Nat) (s : State) (hs : s.Ok) : OutOk (execTakeGrant c s) := by
  unfold execTakeGrant
  repeat' first
    | with_reducible assumption
    | with_reducible apply Seat.grants_ok
    | with_reducible apply OutOk_next
    | with_reducible apply State.putSeat_ok
    | with_reducible apply State.seat_ok

/-! ## Operands.lean -/

theorem goto__ok (target : Nat) (idle : Nat) (swap : Bool) (s : State) (hs : s.Ok) : (goto_ target idle swap s).Ok := by
  unfold goto_
  dsimp only
  repeat' first | with_reducible assumption | with_reducible refine State.mk_ok rfl rfl rfl rfl rfl ?_

theorem guarded_ok (k : F3) (s : State) (body : SlotRes) (hs : s.Ok) (hbody : ExcOk body) : ExcOk (guarded k s body) := by
  unfold guarded
  repeat' first | with_reducible assumption | with_reducible apply ExcOk_ok | split

/-! ## Commands.lean -/

theorem putSet_ok (s : State) (g : BitVec 4) (set : List Word) (hs : s.Ok) : (putSet s g set).Ok := by
  unfold putSet
  dsimp only
  repeat' first | with_reducible assumption | with_reducible apply State.putCst_ok

theorem addCmd_ok (k : Cmd) (s : State) (hs : s.Ok) : (addCmd k s).Ok := by
  unfold addCmd
  dsimp only
  repeat' first
    | with_reducible assumption
    | with_reducible apply Seat.takeTiles_ok
    | with_reducible apply State.putSeat_ok
    | with_reducible apply State.seat_ok
    | with_reducible refine State.mk_ok rfl rfl rfl rfl rfl ?_
    | with_reducible refine Seat.mk_ok rfl rfl ?_

theorem endNow_ok (k : Cmd) (status : Nat) (s : State) (hs : s.Ok) : (endNow k status s).Ok := by
  unfold endNow
  repeat' first | with_reducible assumption | with_reducible apply addRec_ok | with_reducible apply settle_ok | split

theorem issueCopy_ok (kind : CKind) (a : RegF) (b : RegF) (g : BitVec 4) (extra : Geo → Word → Bool) (dst : Bool) (s : State) (hs : s.Ok) :
    (issueCopy kind a b g extra dst s).Ok := by
  unfold issueCopy
  dsimp only
  repeat' first
    | with_reducible assumption
    | with_reducible apply putSet_ok
    | with_reducible apply addCmd_ok
    | with_reducible apply endNow_ok
    | split

theorem execCpy_ok (a : RegF) (b : RegF) (g : BitVec 4) (s : State) (hs : s.Ok) : OutOk (execCpy a b g s) := by
  unfold execCpy
  repeat' first
    | with_reducible assumption
    | with_reducible apply runSlot_ok
    | with_reducible apply issueCopy_ok
    | with_reducible apply ExcOk_ok

theorem execCpyc_ok (a : RegF) (b : RegF) (g : BitVec 4) (s : State) (hs : s.Ok) : OutOk (execCpyc a b g s) := by
  unfold execCpyc
  repeat' first
    | with_reducible assumption
    | with_reducible apply runSlot_ok
    | with_reducible apply issueCopy_ok
    | with_reducible apply ExcOk_ok

theorem issueMsg_ok (k : Cmd) (d : Nat × List (Int × Nat)) (s : State) (hs : s.Ok) : (issueMsg k d s).Ok := by
  unfold issueMsg
  dsimp only
  repeat' first
    | with_reducible assumption
    | with_reducible apply State.putSeat_ok
    | with_reducible apply Seat.putSt_ok
    | with_reducible apply State.seat_ok
    | with_reducible refine State.mk_ok rfl rfl rfl rfl rfl ?_
    | with_reducible refine Seat.mk_ok rfl rfl ?_

theorem execFsend_ok (a : RegF) (b : RegF) (g : BitVec 4) (s : State) (hs : s.Ok) : OutOk (execFsend a b g s) := by
  unfold execFsend
  dsimp only
  repeat' first
    | with_reducible assumption
    | with_reducible apply runSlot_ok
    | with_reducible apply putSet_ok
    | with_reducible apply issueCopy_ok
    | with_reducible apply issueMsg_ok
    | with_reducible apply ExcOk_ok
    | with_reducible exact ExcOk_error
    | split

theorem execFmcast_ok (a : RegF) (b : RegF) (g : BitVec 4) (s : State) (hs : s.Ok) : OutOk (execFmcast a b g s) := by
  unfold execFmcast
  repeat' first
    | with_reducible assumption
    | with_reducible apply runSlot_ok
    | with_reducible apply issueCopy_ok
    | with_reducible apply ExcOk_ok

theorem execFred_ok (a : RegF) (b : RegF) (op : AOp) (f : AFmt) (g : BitVec 4) (s : State) (hs : s.Ok) :
    OutOk (execFred a b op f g s) := by
  unfold execFred
  repeat' first
    | with_reducible assumption
    | with_reducible apply runSlot_ok
    | with_reducible apply issueCopy_ok
    | with_reducible apply ExcOk_ok

theorem recCheck_ok (set : List Word) (body : SlotRes) (hbody : ExcOk body) : ExcOk (recCheck set body) := by
  unfold recCheck
  repeat' first | with_reducible assumption | with_reducible exact ExcOk_error | split

theorem execRatom_ok (a : RegF) (b : RegF) (op : AOp) (f : AFmt) (g : BitVec 4) (s : State) (hs : s.Ok) :
    OutOk (execRatom a b op f g s) := by
  unfold execRatom
  dsimp only
  repeat' first
    | with_reducible assumption
    | with_reducible apply runSlot_ok
    | with_reducible apply putSet_ok
    | with_reducible apply addCmd_ok
    | with_reducible apply endNow_ok
    | with_reducible apply recCheck_ok
    | with_reducible apply ExcOk_ok
    | with_reducible exact ExcOk_error
    | split

theorem execKilnw_ok (a : RegF) (s : State) (hs : s.Ok) : OutOk (execKilnw a s) := by
  unfold execKilnw
  dsimp only
  repeat' first
    | with_reducible assumption
    | with_reducible apply runSlot_ok
    | with_reducible apply addCmd_ok
    | with_reducible apply ExcOk_ok
    | with_reducible exact ExcOk_error
    | split

theorem execDigest_ok (a : RegF) (b : RegF) (g : BitVec 4) (s : State) (hs : s.Ok) : OutOk (execDigest a b g s) := by
  unfold execDigest
  dsimp only
  repeat' first
    | with_reducible assumption
    | with_reducible apply runSlot_ok
    | with_reducible apply putSet_ok
    | with_reducible apply addCmd_ok
    | with_reducible apply endNow_ok
    | with_reducible apply ExcOk_ok
    | split

theorem execEfence_ok (g : BitVec 4) (sc : Scope) (s : State) (hs : s.Ok) : OutOk (execEfence g sc s) := by
  unfold execEfence
  dsimp only
  repeat' first
    | with_reducible assumption
    | with_reducible apply runSlot_ok
    | with_reducible apply putSet_ok
    | with_reducible apply addCmd_ok
    | with_reducible apply recCheck_ok
    | with_reducible apply ExcOk_ok

theorem execGstart_ok (a : RegF) (b : RegF) (q : BitVec 2) (s : State) (hs : s.Ok) : OutOk (execGstart a b q s) := by
  unfold execGstart
  dsimp only
  repeat' first
    | with_reducible assumption
    | with_reducible apply Seat.putQ_ok
    | with_reducible apply runSlot_ok
    | with_reducible apply Seat.takeTiles_ok
    | with_reducible apply ExcOk_ok
    | with_reducible exact ExcOk_error
    | with_reducible apply State.putSeat_ok
    | with_reducible apply State.seat_ok
    | split
    | with_reducible refine State.mk_ok rfl rfl rfl rfl rfl ?_

theorem execTarm_ok (a : RegF) (b : RegF) (g : BitVec 4) (s : State) (hs : s.Ok) : OutOk (execTarm a b g s) := by
  unfold execTarm
  dsimp only
  repeat' first
    | with_reducible assumption
    | with_reducible apply Seat.putTile_ok
    | with_reducible apply runSlot_ok
    | with_reducible apply putSet_ok
    | with_reducible apply recCheck_ok
    | intro _
    | with_reducible apply ExcOk_ok
    | with_reducible exact ExcOk_error
    | with_reducible apply State.putSeat_ok
    | with_reducible apply foldl_seat_ok
    | with_reducible apply State.seat_ok
    | split
    | with_reducible refine Seat.mk_ok rfl rfl ?_

theorem execGset_ok (a : RegF) (g : BitVec 4) (s : State) (hs : s.Ok) : OutOk (execGset a g s) := by
  unfold execGset
  dsimp only
  repeat' first
    | with_reducible assumption
    | with_reducible apply pend_ok
    | with_reducible apply runSlot_ok
    | with_reducible apply ExcOk_ok
    | with_reducible exact ExcOk_error
    | split

theorem execChw_ok (a : RegF) (ch : BitVec 12) (s : State) (hs : s.Ok) : OutOk (execChw a ch s) := by
  unfold execChw
  dsimp only
  repeat' first
    | with_reducible assumption
    | with_reducible apply pend_ok
    | with_reducible apply runSlot_ok
    | with_reducible apply ExcOk_ok
    | with_reducible exact ExcOk_error
    | split

theorem execKilnr_ok (a : RegF) (s : State) (hs : s.Ok) : OutOk (execKilnr a s) := by
  unfold execKilnr
  dsimp only
  repeat' first
    | with_reducible assumption
    | with_reducible apply land_ok
    | with_reducible apply pend_ok
    | with_reducible apply runSlot_ok
    | with_reducible apply ExcOk_ok
    | with_reducible exact ExcOk_error
    | split

theorem execSpawn_ok (a : RegF) (s : State) (hs : s.Ok) : OutOk (execSpawn a s) := by
  unfold execSpawn
  dsimp only
  repeat' first
    | with_reducible assumption
    | with_reducible apply runSlot_ok
    | with_reducible apply ExcOk_ok
    | with_reducible exact ExcOk_error
    | with_reducible apply State.putCst_ok
    | split
    | with_reducible refine State.mk_ok rfl rfl rfl rfl rfl ?_

/-! ## Fabric.lean -/

theorem State.drop1_ok (s : State) (hs : s.Ok) : (State.drop1 s).Ok := by
  unfold State.drop1
  repeat' first | with_reducible assumption | with_reducible apply State.bump_ok

theorem State.putPort_ok (s : State) (i : Nat) (q : Port) (hs : s.Ok) : (State.putPort s i q).Ok := by
  unfold State.putPort
  repeat' first | with_reducible assumption | with_reducible refine State.mk_ok rfl rfl rfl rfl rfl ?_

theorem sendOn_ok (i : Nat) (p : Packet) (s : State) (hs : s.Ok) : (sendOn i p s).Ok := by
  unfold sendOn
  dsimp only
  repeat' first | with_reducible assumption | with_reducible apply State.putPort_ok

theorem delivered_ok (port : Nat) (p : Packet) (s : State) (hs : s.Ok) : (delivered port p s).Ok := by
  unfold delivered
  repeat' first
    | with_reducible assumption
    | with_reducible apply State.drop1_ok
    | split
    | with_reducible refine State.mk_ok rfl rfl rfl rfl rfl ?_

theorem execFlit_ok (port : Nat) (bytes : List Byte) (s : State) (hs : s.Ok) : OutOk (execFlit port bytes s) := by
  unfold execFlit
  dsimp only
  repeat' first
    | with_reducible assumption
    | with_reducible apply State.drop1_ok
    | with_reducible apply State.putPort_ok
    | with_reducible apply delivered_ok
    | with_reducible apply OutOk_next
    | split

theorem execPortDown_ok (port : Nat) (s : State) (hs : s.Ok) : OutOk (execPortDown port s) := by
  unfold execPortDown
  dsimp only
  repeat' first
    | with_reducible assumption
    | with_reducible apply State.putPort_ok
    | with_reducible apply OutOk_next
    | split

theorem execPortUp_ok (port : Nat) (s : State) (hs : s.Ok) : OutOk (execPortUp port s) := by
  unfold execPortUp
  dsimp only
  repeat' first
    | with_reducible assumption
    | with_reducible apply State.putPort_ok
    | with_reducible apply OutOk_next
    | split

theorem sendBound_ok (i : Nat) (p : Packet) (s : State) (hs : s.Ok) : (sendBound i p s).Ok := by
  unfold sendBound
  dsimp only
  repeat' first
    | with_reducible assumption
    | with_reducible apply unbind_ok
    | with_reducible apply sendOn_ok
    | split
    | with_reducible refine State.mk_ok rfl rfl rfl rfl rfl ?_

theorem execPacketForward_ok (p : Packet) (s : State) (hs : s.Ok) : OutOk (execPacketForward p s) := by
  unfold execPacketForward
  dsimp only
  repeat' first
    | with_reducible assumption
    | with_reducible apply State.drop1_ok
    | with_reducible apply sendBound_ok
    | with_reducible apply OutOk_next
    | split
    | with_reducible refine State.mk_ok rfl rfl rfl rfl rfl ?_

theorem execWrite_ok (p : Packet) (s : State) (hs : s.Ok) : OutOk (execWrite p s) := by
  unfold execWrite
  repeat' first
    | with_reducible assumption
    | with_reducible apply arrive_ok
    | with_reducible apply settle_ok
    | with_reducible apply OutOk_next

theorem execReadreq_ok (p : Packet) (s : State) (hs : s.Ok) : OutOk (execReadreq p s) := by
  unfold execReadreq
  repeat' first
    | with_reducible assumption
    | with_reducible apply arrive_ok
    | with_reducible apply settle_ok
    | with_reducible apply OutOk_next

theorem execAtomic_ok (p : Packet) (s : State) (hs : s.Ok) : OutOk (execAtomic p s) := by
  unfold execAtomic
  repeat' first
    | with_reducible assumption
    | with_reducible apply arrive_ok
    | with_reducible apply settle_ok
    | with_reducible apply OutOk_next

theorem execReduce_ok (p : Packet) (s : State) (hs : s.Ok) : OutOk (execReduce p s) := by
  unfold execReduce
  repeat' first
    | with_reducible assumption
    | with_reducible apply arrive_ok
    | with_reducible apply settle_ok
    | with_reducible apply OutOk_next
    | split
    | with_reducible refine State.mk_ok rfl rfl rfl rfl rfl ?_

theorem execReduceResend_ok (s : State) (hs : s.Ok) : OutOk (execReduceResend s) := by
  unfold execReduceResend
  dsimp only
  repeat' first
    | with_reducible assumption
    | with_reducible apply OutOk_next
    | with_reducible refine State.mk_ok rfl rfl rfl rfl rfl ?_

theorem response_ok (p : Packet) (s : State) (hs : s.Ok) : (response p s).Ok := by
  unfold response
  dsimp only
  repeat' first | with_reducible assumption | with_reducible apply respond_ok | with_reducible apply settle_ok

theorem execReaddata_ok (p : Packet) (s : State) (hs : s.Ok) : OutOk (execReaddata p s) := by
  unfold execReaddata
  repeat' first | with_reducible assumption | with_reducible apply response_ok | with_reducible apply OutOk_next

theorem execAck_ok (p : Packet) (s : State) (hs : s.Ok) : OutOk (execAck p s) := by
  unfold execAck
  repeat' first | with_reducible assumption | with_reducible apply response_ok | with_reducible apply OutOk_next

theorem fadeBinds_ok (s : State) (hs : s.Ok) : (fadeBinds s).Ok := by
  unfold fadeBinds
  repeat' first | with_reducible assumption | with_reducible refine State.mk_ok rfl rfl rfl rfl rfl ?_

theorem execResponseTimeout_ok (tag : Nat) (s : State) (hs : s.Ok) : OutOk (execResponseTimeout tag s) := by
  unfold execResponseTimeout
  repeat' first
    | with_reducible assumption
    | with_reducible apply settle_ok
    | with_reducible apply fadeBinds_ok
    | intro _
    | with_reducible apply OutOk_next
    | with_reducible refine State.mk_ok rfl rfl rfl rfl rfl ?_

theorem execMcwrite_ok (p : Packet) (s : State) (hs : s.Ok) : OutOk (execMcwrite p s) := by
  unfold execMcwrite
  dsimp only
  repeat' first
    | with_reducible assumption
    | with_reducible apply arrive_ok
    | with_reducible apply settle_ok
    | with_reducible apply OutOk_next
    | split
    | with_reducible refine State.mk_ok rfl rfl rfl rfl rfl ?_

theorem writeMap_ok (x : Nat) (gi : Nat) (va : Nat) (o : Origin) (a4 : List Nat) (a5 : State) (ha5 : a5.Ok) :
    (writeMap x gi va o a4 a5).Ok := by
  induction a4 generalizing x gi va o a5 with
  | nil =>
  unfold writeMap
  repeat' first
    | with_reducible apply ih
    | with_reducible assumption
    | with_reducible apply postFault_ok
    | with_reducible apply request_ok
    | split
  | cons q_ qs_ ih =>
  unfold writeMap
  repeat' first
    | with_reducible apply ih
    | with_reducible assumption
    | with_reducible apply postFault_ok
    | with_reducible apply request_ok
    | split

theorem execRoundTimeout_ok (x : Nat) (g : Nat) (s : State) (hs : s.Ok) : OutOk (execRoundTimeout x g s) := by
  unfold execRoundTimeout
  dsimp only
  repeat' first
    | with_reducible assumption
    | with_reducible apply closeRound_ok
    | with_reducible apply dropReqs_ok
    | with_reducible apply settle_ok
    | with_reducible apply writeMap_ok
    | with_reducible apply OutOk_next
    | split
    | with_reducible refine State.mk_ok rfl rfl rfl rfl rfl ?_

theorem noteGtbOk_ok (s : State) (hs : s.Ok) : (noteGtbOk s).Ok := by
  unfold noteGtbOk
  repeat' first | with_reducible assumption | with_reducible apply State.setFld_ok

theorem execTime_ok (port : Nat) (p : Packet) (s : State) (hs : s.Ok) : OutOk (execTime port p s) := by
  unfold execTime
  dsimp only
  repeat' first
    | with_reducible assumption
    | with_reducible apply State.putPort_ok
    | with_reducible apply noteGtbOk_ok
    | with_reducible apply OutOk_next
    | split
    | with_reducible refine State.mk_ok rfl rfl rfl rfl rfl ?_

theorem sendTime_ok (s : State) (i : Nat) (hs : s.Ok) : (sendTime s i).Ok := by
  unfold sendTime
  dsimp only
  repeat' first
    | with_reducible assumption
    | with_reducible apply State.putPort_ok
    | with_reducible apply sendOn_ok
    | split

theorem execTimeSend_ok (s : State) (hs : s.Ok) : OutOk (execTimeSend s) := by
  unfold execTimeSend
  repeat' first
    | with_reducible assumption
    | with_reducible apply sendTime_ok
    | with_reducible apply OutOk_next
    | with_reducible apply foldl_ok

theorem execGtbCorrection_ok (up : Bool) (s : State) (hs : s.Ok) : OutOk (execGtbCorrection up s) := by
  unfold execGtbCorrection
  repeat' first
    | with_reducible assumption
    | with_reducible apply noteGtbOk_ok
    | with_reducible apply OutOk_next
    | split
    | with_reducible refine State.mk_ok rfl rfl rfl rfl rfl ?_

theorem execGtbokLoss_ok (s : State) (hs : s.Ok) : OutOk (execGtbokLoss s) := by
  unfold execGtbokLoss
  repeat' first
    | with_reducible assumption
    | with_reducible apply State.setFld_ok
    | with_reducible apply OutOk_next
    | split

theorem resend_ok (s : State) (hs : s.Ok) : (resend s).Ok := by
  unfold resend
  dsimp only
  repeat' first | with_reducible assumption | with_reducible refine State.mk_ok rfl rfl rfl rfl rfl ?_

/-! ## Copy.lean -/

theorem putCmd_ok (x : Nat) (c : Nat) (k : Cmd) (s : State) (hs : s.Ok) : (putCmd x c k s).Ok := by
  unfold putCmd
  dsimp only
  repeat' first
    | with_reducible assumption
    | with_reducible apply State.seatOf_ok
    | with_reducible apply State.putSeatOf_ok
    | with_reducible refine Seat.mk_ok rfl rfl ?_

theorem delCmd_ok (x : Nat) (c : Nat) (id : Nat) (s : State) (hs : s.Ok) : (delCmd x c id s).Ok := by
  unfold delCmd
  dsimp only
  repeat' first
    | with_reducible assumption
    | with_reducible apply State.seatOf_ok
    | with_reducible apply State.putSeatOf_ok
    | with_reducible refine Seat.mk_ok rfl rfl ?_

theorem Mem.wf_putPart (a v : Nat) (is : List Nat) {m : Mem} (h : Mem.wf m = true) : Mem.wf (putPart m a v is) = true :=
  foldl_mem_ok is (fun _ _ h => Mem.wf_setByte _ _ h) h

theorem DwPlace.put_ok (p : DwPlace) (v : Nat) (is : List Nat) (s : State) (hs : s.Ok) : (p.put v is s).Ok := by
  cases p with
  | hbm a => exact State.mk_hbm_ok rfl rfl rfl rfl (Mem.wf_putPart _ _ _ hs.hbm) hs
  | spad x c a =>
    have h := State.seatOf_ok s x c hs
    exact State.putSeatOf_ok _ _ _ _ hs (Seat.mk_ok2 (Mem.wf_putPart _ _ _ h.spad) h.ispad)
  | bank x c a =>
    refine State.putSeatOf_ok _ _ _ _ hs ?_
    have h := State.seatOf_ok s x c hs
    generalize s.seatOf x c = y at h ⊢
    induction is generalizing y with
    | nil => exact h
    | cons i is ih => exact ih _ (Seat.writeCode_ok _ _ _ h)

theorem DwPlace.blur_ok (p : DwPlace) (is : List Nat) (s : State) (hs : s.Ok) : (p.blur is s).Ok :=
  State.used_ok _ (DwPlace.put_ok p _ is s hs)

theorem scramble_ok (x : Nat) (c : Nat) (lo : Nat) (hi : Nat) (s : State) (hs : s.Ok) : (scramble x c lo hi s).Ok :=
  foldl_ok _ (fun t _ ht => DwPlace.blur_ok _ _ t ht) hs

theorem scrambleSet_ok (tr : State → Nat → Except Nat Xl) (mine : Nat → Bool) (lo : Nat) (hi : Nat) (s : State) (hs : s.Ok) :
    (scrambleSet tr mine lo hi s).Ok := by
  unfold scrambleSet
  dsimp only
  repeat' first
    | with_reducible assumption
    | with_reducible apply DwPlace.blur_ok
    | intro _
    | with_reducible apply foldl_ok
    | split

theorem scrambleRun_ok (tr : State → Nat → Except Nat Xl) (lo : Nat) (hi : Nat) (s : State) (hs : s.Ok) :
    (scrambleRun tr lo hi s).Ok := scrambleSet_ok tr _ lo hi s hs

theorem scrambleDest.go_ok (x : Nat) (c : Nat) (k : Cmd) (g : Geo) (s : State) (hs : s.Ok) :
    (scrambleDest.go x c k g s).Ok := by
  unfold scrambleDest.go
  dsimp only
  repeat' first
    | with_reducible assumption
    | with_reducible apply State.used_ok
    | with_reducible apply DwPlace.put_ok
    | intro _
    | with_reducible apply foldl_ok
    | split

theorem scrambleDest_ok (x : Nat) (c : Nat) (k : Cmd) (g : Geo) (s : State) (hs : s.Ok) : (scrambleDest x c k g s).Ok := by
  unfold scrambleDest
  repeat' first | with_reducible assumption | with_reducible apply scrambleDest.go_ok | split

theorem readRuns_ok (x : Nat) (c : Nat) (k : Cmd) (unit : Nat) (a4 : List (Nat × Nat)) (a5 : State) (ha5 : a5.Ok) :
    (readRuns x c k unit a4 a5).1.Ok := by
  induction a4 generalizing x c k unit a5 with
  | nil =>
  unfold readRuns
  try dsimp only
  repeat' first | with_reducible apply ih | with_reducible assumption | with_reducible apply request_ok | split
  | cons q_ qs_ ih =>
  unfold readRuns
  try dsimp only
  repeat' first | with_reducible apply ih | with_reducible assumption | with_reducible apply request_ok | split

theorem askAll_ok (x : Nat) (a1 : List Nat) (a2 : State) (ha2 : a2.Ok) : (askAll x a1 a2).Ok := by
  induction a1 generalizing x a2 with
  | nil =>
  unfold askAll
  repeat' first | with_reducible apply ih | with_reducible assumption | with_reducible apply askWalk_ok
  | cons q_ qs_ ih =>
  unfold askAll
  repeat' first | with_reducible apply ih | with_reducible assumption | with_reducible apply askWalk_ok

theorem writeRuns_ok (x : Nat) (c : Nat) (k : Cmd) (frac : Nat) (a4 : List (Nat × List Byte)) (a5 : State) (ha5 : a5.Ok) :
    (writeRuns x c k frac a4 a5).1.Ok := by
  induction a4 generalizing x c k frac a5 with
  | nil =>
  unfold writeRuns
  dsimp only
  repeat' first | with_reducible apply ih | with_reducible assumption | with_reducible apply request_ok | split
  | cons q_ qs_ ih =>
  unfold writeRuns
  dsimp only
  repeat' first | with_reducible apply ih | with_reducible assumption | with_reducible apply request_ok | split

theorem castRuns_ok (x : Nat) (c : Nat) (k : Cmd) (a3 : List (Nat × List Byte)) (a4 : State) (ha4 : a4.Ok) :
    (castRuns x c k a3 a4).Ok := by
  induction a3 generalizing x c k a4 with
  | nil =>
  unfold castRuns
  repeat' first
    | with_reducible apply ih
    | with_reducible assumption
    | with_reducible apply arrive_ok
    | extract_lets
    | split
    | with_reducible refine State.mk_ok rfl rfl rfl rfl rfl ?_
  | cons q_ qs_ ih =>
  unfold castRuns
  repeat' first
    | with_reducible apply ih
    | with_reducible assumption
    | with_reducible apply arrive_ok
    | extract_lets
    | split
    | with_reducible refine State.mk_ok rfl rfl rfl rfl rfl ?_

theorem takeWrites_ok (x : Nat) (c : Nat) (k : Cmd) (g : Geo) (s : State) (hs : s.Ok) : (takeWrites x c k g s).Ok := by
  unfold takeWrites
  dsimp only
  repeat' first
    | with_reducible assumption
    | with_reducible apply dropReqs_ok
    | with_reducible apply digestReqs_ok
    | with_reducible apply faultReqs_ok
    | with_reducible apply putCmd_ok
    | with_reducible apply scrambleDest_ok
    | split

theorem failCmd_ok (x : Nat) (c : Nat) (k : Cmd) (g : Geo) (st : Nat × Nat) (s : State) (hs : s.Ok) :
    (failCmd x c k g st s).Ok := by
  unfold failCmd
  dsimp only
  repeat' first
    | with_reducible assumption
    | with_reducible apply dropReqs_ok
    | with_reducible apply putCmd_ok
    | with_reducible apply takeWrites_ok
    | split

theorem putChunk_ok (x : Nat) (c : Nat) (k : Cmd) (g : Geo) (ws : List (Int × List Byte)) (s : State) (hs : s.Ok) :
    (putChunk x c k g ws s).1.Ok := by
  unfold putChunk
  repeat' first
    | with_reducible assumption
    | with_reducible apply State.seatOf_ok
    | with_reducible apply State.putSeatOf_ok
    | with_reducible apply Seat.writeWords_ok
    | with_reducible apply Seat.writeCode_ok
    | with_reducible apply writeRuns_ok
    | with_reducible apply castRuns_ok
    | intro _
    | with_reducible apply foldl_seat_ok
    | split

theorem convertChunk_ok (x : Nat) (c : Nat) (k : Cmd) (g : Geo) (s : State) (hs : s.Ok) : (convertChunk x c k g s).Ok := by
  unfold convertChunk
  repeat' first
    | with_reducible assumption
    | with_reducible apply State.setUE_ok
    | with_reducible apply State.seatOf_ok
    | with_reducible apply State.putSeatOf_ok
    | with_reducible apply postFault_ok
    | with_reducible apply postKey_ok
    | with_reducible apply dropReqs_ok
    | with_reducible apply faultReqs_ok
    | with_reducible apply Seat.release_ok
    | with_reducible apply putCmd_ok
    | with_reducible apply askAll_ok
    | with_reducible apply takeWrites_ok
    | with_reducible apply failCmd_ok
    | with_reducible apply putChunk_ok
    | extract_lets
    | split
    | with_reducible refine State.mk_ok rfl rfl rfl rfl rfl ?_

theorem moveCopy_ok (x : Nat) (c : Nat) (k : Cmd) (s : State) (hs : s.Ok) : (moveCopy x c k s).Ok := by
  unfold moveCopy
  repeat' first
    | with_reducible assumption
    | with_reducible apply postFault_ok
    | with_reducible apply putCmd_ok
    | with_reducible apply readRuns_ok
    | with_reducible apply askAll_ok
    | with_reducible apply takeWrites_ok
    | with_reducible apply failCmd_ok
    | with_reducible apply convertChunk_ok
    | extract_lets
    | split

theorem finishCmd_ok (x : Nat) (c : Nat) (k : Cmd) (word : Nat) (s : State) (hs : s.Ok) : (finishCmd x c k word s).Ok := by
  unfold finishCmd
  dsimp only
  repeat' first
    | with_reducible assumption
    | with_reducible apply addRec_ok
    | with_reducible apply State.seatOf_ok
    | with_reducible apply State.putSeatOf_ok
    | with_reducible apply settle_ok
    | with_reducible apply Seat.release_ok
    | with_reducible apply putCmd_ok
    | with_reducible apply delCmd_ok
    | split

theorem leaveCmd_ok (x : Nat) (c : Nat) (k : Cmd) (s : State) (hs : s.Ok) : (leaveCmd x c k s).Ok := by
  unfold leaveCmd
  repeat' first | with_reducible assumption | with_reducible apply delCmd_ok | split

theorem ratomOld.ratomEnd_ok (x : Nat) (c : Nat) (k : Cmd) (s : State) (hs : s.Ok) : (ratomOld.ratomEnd x c k s).Ok := by
  unfold ratomOld.ratomEnd
  repeat' first
    | with_reducible assumption
    | with_reducible apply postFault_ok
    | with_reducible apply dropReqs_ok
    | with_reducible apply finishCmd_ok
    | split

theorem ratomOld_ok (x : Nat) (c : Nat) (k : Cmd) (f : AFmt) (old : List Byte) (s : State) (hs : s.Ok) :
    (ratomOld x c k f old s).Ok := by
  unfold ratomOld
  dsimp only
  repeat' first
    | with_reducible assumption
    | with_reducible apply postFault_ok
    | with_reducible apply request_ok
    | with_reducible apply putCmd_ok
    | with_reducible apply finishCmd_ok
    | with_reducible apply ratomOld.ratomEnd_ok
    | split

theorem moveRatom.answered_ok (x : Nat) (c : Nat) (f : AFmt) (s : State) (k : Cmd) (hs : s.Ok) :
    (moveRatom.answered x c f s k).Ok := by
  unfold moveRatom.answered
  dsimp only
  repeat' first
    | with_reducible assumption
    | with_reducible apply dropReqs_ok
    | with_reducible apply faultReqs_ok
    | with_reducible apply putCmd_ok
    | with_reducible apply ratomOld_ok
    | split

theorem moveRatom_ok (x : Nat) (c : Nat) (k : Cmd) (op : AOp) (f : AFmt) (s : State) (hs : s.Ok) :
    (moveRatom x c k op f s).Ok := by
  unfold moveRatom
  dsimp only
  repeat' first
    | with_reducible assumption
    | with_reducible apply askWalk_ok
    | with_reducible apply postFault_ok
    | with_reducible apply request_ok
    | with_reducible apply putCmd_ok
    | with_reducible apply finishCmd_ok
    | with_reducible apply leaveCmd_ok
    | with_reducible apply ratomOld.ratomEnd_ok
    | with_reducible apply moveRatom.answered_ok
    | split

theorem moveKilnw.fin_ok (x : Nat) (c : Nat) (k : Cmd) (s : State) (hs : s.Ok) : (moveKilnw.fin x c k s).Ok := by
  unfold moveKilnw.fin
  dsimp only
  repeat' first
    | with_reducible assumption
    | with_reducible apply postFault_ok
    | with_reducible apply dropReqs_ok
    | with_reducible apply digestReqs_ok
    | with_reducible apply delCmd_ok
    | intro _
    | with_reducible apply foldl_ok
    | split

theorem moveKilnw_ok (x : Nat) (c : Nat) (k : Cmd) (s : State) (hs : s.Ok) : (moveKilnw x c k s).Ok := by
  unfold moveKilnw
  repeat' first
    | with_reducible assumption
    | with_reducible apply askWalk_ok
    | with_reducible apply postFault_ok
    | with_reducible apply request_ok
    | with_reducible apply putCmd_ok
    | with_reducible apply delCmd_ok
    | with_reducible apply moveKilnw.fin_ok
    | split

theorem moveDigest.take_ok (x : Nat) (c : Nat) (k : Cmd) (s : State) (hs : s.Ok) : (moveDigest.take x c k s).Ok := by
  unfold moveDigest.take
  dsimp only
  repeat' first
    | with_reducible assumption
    | with_reducible apply dropReqs_ok
    | with_reducible apply faultReqs_ok
    | with_reducible apply putCmd_ok
    | split

theorem moveDigest_ok (x : Nat) (c : Nat) (k : Cmd) (s : State) (hs : s.Ok) : (moveDigest x c k s).Ok := by
  unfold moveDigest
  dsimp only
  repeat' first
    | with_reducible assumption
    | with_reducible apply postFault_ok
    | with_reducible apply dropReqs_ok
    | with_reducible apply putCmd_ok
    | with_reducible apply readRuns_ok
    | with_reducible apply askAll_ok
    | with_reducible apply moveDigest.take_ok
    | split

theorem execDigestComplete.last_ok (c : Nat) (x : Nat) (k : Cmd) (s : State) (hs : s.Ok) :
    (execDigestComplete.last c x k s).Ok := by
  unfold execDigestComplete.last
  dsimp only
  repeat' first
    | with_reducible assumption
    | with_reducible apply dropReqs_ok
    | with_reducible apply digestReqs_ok
    | with_reducible apply faultReqs_ok
    | with_reducible apply finishCmd_ok
    | split

theorem execDigestComplete_ok (c : Nat) (id : Nat) (s : State) (hs : s.Ok) : OutOk (execDigestComplete c id s) := by
  unfold execDigestComplete
  dsimp only
  repeat' first
    | with_reducible assumption
    | with_reducible apply postFault_ok
    | with_reducible apply request_ok
    | with_reducible apply putCmd_ok
    | with_reducible apply finishCmd_ok
    | with_reducible apply leaveCmd_ok
    | with_reducible apply execDigestComplete.last_ok
    | with_reducible apply OutOk_next
    | split

theorem execCopyChunk_ok (c : Nat) (id : Nat) (s : State) (hs : s.Ok) : OutOk (execCopyChunk c id s) := by
  unfold execCopyChunk
  repeat' first
    | with_reducible assumption
    | with_reducible apply moveCopy_ok
    | with_reducible apply moveRatom_ok
    | with_reducible apply moveKilnw_ok
    | with_reducible apply moveDigest_ok
    | with_reducible apply OutOk_next
    | extract_lets
    | split

theorem execCopyComplete_ok (c : Nat) (id : Nat) (s : State) (hs : s.Ok) : OutOk (execCopyComplete c id s) := by
  unfold execCopyComplete
  dsimp only
  repeat' first
    | with_reducible assumption
    | with_reducible apply finishCmd_ok
    | with_reducible apply leaveCmd_ok
    | with_reducible apply OutOk_next
    | split

theorem execEfenceComplete_ok (c : Nat) (id : Nat) (s : State) (hs : s.Ok) : OutOk (execEfenceComplete c id s) := by
  unfold execEfenceComplete
  repeat' first
    | with_reducible assumption
    | with_reducible apply finishCmd_ok
    | with_reducible apply leaveCmd_ok
    | with_reducible apply OutOk_next
    | split

theorem execAtomicdata_ok (p : Packet) (s : State) (hs : s.Ok) : OutOk (execAtomicdata p s) := by
  unfold execAtomicdata
  dsimp only
  repeat' first
    | with_reducible assumption
    | with_reducible apply response_ok
    | with_reducible apply execCopyChunk_ok
    | with_reducible apply OutOk_next
    | split

/-! ## Gather.lean -/

theorem deliver_ok (x : Nat) (c : Nat) (q : Nat) (bs : List Byte) (oob : Bool) (xf : Bool) (s : State) (hs : s.Ok) :
    (deliver x c q bs oob xf s).Ok := by
  unfold deliver
  dsimp only
  repeat' first
    | with_reducible assumption
    | with_reducible apply Seat.putQ_ok
    | with_reducible apply State.seatOf_ok
    | with_reducible apply State.putSeatOf_ok
    | with_reducible apply dropReqs_ok
    | split

theorem rowReqs_ok (x : Nat) (c : Nat) (q : Nat) (o : Origin) (a4 : List (Nat × Nat)) (a5 : State) (ha5 : a5.Ok) :
    (rowReqs x c q o a4 a5).1.Ok := by
  induction a4 generalizing x c q o a5 with
  | nil =>
  unfold rowReqs
  try dsimp only
  repeat' first | with_reducible apply ih | with_reducible assumption | with_reducible apply request_ok | split
  | cons q_ qs_ ih =>
  unfold rowReqs
  try dsimp only
  repeat' first | with_reducible apply ih | with_reducible assumption | with_reducible apply request_ok | split

theorem takeRow_ok (x : Nat) (c : Nat) (q : Nat) (e : AEntry) (va : Nat) (s : State) (hs : s.Ok) :
    (takeRow x c q e va s).Ok := by
  unfold takeRow
  dsimp only
  repeat' first | with_reducible assumption | with_reducible apply postFault_ok | with_reducible apply deliver_ok | split

theorem execGatherRowDelivery_ok (c : Nat) (q : Nat) (s : State) (hs : s.Ok) : OutOk (execGatherRowDelivery c q s) := by
  unfold execGatherRowDelivery
  dsimp only
  repeat' first
    | with_reducible assumption
    | with_reducible apply postFault_ok
    | with_reducible apply askAll_ok
    | with_reducible apply deliver_ok
    | with_reducible apply rowReqs_ok
    | with_reducible apply takeRow_ok
    | with_reducible apply OutOk_next
    | split

theorem execGstartIndexEntry_ok (c : Nat) (q : Nat) (s : State) (hs : s.Ok) : OutOk (execGstartIndexEntry c q s) := by
  unfold execGstartIndexEntry
  dsimp only
  repeat' first
    | with_reducible assumption
    | with_reducible apply State.setUE_ok
    | with_reducible apply State.used_ok
    | with_reducible apply Seat.putQ_ok
    | with_reducible apply Seat.release_ok
    | with_reducible apply OutOk_next
    | with_reducible apply State.putSeat_ok
    | with_reducible apply State.seat_ok
    | split

theorem onIssuer_ok (x : Nat) (c : Nat) (o : Origin) (f : Stream → Stream) (s : State) (hs : s.Ok) :
    (onIssuer x c o f s).Ok := by
  unfold onIssuer
  dsimp only
  repeat' first
    | with_reducible assumption
    | with_reducible apply State.seatOf_ok
    | with_reducible apply State.putSeatOf_ok
    | with_reducible apply Seat.putSt_ok

theorem toRing_ok (x : Nat) (r : FRec) (s : State) (hs : s.Ok) : (toRing x r s).Ok := by
  unfold toRing
  dsimp only
  repeat' first
    | with_reducible assumption
    | with_reducible apply State.setFld_ok
    | with_reducible apply hbmWrite_ok
    | split

theorem countRec_ok (o : Origin) (cause : Nat) (s : State) (hs : s.Ok) : (countRec o cause s).Ok := by
  unfold countRec
  repeat' first | with_reducible assumption | with_reducible refine State.mk_ok rfl rfl rfl rfl rfl ?_

theorem deliverRec_ok (x : Nat) (p : FPost) (s : State) (hs : s.Ok) : (deliverRec x p s).Ok := by
  unfold deliverRec
  repeat' first
    | with_reducible assumption
    | with_reducible apply onIssuer_ok
    | with_reducible apply toRing_ok
    | with_reducible apply countRec_ok
    | split

theorem execFaultRecordPost_ok (x : Nat) (s : State) (hs : s.Ok) : OutOk (execFaultRecordPost x s) := by
  unfold execFaultRecordPost
  dsimp only
  repeat' first
    | with_reducible assumption
    | with_reducible apply deliverRec_ok
    | with_reducible apply OutOk_next
    | with_reducible apply State.putCtx_ok
    | with_reducible apply State.ctx_ok
    | split
    | with_reducible refine Ctx.mk_ok rfl ?_

theorem execKeyUseReport_ok (x : Nat) (s : State) (hs : s.Ok) : OutOk (execKeyUseReport x s) := by
  unfold execKeyUseReport
  dsimp only
  repeat' first
    | with_reducible assumption
    | with_reducible apply onIssuer_ok
    | with_reducible apply toRing_ok
    | with_reducible apply OutOk_next
    | with_reducible apply State.putCtx_ok
    | with_reducible apply State.ctx_ok
    | split
    | with_reducible refine Ctx.mk_ok rfl ?_

theorem execPageWalk_ok (x : Nat) (s : State) (hs : s.Ok) : OutOk (execPageWalk x s) := by
  unfold execPageWalk
  dsimp only
  repeat' first
    | with_reducible assumption
    | with_reducible apply State.setUE_ok
    | with_reducible apply OutOk_next
    | with_reducible apply State.putCtx_ok
    | with_reducible apply State.ctx_ok
    | split
    | with_reducible refine Ctx.mk_ok rfl ?_

end Sys2Proof.Machine
end

