-- ==== Sys2Proof/Laws/CanonMachine.lean ====
section
/-! SUPPORT. Every memory keeps its canonical form: collectives, launches, debug records, system registers, vectors and routines. One law per function. -/

namespace Sys2Proof.Machine

/-! ## Collective.lean -/

theorem putColl_ok (k : Coll) (s : State) (hs : s.Ok) : (putColl k s).Ok := by
  unfold putColl
  repeat' first | with_reducible assumption | with_reducible refine State.mk_ok rfl rfl rfl rfl rfl ?_

theorem setInfl_ok (x : Nat) (s : State) (hs : s.Ok) : (setInfl x s).Ok := by
  unfold setInfl
  repeat' first | with_reducible assumption | with_reducible apply State.setFld_ok

theorem sendTo_ok (pkg : Nat) (dctx : Nat) (pri : Bool) (pay : List Byte) (s : State) (hs : s.Ok) :
    (sendTo pkg dctx pri pay s).Ok := by
  unfold sendTo
  dsimp only
  repeat' first | with_reducible assumption | split | with_reducible refine State.mk_ok rfl rfl rfl rfl rfl ?_

theorem sendChunk_ok (e : List Word) (pri : Bool) (pay : List Byte) (s : State) (hs : s.Ok) :
    (sendChunk e pri pay s).Ok := by
  unfold sendChunk
  repeat' first | with_reducible assumption | with_reducible apply sendTo_ok

theorem giveCredit_ok (e : List Word) (wf : Nat) (kind : Nat) (step : Nat) (seq : Nat) (s : State) (hs : s.Ok) :
    (giveCredit e wf kind step seq s).Ok := by
  unfold giveCredit
  repeat' first | with_reducible assumption | with_reducible apply sendChunk_ok

theorem sendMarker_ok (e : List Word) (k : Coll) (a : Nat × Nat × Nat × Nat) (s : State) (hs : s.Ok) :
    (sendMarker e k a s).Ok := by
  unfold sendMarker
  dsimp only
  repeat' first | with_reducible assumption | with_reducible apply sendChunk_ok

theorem dropColl_ok (id : Nat) (s : State) (hs : s.Ok) : (dropColl id s).Ok := by
  unfold dropColl
  repeat' first | with_reducible assumption | with_reducible apply dropReqs_ok | intro _ | with_reducible apply foldl_ok

theorem abortColl_ok (k : Coll) (reason : Nat) (cause : Nat) (at_1 : Option (Nat × Nat)) (from_ : Option Nat) (s : State) (hs : s.Ok) :
    (abortColl k reason cause at_1 from_ s).Ok := by
  unfold abortColl
  repeat' first
    | with_reducible assumption
    | with_reducible apply putColl_ok
    | with_reducible apply giveCredit_ok
    | with_reducible apply sendMarker_ok
    | with_reducible apply dropColl_ok
    | intro _
    | with_reducible apply foldl_ok
    | extract_lets
    | split
    | with_reducible refine State.mk_ok rfl rfl rfl rfl rfl ?_

theorem issueColl_ok (kind : Nat) (a : RegF) (b : RegF) (ch : Nat) (s : State) (hs : s.Ok) :
    (issueColl kind a b ch s).Ok := by
  unfold issueColl
  dsimp only
  repeat' first
    | with_reducible assumption
    | with_reducible apply addRec_ok
    | with_reducible apply postFault_ok
    | with_reducible apply settle_ok
    | with_reducible apply setInfl_ok
    | with_reducible apply State.putCtx_ok
    | with_reducible apply State.ctx_ok
    | split
    | with_reducible refine State.mk_ok rfl rfl rfl rfl rfl ?_
    | with_reducible refine Ctx.mk_ok rfl ?_

theorem execCsend_ok (a : RegF) (b : RegF) (ch : BitVec 12) (s : State) (hs : s.Ok) : OutOk (execCsend a b ch s) := by
  unfold execCsend
  repeat' first
    | with_reducible assumption
    | with_reducible apply runSlot_ok
    | with_reducible apply issueColl_ok
    | with_reducible apply ExcOk_ok

theorem execCrecv_ok (a : RegF) (b : RegF) (ch : BitVec 12) (s : State) (hs : s.Ok) : OutOk (execCrecv a b ch s) := by
  unfold execCrecv
  repeat' first
    | with_reducible assumption
    | with_reducible apply runSlot_ok
    | with_reducible apply issueColl_ok
    | with_reducible apply ExcOk_ok

theorem execCcollAllred_ok (a : RegF) (b : RegF) (r : BitVec 10) (s : State) (hs : s.Ok) :
    OutOk (execCcollAllred a b r s) := by
  unfold execCcollAllred
  repeat' first
    | with_reducible assumption
    | with_reducible apply runSlot_ok
    | with_reducible apply issueColl_ok
    | with_reducible apply ExcOk_ok

theorem execCcollRedscat_ok (a : RegF) (b : RegF) (r : BitVec 10) (s : State) (hs : s.Ok) :
    OutOk (execCcollRedscat a b r s) := by
  unfold execCcollRedscat
  repeat' first
    | with_reducible assumption
    | with_reducible apply runSlot_ok
    | with_reducible apply issueColl_ok
    | with_reducible apply ExcOk_ok

theorem execCcollAllgath_ok (a : RegF) (b : RegF) (r : BitVec 10) (s : State) (hs : s.Ok) :
    OutOk (execCcollAllgath a b r s) := by
  unfold execCcollAllgath
  repeat' first
    | with_reducible assumption
    | with_reducible apply runSlot_ok
    | with_reducible apply issueColl_ok
    | with_reducible apply ExcOk_ok

theorem execCcollBcast_ok (a : RegF) (b : RegF) (r : BitVec 10) (s : State) (hs : s.Ok) :
    OutOk (execCcollBcast a b r s) := by
  unfold execCcollBcast
  repeat' first
    | with_reducible assumption
    | with_reducible apply runSlot_ok
    | with_reducible apply issueColl_ok
    | with_reducible apply ExcOk_ok

theorem execCcollReduce_ok (a : RegF) (b : RegF) (r : BitVec 10) (s : State) (hs : s.Ok) :
    OutOk (execCcollReduce a b r s) := by
  unfold execCcollReduce
  repeat' first
    | with_reducible assumption
    | with_reducible apply runSlot_ok
    | with_reducible apply issueColl_ok
    | with_reducible apply ExcOk_ok

theorem execCcollPxch_ok (a : RegF) (b : RegF) (r : BitVec 10) (s : State) (hs : s.Ok) : OutOk (execCcollPxch a b r s) := by
  unfold execCcollPxch
  repeat' first
    | with_reducible assumption
    | with_reducible apply runSlot_ok
    | with_reducible apply issueColl_ok
    | with_reducible apply ExcOk_ok

theorem Coll.ask_ok (k : Coll) (q : Nat) (es : List Nat) (s : State) (hs : s.Ok) : (Coll.ask k q es s).1.Ok := by
  unfold Coll.ask
  dsimp only
  repeat' first
    | with_reducible assumption
    | with_reducible apply request_ok
    | intro _
    | with_reducible apply foldl_fst_ok
    | split

theorem Coll.put_ok (k : Coll) (q : Nat) (ws : List (Nat × List Byte)) (s : State) (hs : s.Ok) :
    (Coll.put k q ws s).1.Ok := by
  unfold Coll.put
  dsimp only
  repeat' first
    | with_reducible assumption
    | with_reducible apply request_ok
    | intro _
    | with_reducible apply foldl_fst_ok
    | split

theorem Coll.note_ok (k : Coll) (fl : Nat) (converts : Bool) (s : State) (hs : s.Ok) :
    (Coll.note k fl converts s).2.Ok := by
  unfold Coll.note
  dsimp only
  repeat' first | with_reducible assumption | with_reducible apply postKey_ok | split

theorem landChunk_ok (k : Coll) (o : Nat) (n : Nat) (data : List Byte) (s : State) (hs : s.Ok) :
    (landChunk k o n data s).Ok := by
  unfold landChunk
  repeat' first
    | with_reducible assumption
    | with_reducible apply putColl_ok
    | with_reducible apply abortColl_ok
    | with_reducible apply Coll.put_ok
    | with_reducible apply Coll.note_ok
    | extract_lets
    | split

theorem produceOwn_ok (k : Coll) (o : Nat) (n : Nat) (last : Bool) (s : State) (hs : s.Ok) :
    (produceOwn k o n last s).Ok := by
  unfold produceOwn
  dsimp only
  repeat' first
    | with_reducible assumption
    | with_reducible apply putColl_ok
    | with_reducible apply Coll.note_ok
    | with_reducible apply landChunk_ok
    | split

theorem finalChunk_ok (k : Coll) (w : Wire) (vs : List XVal) (s : State) (hs : s.Ok) : (finalChunk k w vs s).Ok := by
  unfold finalChunk
  extract_lets opt outs vals fl en z src k1 s1 put a b c k2
  have h1 : s1.Ok := putColl_ok _ _ (Coll.note_ok _ _ _ _ hs)
  split
  · have ha : a.1.Ok := Coll.put_ok _ _ _ _ h1
    have hb : b.1.Ok := by
      show State.Ok (Prod.fst (ite _ _ _))
      split
      · exact ha
      · exact Coll.put_ok _ _ _ _ ha
    have hc : c.1.Ok := by
      show State.Ok (Prod.fst (ite _ _ _))
      split
      · exact hb
      · exact Coll.put_ok _ _ _ _ hb
    split
    · exact abortColl_ok _ _ _ _ _ _ hc
    · exact landChunk_ok _ _ _ _ _ (putColl_ok _ _ hc)
  · exact landChunk_ok _ _ _ _ _ h1

theorem takeWire_ok (k : Coll) (w : Wire) (combines : Bool) (s : State) (hs : s.Ok) : (takeWire k w combines s).Ok := by
  unfold takeWire
  dsimp only
  repeat' first
    | with_reducible assumption
    | with_reducible apply putColl_ok
    | with_reducible apply giveCredit_ok
    | with_reducible apply Coll.note_ok
    | with_reducible apply landChunk_ok
    | with_reducible apply finalChunk_ok
    | split

theorem askWords_ok (k : Coll) (ws : List (Nat × List Nat)) (s : State) (hs : s.Ok) : (askWords k ws s).Ok := by
  unfold askWords
  dsimp only
  repeat' first
    | with_reducible assumption
    | with_reducible apply abortColl_ok
    | with_reducible apply Coll.ask_ok
    | intro _
    | with_reducible apply foldl_fst_ok
    | split

theorem moveColl_ok (k : Coll) (s : State) (hs : s.Ok) : SomeOk (moveColl k s) := by
  unfold moveColl
  dsimp only
  repeat' first
    | with_reducible assumption
    | with_reducible apply dropReqs_ok
    | with_reducible apply digestReqs_ok
    | with_reducible apply putColl_ok
    | with_reducible apply sendChunk_ok
    | with_reducible apply abortColl_ok
    | with_reducible apply produceOwn_ok
    | with_reducible apply takeWire_ok
    | with_reducible apply askWords_ok
    | with_reducible apply SomeOk_some
    | with_reducible exact SomeOk_none
    | with_reducible apply State.putCtx_ok
    | with_reducible apply State.ctx_ok
    | split
    | with_reducible refine Ctx.mk_ok rfl ?_

theorem pump_ok (a0 : Nat) (a1 : Nat) (a2 : State) (ha2 : a2.Ok) : (pump a0 a1 a2).Ok := by
  induction a0 generalizing a1 a2 with
  | zero =>
  unfold pump
  repeat' first
    | with_reducible apply ih
    | with_reducible assumption
    | with_reducible apply moveColl_ok
    | split
    | with_reducible refine some_ok (by with_reducible assumption) ?_
  | succ f_ ih =>
  unfold pump
  repeat' first
    | with_reducible apply ih
    | with_reducible assumption
    | with_reducible apply moveColl_ok
    | split
    | with_reducible refine some_ok (by with_reducible assumption) ?_

theorem pumped_ok (id : Nat) (s : State) (hs : s.Ok) : (pumped id s).Ok := by
  unfold pumped
  repeat' first | with_reducible assumption | with_reducible apply settle_ok | with_reducible apply pump_ok

theorem takeChunk_ok (p : Packet) (s : State) (hs : s.Ok) : (takeChunk p s).Ok := by
  unfold takeChunk
  repeat' first
    | with_reducible assumption
    | with_reducible apply putColl_ok
    | with_reducible apply sendTo_ok
    | with_reducible apply giveCredit_ok
    | with_reducible apply abortColl_ok
    | with_reducible apply pumped_ok
    | with_reducible apply State.putCtx_ok
    | with_reducible apply State.ctx_ok
    | extract_lets
    | split
    | with_reducible refine Ctx.mk_ok rfl ?_

theorem execChunk_ok (p : Packet) (s : State) (hs : s.Ok) : OutOk (execChunk p s) := by
  unfold execChunk
  repeat' first | with_reducible assumption | with_reducible apply takeChunk_ok | with_reducible apply OutOk_next

theorem takeMarker_ok (p : Packet) (s : State) (hs : s.Ok) : (takeMarker p s).Ok := by
  unfold takeMarker
  dsimp only
  repeat' first
    | with_reducible assumption
    | with_reducible apply abortColl_ok
    | with_reducible apply pumped_ok
    | with_reducible apply State.putCtx_ok
    | with_reducible apply State.ctx_ok
    | split
    | with_reducible refine Ctx.mk_ok rfl ?_

theorem execAbortMarker_ok (p : Packet) (s : State) (hs : s.Ok) : OutOk (execAbortMarker p s) := by
  unfold execAbortMarker
  repeat' first | with_reducible assumption | with_reducible apply takeMarker_ok | with_reducible apply OutOk_next

theorem execCreditReturn_ok (p : Packet) (s : State) (hs : s.Ok) : OutOk (execCreditReturn p s) := by
  unfold execCreditReturn
  dsimp only
  repeat' first
    | with_reducible assumption
    | with_reducible apply putColl_ok
    | with_reducible apply pumped_ok
    | with_reducible apply OutOk_next
    | with_reducible apply State.putCtx_ok
    | with_reducible apply State.ctx_ok
    | split
    | with_reducible refine Ctx.mk_ok rfl ?_

theorem unhold_ok (x : Nat) (mine : Packet → Bool) (s : State) (hs : s.Ok) : (unhold x mine s).Ok := by
  unfold unhold
  repeat' first
    | with_reducible assumption
    | with_reducible apply State.putCtx_ok
    | with_reducible apply State.ctx_ok
    | with_reducible refine Ctx.mk_ok rfl ?_

theorem discardHeld_ok (k : Coll) (s : State) (hs : s.Ok) : (discardHeld k s).Ok := by
  unfold discardHeld
  dsimp only
  repeat' first
    | with_reducible assumption
    | with_reducible apply giveCredit_ok
    | with_reducible apply unhold_ok
    | intro _
    | with_reducible apply foldl_ok

theorem releaseChunks_ok (k : Coll) (s : State) (hs : s.Ok) : (releaseChunks k s).Ok := by
  unfold releaseChunks
  repeat' first
    | with_reducible assumption
    | with_reducible apply unhold_ok
    | with_reducible apply takeChunk_ok
    | with_reducible apply takeMarker_ok
    | intro _
    | with_reducible apply State.putCtx_ok
    | with_reducible apply foldl_ok
    | with_reducible apply State.ctx_ok
    | split
    | with_reducible refine Ctx.mk_ok rfl ?_

theorem readOpt_ok (k : Coll) (s : State) (hs : s.Ok) : (readOpt k s).Ok := by
  unfold readOpt
  dsimp only
  repeat' first
    | with_reducible assumption
    | with_reducible apply request_ok
    | with_reducible apply putColl_ok
    | with_reducible apply abortColl_ok
    | split

theorem takeOpt_ok (k : Coll) (s : State) (hs : s.Ok) : (takeOpt k s).Ok := by
  unfold takeOpt
  dsimp only
  repeat' first
    | with_reducible assumption
    | with_reducible apply dropReqs_ok
    | with_reducible apply putColl_ok
    | with_reducible apply abortColl_ok
    | split

theorem startSeq_ok (k : Coll) (s : State) (hs : s.Ok) : (startSeq k s).2.Ok := by
  unfold startSeq
  dsimp only
  repeat' first
    | with_reducible assumption
    | with_reducible apply State.putCtx_ok
    | with_reducible apply State.ctx_ok
    | with_reducible refine Ctx.mk_ok rfl ?_

theorem execCollectiveStart_ok (id : Nat) (s : State) (hs : s.Ok) : OutOk (execCollectiveStart id s) := by
  unfold execCollectiveStart
  repeat' first
    | with_reducible assumption
    | with_reducible apply putColl_ok
    | with_reducible apply pumped_ok
    | with_reducible apply releaseChunks_ok
    | with_reducible apply readOpt_ok
    | with_reducible apply takeOpt_ok
    | with_reducible apply startSeq_ok
    | with_reducible apply OutOk_next
    | extract_lets
    | split
    | with_reducible refine State.mk_ok rfl rfl rfl rfl rfl ?_

theorem execStepTimeout_ok (id : Nat) (s : State) (hs : s.Ok) : OutOk (execStepTimeout id s) := by
  unfold execStepTimeout
  repeat' first
    | with_reducible assumption
    | with_reducible apply putColl_ok
    | with_reducible apply abortColl_ok
    | with_reducible apply pumped_ok
    | with_reducible apply OutOk_next
    | split

theorem scrambleColl_ok (k : Coll) (s : State) (hs : s.Ok) : (scrambleColl k s).Ok := by
  unfold scrambleColl
  extract_lets size tr z writes s1 mine s3 n
  have h1 : s1.Ok := State.mk_ok rfl rfl rfl rfl rfl hs
  have h2 : s3.Ok := foldl_ok writes (fun t w ht => by
    split
    · exact ht
    · exact scrambleSet_ok _ _ _ _ t ht) h1
  clear_value writes s1 s3
  split
  · exact h2
  · split
    · exact h2
    · exact foldl_ok _ (fun t q ht => scrambleRun_ok _ _ _ t ht) h2

theorem flipEntry_ok (x : Nat) (i : Nat) (s : State) (hs : s.Ok) : (flipEntry x i s).Ok := by
  unfold flipEntry
  dsimp only
  repeat' first
    | with_reducible assumption
    | with_reducible apply hbmWrite_ok
    | with_reducible apply State.putCtx_ok
    | with_reducible apply State.ctx_ok
    | split
    | with_reducible refine Ctx.mk_ok rfl ?_

theorem endColl_ok (k : Coll) (lo : Word) (s : State) (hs : s.Ok) : (endColl k lo s).Ok := by
  unfold endColl
  dsimp only
  repeat' first
    | with_reducible assumption
    | with_reducible apply addRec_ok
    | with_reducible apply settle_ok
    | with_reducible apply putColl_ok
    | with_reducible apply setInfl_ok
    | split
    | with_reducible refine State.mk_ok rfl rfl rfl rfl rfl ?_

theorem execCollectiveComplete_ok (id : Nat) (s : State) (hs : s.Ok) : OutOk (execCollectiveComplete id s) := by
  unfold execCollectiveComplete
  dsimp only
  repeat' first
    | with_reducible assumption
    | with_reducible apply State.bump_ok
    | with_reducible apply setInfl_ok
    | with_reducible apply pumped_ok
    | with_reducible apply scrambleColl_ok
    | with_reducible apply flipEntry_ok
    | with_reducible apply endColl_ok
    | intro _
    | with_reducible apply OutOk_next
    | with_reducible apply foldl_ok
    | split
    | with_reducible refine State.mk_ok rfl rfl rfl rfl rfl ?_

theorem execPrioritySwitch_ok (port : Nat) (s : State) (hs : s.Ok) : OutOk (execPrioritySwitch port s) := by
  unfold execPrioritySwitch
  dsimp only
  repeat' first | with_reducible assumption | with_reducible apply State.putPort_ok | with_reducible apply OutOk_next

theorem tickTimers_ok (s : State) (hs : s.Ok) : (tickTimers s).Ok := by
  unfold tickTimers
  repeat' first | with_reducible assumption | with_reducible refine State.mk_ok rfl rfl rfl rfl rfl ?_

theorem killColl_ok (k : Coll) (s : State) (hs : s.Ok) : (killColl k s).Ok := by
  unfold killColl
  dsimp only
  repeat' first
    | with_reducible assumption
    | with_reducible apply discardHeld_ok
    | with_reducible apply putColl_ok
    | with_reducible apply abortColl_ok
    | with_reducible apply startSeq_ok
    | split

theorem killColls_ok (x : Nat) (s : State) (hs : s.Ok) : (killColls x s).Ok := by
  unfold killColls
  exact foldl_ok _ (fun t _ ht => takeChunk_ok _ t ht)
    (unhold_ok _ _ _ (foldl_ok _ (fun t k ht => killColl_ok k t ht) hs))

/-! ## Reload.lean -/

theorem loadRanges_ok (x : Nat) (is : List Nat) (s : State) (hs : s.Ok) : (loadRanges x is s).Ok := by
  unfold loadRanges
  dsimp only
  repeat' first
    | with_reducible assumption
    | with_reducible apply State.setFld_ok
    | with_reducible apply hbmSeen_ok
    | with_reducible apply State.putCtx_ok
    | with_reducible apply State.ctx_ok
    | intro _
    | with_reducible apply foldl_ok
    | split
    | with_reducible refine Ctx.mk_ok rfl ?_

theorem xinvGo_ok (x : Nat) (kind : Nat) (s : State) (hs : s.Ok) : (xinvGo x kind s).Ok := by
  unfold xinvGo
  repeat' first | with_reducible assumption | with_reducible apply State.setFld_ok | split

theorem execXinvContext_ok (x : Nat) (s : State) (hs : s.Ok) : OutOk (execXinvContext x s) := by
  unfold execXinvContext
  repeat' first | with_reducible assumption | with_reducible apply xinvGo_ok | with_reducible apply OutOk_next

theorem execXinvPages_ok (x : Nat) (s : State) (hs : s.Ok) : OutOk (execXinvPages x s) := by
  unfold execXinvPages
  repeat' first | with_reducible assumption | with_reducible apply xinvGo_ok | with_reducible apply OutOk_next

theorem execXinvRanges_ok (x : Nat) (s : State) (hs : s.Ok) : OutOk (execXinvRanges x s) := by
  unfold execXinvRanges
  repeat' first | with_reducible assumption | with_reducible apply xinvGo_ok | with_reducible apply OutOk_next

theorem execXinvNop_ok (_x : Nat) (s : State) (hs : s.Ok) : OutOk (execXinvNop _x s) := by
  unfold execXinvNop
  repeat' first | with_reducible assumption | with_reducible apply OutOk_next

theorem execXinvComplete_ok (x : Nat) (s : State) (hs : s.Ok) : OutOk (execXinvComplete x s) := by
  unfold execXinvComplete
  dsimp only
  repeat' first
    | with_reducible assumption
    | with_reducible apply State.setFld_ok
    | with_reducible apply loadRanges_ok
    | with_reducible apply OutOk_next
    | with_reducible apply State.putCtx_ok
    | with_reducible apply State.ctx_ok
    | split
    | with_reducible refine Ctx.mk_ok rfl ?_

theorem reloadGroup_ok (x : Nat) (base : Option Nat) (mc : Bool) (i : Nat) (s : State) (hs : s.Ok) :
    (reloadGroup x base mc i s).Ok := by
  unfold reloadGroup
  dsimp only
  repeat' first
    | with_reducible assumption
    | with_reducible apply hbmSeen_ok
    | with_reducible apply State.setFld_ok
    | with_reducible apply State.putCtx_ok
    | with_reducible apply State.ctx_ok
    | split
    | with_reducible refine Ctx.mk_ok rfl ?_

theorem mgctlGo_ok (x : Nat) (tbl : Nat) (s : State) (hs : s.Ok) : (mgctlGo x tbl s).Ok := by
  unfold mgctlGo
  repeat' first | with_reducible assumption | with_reducible apply State.setFld_ok | split

theorem execMgctlReloadReduction_ok (x : Nat) (s : State) (hs : s.Ok) : OutOk (execMgctlReloadReduction x s) := by
  unfold execMgctlReloadReduction
  repeat' first | with_reducible assumption | with_reducible apply mgctlGo_ok | with_reducible apply OutOk_next

theorem execMgctlReloadMulticast_ok (x : Nat) (s : State) (hs : s.Ok) : OutOk (execMgctlReloadMulticast x s) := by
  unfold execMgctlReloadMulticast
  repeat' first | with_reducible assumption | with_reducible apply mgctlGo_ok | with_reducible apply OutOk_next

theorem execMgctlReloadDone_ok (x : Nat) (s : State) (hs : s.Ok) : OutOk (execMgctlReloadDone x s) := by
  unfold execMgctlReloadDone
  dsimp only
  repeat' first
    | with_reducible assumption
    | with_reducible apply State.setFld_ok
    | with_reducible apply reloadGroup_ok
    | intro _
    | with_reducible apply OutOk_next
    | with_reducible apply foldl_ok
    | split

theorem loadChan_ok (x : Nat) (b : Nat) (i : Nat) (s : State) (hs : s.Ok) : (loadChan x b i s).Ok := by
  unfold loadChan
  dsimp only
  repeat' first
    | with_reducible assumption
    | with_reducible apply hbmSeen_ok
    | with_reducible apply State.putCtx_ok
    | with_reducible apply State.ctx_ok
    | split
    | with_reducible refine Ctx.mk_ok rfl ?_

theorem loadRing_ok (x : Nat) (b : Nat) (i : Nat) (s : State) (hs : s.Ok) : (loadRing x b i s).Ok := by
  unfold loadRing
  dsimp only
  repeat' first
    | with_reducible assumption
    | with_reducible apply hbmSeen_ok
    | with_reducible apply State.putCtx_ok
    | with_reducible apply State.ctx_ok
    | with_reducible refine Ctx.mk_ok rfl ?_

theorem clctlGo_ok (x : Nat) (tbl : Nat) (s : State) (hs : s.Ok) : (clctlGo x tbl s).Ok := by
  unfold clctlGo
  dsimp only
  repeat' first | with_reducible assumption | with_reducible apply State.setFld_ok | split

theorem execClctlReloadChannels_ok (x : Nat) (s : State) (hs : s.Ok) : OutOk (execClctlReloadChannels x s) := by
  unfold execClctlReloadChannels
  repeat' first | with_reducible assumption | with_reducible apply clctlGo_ok | with_reducible apply OutOk_next

theorem execClctlReloadRings_ok (x : Nat) (s : State) (hs : s.Ok) : OutOk (execClctlReloadRings x s) := by
  unfold execClctlReloadRings
  repeat' first | with_reducible assumption | with_reducible apply clctlGo_ok | with_reducible apply OutOk_next

theorem execClctlReloadDone_ok (x : Nat) (s : State) (hs : s.Ok) : OutOk (execClctlReloadDone x s) := by
  unfold execClctlReloadDone
  dsimp only
  repeat' first
    | with_reducible assumption
    | with_reducible apply State.setFld_ok
    | with_reducible apply loadChan_ok
    | with_reducible apply loadRing_ok
    | intro _
    | with_reducible apply OutOk_next
    | with_reducible apply foldl_ok
    | split

/-! ## Launch.lean -/

theorem fetchRuns_ok (x : Nat) (o : Origin) (a : Agent) (a3 : List (Nat × Nat)) (a4 : State) (ha4 : a4.Ok) :
    (fetchRuns x o a a3 a4).1.Ok := by
  induction a3 generalizing x o a a4 with
  | nil =>
  unfold fetchRuns
  try dsimp only
  repeat' first | with_reducible apply ih | with_reducible assumption | with_reducible apply request_ok | split
  | cons q_ qs_ ih =>
  unfold fetchRuns
  try dsimp only
  repeat' first | with_reducible apply ih | with_reducible assumption | with_reducible apply request_ok | split

theorem fetchVirt_ok (x : Nat) (o : Origin) (a : Agent) (va : Nat) (n : Nat) (s : State) (hs : s.Ok) :
    (fetchVirt x o a va n s).1.Ok := by
  unfold fetchVirt
  dsimp only
  repeat' first
    | with_reducible assumption
    | with_reducible apply dropReqs_ok
    | with_reducible apply askAll_ok
    | with_reducible apply fetchRuns_ok
    | split

theorem endLaunch_ok (x : Nat) (h : List Word) (status : Nat) (cause : Nat) (s : State) (hs : s.Ok) :
    (endLaunch x h status cause s).Ok := by
  unfold endLaunch
  repeat' first | with_reducible assumption | with_reducible apply addRec_ok | with_reducible apply settle_ok | split

theorem addLaunch_ok (x : Nat) (h : List Word) (entry : Nat) (cl : Nat) (al : Nat) (s : State) (hs : s.Ok) :
    (addLaunch x h entry cl al s).Ok := by
  unfold addLaunch
  repeat' first | with_reducible assumption | with_reducible refine State.mk_ok rfl rfl rfl rfl rfl ?_

theorem acceptHeader_ok (x : Nat) (n : Nat) (h : List Word) (s : State) (hs : s.Ok) : (acceptHeader x n h s).1.Ok := by
  unfold acceptHeader
  dsimp only
  repeat' first
    | with_reducible assumption
    | with_reducible apply fetchVirt_ok
    | with_reducible apply endLaunch_ok
    | with_reducible apply addLaunch_ok
    | split

theorem dropHdr_ok (n : Nat) (s : State) (hs : s.Ok) : (dropHdr n s).Ok := by
  unfold dropHdr
  repeat' first | with_reducible assumption | with_reducible apply dropReqs_ok

theorem dropHead_ok (q : Nat) (s : State) (hs : s.Ok) : (dropHead q s).Ok := by
  unfold dropHead
  dsimp only
  repeat' first
    | with_reducible assumption
    | with_reducible apply dropHdr_ok
    | with_reducible refine State.mk_ok rfl rfl rfl rfl rfl ?_

theorem acceptWords_ok (q : Nat) (h : List Word) (s : State) (hs : s.Ok) : (acceptWords q h s).Ok := by
  unfold acceptWords
  dsimp only
  repeat' first
    | with_reducible assumption
    | with_reducible apply State.setFld_ok
    | with_reducible apply acceptHeader_ok
    | with_reducible apply dropHead_ok
    | split
    | with_reducible refine State.mk_ok rfl rfl rfl rfl rfl ?_

theorem acceptQueue_ok (q : Nat) (s : State) (hs : s.Ok) : (acceptQueue q s).Ok := by
  unfold acceptQueue
  dsimp only
  repeat' first
    | with_reducible assumption
    | with_reducible apply State.setFld_ok
    | with_reducible apply State.setUE_ok
    | with_reducible apply acceptWords_ok
    | split
    | with_reducible refine State.mk_ok rfl rfl rfl rfl rfl ?_

theorem acceptSpawn_ok (p : Spawn) (ps : List Spawn) (s : State) (hs : s.Ok) : (acceptSpawn p ps s).Ok := by
  unfold acceptSpawn
  dsimp only
  repeat' first
    | with_reducible assumption
    | with_reducible apply postFault_ok
    | with_reducible apply fetchVirt_ok
    | with_reducible apply acceptHeader_ok
    | with_reducible apply dropHdr_ok
    | split
    | dsimp only
    | with_reducible refine State.mk_ok rfl rfl rfl rfl rfl ?_

theorem execLaunchAccept_ok (q : Option Nat) (s : State) (hs : s.Ok) : OutOk (execLaunchAccept q s) := by
  unfold execLaunchAccept
  repeat' first
    | with_reducible assumption
    | with_reducible apply acceptQueue_ok
    | with_reducible apply acceptSpawn_ok
    | with_reducible apply OutOk_next
    | split

theorem execLaunchQueuePoll_ok (q : Nat) (s : State) (hs : s.Ok) : OutOk (execLaunchQueuePoll q s) := by
  unfold execLaunchQueuePoll
  dsimp only
  repeat' first
    | with_reducible assumption
    | with_reducible apply State.setFld_ok
    | with_reducible apply OutOk_next
    | split
    | with_reducible refine State.mk_ok rfl rfl rfl rfl rfl ?_

theorem execLqbaseWrite_ok (q : Nat) (v : Word) (s : State) (hs : s.Ok) : OutOk (execLqbaseWrite q v s) := by
  unfold execLqbaseWrite
  dsimp only
  repeat' first
    | with_reducible assumption
    | with_reducible apply State.setReg_ok
    | with_reducible apply State.setFld_ok
    | with_reducible apply dropHead_ok
    | with_reducible apply OutOk_next
    | split
    | with_reducible refine State.mk_ok rfl rfl rfl rfl rfl ?_

theorem startAll_ok (l : Launch) (gid0 : Nat) (a2 : Nat) (a3 : List (Nat × Bool)) (a4 : State) (ha4 : a4.Ok) :
    (startAll l gid0 a2 a3 a4).Ok := by
  induction a3 generalizing a2 a4 with
  | nil => exact ha4
  | cons p ps ih => exact ih _ _ (State.putSt_ok ha4)

theorem makeGangs_ok (skew : Nat) (m : Nat) (a2 : Nat) (a3 : List (Nat × Bool)) (a4 : State) (ha4 : a4.Ok) :
    (makeGangs skew m a2 a3 a4).Ok := by
  induction a2 generalizing skew m a3 a4 with
  | zero =>
  unfold makeGangs
  repeat' first
    | with_reducible apply ih
    | with_reducible assumption
    | split
    | with_reducible refine State.mk_ok rfl rfl rfl rfl rfl ?_
  | succ f_ ih =>
  unfold makeGangs
  repeat' first
    | with_reducible apply ih
    | with_reducible assumption
    | split
    | with_reducible refine State.mk_ok rfl rfl rfl rfl rfl ?_

theorem execUnitDispatch_ok (l : Nat) (s : State) (hs : s.Ok) : OutOk (execUnitDispatch l s) := by
  unfold execUnitDispatch
  dsimp only
  repeat' first
    | with_reducible assumption
    | with_reducible apply startAll_ok
    | with_reducible apply makeGangs_ok
    | with_reducible apply OutOk_next
    | split
    | with_reducible refine State.mk_ok rfl rfl rfl rfl rfl ?_

theorem execLaunchAged_ok (l : Nat) (s : State) (hs : s.Ok) : OutOk (execLaunchAged l s) := by
  unfold execLaunchAged
  repeat' first
    | with_reducible assumption
    | with_reducible apply OutOk_next
    | with_reducible refine State.mk_ok rfl rfl rfl rfl rfl ?_

theorem dropLoads_ok (c : Nat) (keep : Option Nat) (s : State) (hs : s.Ok) : (dropLoads c keep s).Ok := by
  unfold dropLoads
  repeat' first | with_reducible assumption | with_reducible refine State.mk_ok rfl rfl rfl rfl rfl ?_

theorem scrambleCode_ok (lo : Nat) (n : Nat) (c : Nat) (s : State) (hs : s.Ok) : (scrambleCode lo n c s).Ok := by
  unfold scrambleCode
  dsimp only
  repeat' first
    | with_reducible assumption
    | with_reducible apply State.used_ok
    | intro _
    | with_reducible apply State.putSeat_ok
    | with_reducible apply foldl_ok
    | with_reducible apply Mem.wf_setBytes
    | with_reducible apply Seat.Ok.spad
    | with_reducible apply Seat.Ok.ispad
    | with_reducible apply State.seat_ok
    | split
    | with_reducible refine Seat.mk_ok2 ?_ ?_

theorem execImageLoad_ok (c : Nat) (s : State) (hs : s.Ok) : OutOk (execImageLoad c s) := by
  unfold execImageLoad
  repeat' first
    | with_reducible assumption
    | with_reducible apply fetchVirt_ok
    | with_reducible apply dropHdr_ok
    | with_reducible apply dropLoads_ok
    | with_reducible apply scrambleCode_ok
    | with_reducible apply OutOk_next
    | with_reducible apply State.putSeat_ok
    | with_reducible apply Mem.wf_setBytes
    | with_reducible apply Seat.Ok.spad
    | with_reducible apply Seat.Ok.ispad
    | with_reducible apply State.seat_ok
    | extract_lets
    | split
    | with_reducible refine State.mk_ok rfl rfl rfl rfl rfl ?_
    | with_reducible refine Seat.mk_ok rfl rfl ?_
    | with_reducible refine Seat.mk_ok2 ?_ ?_

theorem execLaunchComplete_ok (l : Nat) (s : State) (hs : s.Ok) : OutOk (execLaunchComplete l s) := by
  unfold execLaunchComplete
  dsimp only
  repeat' first
    | with_reducible assumption
    | with_reducible apply addRec_ok
    | with_reducible apply settle_ok
    | with_reducible apply OutOk_next
    | split
    | with_reducible refine State.mk_ok rfl rfl rfl rfl rfl ?_

/-! ## Debug.lean -/

theorem debugRec_ok (x : Nat) (r : DRec) (s : State) (hs : s.Ok) : (debugRec x r s).Ok := by
  unfold debugRec
  dsimp only
  repeat' first
    | with_reducible assumption
    | with_reducible apply State.setFld_ok
    | with_reducible apply State.bump_ok
    | with_reducible apply hbmWrite_ok
    | split

theorem endDev_ok (x : Nat) (c : Nat) (t : Bool) (s : State) (hs : s.Ok) : (endDev x c t s).Ok := by
  unfold endDev
  dsimp only
  repeat' first
    | with_reducible assumption
    | with_reducible apply State.bump_ok
    | with_reducible apply debugRec_ok
    | with_reducible apply State.putSt_ok
    | split

theorem lose_ok (x : Nat) (c : Nat) (t : Bool) (l : Nat × Nat × Nat) (s : State) (hs : s.Ok) : (lose x c t l s).Ok := by
  unfold lose
  dsimp only
  repeat' first | with_reducible assumption | with_reducible apply endDev_ok | with_reducible apply State.putSt_ok | split

theorem devCycle_ok (c : Nat) (t : Bool) (s : State) (hs : s.Ok) : (devCycle c t s).Ok := by
  unfold devCycle
  repeat' first | with_reducible assumption | with_reducible apply endDev_ok | with_reducible apply lose_ok | split

theorem sampleOf_ok (x : Nat) (c : Nat) (t : Bool) (s : State) (hs : s.Ok) : (sampleOf x c t s).Ok := by
  unfold sampleOf
  dsimp only
  repeat' first | with_reducible assumption | with_reducible apply debugRec_ok | split

theorem execSampleRecord_ok (x : Nat) (s : State) (hs : s.Ok) : OutOk (execSampleRecord x s) := by
  unfold execSampleRecord
  dsimp only
  repeat' first
    | with_reducible assumption
    | with_reducible apply sampleOf_ok
    | intro _
    | with_reducible apply OutOk_next
    | with_reducible apply foldl_ok
    | split

theorem branchRec_ok (kind : Nat) (target : Nat) (s : State) (hs : s.Ok) : (branchRec kind target s).Ok := by
  unfold branchRec
  dsimp only
  repeat' first | with_reducible assumption | with_reducible apply debugRec_ok | split

theorem trapRec_ok (c : Nat) (t : Bool) (code : Nat) (cause : Nat) (top : Nat) (slot : Nat) (wid : Word) (s : State) (hs : s.Ok) :
    (trapRec c t code cause top slot wid s).Ok := by
  unfold trapRec
  repeat' first | with_reducible assumption | with_reducible apply debugRec_ok | split

/-! ## Sys.lean -/

theorem sysWriteSeat_ok (n : Nat) (v : Word) (x : Seat) (hx : x.Ok) : (sysWriteSeat n v x).Ok := by
  unfold sysWriteSeat
  dsimp only
  repeat' first | with_reducible assumption | with_reducible apply Seat.putQ_ok | split

theorem sysLand_ok (c : Nat) (t : Bool) (n : Nat) (v : Word) (s : State) (hs : s.Ok) : (sysLand c t n v s).Ok := by
  unfold sysLand
  dsimp only
  repeat' first
    | with_reducible assumption
    | with_reducible apply sysWriteSeat_ok
    | with_reducible apply State.putSeat_ok
    | with_reducible apply State.putCtx_ok
    | with_reducible apply Seat.putSt_ok
    | with_reducible apply State.seat_ok
    | with_reducible apply State.ctx_ok
    | split
    | with_reducible refine Ctx.mk_ok rfl ?_

theorem Seat.turn_ok (x : Seat) (v : Bool) (t : Nat) (hx : x.Ok) : (Seat.turn x v t).Ok := by
  unfold Seat.turn
  dsimp only
  split
  · exact hx
  · exact Seat.mk_ok2 (wf_turnTile _ _ hx.spad) hx.ispad

theorem tctl_ok (c : Nat) (v : Word) (f : Seat → Seat) (s : State) (hf : ∀ x, x.Ok → (f x).Ok) (hs : s.Ok) :
    ExcOk (tctl c v f s) := by
  unfold tctl
  repeat' first
    | with_reducible apply hf
    | with_reducible assumption
    | with_reducible apply ExcOk_ok
    | with_reducible exact ExcOk_error
    | with_reducible apply State.putSeat_ok
    | with_reducible apply State.seat_ok
    | split

theorem tctlStep_ok (r : Except (Nat × Nat) State) (s : State) (hr : ExcOk r) (hs : s.Ok) : OutOk (tctlStep r s) := by
  unfold tctlStep
  repeat' first
    | with_reducible assumption
    | with_reducible apply OutOk_next
    | split
    | with_reducible exact excCase_ok (by with_reducible assumption)

theorem tilesTo_ok (v : Word) (o : Owner) (x : Seat) (hx : x.Ok) : (tilesTo v o x).Ok := by
  unfold tilesTo
  dsimp only
  repeat' first
    | with_reducible assumption
    | with_reducible apply Seat.putTile_ok
    | intro _
    | with_reducible apply foldl_seat_ok

theorem doTctlNone_ok (c : Nat) (_t : Bool) (v : Word) (s : State) (hs : s.Ok) : ExcOk (doTctlNone c _t v s) := tctl_ok _ _ _ _ (fun _ h => h) hs

theorem doTctlSetSkew_ok (c : Nat) (_t : Bool) (v : Word) (s : State) (hs : s.Ok) : ExcOk (doTctlSetSkew c _t v s) := by
  unfold doTctlSetSkew
  repeat' first
    | with_reducible assumption
    | with_reducible apply Seat.turn_ok
    | with_reducible apply tctl_ok
    | intro _
    | with_reducible apply foldl_seat_ok

theorem doTctlClearSkew_ok (c : Nat) (_t : Bool) (v : Word) (s : State) (hs : s.Ok) : ExcOk (doTctlClearSkew c _t v s) := by
  unfold doTctlClearSkew
  repeat' first
    | with_reducible assumption
    | with_reducible apply Seat.turn_ok
    | with_reducible apply tctl_ok
    | intro _
    | with_reducible apply foldl_seat_ok

theorem doTctlMakeMailbox_ok (c : Nat) (_t : Bool) (v : Word) (s : State) (hs : s.Ok) :
    ExcOk (doTctlMakeMailbox c _t v s) := by
  unfold doTctlMakeMailbox
  repeat' first | with_reducible assumption | with_reducible apply tctl_ok | with_reducible apply tilesTo_ok

theorem doTctlReleaseMailbox_ok (c : Nat) (_t : Bool) (v : Word) (s : State) (hs : s.Ok) :
    ExcOk (doTctlReleaseMailbox c _t v s) := by
  unfold doTctlReleaseMailbox
  repeat' first
    | with_reducible assumption
    | with_reducible apply Seat.grants_ok
    | with_reducible apply tctl_ok
    | with_reducible apply tilesTo_ok
    | intro _

theorem doTctlDisarm_ok (c : Nat) (_t : Bool) (v : Word) (s : State) (hs : s.Ok) : ExcOk (doTctlDisarm c _t v s) := by
  unfold doTctlDisarm
  dsimp only
  repeat' first
    | with_reducible assumption
    | with_reducible apply Seat.grants_ok
    | with_reducible apply tctl_ok
    | with_reducible apply tilesTo_ok
    | intro _
    | with_reducible refine Seat.mk_ok rfl rfl ?_

theorem doTctl_ok (c : Nat) (t : Bool) (v : Word) (s : State) (hs : s.Ok) : ExcOk (doTctl c t v s) := by
  unfold doTctl
  repeat' first
    | with_reducible assumption
    | with_reducible apply doTctlNone_ok
    | with_reducible apply doTctlSetSkew_ok
    | with_reducible apply doTctlClearSkew_ok
    | with_reducible apply doTctlMakeMailbox_ok
    | with_reducible apply doTctlReleaseMailbox_ok
    | with_reducible apply doTctlDisarm_ok
    | split

theorem execTctlNone_ok (c : Nat) (t : Bool) (v : Word) (s : State) (hs : s.Ok) : OutOk (execTctlNone c t v s) := by
  unfold execTctlNone
  repeat' first | with_reducible assumption | with_reducible apply tctlStep_ok | with_reducible apply doTctlNone_ok

theorem execTctlSetSkew_ok (c : Nat) (t : Bool) (v : Word) (s : State) (hs : s.Ok) : OutOk (execTctlSetSkew c t v s) := by
  unfold execTctlSetSkew
  repeat' first | with_reducible assumption | with_reducible apply tctlStep_ok | with_reducible apply doTctlSetSkew_ok

theorem execTctlClearSkew_ok (c : Nat) (t : Bool) (v : Word) (s : State) (hs : s.Ok) :
    OutOk (execTctlClearSkew c t v s) := by
  unfold execTctlClearSkew
  repeat' first | with_reducible assumption | with_reducible apply tctlStep_ok | with_reducible apply doTctlClearSkew_ok

theorem execTctlMakeMailbox_ok (c : Nat) (t : Bool) (v : Word) (s : State) (hs : s.Ok) :
    OutOk (execTctlMakeMailbox c t v s) := by
  unfold execTctlMakeMailbox
  repeat' first | with_reducible assumption | with_reducible apply tctlStep_ok | with_reducible apply doTctlMakeMailbox_ok

theorem execTctlReleaseMailbox_ok (c : Nat) (t : Bool) (v : Word) (s : State) (hs : s.Ok) :
    OutOk (execTctlReleaseMailbox c t v s) := by
  unfold execTctlReleaseMailbox
  repeat' first
    | with_reducible assumption
    | with_reducible apply tctlStep_ok
    | with_reducible apply doTctlReleaseMailbox_ok

theorem execTctlDisarm_ok (c : Nat) (t : Bool) (v : Word) (s : State) (hs : s.Ok) : OutOk (execTctlDisarm c t v s) := by
  unfold execTctlDisarm
  repeat' first | with_reducible assumption | with_reducible apply tctlStep_ok | with_reducible apply doTctlDisarm_ok

/-! ## Vector.lean -/

theorem landLanes_ok (d : RegF) (lat : Nat) (rs : List (Nat × Nat × Nat)) (s : State) (hs : s.Ok) :
    (landLanes d lat rs s).Ok := by
  unfold landLanes
  repeat' first | with_reducible assumption | with_reducible apply land_ok | split

theorem lanewise_ok (fs : List RegF) (d : RegF) (k : F3) (c : CSet) (lat : Nat) (f : Nat → Nat × Nat) (s : State) (hs : s.Ok) :
    OutOk (lanewise fs d k c lat f s) := by
  unfold lanewise
  repeat' first
    | with_reducible assumption
    | with_reducible apply runSlot_ok
    | with_reducible apply landLanes_ok
    | with_reducible apply ExcOk_ok

theorem vec2_ok (d : RegF) (a : RegF) (b : RegF) (k : F3) (c : CSet) (lat : Nat) (f : Nat → Nat → Nat × Nat) (s : State) (hs : s.Ok) :
    OutOk (vec2 d a b k c lat f s) := by
  unfold vec2
  repeat' first | with_reducible assumption | with_reducible apply lanewise_ok

theorem vec1_ok (d : RegF) (a : RegF) (k : F3) (c : CSet) (lat : Nat) (f : Nat → Nat × Nat) (s : State) (hs : s.Ok) :
    OutOk (vec1 d a k c lat f s) := by
  unfold vec1
  repeat' first | with_reducible assumption | with_reducible apply lanewise_ok

theorem execVaddI32_ok (d : RegF) (a : RegF) (b : RegF) (k : F3) (c : CSet) (s : State) (hs : s.Ok) :
    OutOk (execVaddI32 d a b k c s) := by
  unfold execVaddI32
  repeat' first | with_reducible assumption | with_reducible apply vec2_ok

theorem execVsubI32_ok (d : RegF) (a : RegF) (b : RegF) (k : F3) (c : CSet) (s : State) (hs : s.Ok) :
    OutOk (execVsubI32 d a b k c s) := by
  unfold execVsubI32
  repeat' first | with_reducible assumption | with_reducible apply vec2_ok

theorem execVmulI32_ok (d : RegF) (a : RegF) (b : RegF) (k : F3) (c : CSet) (s : State) (hs : s.Ok) :
    OutOk (execVmulI32 d a b k c s) := by
  unfold execVmulI32
  repeat' first | with_reducible assumption | with_reducible apply vec2_ok

theorem execVmulh_ok (d : RegF) (a : RegF) (b : RegF) (k : F3) (c : CSet) (s : State) (hs : s.Ok) :
    OutOk (execVmulh d a b k c s) := by
  unfold execVmulh
  repeat' first | with_reducible assumption | with_reducible apply vec2_ok

theorem execVand_ok (d : RegF) (a : RegF) (b : RegF) (k : F3) (c : CSet) (s : State) (hs : s.Ok) :
    OutOk (execVand d a b k c s) := by
  unfold execVand
  repeat' first | with_reducible assumption | with_reducible apply vec2_ok

theorem execVor_ok (d : RegF) (a : RegF) (b : RegF) (k : F3) (c : CSet) (s : State) (hs : s.Ok) :
    OutOk (execVor d a b k c s) := by
  unfold execVor
  repeat' first | with_reducible assumption | with_reducible apply vec2_ok

theorem execVxor_ok (d : RegF) (a : RegF) (b : RegF) (k : F3) (c : CSet) (s : State) (hs : s.Ok) :
    OutOk (execVxor d a b k c s) := by
  unfold execVxor
  repeat' first | with_reducible assumption | with_reducible apply vec2_ok

theorem execVabsI32_ok (d : RegF) (a : RegF) (k : F3) (c : CSet) (s : State) (hs : s.Ok) :
    OutOk (execVabsI32 d a k c s) := by
  unfold execVabsI32
  repeat' first | with_reducible assumption | with_reducible apply vec1_ok

theorem execVshl_ok (d : RegF) (a : RegF) (b : RegF) (k : F3) (c : CSet) (s : State) (hs : s.Ok) :
    OutOk (execVshl d a b k c s) := by
  unfold execVshl
  repeat' first | with_reducible assumption | with_reducible apply vec2_ok

theorem execVshr_ok (d : RegF) (a : RegF) (b : RegF) (k : F3) (c : CSet) (s : State) (hs : s.Ok) :
    OutOk (execVshr d a b k c s) := by
  unfold execVshr
  repeat' first | with_reducible assumption | with_reducible apply vec2_ok

theorem execVsar_ok (d : RegF) (a : RegF) (b : RegF) (k : F3) (c : CSet) (s : State) (hs : s.Ok) :
    OutOk (execVsar d a b k c s) := by
  unfold execVsar
  repeat' first | with_reducible assumption | with_reducible apply vec2_ok

theorem execVminI32_ok (d : RegF) (a : RegF) (b : RegF) (k : F3) (c : CSet) (s : State) (hs : s.Ok) :
    OutOk (execVminI32 d a b k c s) := by
  unfold execVminI32
  repeat' first | with_reducible assumption | with_reducible apply vec2_ok

theorem execVmaxI32_ok (d : RegF) (a : RegF) (b : RegF) (k : F3) (c : CSet) (s : State) (hs : s.Ok) :
    OutOk (execVmaxI32 d a b k c s) := by
  unfold execVmaxI32
  repeat' first | with_reducible assumption | with_reducible apply vec2_ok

theorem execVminU32_ok (d : RegF) (a : RegF) (b : RegF) (k : F3) (c : CSet) (s : State) (hs : s.Ok) :
    OutOk (execVminU32 d a b k c s) := by
  unfold execVminU32
  repeat' first | with_reducible assumption | with_reducible apply vec2_ok

theorem execVmaxU32_ok (d : RegF) (a : RegF) (b : RegF) (k : F3) (c : CSet) (s : State) (hs : s.Ok) :
    OutOk (execVmaxU32 d a b k c s) := by
  unfold execVmaxU32
  repeat' first | with_reducible assumption | with_reducible apply vec2_ok

theorem execVaddF32_ok (d : RegF) (a : RegF) (b : RegF) (k : F3) (c : CSet) (s : State) (hs : s.Ok) :
    OutOk (execVaddF32 d a b k c s) := by
  unfold execVaddF32
  repeat' first | with_reducible assumption | with_reducible apply vec2_ok

theorem execVsubF32_ok (d : RegF) (a : RegF) (b : RegF) (k : F3) (c : CSet) (s : State) (hs : s.Ok) :
    OutOk (execVsubF32 d a b k c s) := by
  unfold execVsubF32
  repeat' first | with_reducible assumption | with_reducible apply vec2_ok

theorem execVmulF32_ok (d : RegF) (a : RegF) (b : RegF) (k : F3) (c : CSet) (s : State) (hs : s.Ok) :
    OutOk (execVmulF32 d a b k c s) := by
  unfold execVmulF32
  repeat' first | with_reducible assumption | with_reducible apply vec2_ok

theorem execVfmaF32_ok (d : RegF) (a : RegF) (b : RegF) (k : F3) (c : CSet) (s : State) (hs : s.Ok) :
    OutOk (execVfmaF32 d a b k c s) := by
  unfold execVfmaF32
  repeat' first | with_reducible assumption | with_reducible apply lanewise_ok

theorem execVminF32_ok (d : RegF) (a : RegF) (b : RegF) (k : F3) (c : CSet) (s : State) (hs : s.Ok) :
    OutOk (execVminF32 d a b k c s) := by
  unfold execVminF32
  repeat' first | with_reducible assumption | with_reducible apply vec2_ok

theorem execVmaxF32_ok (d : RegF) (a : RegF) (b : RegF) (k : F3) (c : CSet) (s : State) (hs : s.Ok) :
    OutOk (execVmaxF32 d a b k c s) := by
  unfold execVmaxF32
  repeat' first | with_reducible assumption | with_reducible apply vec2_ok

theorem execVdot2Bf16_ok (d : RegF) (a : RegF) (b : RegF) (k : F3) (c : CSet) (s : State) (hs : s.Ok) :
    OutOk (execVdot2Bf16 d a b k c s) := by
  unfold execVdot2Bf16
  repeat' first | with_reducible assumption | with_reducible apply vec2_ok

theorem execVabsF32_ok (d : RegF) (a : RegF) (k : F3) (c : CSet) (s : State) (hs : s.Ok) :
    OutOk (execVabsF32 d a k c s) := by
  unfold execVabsF32
  repeat' first | with_reducible assumption | with_reducible apply vec1_ok

theorem execVnegF32_ok (d : RegF) (a : RegF) (k : F3) (c : CSet) (s : State) (hs : s.Ok) :
    OutOk (execVnegF32 d a k c s) := by
  unfold execVnegF32
  repeat' first | with_reducible assumption | with_reducible apply vec1_ok

theorem execVcpysF32_ok (d : RegF) (a : RegF) (b : RegF) (k : F3) (c : CSet) (s : State) (hs : s.Ok) :
    OutOk (execVcpysF32 d a b k c s) := by
  unfold execVcpysF32
  repeat' first | with_reducible assumption | with_reducible apply vec2_ok

theorem landMask_ok (d : F3) (rs : List (Nat × Bool × Nat)) (s : State) (hs : s.Ok) : (landMask d rs s).Ok := by
  unfold landMask
  repeat' first | with_reducible assumption | with_reducible apply land_ok | split

theorem execVcmpF32_ok (d : F3) (a : RegF) (b : RegF) (k : F3) (c : CSet) (f : FCond) (s : State) (hs : s.Ok) :
    OutOk (execVcmpF32 d a b k c f s) := by
  unfold execVcmpF32
  repeat' first
    | with_reducible assumption
    | with_reducible apply runSlot_ok
    | with_reducible apply landMask_ok
    | with_reducible apply ExcOk_ok

theorem execVcmpI32_ok (d : F3) (a : RegF) (b : RegF) (k : F3) (c : CSet) (f : ICond) (s : State) (hs : s.Ok) :
    OutOk (execVcmpI32 d a b k c f s) := by
  unfold execVcmpI32
  repeat' first
    | with_reducible assumption
    | with_reducible apply runSlot_ok
    | with_reducible apply landMask_ok
    | with_reducible apply ExcOk_ok

theorem execVmov_ok (d : RegF) (a : RegF) (k : F3) (c : CSet) (s : State) (hs : s.Ok) : OutOk (execVmov d a k c s) := by
  unfold execVmov
  repeat' first | with_reducible assumption | with_reducible apply vec1_ok

theorem execVsel_ok (d : RegF) (a : RegF) (b : RegF) (k : F3) (c : CSet) (s : State) (hs : s.Ok) :
    OutOk (execVsel d a b k c s) := by
  unfold execVsel
  dsimp only
  repeat' first
    | with_reducible assumption
    | with_reducible apply runSlot_ok
    | with_reducible apply landLanes_ok
    | with_reducible apply ExcOk_ok

theorem execVbcast_ok (d : RegF) (a : RegF) (k : F3) (c : CSet) (s : State) (hs : s.Ok) : OutOk (execVbcast d a k c s) := by
  unfold execVbcast
  dsimp only
  repeat' first | with_reducible assumption | with_reducible apply lanewise_ok

theorem execVextr_ok (d : RegF) (a : RegF) (b : RegF) (k : F3) (c : CSet) (s : State) (hs : s.Ok) :
    OutOk (execVextr d a b k c s) := by
  unfold execVextr
  dsimp only
  repeat' first
    | with_reducible assumption
    | with_reducible apply land_ok
    | with_reducible apply runSlot_ok
    | with_reducible apply ExcOk_ok
    | split

theorem execVins_ok (d : RegF) (a : RegF) (b : RegF) (k : F3) (c : CSet) (s : State) (hs : s.Ok) :
    OutOk (execVins d a b k c s) := by
  unfold execVins
  dsimp only
  repeat' first
    | with_reducible assumption
    | with_reducible apply runSlot_ok
    | with_reducible apply landLanes_ok
    | with_reducible apply ExcOk_ok

theorem execVperm_ok (d : RegF) (a : RegF) (b : RegF) (k : F3) (c : CSet) (s : State) (hs : s.Ok) :
    OutOk (execVperm d a b k c s) := by
  unfold execVperm
  repeat' first | with_reducible assumption | with_reducible apply lanewise_ok

theorem execVxcl_ok (d : RegF) (a : RegF) (r : F3) (k : F3) (c : CSet) (s : State) (hs : s.Ok) :
    OutOk (execVxcl d a r k c s) := by
  unfold execVxcl
  repeat' first | with_reducible assumption | with_reducible apply lanewise_ok

theorem execViota_ok (d : RegF) (k : F3) (c : CSet) (s : State) (hs : s.Ok) : OutOk (execViota d k c s) := by
  unfold execViota
  repeat' first | with_reducible assumption | with_reducible apply lanewise_ok

theorem vred_ok (d : RegF) (a : RegF) (k : F3) (c : CSet) (op : Nat → Nat → Nat × Nat) (ident : Nat) (s : State) (hs : s.Ok) :
    OutOk (vred d a k c op ident s) := by
  unfold vred
  dsimp only
  repeat' first
    | with_reducible assumption
    | with_reducible apply runSlot_ok
    | with_reducible apply landLanes_ok
    | with_reducible apply ExcOk_ok

theorem execVredaddF32_ok (d : RegF) (a : RegF) (k : F3) (c : CSet) (s : State) (hs : s.Ok) :
    OutOk (execVredaddF32 d a k c s) := by
  unfold execVredaddF32
  repeat' first | with_reducible assumption | with_reducible apply vred_ok

theorem execVredaddI32_ok (d : RegF) (a : RegF) (k : F3) (c : CSet) (s : State) (hs : s.Ok) :
    OutOk (execVredaddI32 d a k c s) := by
  unfold execVredaddI32
  repeat' first | with_reducible assumption | with_reducible apply vred_ok

theorem execVredmaxF32_ok (d : RegF) (a : RegF) (k : F3) (c : CSet) (s : State) (hs : s.Ok) :
    OutOk (execVredmaxF32 d a k c s) := by
  unfold execVredmaxF32
  repeat' first | with_reducible assumption | with_reducible apply vred_ok

theorem execVredmaxI32_ok (d : RegF) (a : RegF) (k : F3) (c : CSet) (s : State) (hs : s.Ok) :
    OutOk (execVredmaxI32 d a k c s) := by
  unfold execVredmaxI32
  repeat' first | with_reducible assumption | with_reducible apply vred_ok

theorem execVredminF32_ok (d : RegF) (a : RegF) (k : F3) (c : CSet) (s : State) (hs : s.Ok) :
    OutOk (execVredminF32 d a k c s) := by
  unfold execVredminF32
  repeat' first | with_reducible assumption | with_reducible apply vred_ok

theorem execVredminI32_ok (d : RegF) (a : RegF) (k : F3) (c : CSet) (s : State) (hs : s.Ok) :
    OutOk (execVredminI32 d a k c s) := by
  unfold execVredminI32
  repeat' first | with_reducible assumption | with_reducible apply vred_ok

theorem reportKey_ok (s : State) (hs : s.Ok) : (reportKey s).Ok := by
  unfold reportKey
  dsimp only
  repeat' first | with_reducible assumption | with_reducible apply postKey_ok

theorem srReport_ok (c : CSet) (s : State) (hs : s.Ok) : (srReport c s).Ok := by
  unfold srReport
  repeat' first | with_reducible assumption | with_reducible apply reportKey_ok | split

theorem execVcvt_ok (d : RegF) (a : RegF) (src : VFmt) (dst : VFmt) (k : F3) (c : CSet) (s : State) (hs : s.Ok) :
    OutOk (execVcvt d a src dst k c s) := by
  unfold execVcvt
  dsimp only
  repeat' first
    | with_reducible assumption
    | with_reducible apply runSlot_ok
    | with_reducible apply landLanes_ok
    | with_reducible apply srReport_ok
    | with_reducible apply ExcOk_ok

theorem cvtFx128_ok (d : RegF) (a : RegF) (p : Nat) (k : F3) (c : CSet) (s : State) (hs : s.Ok) :
    OutOk (cvtFx128 d a p k c s) := by
  unfold cvtFx128
  dsimp only
  repeat' first
    | with_reducible assumption
    | with_reducible apply runSlot_ok
    | with_reducible apply landLanes_ok
    | with_reducible apply srReport_ok
    | with_reducible apply ExcOk_ok

theorem execVcvtF32Fx128Lo_ok (d : RegF) (a : RegF) (p : BitVec 6) (k : F3) (c : CSet) (s : State) (hs : s.Ok) :
    OutOk (execVcvtF32Fx128Lo d a p k c s) := by
  unfold execVcvtF32Fx128Lo
  repeat' first | with_reducible assumption | with_reducible apply cvtFx128_ok

theorem execVcvtF32Fx128Hi_ok (d : RegF) (a : RegF) (p : BitVec 6) (k : F3) (c : CSet) (s : State) (hs : s.Ok) :
    OutOk (execVcvtF32Fx128Hi d a p k c s) := by
  unfold execVcvtF32Fx128Hi
  repeat' first | with_reducible assumption | with_reducible apply cvtFx128_ok

theorem execVrcp_ok (d : RegF) (a : RegF) (k : F3) (c : CSet) (s : State) (hs : s.Ok) : OutOk (execVrcp d a k c s) := by
  unfold execVrcp
  repeat' first | with_reducible assumption | with_reducible apply vec1_ok

theorem execVrcpr_ok (d : RegF) (a : RegF) (b : RegF) (k : F3) (c : CSet) (s : State) (hs : s.Ok) :
    OutOk (execVrcpr d a b k c s) := by
  unfold execVrcpr
  repeat' first | with_reducible assumption | with_reducible apply vec2_ok

theorem execVrsq_ok (d : RegF) (a : RegF) (k : F3) (c : CSet) (s : State) (hs : s.Ok) : OutOk (execVrsq d a k c s) := by
  unfold execVrsq
  repeat' first | with_reducible assumption | with_reducible apply vec1_ok

theorem execVrsqr_ok (d : RegF) (a : RegF) (b : RegF) (k : F3) (c : CSet) (s : State) (hs : s.Ok) :
    OutOk (execVrsqr d a b k c s) := by
  unfold execVrsqr
  repeat' first | with_reducible assumption | with_reducible apply vec2_ok

theorem execVsqrt_ok (d : RegF) (a : RegF) (k : F3) (c : CSet) (s : State) (hs : s.Ok) : OutOk (execVsqrt d a k c s) := by
  unfold execVsqrt
  repeat' first | with_reducible assumption | with_reducible apply vec1_ok

theorem execVexp2_ok (d : RegF) (a : RegF) (k : F3) (c : CSet) (s : State) (hs : s.Ok) : OutOk (execVexp2 d a k c s) := by
  unfold execVexp2
  repeat' first | with_reducible assumption | with_reducible apply vec1_ok

theorem execVlog2_ok (d : RegF) (a : RegF) (k : F3) (c : CSet) (s : State) (hs : s.Ok) : OutOk (execVlog2 d a k c s) := by
  unfold execVlog2
  repeat' first | with_reducible assumption | with_reducible apply vec1_ok

theorem execVsin_ok (d : RegF) (a : RegF) (k : F3) (c : CSet) (s : State) (hs : s.Ok) : OutOk (execVsin d a k c s) := by
  unfold execVsin
  repeat' first | with_reducible assumption | with_reducible apply vec1_ok

theorem execVcos_ok (d : RegF) (a : RegF) (k : F3) (c : CSet) (s : State) (hs : s.Ok) : OutOk (execVcos d a k c s) := by
  unfold execVcos
  repeat' first | with_reducible assumption | with_reducible apply vec1_ok

theorem execVrand_ok (d : RegF) (k : F3) (c : CSet) (s : State) (hs : s.Ok) : OutOk (execVrand d k c s) := by
  unfold execVrand
  repeat' first | with_reducible assumption | with_reducible apply lanewise_ok

theorem execVrandf_ok (d : RegF) (k : F3) (c : CSet) (s : State) (hs : s.Ok) : OutOk (execVrandf d k c s) := by
  unfold execVrandf
  repeat' first | with_reducible assumption | with_reducible apply lanewise_ok

theorem execVdrop_ok (d : RegF) (a : RegF) (b : RegF) (k : F3) (c : CSet) (s : State) (hs : s.Ok) :
    OutOk (execVdrop d a b k c s) := by
  unfold execVdrop
  dsimp only
  repeat' first
    | with_reducible assumption
    | with_reducible apply runSlot_ok
    | with_reducible apply landLanes_ok
    | with_reducible apply reportKey_ok
    | with_reducible apply ExcOk_ok
    | split

theorem execVtopk_ok (d : RegF) (a : RegF) (b : RegF) (k : F3) (c : CSet) (s : State) (hs : s.Ok) :
    OutOk (execVtopk d a b k c s) := by
  unfold execVtopk
  dsimp only
  repeat' first | with_reducible assumption | with_reducible apply lanewise_ok

theorem execVmergek_ok (d : RegF) (a : RegF) (b : RegF) (k : F3) (c : CSet) (s : State) (hs : s.Ok) :
    OutOk (execVmergek d a b k c s) := by
  unfold execVmergek
  dsimp only
  repeat' first | with_reducible assumption | with_reducible apply lanewise_ok

/-! ## Mxe.lean -/

theorem flagsTo_ok (x : Nat) (c : Nat) (o : Origin) (f : Nat) (s : State) (hs : s.Ok) : (flagsTo x c o f s).Ok := by
  unfold flagsTo
  dsimp only
  repeat' first | with_reducible assumption | with_reducible apply onIssuer_ok | split

theorem routineFault_ok (c : Nat) (code : Nat) (r : Routine) (s : State) (hs : s.Ok) : (routineFault c code r s).Ok := by
  unfold routineFault
  extract_lets x y upc m y1 fl src s1 s2 s3 s4
  have hy : y1.Ok := Seat.mk_ok rfl rfl (State.seat_ok hs c)
  have h1 : s1.Ok := State.mk_ok rfl rfl rfl rfl rfl (State.putSeat_ok hs hy)
  have h2 : s2.Ok := by
    show State.Ok (if _ then _ else _)
    split
    · exact State.setUE_ok _ h1
    · exact h1
  have h3 : s3.Ok := foldl_ok _ (fun t d ht => scramble_ok _ _ _ _ t ht) h2
  exact flagsTo_ok _ _ _ _ _ (deliverRec_ok _ _ _ (State.putSeat_ok h3 (Seat.release_ok _ _ _ (State.seat_ok h3 c))))

theorem micro_ok (c : Nat) (f : Routine → Seat → Except Nat MicroOut) (s : State) (hf : ∀ r y, y.Ok → MicOk (f r y)) (hs : s.Ok) :
    (micro c f s).Ok := by
  unfold micro
  dsimp only
  repeat' first
    | with_reducible apply hf
    | with_reducible assumption
    | with_reducible apply postKey_ok
    | with_reducible apply routineFault_ok
    | with_reducible apply State.putSeat_ok
    | with_reducible refine mic_ok (by with_reducible assumption) ?_
    | with_reducible apply State.seat_ok
    | split
    | with_reducible refine Seat.mk_ok rfl rfl ?_

theorem onSeat_ok (r : Routine) (y : Seat) (hy : y.Ok) : MicOk (onSeat r y) := by
  unfold onSeat
  repeat' first | with_reducible assumption | with_reducible apply MicOk_ok

theorem Seat.runs_ok (y : Seat) (n : Nat) (w : Nat) (hy : y.Ok) : (Seat.runs y n w).Ok := by
  unfold Seat.runs
  dsimp only
  repeat' first | with_reducible assumption | with_reducible refine Seat.mk_ok rfl rfl ?_

theorem readable_ok (r : Routine) (y : Seat) (l : MLay) (a : Nat) (body : Except Nat MicroOut) (hbody : MicOk body) :
    MicOk (readable r y l a body) := by
  unfold readable
  repeat' first | with_reducible assumption | with_reducible exact MicOk_error | split

theorem doLds_ok (pa : F3) (o : Bool) (n : BitVec 7) (r : Routine) (y : Seat) (hy : y.Ok) : MicOk (doLds pa o n r y) := by
  unfold doLds
  dsimp only
  repeat' first
    | with_reducible assumption
    | with_reducible apply onSeat_ok
    | with_reducible apply Seat.runs_ok
    | with_reducible apply readable_ok
    | with_reducible exact MicOk_error
    | split
    | with_reducible refine Seat.mk_ok rfl rfl ?_

theorem execLds_ok (c : Nat) (pa : F3) (o : Bool) (n : BitVec 7) (s : State) (hs : s.Ok) : OutOk (execLds c pa o n s) := by
  unfold execLds
  repeat' first
    | with_reducible assumption
    | with_reducible apply micro_ok
    | with_reducible apply doLds_ok
    | with_reducible apply OutOk_next

theorem execSwap_ok (c : Nat) (s : State) (hs : s.Ok) : OutOk (execSwap c s) := by
  unfold execSwap
  dsimp only
  repeat' first
    | with_reducible assumption
    | with_reducible apply micro_ok
    | with_reducible apply onSeat_ok
    | intro _
    | with_reducible apply OutOk_next
    | with_reducible refine Seat.mk_ok rfl rfl ?_

theorem doStrm_ok (clear : Bool) (t : F3) (pa : F3) (n : BitVec 7) (r : Routine) (y : Seat) (hy : y.Ok) :
    MicOk (doStrm clear t pa n r y) := by
  unfold doStrm
  dsimp only
  repeat' first
    | with_reducible assumption
    | with_reducible apply onSeat_ok
    | with_reducible apply Seat.runs_ok
    | with_reducible apply readable_ok
    | with_reducible exact MicOk_error
    | split
    | with_reducible refine Seat.mk_ok rfl rfl ?_

theorem execStrm_ok (c : Nat) (t : F3) (pa : F3) (n : BitVec 7) (s : State) (hs : s.Ok) : OutOk (execStrm c t pa n s) := by
  unfold execStrm
  repeat' first
    | with_reducible assumption
    | with_reducible apply micro_ok
    | with_reducible apply doStrm_ok
    | with_reducible apply OutOk_next

theorem execStrmc_ok (c : Nat) (t : F3) (pa : F3) (n : BitVec 7) (s : State) (hs : s.Ok) :
    OutOk (execStrmc c t pa n s) := by
  unfold execStrmc
  repeat' first
    | with_reducible assumption
    | with_reducible apply micro_ok
    | with_reducible apply doStrm_ok
    | with_reducible apply OutOk_next

theorem doZero_ok (t : F3) (r : Routine) (y : Seat) (hy : y.Ok) : MicOk (doZero t r y) := by
  unfold doZero
  repeat' first
    | with_reducible assumption
    | with_reducible apply onSeat_ok
    | with_reducible exact MicOk_error
    | split
    | with_reducible refine Seat.mk_ok rfl rfl ?_

theorem execZero_ok (c : Nat) (t : F3) (s : State) (hs : s.Ok) : OutOk (execZero c t s) := by
  unfold execZero
  repeat' first
    | with_reducible assumption
    | with_reducible apply micro_ok
    | with_reducible apply doZero_ok
    | with_reducible apply OutOk_next

theorem doScale_ok (t : F3) (i : BitVec 16) (r : Routine) (y : Seat) (hy : y.Ok) : MicOk (doScale t i r y) := by
  unfold doScale
  dsimp only
  repeat' first
    | with_reducible assumption
    | with_reducible apply onSeat_ok
    | with_reducible exact MicOk_error
    | split
    | with_reducible refine Seat.mk_ok rfl rfl ?_

theorem execScale_ok (c : Nat) (t : F3) (i : BitVec 16) (s : State) (hs : s.Ok) : OutOk (execScale c t i s) := by
  unfold execScale
  repeat' first
    | with_reducible assumption
    | with_reducible apply micro_ok
    | with_reducible apply doScale_ok
    | with_reducible apply OutOk_next

theorem doLdacc_ok (t : F3) (pa : F3) (r : Routine) (y : Seat) (hy : y.Ok) : MicOk (doLdacc t pa r y) := by
  unfold doLdacc
  dsimp only
  repeat' first
    | with_reducible assumption
    | with_reducible apply onSeat_ok
    | with_reducible apply readable_ok
    | with_reducible exact MicOk_error
    | split
    | with_reducible refine Seat.mk_ok rfl rfl ?_

theorem execLdacc_ok (c : Nat) (t : F3) (pa : F3) (s : State) (hs : s.Ok) : OutOk (execLdacc c t pa s) := by
  unfold execLdacc
  repeat' first
    | with_reducible assumption
    | with_reducible apply micro_ok
    | with_reducible apply doLdacc_ok
    | with_reducible apply OutOk_next

theorem putRuns_ok (y : Seat) (ws : List (Nat × List Byte)) (hy : y.Ok) : (putRuns y ws).Ok := by
  unfold putRuns
  repeat' first
    | with_reducible assumption
    | with_reducible apply Seat.writeWords_ok
    | intro _
    | with_reducible apply foldl_seat_ok

theorem waits_ok (r : Routine) (y : Seat) (hy : y.Ok) : MicOk (.ok (waits r y)) := MicOk_ok hy

theorem doDrain_ok (t : F3) (pa : F3) (pb : F3) (pc : F3) (fmt : BitVec 5) (r : Routine) (y : Seat) (hy : y.Ok) :
    MicOk (doDrain t pa pb pc fmt r y) := by
  unfold doDrain
  dsimp only
  repeat' first
    | with_reducible assumption
    | with_reducible apply waits_ok
    | with_reducible apply putRuns_ok
    | with_reducible exact MicOk_error
    | with_reducible apply MicOk_ok
    | split

theorem execDrain_ok (c : Nat) (t : F3) (pa : F3) (pb : F3) (pc : F3) (fmt : BitVec 5) (s : State) (hs : s.Ok) :
    OutOk (execDrain c t pa pb pc fmt s) := by
  unfold execDrain
  repeat' first
    | with_reducible assumption
    | with_reducible apply micro_ok
    | with_reducible apply doDrain_ok
    | with_reducible apply OutOk_next

theorem doAmax_ok (t : F3) (pb : F3) (r : Routine) (y : Seat) (hy : y.Ok) : MicOk (doAmax t pb r y) := by
  unfold doAmax
  dsimp only
  repeat' first
    | with_reducible assumption
    | with_reducible apply waits_ok
    | with_reducible apply onSeat_ok
    | with_reducible apply putRuns_ok
    | with_reducible exact MicOk_error
    | split

theorem execAmax_ok (c : Nat) (t : F3) (pb : F3) (s : State) (hs : s.Ok) : OutOk (execAmax c t pb s) := by
  unfold execAmax
  repeat' first
    | with_reducible assumption
    | with_reducible apply micro_ok
    | with_reducible apply doAmax_ok
    | with_reducible apply OutOk_next

theorem execMadd_ok (c : Nat) (pd : F3) (pa : F3) (i : BitVec 32) (s : State) (hs : s.Ok) :
    OutOk (execMadd c pd pa i s) := by
  unfold execMadd
  dsimp only
  repeat' first
    | with_reducible assumption
    | with_reducible apply micro_ok
    | with_reducible apply onSeat_ok
    | intro _
    | with_reducible apply OutOk_next

theorem execMloop_ok (c : Nat) (p : F3) (target : BitVec 12) (s : State) (hs : s.Ok) : OutOk (execMloop c p target s) := by
  unfold execMloop
  dsimp only
  repeat' first
    | with_reducible assumption
    | with_reducible apply micro_ok
    | with_reducible apply MicOk_ok
    | intro _
    | with_reducible apply OutOk_next

theorem execMbrz_ok (c : Nat) (p : F3) (target : BitVec 12) (s : State) (hs : s.Ok) : OutOk (execMbrz c p target s) := by
  unfold execMbrz
  repeat' first
    | with_reducible assumption
    | with_reducible apply micro_ok
    | with_reducible apply MicOk_ok
    | intro _
    | with_reducible apply OutOk_next

theorem execMwait_ok (c : Nat) (cls : BitVec 2) (s : State) (hs : s.Ok) : OutOk (execMwait c cls s) := by
  unfold execMwait
  repeat' first
    | with_reducible assumption
    | with_reducible apply micro_ok
    | with_reducible apply onSeat_ok
    | intro _
    | with_reducible apply OutOk_next

theorem execMend_ok (c : Nat) (s : State) (hs : s.Ok) : OutOk (execMend c s) := by
  unfold execMend
  repeat' first
    | with_reducible assumption
    | with_reducible apply micro_ok
    | with_reducible apply MicOk_ok
    | intro _
    | with_reducible apply OutOk_next

theorem execRoutineBegin_ok (c : Nat) (s : State) (hs : s.Ok) : OutOk (execRoutineBegin c s) := by
  unfold execRoutineBegin
  dsimp only
  repeat' first
    | with_reducible assumption
    | with_reducible apply OutOk_next
    | with_reducible apply State.putSeat_ok
    | with_reducible apply State.seat_ok
    | split
    | with_reducible refine Seat.mk_ok rfl rfl ?_

theorem execRoutineFinish_ok (c : Nat) (s : State) (hs : s.Ok) : OutOk (execRoutineFinish c s) := by
  unfold execRoutineFinish
  dsimp only
  repeat' first
    | with_reducible assumption
    | with_reducible apply Seat.release_ok
    | with_reducible apply flagsTo_ok
    | with_reducible apply routineFault_ok
    | with_reducible apply OutOk_next
    | with_reducible apply State.putSeat_ok
    | with_reducible apply State.seat_ok
    | split
    | with_reducible refine Seat.mk_ok rfl rfl ?_

theorem execRoutineFlagsJoin_ok (c : Nat) (t : Bool) (s : State) (hs : s.Ok) : OutOk (execRoutineFlagsJoin c t s) := by
  unfold execRoutineFlagsJoin
  dsimp only
  repeat' first | with_reducible assumption | with_reducible apply OutOk_next | with_reducible apply State.putSt_ok

theorem execMpset_ok (a : RegF) (n : F3) (s : State) (hs : s.Ok) : OutOk (execMpset a n s) := by
  unfold execMpset
  dsimp only
  repeat' first
    | with_reducible assumption
    | with_reducible apply land_ok
    | with_reducible apply runSlot_ok
    | with_reducible apply ExcOk_ok

theorem execMcall_ok (e : BitVec 12) (s : State) (hs : s.Ok) : OutOk (execMcall e s) := by
  unfold execMcall
  dsimp only
  repeat' first
    | with_reducible assumption
    | with_reducible apply runSlot_ok
    | with_reducible apply Seat.takeTiles_ok
    | with_reducible apply ExcOk_ok
    | with_reducible exact ExcOk_error
    | with_reducible apply State.putSeat_ok
    | with_reducible apply State.seat_ok
    | split
    | with_reducible refine State.mk_ok rfl rfl rfl rfl rfl ?_
    | with_reducible refine Seat.mk_ok rfl rfl ?_

theorem accEcc_ok (bad : Bool) (s : State) (hs : s.Ok) : (accEcc bad s).Ok := by
  unfold accEcc
  split
  · exact eccAt_ok _ _ _ _ (State.mk_ok rfl rfl rfl rfl rfl hs)
  · exact hs

theorem execVaccrd_ok (d : RegF) (a : RegF) (k : F3) (cl : CSet) (s : State) (hs : s.Ok) :
    OutOk (execVaccrd d a k cl s) := by
  unfold execVaccrd
  dsimp only
  repeat' first
    | with_reducible assumption
    | with_reducible apply accEcc_ok
    | with_reducible apply runSlot_ok
    | with_reducible apply landLanes_ok
    | with_reducible apply srReport_ok
    | with_reducible apply ExcOk_ok
    | with_reducible exact ExcOk_error
    | split

end Sys2Proof.Machine
end

