-- ==== Sys2Proof/Laws/CanonSlots.lean ====
section
/-! SUPPORT. Every memory keeps its canonical form: contexts, control slots, power, the system block, the host, loads and stores. One law per function. -/

namespace Sys2Proof.Machine

/-! ## Context.lean -/

theorem imgPut_ok (a : Nat) (bs : List Byte) (s : State) (hs : s.Ok) : (imgPut a bs s).Ok := by
  unfold imgPut
  repeat' first
    | with_reducible assumption
    | with_reducible apply Mem.wf_putRun
    | with_reducible apply State.Ok.hbm
    | with_reducible refine State.mk_hbm_ok rfl rfl rfl rfl ?_ ?_

theorem imgOwn_ok (a : Nat) (n : Nat) (s : State) (hs : s.Ok) : (imgOwn a n s).Ok := by
  unfold imgOwn
  dsimp only
  repeat' first
    | with_reducible assumption
    | with_reducible apply imgPut_ok
    | with_reducible refine State.mk_ok rfl rfl rfl rfl rfl ?_

theorem writeImage_ok (x : Nat) (c : Nat) (s : State) (hs : s.Ok) : (writeImage x c s).Ok := by
  unfold writeImage
  dsimp only
  repeat' first
    | with_reducible assumption
    | with_reducible apply State.used_ok
    | with_reducible apply imgPut_ok
    | with_reducible apply imgOwn_ok
    | intro _
    | with_reducible apply foldl_ok
    | with_reducible apply Mem.wf_part
    | with_reducible apply Mem.wf_graft
    | with_reducible apply State.Ok.hbm
    | with_reducible apply Seat.Ok.spad
    | with_reducible apply Seat.Ok.ispad
    | with_reducible apply State.seat_ok
    | with_reducible refine State.mk_ok rfl rfl rfl rfl rfl ?_
    | with_reducible refine State.mk_hbm_ok rfl rfl rfl rfl ?_ ?_

theorem restoreMem_ok (x c : Nat) (y : Seat) (s : State) (hs : s.Ok) : (restoreMem x c y s).Ok :=
  ⟨Mem.wf_part _ _ hs.hbm, Mem.wf_shift _ (Mem.wf_part _ _ hs.hbm)⟩

theorem remade_wf (lo n : Nat) (m : Mem) : Mem.wf (remade lo n m) = true :=
  foldl_mem_ok m (fun _ _ h => Mem.wf_setByte _ _ h) rfl

theorem freeSeat__ok (own : List Nat) (n : Nat) (f y : Seat) : (freeSeat_ own n f y).Ok := ⟨remade_wf _ _ _, remade_wf _ _ _⟩

theorem execCreate_ok (x : Nat) (s : State) (hs : s.Ok) : OutOk (execCreate x s) := by
  unfold execCreate
  repeat' first
    | with_reducible assumption
    | with_reducible apply State.setCtxBusy_ok
    | with_reducible apply State.setCtxErr_ok
    | with_reducible apply OutOk_next
    | split

theorem Seat.zero_ok  : (Seat.zero).Ok := by
  unfold Seat.zero
  dsimp only
  repeat' first | with_reducible exact Seat.reset_ok | with_reducible refine Seat.mk_ok rfl rfl ?_

theorem zeroImage_ok (x : Nat) (c : Nat) (s : State) (hs : s.Ok) : (zeroImage x c s).Ok := by
  unfold zeroImage
  dsimp only
  repeat' first
    | with_reducible assumption
    | with_reducible apply imgOwn_ok
    | with_reducible apply Mem.wf_clear
    | with_reducible apply State.Ok.hbm
    | with_reducible refine State.mk_ok rfl rfl rfl rfl rfl ?_
    | with_reducible refine State.mk_hbm_ok rfl rfl rfl rfl ?_ ?_

theorem loadTables_ok (x : Nat) (s : State) (hs : s.Ok) : (loadTables x s).Ok := by
  unfold loadTables
  dsimp only
  repeat' first
    | with_reducible assumption
    | with_reducible apply hbmSeen_ok
    | with_reducible apply State.putCtx_ok
    | with_reducible apply State.ctx_ok
    | split
    | dsimp only
    | with_reducible refine Ctx.mk_ok rfl ?_

theorem bareless_ok (c : Nat) (s : State) (hs : s.Ok) : (bareless c s).Ok := by
  unfold bareless
  dsimp only
  repeat' first
    | with_reducible assumption
    | with_reducible apply State.putCore_ok
    | with_reducible apply State.core_ok
    | split
    | with_reducible refine Core.mk_ok rfl rfl ?_

theorem dropHeads_ok (x : Nat) (s : State) (hs : s.Ok) : (dropHeads x s).Ok := by
  unfold dropHeads
  exact State.mk_ok rfl rfl rfl rfl rfl hs

theorem execCreateComplete_ok (x : Nat) (s : State) (hs : s.Ok) : OutOk (execCreateComplete x s) := by
  unfold execCreateComplete
  dsimp only
  repeat' first
    | with_reducible assumption
    | with_reducible apply dropHeads_ok
    | with_reducible apply State.setReg_ok
    | with_reducible apply State.msi_ok
    | with_reducible apply State.setCtxState_ok
    | with_reducible apply State.setCtxBusy_ok
    | with_reducible apply loadRanges_ok
    | with_reducible apply Seat.zero_ok
    | with_reducible apply zeroImage_ok
    | with_reducible apply loadTables_ok
    | with_reducible apply bareless_ok
    | with_reducible apply SeatsOk.zip
    | intro _
    | with_reducible apply OutOk_next
    | with_reducible apply State.putCtx_ok
    | with_reducible apply foldl_ok
    | split
    | with_reducible refine State.mk_ok rfl rfl rfl rfl rfl ?_
    | with_reducible refine Ctx.mk_ok2 ?_

theorem dropGangs_ok (s : State) (hs : s.Ok) : (dropGangs s).Ok := by
  unfold dropGangs
  dsimp only
  repeat' first | with_reducible assumption | with_reducible refine State.mk_ok rfl rfl rfl rfl rfl ?_

theorem Seat.killed_ok (y : Seat) (hy : y.Ok) : (Seat.killed y).Ok := by
  unfold Seat.killed
  dsimp only
  repeat' first
    | with_reducible assumption
    | with_reducible apply Seat.haltBoth_ok
    | with_reducible refine Seat.mk_ok rfl rfl ?_

theorem revokeWins_ok (x : Nat) (s : State) (hs : s.Ok) : (revokeWins x s).Ok := by
  unfold revokeWins
  dsimp only
  repeat' first
    | with_reducible assumption
    | with_reducible apply State.putWin_ok
    | with_reducible apply releaseHeld_ok
    | intro _
    | with_reducible apply foldl_ok

theorem execKill_ok (x : Nat) (s : State) (hs : s.Ok) : OutOk (execKill x s) := by
  unfold execKill
  dsimp only
  repeat' first
    | with_reducible assumption
    | with_reducible apply dropHeads_ok
    | with_reducible apply State.setCtxState_ok
    | with_reducible apply State.setCtxBusy_ok
    | with_reducible apply State.setCtxErr_ok
    | with_reducible apply State.seatOf_ok
    | with_reducible apply State.putSeatOf_ok
    | with_reducible apply killColls_ok
    | with_reducible apply dropGangs_ok
    | with_reducible apply Seat.killed_ok
    | with_reducible apply revokeWins_ok
    | intro _
    | with_reducible apply OutOk_next
    | with_reducible apply State.putCtx_ok
    | with_reducible apply foldl_ok
    | with_reducible apply State.ctx_ok
    | split
    | with_reducible refine State.mk_ok rfl rfl rfl rfl rfl ?_
    | with_reducible refine Ctx.mk_ok rfl ?_

theorem execKillComplete_ok (x : Nat) (s : State) (hs : s.Ok) : OutOk (execKillComplete x s) := by
  unfold execKillComplete
  dsimp only
  repeat' first
    | with_reducible assumption
    | with_reducible apply digestReqs_ok
    | with_reducible apply State.setCtxState_ok
    | with_reducible apply State.setCtxBusy_ok
    | with_reducible apply setInfl_ok
    | with_reducible exact Seat.reset_ok
    | with_reducible exact SeatsOk.nil
    | intro _
    | with_reducible apply OutOk_next
    | with_reducible apply State.putCore_ok
    | with_reducible apply State.putCtx_ok
    | with_reducible apply foldl_ok
    | split
    | with_reducible refine State.mk_ok rfl rfl rfl rfl rfl ?_
    | with_reducible refine Core.mk_ok2 ?_ (State.core_ok ?_ _).svr
    | with_reducible refine Ctx.mk_ok2 ?_

theorem execSignal_ok (x : Nat) (s : State) (hs : s.Ok) : OutOk (execSignal x s) := by
  unfold execSignal
  dsimp only
  repeat' first
    | with_reducible assumption
    | with_reducible apply State.setCtxErr_ok
    | with_reducible apply State.seatOf_ok
    | with_reducible apply State.putSeatOf_ok
    | with_reducible apply OutOk_next
    | with_reducible apply Seat.putSt_ok
    | split

theorem execWdclr_ok (x : Nat) (s : State) (hs : s.Ok) : OutOk (execWdclr x s) := by
  unfold execWdclr
  dsimp only
  repeat' first
    | with_reducible assumption
    | with_reducible apply State.setReg_ok
    | with_reducible apply OutOk_next
    | split

theorem putUcode_ok (x : Nat) (a : Nat) (s : State) (c : Nat) (hs : s.Ok) : (putUcode x a s c).Ok := by
  unfold putUcode
  dsimp only
  repeat' first
    | with_reducible assumption
    | with_reducible apply hbmPut_ok
    | with_reducible apply State.putSeatOf_ok
    | with_reducible apply State.seatOf_ok
    | split
    | with_reducible refine Seat.mk_ok rfl rfl ?_

theorem execUcload_ok (x : Nat) (s : State) (hs : s.Ok) : OutOk (execUcload x s) := by
  unfold execUcload
  dsimp only
  repeat' first
    | with_reducible assumption
    | with_reducible apply seenBad_ok
    | with_reducible apply State.setCtxErr_ok
    | with_reducible apply putUcode_ok
    | with_reducible apply OutOk_next
    | with_reducible apply foldl_ok
    | split

theorem execAttest_ok (x : Nat) (s : State) (hs : s.Ok) : OutOk (execAttest x s) := by
  unfold execAttest
  split
  · exact hs
  · split
    · exact State.setCtxErr_ok _ _ hs
    · exact State.mk_stag_ok rfl rfl rfl rfl (Mem.wf_setBytes _ _ hs.stag) hs

theorem execDebugHalt_ok (x : Nat) (s : State) (hs : s.Ok) : OutOk (execDebugHalt x s) := by
  unfold execDebugHalt
  dsimp only
  repeat' first
    | with_reducible assumption
    | with_reducible apply State.seatOf_ok
    | with_reducible apply State.putSeatOf_ok
    | intro _
    | with_reducible apply OutOk_next
    | with_reducible apply foldl_ok
    | split
    | with_reducible refine Seat.mk_ok rfl rfl ?_

theorem leaveSet_ok (x : Nat) (hook : Bool) (s : State) (hs : s.Ok) : (leaveSet x hook s).Ok := by
  unfold leaveSet
  dsimp only
  repeat' first
    | with_reducible assumption
    | intro _
    | with_reducible apply State.putSeat_ok
    | with_reducible apply State.putCtx_ok
    | with_reducible apply foldl_ok
    | with_reducible apply State.seat_ok
    | with_reducible apply State.ctx_ok
    | with_reducible refine Seat.mk_ok rfl rfl ?_
    | with_reducible refine Ctx.mk_ok rfl ?_

theorem execQuantumEnd_ok (x : Nat) (s : State) (hs : s.Ok) : OutOk (execQuantumEnd x s) := by
  unfold execQuantumEnd
  dsimp only
  repeat' first
    | with_reducible assumption
    | with_reducible apply leaveSet_ok
    | with_reducible apply OutOk_next
    | with_reducible apply State.putCtx_ok
    | with_reducible apply State.ctx_ok
    | split
    | with_reducible refine Ctx.mk_ok rfl ?_

theorem execContextYield_ok (x : Nat) (s : State) (hs : s.Ok) : OutOk (execContextYield x s) := by
  unfold execContextYield
  repeat' first | with_reducible assumption | with_reducible apply leaveSet_ok | with_reducible apply OutOk_next | split

theorem dropRows_ok (c : Nat) (s : State) (hs : s.Ok) : (dropRows c s).Ok := by
  unfold dropRows
  repeat' first | with_reducible assumption | with_reducible refine State.mk_ok rfl rfl rfl rfl rfl ?_

theorem putChan_ok (x : Nat) (ch : Nat) (ws : List Word) (s : State) (hs : s.Ok) : (putChan x ch ws s).Ok := by
  unfold putChan
  dsimp only
  repeat' first
    | with_reducible assumption
    | with_reducible apply State.putCtx_ok
    | with_reducible apply State.ctx_ok
    | with_reducible refine Ctx.mk_ok rfl ?_

theorem eccMet_ok (c : Nat) (t : Bool) (a : Access) (s : State) (hs : s.Ok) : (eccMet c t a s).Ok := by
  unfold eccMet
  repeat' first | with_reducible assumption | with_reducible apply eccAt_ok

theorem runChw_ok (c : Nat) (t : Bool) (s : State) (a : Access) (x : Seat) (hs : s.Ok) : (runChw c t s a x).Ok := by
  unfold runChw
  repeat' first
    | with_reducible assumption
    | with_reducible apply putChan_ok
    | with_reducible apply eccMet_ok
    | split
    | with_reducible refine State.mk_ok rfl rfl rfl rfl rfl ?_

theorem runChws_ok (c : Nat) (t : Bool) (as : List Access) (s : State) (hs : s.Ok) : (runChws c t as s).Ok :=
  foldl_ok _ (fun _ _ h => runChw_ok _ _ _ _ _ h) hs

theorem finishChw_ok (c : Nat) (s : State) (t : Bool) (hs : s.Ok) : (finishChw c s t).Ok := by
  unfold finishChw
  dsimp only
  repeat' first
    | with_reducible assumption
    | with_reducible apply runChws_ok
    | with_reducible apply putChan_ok
    | with_reducible apply runChw_ok
    | intro _
    | with_reducible apply State.putSt_ok
    | with_reducible apply foldl_ok
    | split

theorem saveCore_ok (x : Nat) (s : State) (c : Nat) (hs : s.Ok) : (saveCore x s c).Ok := by
  unfold saveCore
  extract_lets s1 s2 k y s3
  have h1 : s1.Ok := dropRows_ok _ _ (endDev_ok _ _ _ _ (endDev_ok _ _ _ _ hs))
  have h2 : s2.Ok := by
    with_reducible apply writeImage_ok
    with_reducible apply foldl_ok
    · intro _ _ h
      exact finishChw_ok _ _ _ h
    · exact endResvs_ok _ _ _ h1
  clear_value s2
  have hk : k.Ok := State.core_ok h2 c
  have hy : y.Ok := State.ctx_ok h2 x
  have h3 : s3.Ok := State.putCtx_ok h2 ⟨SeatsOk.put hk.seat hy.saved⟩
  exact State.putCore_ok h3 ⟨Seat.reset_ok, hk.svr⟩

theorem execSwitchOutComplete_ok (x : Nat) (s : State) (hs : s.Ok) : OutOk (execSwitchOutComplete x s) := by
  unfold execSwitchOutComplete
  dsimp only
  repeat' first
    | with_reducible assumption
    | with_reducible apply endResvs_ok
    | with_reducible apply State.setCtxState_ok
    | with_reducible apply State.putWin_ok
    | with_reducible apply releaseHeld_ok
    | with_reducible apply saveCore_ok
    | intro _
    | with_reducible apply OutOk_next
    | with_reducible apply State.putCtx_ok
    | with_reducible apply foldl_ok
    | with_reducible apply State.ctx_ok
    | split
    | with_reducible refine Ctx.mk_ok rfl ?_

theorem restoreCore_ok (x : Nat) (s : State) (c : Nat) (hs : s.Ok) : (restoreCore x s c).Ok := by
  unfold restoreCore
  extract_lets y own f z s1 clean z1 k src s2 w
  have h0 : z.Ok := by
    show Seat.Ok (if _ then _ else _)
    split
    · exact freeSeat__ok _ _ _ _
    · exact restoreMem_ok _ _ _ _ hs
  have h1 : s1.Ok := by
    show State.Ok (if _ then _ else _)
    split
    · exact State.setUE_ok _ hs
    · exact hs
  have h2 : s2.Ok :=
    State.mk_ok rfl rfl rfl rfl rfl (State.putCore_ok h1 (Core.mk_ok2 (Seat.mk_ok rfl rfl h0) (State.core_ok h1 c).svr))
  exact State.putCtx_ok h2 (Ctx.mk_ok2 (SeatsOk.del (Ctx.Ok.saved (State.ctx_ok h2 x))))

theorem execSwitchIn_ok (x : Nat) (s : State) (hs : s.Ok) : OutOk (execSwitchIn x s) := by
  unfold execSwitchIn
  dsimp only
  repeat' first
    | with_reducible assumption
    | with_reducible apply State.setCtxState_ok
    | with_reducible apply State.putWin_ok
    | with_reducible apply releaseHeld_ok
    | with_reducible apply restoreCore_ok
    | intro _
    | with_reducible apply OutOk_next
    | with_reducible apply State.putCtx_ok
    | with_reducible apply foldl_ok
    | with_reducible apply State.ctx_ok
    | split
    | with_reducible refine Ctx.mk_ok rfl ?_

/-! ## Control.lean -/

theorem execIdle_ok (_n : BitVec 6) (_sat : Bool) (_rnd : Rnd) (_prof : BitVec 6) (s : State) (hs : s.Ok) :
    OutOk (execIdle _n _sat _rnd _prof s) := by
  unfold execIdle
  repeat' first | with_reducible assumption | with_reducible apply State.used_ok | with_reducible apply OutOk_next

theorem transfer_ok (kind : Nat) (target : Nat) (idle : Nat) (swap : Bool) (s : State) (hs : s.Ok) :
    (transfer kind target idle swap s).Ok := by
  unfold transfer
  repeat' first | with_reducible assumption | with_reducible apply goto__ok | with_reducible apply branchRec_ok

theorem link_ok (d : RegF) (s : State) (hs : s.Ok) : (link d s).Ok := by
  unfold link
  repeat' first | with_reducible assumption | with_reducible apply land_ok

theorem regTarget_ok (v : Word) (body : SlotRes) (hbody : ExcOk body) : ExcOk (regTarget v body) := by
  unfold regTarget
  repeat' first | with_reducible assumption | with_reducible exact ExcOk_error | split

theorem execBrp_ok (p : F3) (o : BitVec 22) (s : State) (hs : s.Ok) : OutOk (execBrp p o s) := by
  unfold execBrp
  repeat' first
    | with_reducible assumption
    | with_reducible apply runSlot_ok
    | with_reducible apply transfer_ok
    | with_reducible apply ExcOk_ok
    | split

theorem execBr_ok (o : BitVec 22) (s : State) (hs : s.Ok) : OutOk (execBr o s) := by
  unfold execBr
  repeat' first
    | with_reducible assumption
    | with_reducible apply runSlot_ok
    | with_reducible apply transfer_ok
    | with_reducible apply ExcOk_ok

theorem execBrpn_ok (p : F3) (o : BitVec 22) (s : State) (hs : s.Ok) : OutOk (execBrpn p o s) := by
  unfold execBrpn
  repeat' first
    | with_reducible assumption
    | with_reducible apply runSlot_ok
    | with_reducible apply transfer_ok
    | with_reducible apply ExcOk_ok
    | split

theorem execCall_ok (d : RegF) (i : BitVec 20) (s : State) (hs : s.Ok) : OutOk (execCall d i s) := by
  unfold execCall
  repeat' first
    | with_reducible assumption
    | with_reducible apply runSlot_ok
    | with_reducible apply transfer_ok
    | with_reducible apply link_ok
    | with_reducible apply ExcOk_ok

theorem execJmp_ok (a : RegF) (k : F3) (s : State) (hs : s.Ok) : OutOk (execJmp a k s) := by
  unfold execJmp
  dsimp only
  repeat' first
    | with_reducible assumption
    | with_reducible apply runSlot_ok
    | with_reducible apply guarded_ok
    | with_reducible apply transfer_ok
    | with_reducible apply regTarget_ok
    | with_reducible apply ExcOk_ok

theorem execCallr_ok (d : RegF) (a : RegF) (k : F3) (s : State) (hs : s.Ok) : OutOk (execCallr d a k s) := by
  unfold execCallr
  dsimp only
  repeat' first
    | with_reducible assumption
    | with_reducible apply runSlot_ok
    | with_reducible apply guarded_ok
    | with_reducible apply transfer_ok
    | with_reducible apply link_ok
    | with_reducible apply regTarget_ok
    | with_reducible apply ExcOk_ok

theorem execRet_ok (a : RegF) (k : F3) (s : State) (hs : s.Ok) : OutOk (execRet a k s) := by
  unfold execRet
  dsimp only
  repeat' first
    | with_reducible assumption
    | with_reducible apply runSlot_ok
    | with_reducible apply guarded_ok
    | with_reducible apply transfer_ok
    | with_reducible apply regTarget_ok
    | with_reducible apply ExcOk_ok

theorem execSetf_ok (d : BitVec 2) (a : RegF) (k : F3) (s : State) (hs : s.Ok) : OutOk (execSetf d a k s) := by
  unfold execSetf
  repeat' first
    | with_reducible assumption
    | with_reducible apply land_ok
    | with_reducible apply runSlot_ok
    | with_reducible apply guarded_ok
    | with_reducible apply ExcOk_ok

theorem execLoop_ok (d : RegF) (a : RegF) (i : BitVec 14) (s : State) (hs : s.Ok) : OutOk (execLoop d a i s) := by
  unfold execLoop
  dsimp only
  repeat' first
    | with_reducible assumption
    | with_reducible apply land_ok
    | with_reducible apply runSlot_ok
    | with_reducible apply transfer_ok
    | with_reducible apply ExcOk_ok
    | split

theorem execLoopi_ok (d : RegF) (n : BitVec 6) (i : BitVec 14) (s : State) (hs : s.Ok) : OutOk (execLoopi d n i s) := by
  unfold execLoopi
  dsimp only
  repeat' first
    | with_reducible assumption
    | with_reducible apply land_ok
    | with_reducible apply runSlot_ok
    | with_reducible apply transfer_ok
    | with_reducible apply ExcOk_ok
    | split

theorem userOnly_ok (s : State) (body : SlotRes) (hbody : ExcOk body) : ExcOk (userOnly s body) := by
  unfold userOnly
  repeat' first | with_reducible assumption | with_reducible exact ExcOk_error | split

theorem execBswap_ok (p : F3) (o : BitVec 22) (s : State) (hs : s.Ok) : OutOk (execBswap p o s) := by
  unfold execBswap
  repeat' first
    | with_reducible assumption
    | with_reducible apply runSlot_ok
    | with_reducible apply transfer_ok
    | with_reducible apply userOnly_ok
    | with_reducible apply ExcOk_ok
    | split

theorem setWait_ok (w : Wait) (s : State) (hs : s.Ok) : (setWait w s).Ok := by
  unfold setWait
  dsimp only
  repeat' first | with_reducible assumption | with_reducible refine State.mk_ok rfl rfl rfl rfl rfl ?_

theorem execWaita_ok (a : RegF) (b : RegF) (k : F3) (_s : Scope) (c : WCond) (s : State) (hs : s.Ok) :
    OutOk (execWaita a b k _s c s) := by
  unfold execWaita
  dsimp only
  repeat' first
    | with_reducible assumption
    | with_reducible apply runSlot_ok
    | with_reducible apply guarded_ok
    | with_reducible apply setWait_ok
    | with_reducible apply ExcOk_ok
    | with_reducible exact ExcOk_error
    | split

theorem execWaito_ok (a : RegF) (i : BitVec 14) (s : State) (hs : s.Ok) : OutOk (execWaito a i s) := by
  unfold execWaito
  dsimp only
  repeat' first
    | with_reducible assumption
    | with_reducible apply runSlot_ok
    | with_reducible apply setWait_ok
    | with_reducible apply ExcOk_ok
    | with_reducible exact ExcOk_error
    | split

theorem execTend_ok (s : State) (hs : s.Ok) : OutOk (execTend s) := by
  unfold execTend
  dsimp only
  repeat' first
    | with_reducible assumption
    | with_reducible apply runSlot_ok
    | with_reducible apply userOnly_ok
    | with_reducible apply ExcOk_ok
    | with_reducible refine State.mk_ok rfl rfl rfl rfl rfl ?_

theorem softTrap_ok (code : Nat) (arg : Nat) (s : State) (hs : s.Ok) : (softTrap code arg s).Ok := by
  unfold softTrap
  dsimp only
  repeat' first
    | with_reducible assumption
    | with_reducible apply slotTrap_ok
    | with_reducible refine State.mk_ok rfl rfl rfl rfl rfl ?_

theorem execTrap_ok (code : BitVec 16) (s : State) (hs : s.Ok) : OutOk (execTrap code s) := by
  unfold execTrap
  repeat' first
    | with_reducible assumption
    | with_reducible apply slotTrap_ok
    | with_reducible apply softTrap_ok
    | with_reducible apply OutOk_next
    | split

theorem execBrk_ok (code : BitVec 16) (s : State) (hs : s.Ok) : OutOk (execBrk code s) := by
  unfold execBrk
  repeat' first
    | with_reducible assumption
    | with_reducible apply State.used_ok
    | with_reducible apply slotTrap_ok
    | with_reducible apply softTrap_ok
    | with_reducible apply OutOk_next
    | split

theorem execIfence_ok (r : IRegion) (s : State) (hs : s.Ok) : OutOk (execIfence r s) := by
  unfold execIfence
  dsimp only
  repeat' first
    | with_reducible assumption
    | with_reducible apply runSlot_ok
    | with_reducible apply ExcOk_ok
    | with_reducible apply State.putCst_ok
    | with_reducible refine State.mk_ok rfl rfl rfl rfl rfl ?_

theorem sysOk_ok (n : Nat) (s : State) (body : SlotRes) (hbody : ExcOk body) : ExcOk (sysOk n s body) := by
  unfold sysOk
  repeat' first | with_reducible assumption | with_reducible exact ExcOk_error | split

theorem atTickStart_ok (s : State) (hs : s.Ok) : (atTickStart s).Ok := by
  unfold atTickStart
  dsimp only
  repeat' first
    | with_reducible assumption
    | with_reducible apply State.putSeat_ok
    | with_reducible apply State.seat_ok
    | split
    | with_reducible refine Seat.mk_ok rfl rfl ?_

theorem execSysr_ok (d : RegF) (n : BitVec 12) (s : State) (hs : s.Ok) : OutOk (execSysr d n s) := by
  unfold execSysr
  dsimp only
  repeat' first
    | with_reducible assumption
    | with_reducible apply land_ok
    | with_reducible apply runSlot_ok
    | with_reducible apply sysOk_ok
    | with_reducible apply ExcOk_ok
    | with_reducible apply State.putCst_ok

theorem execSysw_ok (a : RegF) (n : BitVec 12) (s : State) (hs : s.Ok) : OutOk (execSysw a n s) := by
  unfold execSysw
  dsimp only
  repeat' first
    | with_reducible assumption
    | with_reducible apply land_ok
    | with_reducible apply runSlot_ok
    | with_reducible apply doTctl_ok
    | with_reducible apply sysOk_ok
    | with_reducible apply ExcOk_ok
    | split

/-! ## Power.lean -/

theorem Core.charge_ok (k : Core) (q : Nat) (hk : k.Ok) : (Core.charge k q).Ok := by
  unfold Core.charge
  repeat' first | with_reducible assumption | with_reducible refine Core.mk_ok rfl rfl ?_

theorem State.setDtok_ok (s : State) (d : Nat) (v : Nat) (hs : s.Ok) : (State.setDtok s d v).Ok := by
  unfold State.setDtok
  repeat' first | with_reducible assumption | with_reducible apply State.setFld_ok

theorem State.putDie_ok (s : State) (d : Nat) (y : Die) (hs : s.Ok) : (State.putDie s d y).Ok := by
  unfold State.putDie
  repeat' first | with_reducible assumption | with_reducible refine State.mk_ok rfl rfl rfl rfl rfl ?_

theorem setTok_ok (d : Nat) (c : Nat) (n : Nat) (p : Nat) (s : State) (hs : s.Ok) : (setTok d c n p s).Ok := by
  unfold setTok
  dsimp only
  repeat' first
    | with_reducible assumption
    | with_reducible apply State.putDie_ok
    | with_reducible apply State.putCore_ok
    | with_reducible apply State.core_ok
    | with_reducible refine Core.mk_ok rfl rfl ?_

theorem keepTok_ok (d : Nat) (s : State) (c : Nat) (hs : s.Ok) : (keepTok d s c).Ok := by
  unfold keepTok
  dsimp only
  repeat' first | with_reducible assumption | with_reducible apply setTok_ok

theorem cutTok_ok (d : Nat) (z : Nat × State) (c : Nat) (hz : z.2.Ok) : (cutTok d z c).2.Ok := by
  unfold cutTok
  dsimp only
  repeat' first | with_reducible assumption | with_reducible apply setTok_ok

theorem grantTok_ok (d : Nat) (s : State) (c : Nat) (hs : s.Ok) : (grantTok d s c).Ok := by
  unfold grantTok
  dsimp only
  repeat' first | with_reducible assumption | with_reducible apply setTok_ok | split

theorem matchDtok_ok (d : Nat) (s : State) (hs : s.Ok) : (matchDtok d s).Ok := by
  unfold matchDtok
  dsimp only
  repeat' first
    | with_reducible assumption
    | with_reducible apply State.putDie_ok
    | with_reducible apply cutTok_ok
    | with_reducible apply foldl_snd_ok
    | split

theorem epochDie_ok (s : State) (d : Nat) (hs : s.Ok) : (epochDie s d).Ok := by
  unfold epochDie
  dsimp only
  repeat' first
    | with_reducible assumption
    | with_reducible apply keepTok_ok
    | with_reducible apply grantTok_ok
    | with_reducible apply matchDtok_ok
    | intro _
    | with_reducible apply State.putCore_ok
    | with_reducible apply foldl_ok
    | with_reducible apply State.core_ok
    | with_reducible refine Core.mk_ok rfl rfl ?_

theorem execEpochBoundary_ok (s : State) (hs : s.Ok) : OutOk (execEpochBoundary s) := by
  unfold execEpochBoundary
  repeat' first
    | with_reducible assumption
    | with_reducible apply epochDie_ok
    | with_reducible apply OutOk_next
    | with_reducible apply foldl_ok

theorem lowerStep_ok (d : Nat) (s : State) (hs : s.Ok) : (lowerStep d s).Ok := by
  unfold lowerStep
  dsimp only
  repeat' first | with_reducible assumption | with_reducible apply State.setDtok_ok | with_reducible apply State.putDie_ok

theorem raiseStep_ok (d : Nat) (s : State) (hs : s.Ok) : (raiseStep d s).Ok := by
  unfold raiseStep
  dsimp only
  repeat' first
    | with_reducible assumption
    | with_reducible apply State.setDtok_ok
    | with_reducible apply State.putDie_ok
    | split

theorem setTj_ok (d : Nat) (v : Nat) (s : State) (hs : s.Ok) : (setTj d v s).Ok := by
  unfold setTj
  dsimp only
  repeat' first | with_reducible assumption | with_reducible apply State.setFld_ok | with_reducible apply State.putDie_ok

theorem setWarn_ok (s : State) (hs : s.Ok) : (setWarn s).Ok := by
  unfold setWarn
  repeat' first
    | with_reducible assumption
    | with_reducible apply State.setFld_ok
    | with_reducible apply State.msi_ok
    | split

theorem nextDue_ok (d : Nat) (s : State) (hs : s.Ok) : (nextDue d s).Ok := by
  unfold nextDue
  exact State.putDie_ok _ _ _ hs

theorem execThermalWarn_ok (d : Nat) (s : State) (hs : s.Ok) : OutOk (execThermalWarn d s) := by
  unfold execThermalWarn
  repeat' first
    | with_reducible assumption
    | with_reducible apply nextDue_ok
    | with_reducible apply lowerStep_ok
    | with_reducible apply setTj_ok
    | with_reducible apply setWarn_ok
    | with_reducible apply OutOk_next
    | split

theorem execThrottleStep_ok (d : Nat) (s : State) (hs : s.Ok) : OutOk (execThrottleStep d s) := by
  unfold execThrottleStep
  dsimp only
  repeat' first
    | with_reducible assumption
    | with_reducible apply nextDue_ok
    | with_reducible apply State.used_ok
    | with_reducible apply State.putDie_ok
    | with_reducible apply lowerStep_ok
    | with_reducible apply raiseStep_ok
    | with_reducible apply setTj_ok
    | with_reducible apply setWarn_ok
    | with_reducible apply OutOk_next
    | split

theorem execThermalTrip_ok (d : Nat) (s : State) (hs : s.Ok) : OutOk (execThermalTrip d s) := by
  unfold execThermalTrip
  dsimp only
  repeat' first
    | with_reducible assumption
    | with_reducible apply State.setFld_ok
    | with_reducible apply State.msi_ok
    | with_reducible apply State.setStage_ok
    | with_reducible apply State.setLastErr_ok
    | with_reducible apply setTj_ok
    | with_reducible exact CoresOk.nil
    | with_reducible exact CtxsOk.nil
    | with_reducible apply OutOk_next
    | split
    | with_reducible refine State.mk_core_ok rfl rfl rfl ?_ ?_ ?_

/-! ## System.lean -/

theorem coldClear_ok (s : State) (hs : s.Ok) : (coldClear s).Ok := ⟨rfl, hs.host, hs.stag, CoresOk.nil, CtxsOk.nil⟩

theorem firmwareRegs_ok (s : State) (hs : s.Ok) : (firmwareRegs s).Ok := by
  unfold firmwareRegs
  dsimp only
  repeat' first
    | with_reducible assumption
    | with_reducible apply State.setReg_ok
    | with_reducible apply State.setFld_ok
    | with_reducible apply State.setDtok_ok
    | intro _
    | with_reducible apply foldl_ok

theorem trainPorts_ok (s : State) (hs : s.Ok) : (trainPorts s).Ok := by
  unfold trainPorts
  dsimp only
  repeat' first | with_reducible assumption | with_reducible refine State.mk_ok rfl rfl rfl rfl rfl ?_

theorem coldRest_ok (s : State) (hs : s.Ok) : (coldRest s).Ok := by
  unfold coldRest
  dsimp only
  repeat' first
    | with_reducible assumption
    | with_reducible apply State.setFld_ok
    | with_reducible apply State.setStage_ok
    | with_reducible apply State.setLastErr_ok
    | with_reducible apply State.used_ok
    | with_reducible apply coldClear_ok
    | with_reducible apply firmwareRegs_ok
    | with_reducible apply trainPorts_ok
    | split
    | with_reducible refine State.mk_ok rfl rfl rfl rfl rfl ?_

theorem execColdStart_ok (s : State) (hs : s.Ok) : OutOk (execColdStart s) := by
  unfold execColdStart
  dsimp only
  repeat' first
    | with_reducible assumption
    | with_reducible apply State.setFld_ok
    | with_reducible apply State.setStage_ok
    | with_reducible apply State.setLastErr_ok
    | with_reducible apply coldClear_ok
    | with_reducible apply coldRest_ok
    | with_reducible apply OutOk_next
    | split

theorem execFirmwarePush_ok (s : State) (hs : s.Ok) : OutOk (execFirmwarePush s) := by
  unfold execFirmwarePush
  dsimp only
  repeat' first
    | with_reducible assumption
    | with_reducible apply State.setLastErr_ok
    | with_reducible apply coldRest_ok
    | with_reducible apply OutOk_next
    | split
    | with_reducible refine State.mk_ok rfl rfl rfl rfl rfl ?_

theorem killAll_ok (s : State) (hs : s.Ok) : (killAll s).Ok := by
  unfold killAll
  repeat' first
    | with_reducible assumption
    | with_reducible apply State.setCtxState_ok
    | with_reducible apply State.setCtxBusy_ok
    | with_reducible apply execKill_ok
    | intro _
    | with_reducible apply foldl_ok
    | with_reducible apply nextOf_ok
    | split

theorem warmCores_ok (cs : Tab Core) : CoresOk (warmCores cs) := by
  intro e he
  obtain ⟨k, -, rfl⟩ := List.mem_map.1 he
  exact Core.mk_ok rfl rfl Core.reset_ok

theorem execWarmStart_ok (s : State) (hs : s.Ok) : OutOk (execWarmStart s) := by
  unfold execWarmStart
  dsimp only
  repeat' first
    | with_reducible assumption
    | with_reducible apply warmCores_ok
    | with_reducible apply State.setReg_ok
    | with_reducible apply State.setFld_ok
    | with_reducible apply endResvs_ok
    | with_reducible apply State.setDtok_ok
    | with_reducible apply killAll_ok
    | with_reducible exact CoresOk.nil
    | with_reducible exact CtxsOk.nil
    | intro _
    | with_reducible apply OutOk_next
    | with_reducible apply foldl_ok
    | split
    | with_reducible refine State.mk_core_ok rfl rfl rfl ?_ ?_ ?_

theorem execHbmScrub_ok (addr : Nat) (bad : Bool) (s : State) (hs : s.Ok) : OutOk (execHbmScrub addr bad s) := by
  unfold execHbmScrub
  dsimp only
  repeat' first
    | with_reducible assumption
    | with_reducible apply State.bump_ok
    | with_reducible apply State.setUE_ok
    | with_reducible apply OutOk_next
    | split
    | with_reducible refine State.mk_ok rfl rfl rfl rfl rfl ?_

theorem goXinv_ok (x : Nat) (s : State) (hs : s.Ok) : (goXinv x s).Ok := by
  unfold goXinv
  repeat' first
    | with_reducible assumption
    | with_reducible apply execXinvContext_ok
    | with_reducible apply execXinvPages_ok
    | with_reducible apply execXinvRanges_ok
    | with_reducible apply execXinvNop_ok
    | with_reducible apply nextOf_ok
    | split

theorem goMgctl_ok (x : Nat) (s : State) (hs : s.Ok) : (goMgctl x s).Ok := by
  unfold goMgctl
  repeat' first
    | with_reducible assumption
    | with_reducible apply execMgctlReloadReduction_ok
    | with_reducible apply execMgctlReloadMulticast_ok
    | with_reducible apply nextOf_ok
    | split

theorem goClctl_ok (x : Nat) (s : State) (hs : s.Ok) : (goClctl x s).Ok := by
  unfold goClctl
  repeat' first
    | with_reducible assumption
    | with_reducible apply execClctlReloadChannels_ok
    | with_reducible apply execClctlReloadRings_ok
    | with_reducible apply nextOf_ok
    | split

theorem command_ok (x : Nat) (v : Nat) (s : State) (hs : s.Ok) : (command x v s).Ok := by
  unfold command
  repeat' first
    | with_reducible assumption
    | with_reducible apply execCreate_ok
    | with_reducible apply execKill_ok
    | with_reducible apply execSignal_ok
    | with_reducible apply execWdclr_ok
    | with_reducible apply execUcload_ok
    | with_reducible apply execAttest_ok
    | with_reducible apply nextOf_ok
    | split

theorem trigger_ok (o : Nat) (b : Nat) (s : State) (hs : s.Ok) : (trigger o b s).Ok := by
  unfold trigger
  dsimp only
  repeat' first
    | with_reducible assumption
    | with_reducible apply execDebugHalt_ok
    | with_reducible apply execFirmwarePush_ok
    | with_reducible apply execWarmStart_ok
    | with_reducible apply goXinv_ok
    | with_reducible apply goMgctl_ok
    | with_reducible apply goClctl_ok
    | with_reducible apply command_ok
    | with_reducible apply nextOf_ok
    | split

theorem writeReg_ok (o : Nat) (lo : Nat) (bs : List Byte) (s : State) (hs : s.Ok) : (writeReg o lo bs s).Ok := by
  unfold writeReg
  dsimp only
  repeat' first
    | with_reducible assumption
    | with_reducible apply State.setReg_ok
    | with_reducible apply execLqbaseWrite_ok
    | with_reducible apply trigger_ok
    | with_reducible apply nextOf_ok
    | split

theorem writeGroup_ok (o : Nat) (lo : Nat) (bs : List Byte) (s : State) (hs : s.Ok) : (writeGroup o lo bs s).Ok := by
  unfold writeGroup
  repeat' first
    | with_reducible assumption
    | with_reducible apply writeReg_ok
    | with_reducible apply Mem.wf_setBytes
    | with_reducible apply State.Ok.stag
    | split
    | with_reducible refine State.mk_stag_ok rfl rfl rfl rfl ?_ ?_

theorem writeBar0_ok (addr : Nat) (bs : List Byte) (s : State) (hs : s.Ok) : (writeBar0 addr bs s).Ok := by
  unfold writeBar0
  dsimp only
  repeat' first | with_reducible assumption | with_reducible apply writeGroup_ok | intro _ | with_reducible apply foldl_ok

theorem execRegisterWrite_ok (addr : Nat) (bytes : List Byte) (s : State) (hs : s.Ok) :
    OutOk (execRegisterWrite addr bytes s) := by
  unfold execRegisterWrite
  repeat' first | with_reducible assumption | with_reducible apply writeBar0_ok | with_reducible apply OutOk_next | split

/-! ## Host.lean -/

theorem execHostCxlMemRead_ok (addr : Nat) (n : Nat) (s : State) (hs : s.Ok) : OutOk (execHostCxlMemRead addr n s) := by
  unfold execHostCxlMemRead
  dsimp only
  repeat' first
    | with_reducible assumption
    | with_reducible apply State.setUE_ok
    | with_reducible apply OutOk_next
    | split
    | with_reducible refine State.mk_ok rfl rfl rfl rfl rfl ?_

theorem execHostCxlMemWrite_ok (addr : Nat) (bytes : List Byte) (s : State) (hs : s.Ok) :
    OutOk (execHostCxlMemWrite addr bytes s) := by
  unfold execHostCxlMemWrite
  repeat' first | with_reducible assumption | with_reducible apply hbmWrite_ok | with_reducible apply OutOk_next | split

theorem Seat.staleSup_ok (x : Seat) (olds : List (Nat × W32)) (hx : x.Ok) : (Seat.staleSup x olds).Ok := by
  unfold Seat.staleSup
  repeat' first | with_reducible assumption | with_reducible refine Seat.mk_ok rfl rfl ?_

theorem writeSup_ok (c : Nat) (off : Nat) (bs : List Byte) (s : State) (hs : s.Ok) : (writeSup c off bs s).Ok := by
  unfold writeSup
  dsimp only
  repeat' first
    | with_reducible assumption
    | with_reducible apply Seat.staleSup_ok
    | with_reducible apply CtxsOk.map
    | with_reducible apply SeatsOk.upd
    | with_reducible apply Ctx.Ok.saved
    | with_reducible apply State.Ok.cor
    | with_reducible apply State.Ok.con
    | intro _
    | with_reducible apply State.putCore_ok
    | with_reducible apply Mem.wf_setBytes
    | with_reducible apply Core.seat_ok
    | with_reducible apply State.core_ok
    | split
    | dsimp only
    | with_reducible refine Core.mk_ok2 ?_ ?_
    | with_reducible apply Core.Ok.svr
    | with_reducible refine Ctx.mk_ok2 ?_
    | with_reducible refine State.mk_core_ok rfl rfl rfl ?_ ?_ ?_

theorem execHostSupervisorWrite_ok (c : Nat) (off : Nat) (bytes : List Byte) (s : State) (hs : s.Ok) :
    OutOk (execHostSupervisorWrite c off bytes s) := by
  unfold execHostSupervisorWrite
  repeat' first | with_reducible assumption | with_reducible apply writeSup_ok | with_reducible apply OutOk_next | split

theorem ioRun_ok (a : Nat) (bs : List Byte) (s : State) (hs : s.Ok) : (ioRun a bs s).Ok := by
  unfold ioRun
  dsimp only
  repeat' first
    | with_reducible assumption
    | with_reducible apply Seat.writeWords_ok
    | with_reducible apply Seat.writeCode_ok
    | with_reducible apply writeSup_ok
    | with_reducible apply State.putSeat_ok
    | with_reducible apply State.putCore_ok
    | with_reducible apply Core.seat_ok
    | with_reducible apply State.core_ok
    | split
    | with_reducible refine Core.mk_ok rfl rfl ?_

theorem ioWrite_ok (a : Nat) (bs : List Byte) (s : State) (hs : s.Ok) : (ioWrite a bs s).Ok := by
  unfold ioWrite
  dsimp only
  repeat' first | with_reducible assumption | with_reducible apply ioRun_ok

theorem localWrite_ok (a : Nat) (bs : List Byte) (s : State) (hs : s.Ok) : (localWrite a bs s).Ok := by
  unfold localWrite
  dsimp only
  repeat' first
    | with_reducible assumption
    | with_reducible apply hbmWrite_ok
    | with_reducible apply writeBar0_ok
    | with_reducible apply ioWrite_ok
    | split

theorem execHostCxlIoWindowAccess_ok (addr : Nat) (n : Nat) (w : Option (List Byte)) (s : State) (hs : s.Ok) :
    OutOk (execHostCxlIoWindowAccess addr n w s) := by
  unfold execHostCxlIoWindowAccess
  dsimp only
  repeat' first
    | with_reducible assumption
    | with_reducible apply State.setUE_ok
    | with_reducible apply localWrite_ok
    | with_reducible apply OutOk_next
    | split
    | with_reducible refine State.mk_ok rfl rfl rfl rfl rfl ?_

theorem strike_ok (s : State) (u : Upset) (hs : s.Ok) : (strike s u).Ok := by
  have h : ∀ (c : Nat) (f : Seat → Seat), (∀ y : Seat, y.Ok → (f y).Ok) →
      (if (s.core c).owner.isSome then s.putSeat c (f (s.seat c)) else s).Ok := by
    intro c f hf
    split
    · exact State.putSeat_ok hs (hf _ (State.seat_ok hs c))
    · exact hs
  cases u with
  | corrected => exact State.bump_ok _ _ _ _ _ hs
  | data c w =>
    show State.Ok (if _ then _ else _)
    split
    · exact h c _ fun y hy => Seat.mk_ok rfl rfl hy
    · exact hs
  | code c w => exact h c _ fun y hy => Seat.mk_ok rfl rfl hy
  | sup c w =>
    show State.Ok (if _ then _ else _)
    split
    · exact State.putCore_ok hs (Core.mk_ok rfl rfl (State.core_ok hs c))
    · exact hs
  | mxe c => exact h c _ fun y hy => Seat.mk_ok rfl rfl hy
  | read _ _ _ => exact hs
  | land _ _ => exact hs
  | mash x g => exact State.mk_ok rfl rfl rfl rfl rfl hs
  | packet n => exact State.mk_ok rfl rfl rfl rfl rfl hs
  | temp d v =>
    show State.Ok (if _ then _ else _)
    split
    · exact setTj_ok _ _ _ hs
    · exact hs
  | trip i n =>
    show State.Ok (if _ then _ else _)
    split
    · exact State.putPort_ok _ _ _ hs
    · exact hs

theorem strikes_ok (s : State) (hs : s.Ok) : (strikes s).Ok := by
  unfold strikes
  dsimp only
  repeat' first
    | with_reducible assumption
    | with_reducible apply strike_ok
    | with_reducible apply foldl_ok
    | with_reducible refine State.mk_ok rfl rfl rfl rfl rfl ?_

/-! ## Memory.lean -/

theorem accessOk_ok (s : State) (els : List (Nat × Nat)) (al : Bool) (store : Bool) (body : SlotRes) (hbody : ExcOk body) :
    ExcOk (accessOk s els al store body) := by
  unfold accessOk
  repeat' first | with_reducible assumption | with_reducible exact ExcOk_error | split

theorem aligned_ok (a : Nat) (n : Nat) (body : SlotRes) (hbody : ExcOk body) : ExcOk (aligned a n body) := by
  unfold aligned
  repeat' first | with_reducible assumption | with_reducible exact ExcOk_error | split

theorem loadS_ok (d : RegF) (b : RegF) (al : Bool) (o : BitVec 13) (n : Nat) (signed : Bool) (s : State) (hs : s.Ok) :
    OutOk (loadS d b al o n signed s) := by
  unfold loadS
  dsimp only
  repeat' first
    | with_reducible assumption
    | with_reducible apply pend_ok
    | with_reducible apply runSlot_ok
    | with_reducible apply accessOk_ok
    | with_reducible apply aligned_ok
    | with_reducible apply ExcOk_ok

theorem storeS_ok (d : RegF) (b : RegF) (al : Bool) (o : BitVec 13) (n : Nat) (s : State) (hs : s.Ok) :
    OutOk (storeS d b al o n s) := by
  unfold storeS
  dsimp only
  repeat' first
    | with_reducible assumption
    | with_reducible apply pend_ok
    | with_reducible apply runSlot_ok
    | with_reducible apply accessOk_ok
    | with_reducible apply aligned_ok
    | with_reducible apply ExcOk_ok

theorem execLdB_ok (d : RegF) (b : RegF) (l : Bool) (o : BitVec 13) (s : State) (hs : s.Ok) :
    OutOk (execLdB d b l o s) := by
  unfold execLdB
  repeat' first | with_reducible assumption | with_reducible apply loadS_ok

theorem execLdH_ok (d : RegF) (b : RegF) (l : Bool) (o : BitVec 13) (s : State) (hs : s.Ok) :
    OutOk (execLdH d b l o s) := by
  unfold execLdH
  repeat' first | with_reducible assumption | with_reducible apply loadS_ok

theorem execLdW_ok (d : RegF) (b : RegF) (l : Bool) (o : BitVec 13) (s : State) (hs : s.Ok) :
    OutOk (execLdW d b l o s) := by
  unfold execLdW
  repeat' first | with_reducible assumption | with_reducible apply loadS_ok

theorem execLdD_ok (d : RegF) (b : RegF) (l : Bool) (o : BitVec 13) (s : State) (hs : s.Ok) :
    OutOk (execLdD d b l o s) := by
  unfold execLdD
  repeat' first | with_reducible assumption | with_reducible apply loadS_ok

theorem execLduB_ok (d : RegF) (b : RegF) (l : Bool) (o : BitVec 13) (s : State) (hs : s.Ok) :
    OutOk (execLduB d b l o s) := by
  unfold execLduB
  repeat' first | with_reducible assumption | with_reducible apply loadS_ok

theorem execLduH_ok (d : RegF) (b : RegF) (l : Bool) (o : BitVec 13) (s : State) (hs : s.Ok) :
    OutOk (execLduH d b l o s) := by
  unfold execLduH
  repeat' first | with_reducible assumption | with_reducible apply loadS_ok

theorem execLduW_ok (d : RegF) (b : RegF) (l : Bool) (o : BitVec 13) (s : State) (hs : s.Ok) :
    OutOk (execLduW d b l o s) := by
  unfold execLduW
  repeat' first | with_reducible assumption | with_reducible apply loadS_ok

theorem execStB_ok (d : RegF) (b : RegF) (l : Bool) (o : BitVec 13) (s : State) (hs : s.Ok) :
    OutOk (execStB d b l o s) := by
  unfold execStB
  repeat' first | with_reducible assumption | with_reducible apply storeS_ok

theorem execStH_ok (d : RegF) (b : RegF) (l : Bool) (o : BitVec 13) (s : State) (hs : s.Ok) :
    OutOk (execStH d b l o s) := by
  unfold execStH
  repeat' first | with_reducible assumption | with_reducible apply storeS_ok

theorem execStW_ok (d : RegF) (b : RegF) (l : Bool) (o : BitVec 13) (s : State) (hs : s.Ok) :
    OutOk (execStW d b l o s) := by
  unfold execStW
  repeat' first | with_reducible assumption | with_reducible apply storeS_ok

theorem execStD_ok (d : RegF) (b : RegF) (l : Bool) (o : BitVec 13) (s : State) (hs : s.Ok) :
    OutOk (execStD d b l o s) := by
  unfold execStD
  repeat' first | with_reducible assumption | with_reducible apply storeS_ok

theorem loadV_ok (d : RegF) (els : List (Nat × Nat)) (al : Bool) (s : State) (hs : s.Ok) : ExcOk (loadV d els al s) := by
  unfold loadV
  repeat' first
    | with_reducible assumption
    | with_reducible apply pend_ok
    | with_reducible apply accessOk_ok
    | with_reducible apply ExcOk_ok

theorem storeV_ok (d : RegF) (els : List (Nat × Nat)) (al : Bool) (s : State) (hs : s.Ok) : ExcOk (storeV d els al s) := by
  unfold storeV
  repeat' first
    | with_reducible assumption
    | with_reducible apply pend_ok
    | with_reducible apply accessOk_ok
    | with_reducible apply ExcOk_ok

theorem unlessEmpty_ok (s : State) (c : CSet) (body : SlotRes) (hs : s.Ok) (hbody : ExcOk body) :
    ExcOk (unlessEmpty s c body) := by
  unfold unlessEmpty
  repeat' first | with_reducible assumption | with_reducible apply ExcOk_ok | split

theorem execVld_ok (d : RegF) (b : RegF) (l : Bool) (c : CSet) (o : BitVec 11) (s : State) (hs : s.Ok) :
    OutOk (execVld d b l c o s) := by
  unfold execVld
  dsimp only
  repeat' first
    | with_reducible assumption
    | with_reducible apply runSlot_ok
    | with_reducible apply aligned_ok
    | with_reducible apply loadV_ok
    | with_reducible apply unlessEmpty_ok

theorem execVldb_ok (d : RegF) (b : RegF) (l : Bool) (c : CSet) (o : BitVec 11) (s : State) (hs : s.Ok) :
    OutOk (execVldb d b l c o s) := by
  unfold execVldb
  dsimp only
  repeat' first
    | with_reducible assumption
    | with_reducible apply runSlot_ok
    | with_reducible apply aligned_ok
    | with_reducible apply loadV_ok
    | with_reducible apply unlessEmpty_ok

theorem execVst_ok (d : RegF) (b : RegF) (l : Bool) (c : CSet) (o : BitVec 11) (s : State) (hs : s.Ok) :
    OutOk (execVst d b l c o s) := by
  unfold execVst
  dsimp only
  repeat' first
    | with_reducible assumption
    | with_reducible apply runSlot_ok
    | with_reducible apply aligned_ok
    | with_reducible apply storeV_ok
    | with_reducible apply unlessEmpty_ok

theorem column_ok (s : State) (x : Nat) (c : CSet) (body : List (Nat × Nat) → SlotRes) (hbody : ∀ l, ExcOk (body l)) :
    ExcOk (column s x c body) := by
  unfold column
  repeat' first | with_reducible apply hbody | with_reducible exact ExcOk_error | split

theorem execVldt_ok (d : RegF) (b : RegF) (l : Bool) (c : CSet) (o : BitVec 11) (s : State) (hs : s.Ok) :
    OutOk (execVldt d b l c o s) := by
  unfold execVldt
  repeat' first
    | with_reducible assumption
    | with_reducible apply runSlot_ok
    | with_reducible apply loadV_ok
    | with_reducible apply unlessEmpty_ok
    | with_reducible apply column_ok
    | intro _

theorem execVstt_ok (d : RegF) (b : RegF) (l : Bool) (c : CSet) (o : BitVec 11) (s : State) (hs : s.Ok) :
    OutOk (execVstt d b l c o s) := by
  unfold execVstt
  repeat' first
    | with_reducible assumption
    | with_reducible apply runSlot_ok
    | with_reducible apply storeV_ok
    | with_reducible apply unlessEmpty_ok
    | with_reducible apply column_ok
    | intro _

theorem strided_ok (s : State) (a : RegF) (b : RegF) (k : F3) (c : CSet) (body : List (Nat × Nat) → SlotRes) (hbody : ∀ l, ExcOk (body l)) :
    ExcOk (strided s a b k c body) := by
  unfold strided
  dsimp only
  repeat' first | with_reducible apply hbody | with_reducible exact ExcOk_error | split

theorem execVlds_ok (d : RegF) (a : RegF) (b : RegF) (k : F3) (c : CSet) (l : Bool) (s : State) (hs : s.Ok) :
    OutOk (execVlds d a b k c l s) := by
  unfold execVlds
  repeat' first
    | with_reducible assumption
    | with_reducible apply runSlot_ok
    | with_reducible apply loadV_ok
    | with_reducible apply strided_ok
    | intro _
    | with_reducible apply ExcOk_ok
    | split

theorem execVsts_ok (d : RegF) (a : RegF) (b : RegF) (k : F3) (c : CSet) (l : Bool) (s : State) (hs : s.Ok) :
    OutOk (execVsts d a b k c l s) := by
  unfold execVsts
  repeat' first
    | with_reducible assumption
    | with_reducible apply runSlot_ok
    | with_reducible apply storeV_ok
    | with_reducible apply strided_ok
    | intro _
    | with_reducible apply ExcOk_ok
    | split

theorem kblocks_ok (s : State) (a : RegF) (b : RegF) (k : Nat) (c : CSet) (body : List (Nat × Nat × Nat) → SlotRes) (hbody : ∀ l, ExcOk (body l)) :
    ExcOk (kblocks s a b k c body) := by
  unfold kblocks
  dsimp only
  repeat' first | with_reducible apply hbody | with_reducible exact ExcOk_error | split

theorem loadK_ok (d : RegF) (a : RegF) (b : RegF) (c : CSet) (l : Bool) (k : Nat) (s : State) (hs : s.Ok) :
    OutOk (loadK d a b c l k s) := by
  unfold loadK
  repeat' first
    | with_reducible assumption
    | with_reducible apply pend_ok
    | with_reducible apply runSlot_ok
    | with_reducible apply accessOk_ok
    | with_reducible apply unlessEmpty_ok
    | with_reducible apply kblocks_ok
    | intro _
    | with_reducible apply ExcOk_ok

theorem storeK_ok (d : RegF) (a : RegF) (b : RegF) (c : CSet) (l : Bool) (k : Nat) (s : State) (hs : s.Ok) :
    OutOk (storeK d a b c l k s) := by
  unfold storeK
  dsimp only
  repeat' first
    | with_reducible assumption
    | with_reducible apply pend_ok
    | with_reducible apply runSlot_ok
    | with_reducible apply accessOk_ok
    | with_reducible apply unlessEmpty_ok
    | with_reducible apply kblocks_ok
    | intro _
    | with_reducible apply ExcOk_ok

theorem execVldkKbf7_ok (d : RegF) (a : RegF) (b : RegF) (c : CSet) (l : Bool) (s : State) (hs : s.Ok) :
    OutOk (execVldkKbf7 d a b c l s) := by
  unfold execVldkKbf7
  repeat' first | with_reducible assumption | with_reducible apply loadK_ok

theorem execVldkKbf4_ok (d : RegF) (a : RegF) (b : RegF) (c : CSet) (l : Bool) (s : State) (hs : s.Ok) :
    OutOk (execVldkKbf4 d a b c l s) := by
  unfold execVldkKbf4
  repeat' first | with_reducible assumption | with_reducible apply loadK_ok

theorem execVldkKbf2_ok (d : RegF) (a : RegF) (b : RegF) (c : CSet) (l : Bool) (s : State) (hs : s.Ok) :
    OutOk (execVldkKbf2 d a b c l s) := by
  unfold execVldkKbf2
  repeat' first | with_reducible assumption | with_reducible apply loadK_ok

theorem execVstkKbf7_ok (d : RegF) (a : RegF) (b : RegF) (c : CSet) (l : Bool) (s : State) (hs : s.Ok) :
    OutOk (execVstkKbf7 d a b c l s) := by
  unfold execVstkKbf7
  repeat' first | with_reducible assumption | with_reducible apply storeK_ok

theorem execVstkKbf4_ok (d : RegF) (a : RegF) (b : RegF) (c : CSet) (l : Bool) (s : State) (hs : s.Ok) :
    OutOk (execVstkKbf4 d a b c l s) := by
  unfold execVstkKbf4
  repeat' first | with_reducible assumption | with_reducible apply storeK_ok

theorem execVstkKbf2_ok (d : RegF) (a : RegF) (b : RegF) (c : CSet) (l : Bool) (s : State) (hs : s.Ok) :
    OutOk (execVstkKbf2 d a b c l s) := by
  unfold execVstkKbf2
  repeat' first | with_reducible assumption | with_reducible apply storeK_ok

theorem amo_ok (op : AmoOp) (d : RegF) (a : RegF) (b : RegF) (k : F3) (l : Bool) (s : State) (hs : s.Ok) :
    OutOk (amo op d a b k l s) := by
  unfold amo
  dsimp only
  repeat' first
    | with_reducible assumption
    | with_reducible apply pend_ok
    | with_reducible apply runSlot_ok
    | with_reducible apply guarded_ok
    | with_reducible apply accessOk_ok
    | with_reducible apply aligned_ok
    | with_reducible apply ExcOk_ok

theorem execAmoAdd_ok (d : RegF) (a : RegF) (b : RegF) (k : F3) (l : Bool) (s : State) (hs : s.Ok) :
    OutOk (execAmoAdd d a b k l s) := by
  unfold execAmoAdd
  repeat' first | with_reducible assumption | with_reducible apply amo_ok

theorem execAmoMax_ok (d : RegF) (a : RegF) (b : RegF) (k : F3) (l : Bool) (s : State) (hs : s.Ok) :
    OutOk (execAmoMax d a b k l s) := by
  unfold execAmoMax
  repeat' first | with_reducible assumption | with_reducible apply amo_ok

theorem execAmoMin_ok (d : RegF) (a : RegF) (b : RegF) (k : F3) (l : Bool) (s : State) (hs : s.Ok) :
    OutOk (execAmoMin d a b k l s) := by
  unfold execAmoMin
  repeat' first | with_reducible assumption | with_reducible apply amo_ok

theorem execAmoSwap_ok (d : RegF) (a : RegF) (b : RegF) (k : F3) (l : Bool) (s : State) (hs : s.Ok) :
    OutOk (execAmoSwap d a b k l s) := by
  unfold execAmoSwap
  repeat' first | with_reducible assumption | with_reducible apply amo_ok

theorem execAmoCas_ok (d : RegF) (a : RegF) (b : RegF) (k : F3) (l : Bool) (s : State) (hs : s.Ok) :
    OutOk (execAmoCas d a b k l s) := by
  unfold execAmoCas
  repeat' first | with_reducible assumption | with_reducible apply amo_ok

theorem execQpush_ok (d : BitVec 2) (a : RegF) (k : F3) (s : State) (hs : s.Ok) : OutOk (execQpush d a k s) := by
  unfold execQpush
  dsimp only
  repeat' first
    | with_reducible assumption
    | with_reducible apply Seat.putQ_ok
    | with_reducible apply runSlot_ok
    | with_reducible apply guarded_ok
    | with_reducible apply ExcOk_ok
    | with_reducible exact ExcOk_error
    | with_reducible apply State.putSeat_ok
    | with_reducible apply State.seat_ok
    | split

theorem Seat.endGstart_ok (x : Seat) (n : Nat) (hx : x.Ok) : (Seat.endGstart x n).Ok := by
  unfold Seat.endGstart
  dsimp only
  repeat' first
    | with_reducible assumption
    | with_reducible apply Seat.putQ_ok
    | with_reducible apply Seat.release_ok
    | split

theorem execQdrop_ok (d : BitVec 2) (k : F3) (s : State) (hs : s.Ok) : OutOk (execQdrop d k s) := by
  unfold execQdrop
  dsimp only
  repeat' first
    | with_reducible assumption
    | with_reducible apply runSlot_ok
    | with_reducible apply guarded_ok
    | with_reducible apply Seat.endGstart_ok
    | with_reducible apply ExcOk_ok
    | with_reducible exact ExcOk_error
    | with_reducible apply State.putSeat_ok
    | with_reducible apply State.seat_ok
    | split
    | with_reducible refine Seat.mk_ok rfl rfl ?_

theorem applyDrops_ok (c : Nat) (s : State) (hs : s.Ok) : (applyDrops c s).Ok := by
  unfold applyDrops
  dsimp only
  repeat' first
    | with_reducible assumption
    | with_reducible apply Seat.putQ_ok
    | with_reducible apply dropReqs_ok
    | intro _
    | with_reducible apply State.putSeat_ok
    | with_reducible apply foldl_ok
    | with_reducible apply State.seat_ok
    | split
    | with_reducible refine Seat.mk_ok rfl rfl ?_

/-! ## Fetch.lean -/

theorem duePreview_ok (tick : Bool) (y : Stream) (x : Seat) (hx : x.Ok) : (duePreview tick y x).Ok := by
  have h : ∀ (l : List Landing) (x : Seat), x.Ok → (l.foldl (fun (x : Seat) (e : Landing) =>
      match e.dest with | .sys n v => sysWriteSeat n v x | _ => x) x).Ok := by
    intro l
    induction l with
    | nil => exact fun _ h => h
    | cons e l ih =>
      intro x hx
      refine ih _ ?_
      dsimp only
      split
      · exact sysWriteSeat_ok _ _ _ hx
      · exact hx
  exact h _ _ (h _ _ hx)

theorem skipDone_ok (c : Nat) (t : Bool) (s : State) (hs : s.Ok) : (skipDone c t s).Ok := by
  unfold skipDone
  dsimp only
  repeat' first | with_reducible assumption | with_reducible apply State.putSt_ok | split

end Sys2Proof.Machine
end

