-- ==== Sys2Proof/Laws/CanonStep.lean ====
section
/-! SUPPORT. Every memory keeps its canonical form: streams, every instruction, and the turns of a cycle. One law per function. -/

namespace Sys2Proof.Machine

/-! ## Stream.lean -/

theorem stepLog_ok (c : Nat) (old : W32) (new : W32) (s : State) (hs : s.Ok) : (stepLog c old new s).Ok := by
  unfold stepLog
  dsimp only
  repeat' first
    | with_reducible assumption
    | with_reducible apply State.putCtx_ok
    | with_reducible apply State.ctx_ok
    | split
    | with_reducible refine Ctx.mk_ok rfl ?_

theorem landOne_ok (c : Nat) (t : Bool) (s : State) (e : Landing) (hs : s.Ok) : (landOne c t s e).Ok := by
  unfold landOne
  dsimp only
  repeat' first
    | with_reducible assumption
    | with_reducible apply sysLand_ok
    | with_reducible apply putChan_ok
    | with_reducible apply stepLog_ok
    | with_reducible apply State.putSeat_ok
    | with_reducible apply State.putSt_ok
    | with_reducible apply State.seat_ok
    | split
    | with_reducible refine Seat.mk_ok rfl rfl ?_

theorem landsEcc_ok (c : Nat) (t : Bool) (es : List Landing) (s : State) (hs : s.Ok) : (landsEcc c t es s).Ok := by
  unfold landsEcc
  repeat' first
    | with_reducible assumption
    | with_reducible apply eccAt_ok
    | intro _
    | with_reducible apply foldl_ok
    | split
    | with_reducible refine State.mk_ok rfl rfl rfl rfl rfl ?_

theorem landAll_ok (c : Nat) (t : Bool) (es : List Landing) (s : State) (hs : s.Ok) : (landAll c t es s).Ok := by
  unfold landAll
  dsimp only
  repeat' first
    | with_reducible assumption
    | with_reducible apply landOne_ok
    | with_reducible apply landsEcc_ok
    | with_reducible apply State.putSt_ok
    | with_reducible apply foldl_ok

theorem landLast_ok (c : Nat) (t : Bool) (s : State) (hs : s.Ok) : (landLast c t s).Ok := by
  unfold landLast
  dsimp only
  repeat' first | with_reducible assumption | with_reducible apply landAll_ok | with_reducible apply State.putSt_ok | split

theorem execResultLanding_ok (c : Nat) (t : Bool) (s : State) (hs : s.Ok) : OutOk (execResultLanding c t s) := by
  unfold execResultLanding
  dsimp only
  repeat' first
    | with_reducible assumption
    | with_reducible apply landLast_ok
    | with_reducible apply landAll_ok
    | with_reducible apply OutOk_next
    | with_reducible apply State.putSt_ok
    | split

theorem dropAcc_ok (c : Nat) (t : Bool) (a : Access) (s : State) (hs : s.Ok) : (dropAcc c t a s).Ok := by
  unfold dropAcc
  dsimp only
  repeat' first
    | with_reducible assumption
    | with_reducible apply State.putSeat_ok
    | with_reducible apply Seat.putSt_ok
    | with_reducible apply State.seat_ok
    | with_reducible refine Seat.mk_ok rfl rfl ?_

theorem loaded_ok (c : Nat) (t : Bool) (a : Access) (d : Dest) (s : State) (hs : s.Ok) : (loaded c t a d s).Ok := by
  unfold loaded
  repeat' first | with_reducible assumption | with_reducible apply State.putSt_ok

theorem sampleMsg_ok (c : Nat) (id : Nat) (s : State) (hs : s.Ok) : (sampleMsg c id s).Ok := by
  unfold sampleMsg
  dsimp only
  repeat' first
    | with_reducible assumption
    | with_reducible apply State.putSeat_ok
    | with_reducible apply State.seat_ok
    | split
    | with_reducible refine Seat.mk_ok rfl rfl ?_

theorem performSample_ok (c : Nat) (t : Bool) (a : Access) (s : State) (hs : s.Ok) : (performSample c t a s).Ok := by
  unfold performSample
  dsimp only
  repeat' first
    | with_reducible assumption
    | with_reducible apply Seat.defer_ok
    | with_reducible apply eccMet_ok
    | with_reducible apply dropAcc_ok
    | with_reducible apply loaded_ok
    | with_reducible apply sampleMsg_ok
    | with_reducible apply State.putSeat_ok
    | with_reducible apply State.putSt_ok
    | with_reducible apply Seat.putSt_ok
    | with_reducible apply State.seat_ok
    | split
    | with_reducible refine State.mk_ok rfl rfl rfl rfl rfl ?_
    | with_reducible refine Seat.mk_ok rfl rfl ?_

theorem keepLate_ok (x : Seat) (t : Bool) (a : Access) (d at_ : Nat) (op : AmoOp) (v e : Word) (hx : x.Ok) :
    (keepLate x t a d at_ op v e).Ok := by
  unfold keepLate
  exact Seat.putSt_ok hx

theorem amoAtWrite_ok (c : Nat) (t : Bool) (a : Access) (d at_ : Nat) (op : AmoOp) (v e : Word) (s : State) (hs : s.Ok) :
    (amoAtWrite c t a d at_ op v e s).Ok := by
  unfold amoAtWrite
  dsimp only
  repeat' first
    | with_reducible assumption
    | with_reducible apply keepLate_ok
    | with_reducible apply Seat.defer_ok
    | with_reducible apply Seat.amoWhole_ok
    | with_reducible apply dropAcc_ok
    | with_reducible apply State.putSeat_ok
    | with_reducible apply State.seat_ok
    | split

theorem performWrite_ok (c : Nat) (t : Bool) (a : Access) (s : State) (hs : s.Ok) : (performWrite c t a s).Ok := by
  unfold performWrite
  dsimp only
  repeat' first
    | with_reducible assumption
    | with_reducible apply amoAtWrite_ok
    | with_reducible apply Seat.write_ok
    | with_reducible apply Seat.amoPut_ok
    | with_reducible apply Seat.defer_ok
    | with_reducible apply Seat.amoWhole_ok
    | with_reducible apply releaseLate_ok
    | with_reducible apply dropAcc_ok
    | intro _
    | with_reducible apply State.putSeat_ok
    | with_reducible apply foldl_seat_ok
    | with_reducible apply State.seat_ok
    | split
    | with_reducible refine Seat.mk_ok rfl rfl ?_

theorem sampleWait_ok (c : Nat) (t : Bool) (s : State) (hs : s.Ok) : (sampleWait c t s).Ok := by
  unfold sampleWait
  dsimp only
  repeat' first | with_reducible assumption | with_reducible apply eccAt_ok | with_reducible apply State.used_ok | with_reducible apply lose_ok | with_reducible apply State.putSt_ok | split

theorem performLast_ok (c : Nat) (t : Bool) (s : State) (hs : s.Ok) : (performLast c t s).Ok := by
  unfold performLast
  dsimp only
  repeat' first
    | with_reducible assumption
    | with_reducible apply performWrite_ok
    | with_reducible apply State.putSt_ok
    | intro _
    | with_reducible apply foldl_ok
    | split

theorem performStream_ok (c : Nat) (t : Bool) (s : State) (hs : s.Ok) : (performStream c t s).Ok := by
  unfold performStream
  dsimp only
  repeat' first
    | with_reducible assumption
    | with_reducible apply performLast_ok
    | with_reducible apply performSample_ok
    | with_reducible apply performWrite_ok
    | with_reducible apply sampleWait_ok
    | intro _
    | with_reducible apply foldl_ok

theorem execPendingAccessPerform_ok (c : Nat) (s : State) (hs : s.Ok) : OutOk (execPendingAccessPerform c s) := by
  unfold execPendingAccessPerform
  repeat' first
    | with_reducible assumption
    | with_reducible apply performStream_ok
    | with_reducible apply OutOk_next
    | split

theorem wake_ok (c : Nat) (s : State) (t : Bool) (hs : s.Ok) : (wake c s t).Ok := by
  unfold wake
  dsimp only
  repeat' first
    | with_reducible assumption
    | with_reducible apply endDev_ok
    | with_reducible apply lose_ok
    | with_reducible apply State.putSt_ok
    | split

theorem wakeGang_ok (g : Nat) (s : State) (hs : s.Ok) : (wakeGang g s).Ok := by
  unfold wakeGang
  dsimp only
  repeat' first
    | with_reducible assumption
    | with_reducible apply wake_ok
    | intro _
    | with_reducible apply foldl_ok
    | split
    | with_reducible refine State.mk_ok rfl rfl rfl rfl rfl ?_

theorem execSleepEnd_ok (c : Nat) (t : Bool) (s : State) (hs : s.Ok) : OutOk (execSleepEnd c t s) := by
  unfold execSleepEnd
  dsimp only
  repeat' first
    | with_reducible assumption
    | with_reducible apply wake_ok
    | with_reducible apply wakeGang_ok
    | with_reducible apply OutOk_next
    | with_reducible apply State.putSt_ok
    | split

theorem countSleep_ok (c : Nat) (t : Bool) (s : State) (hs : s.Ok) : (countSleep c t s).Ok := by
  unfold countSleep
  dsimp only
  repeat' first | with_reducible assumption | with_reducible apply State.putSt_ok | split

theorem execWaitLimitExpiry_ok (c : Nat) (t : Bool) (s : State) (hs : s.Ok) : OutOk (execWaitLimitExpiry c t s) := by
  unfold execWaitLimitExpiry
  dsimp only
  repeat' first | with_reducible assumption | with_reducible apply OutOk_next | with_reducible apply State.putSt_ok | split

theorem takePending_ok (c : Nat) (t : Bool) (s : State) (hs : s.Ok) : (takePending c t s).Ok := by
  unfold takePending
  repeat' first
    | with_reducible assumption
    | with_reducible apply takeTrap_ok
    | with_reducible apply State.putSt_ok
    | split

theorem execTrapEntry_ok (c : Nat) (t : Bool) (s : State) (hs : s.Ok) : OutOk (execTrapEntry c t s) := by
  unfold execTrapEntry
  repeat' first | with_reducible assumption | with_reducible apply takePending_ok | with_reducible apply OutOk_next | split

theorem lastLandings_ok (c : Nat) (t : Bool) (s : State) (hs : s.Ok) : (lastLandings c t s).Ok := by
  unfold lastLandings
  dsimp only
  repeat' first | with_reducible assumption | with_reducible apply landAll_ok | with_reducible apply State.putSt_ok

theorem returnNow_ok (c : Nat) (t : Bool) (s : State) (hs : s.Ok) : (returnNow c t s).Ok := by
  unfold returnNow
  dsimp only
  repeat' first
    | with_reducible assumption
    | with_reducible apply endDev_ok
    | with_reducible apply skipDone_ok
    | with_reducible apply takePending_ok
    | with_reducible apply State.putSt_ok
    | split

theorem execTretResume_ok (c : Nat) (t : Bool) (s : State) (hs : s.Ok) : OutOk (execTretResume c t s) := by
  unfold execTretResume
  repeat' first
    | with_reducible assumption
    | with_reducible apply lastLandings_ok
    | with_reducible apply returnNow_ok
    | with_reducible apply OutOk_next
    | split

theorem execTretEnd_ok (c : Nat) (t : Bool) (s : State) (hs : s.Ok) : OutOk (execTretEnd c t s) := by
  unfold execTretEnd
  repeat' first
    | with_reducible assumption
    | with_reducible apply lastLandings_ok
    | with_reducible apply returnNow_ok
    | with_reducible apply OutOk_next
    | split

theorem ringAll_ok (x : Nat) (l : Option Nat) (rs : List FRec) (s : State) (hs : s.Ok) : (ringAll x l rs s).Ok := by
  unfold ringAll
  dsimp only
  repeat' first
    | with_reducible assumption
    | with_reducible apply toRing_ok
    | with_reducible apply countRec_ok
    | intro _
    | with_reducible apply foldl_ok

theorem execTaskEnd_ok (c : Nat) (t : Bool) (s : State) (hs : s.Ok) : OutOk (execTaskEnd c t s) := by
  unfold execTaskEnd
  dsimp only
  repeat' first
    | with_reducible assumption
    | with_reducible apply endDev_ok
    | with_reducible apply dropGangs_ok
    | with_reducible apply ringAll_ok
    | with_reducible apply OutOk_next
    | with_reducible apply State.putSt_ok
    | split
    | with_reducible refine State.mk_ok rfl rfl rfl rfl rfl ?_

theorem diverge_ok (s : State) (c : Nat) (hs : s.Ok) : (diverge s c).Ok := by
  unfold diverge
  dsimp only
  repeat' first | with_reducible assumption | with_reducible apply takeTrap_ok | with_reducible apply State.putSt_ok

theorem execGangJoin_ok (g : Nat) (s : State) (hs : s.Ok) : OutOk (execGangJoin g s) := by
  unfold execGangJoin
  dsimp only
  repeat' first
    | with_reducible assumption
    | with_reducible apply diverge_ok
    | intro _
    | with_reducible apply OutOk_next
    | with_reducible apply foldl_ok
    | split
    | with_reducible refine State.mk_ok rfl rfl rfl rfl rfl ?_

theorem landMsg_ok (c : Nat) (s : State) (m : GMsg) (hs : s.Ok) : (landMsg c s m).Ok := by
  unfold landMsg
  dsimp only
  repeat' first
    | with_reducible assumption
    | with_reducible apply Seat.write_ok
    | intro _
    | with_reducible apply State.putSeat_ok
    | with_reducible apply foldl_seat_ok
    | with_reducible apply State.seat_ok
    | split
    | with_reducible refine Seat.mk_ok rfl rfl ?_

theorem execGangMessageLanding_ok (c : Nat) (s : State) (hs : s.Ok) : OutOk (execGangMessageLanding c s) := by
  unfold execGangMessageLanding
  repeat' first
    | with_reducible assumption
    | with_reducible apply landMsg_ok
    | with_reducible apply OutOk_next
    | with_reducible apply foldl_ok
    | split

/-! ## Plan.lean -/

theorem execCollisionCycle_ok (c : Nat) (s : State) (hs : s.Ok) : OutOk (execCollisionCycle c s) := by
  unfold execCollisionCycle
  dsimp only
  repeat' first | with_reducible assumption | with_reducible apply OutOk_next | with_reducible apply State.putSt_ok | split

theorem execPowerFreeze_ok (c : Nat) (s : State) (hs : s.Ok) : OutOk (execPowerFreeze c s) := by
  unfold execPowerFreeze
  dsimp only
  repeat' first
    | with_reducible assumption
    | with_reducible apply OutOk_next
    | with_reducible apply State.putCore_ok
    | with_reducible apply State.core_ok
    | split
    | with_reducible refine Core.mk_ok rfl rfl ?_

theorem endRun_ok (x c : Nat) (s : State) (t : Bool) (hs : s.Ok) : (endRun x c s t).Ok := by
  unfold endRun
  repeat' first | with_reducible assumption | with_reducible apply endDev_ok | split

theorem execFreezeEnd_ok (c : Nat) (s : State) (hs : s.Ok) : OutOk (execFreezeEnd c s) := by
  unfold execFreezeEnd
  dsimp only
  repeat' first
    | with_reducible assumption
    | with_reducible apply endRun_ok
    | with_reducible apply endDev_ok
    | with_reducible apply OutOk_next
    | with_reducible apply State.putCore_ok
    | with_reducible apply State.core_ok
    | split
    | with_reducible refine Core.mk_ok rfl rfl ?_

/-! ## Scalar.lean -/

theorem alu_ok (d : RegF) (a : RegF) (b : RegF) (k : F3) (lat : Nat) (f : Word → Word → Word) (s : State) (hs : s.Ok) :
    OutOk (alu d a b k lat f s) := by
  unfold alu
  repeat' first
    | with_reducible assumption
    | with_reducible apply land_ok
    | with_reducible apply runSlot_ok
    | with_reducible apply guarded_ok
    | with_reducible apply ExcOk_ok

theorem alu1_ok (d : RegF) (a : RegF) (k : F3) (lat : Nat) (f : Word → Word) (s : State) (hs : s.Ok) :
    OutOk (alu1 d a k lat f s) := by
  unfold alu1
  repeat' first
    | with_reducible assumption
    | with_reducible apply land_ok
    | with_reducible apply runSlot_ok
    | with_reducible apply guarded_ok
    | with_reducible apply ExcOk_ok

theorem alui_ok (d : RegF) (a : RegF) (f : Word → Word) (s : State) (hs : s.Ok) : OutOk (alui d a f s) := by
  unfold alui
  repeat' first
    | with_reducible assumption
    | with_reducible apply land_ok
    | with_reducible apply runSlot_ok
    | with_reducible apply ExcOk_ok

theorem execAdd_ok (d : RegF) (a : RegF) (b : RegF) (k : F3) (s : State) (hs : s.Ok) : OutOk (execAdd d a b k s) := by
  unfold execAdd
  repeat' first | with_reducible assumption | with_reducible apply alu_ok

theorem execSub_ok (d : RegF) (a : RegF) (b : RegF) (k : F3) (s : State) (hs : s.Ok) : OutOk (execSub d a b k s) := by
  unfold execSub
  repeat' first | with_reducible assumption | with_reducible apply alu_ok

theorem execMul_ok (d : RegF) (a : RegF) (b : RegF) (k : F3) (s : State) (hs : s.Ok) : OutOk (execMul d a b k s) := by
  unfold execMul
  repeat' first | with_reducible assumption | with_reducible apply alu_ok

theorem execMulh_ok (d : RegF) (a : RegF) (b : RegF) (k : F3) (s : State) (hs : s.Ok) : OutOk (execMulh d a b k s) := by
  unfold execMulh
  repeat' first | with_reducible assumption | with_reducible apply alu_ok

theorem execMulhu_ok (d : RegF) (a : RegF) (b : RegF) (k : F3) (s : State) (hs : s.Ok) : OutOk (execMulhu d a b k s) := by
  unfold execMulhu
  repeat' first | with_reducible assumption | with_reducible apply alu_ok

theorem execDivs_ok (d : RegF) (a : RegF) (b : RegF) (k : F3) (s : State) (hs : s.Ok) : OutOk (execDivs d a b k s) := by
  unfold execDivs
  repeat' first | with_reducible assumption | with_reducible apply alu_ok

theorem execDivu_ok (d : RegF) (a : RegF) (b : RegF) (k : F3) (s : State) (hs : s.Ok) : OutOk (execDivu d a b k s) := by
  unfold execDivu
  repeat' first | with_reducible assumption | with_reducible apply alu_ok

theorem execRems_ok (d : RegF) (a : RegF) (b : RegF) (k : F3) (s : State) (hs : s.Ok) : OutOk (execRems d a b k s) := by
  unfold execRems
  repeat' first | with_reducible assumption | with_reducible apply alu_ok

theorem execRemu_ok (d : RegF) (a : RegF) (b : RegF) (k : F3) (s : State) (hs : s.Ok) : OutOk (execRemu d a b k s) := by
  unfold execRemu
  repeat' first | with_reducible assumption | with_reducible apply alu_ok

theorem execAnd_ok (d : RegF) (a : RegF) (b : RegF) (k : F3) (s : State) (hs : s.Ok) : OutOk (execAnd d a b k s) := by
  unfold execAnd
  repeat' first | with_reducible assumption | with_reducible apply alu_ok

theorem execOr_ok (d : RegF) (a : RegF) (b : RegF) (k : F3) (s : State) (hs : s.Ok) : OutOk (execOr d a b k s) := by
  unfold execOr
  repeat' first | with_reducible assumption | with_reducible apply alu_ok

theorem execXor_ok (d : RegF) (a : RegF) (b : RegF) (k : F3) (s : State) (hs : s.Ok) : OutOk (execXor d a b k s) := by
  unfold execXor
  repeat' first | with_reducible assumption | with_reducible apply alu_ok

theorem execAndn_ok (d : RegF) (a : RegF) (b : RegF) (k : F3) (s : State) (hs : s.Ok) : OutOk (execAndn d a b k s) := by
  unfold execAndn
  repeat' first | with_reducible assumption | with_reducible apply alu_ok

theorem execShl_ok (d : RegF) (a : RegF) (b : RegF) (k : F3) (s : State) (hs : s.Ok) : OutOk (execShl d a b k s) := by
  unfold execShl
  repeat' first | with_reducible assumption | with_reducible apply alu_ok

theorem execShr_ok (d : RegF) (a : RegF) (b : RegF) (k : F3) (s : State) (hs : s.Ok) : OutOk (execShr d a b k s) := by
  unfold execShr
  repeat' first | with_reducible assumption | with_reducible apply alu_ok

theorem execSar_ok (d : RegF) (a : RegF) (b : RegF) (k : F3) (s : State) (hs : s.Ok) : OutOk (execSar d a b k s) := by
  unfold execSar
  repeat' first | with_reducible assumption | with_reducible apply alu_ok

theorem execMin_ok (d : RegF) (a : RegF) (b : RegF) (k : F3) (s : State) (hs : s.Ok) : OutOk (execMin d a b k s) := by
  unfold execMin
  repeat' first | with_reducible assumption | with_reducible apply alu_ok

theorem execMax_ok (d : RegF) (a : RegF) (b : RegF) (k : F3) (s : State) (hs : s.Ok) : OutOk (execMax d a b k s) := by
  unfold execMax
  repeat' first | with_reducible assumption | with_reducible apply alu_ok

theorem execMinu_ok (d : RegF) (a : RegF) (b : RegF) (k : F3) (s : State) (hs : s.Ok) : OutOk (execMinu d a b k s) := by
  unfold execMinu
  repeat' first | with_reducible assumption | with_reducible apply alu_ok

theorem execMaxu_ok (d : RegF) (a : RegF) (b : RegF) (k : F3) (s : State) (hs : s.Ok) : OutOk (execMaxu d a b k s) := by
  unfold execMaxu
  repeat' first | with_reducible assumption | with_reducible apply alu_ok

theorem execClz_ok (d : RegF) (a : RegF) (k : F3) (s : State) (hs : s.Ok) : OutOk (execClz d a k s) := by
  unfold execClz
  repeat' first | with_reducible assumption | with_reducible apply alu1_ok

theorem execCtz_ok (d : RegF) (a : RegF) (k : F3) (s : State) (hs : s.Ok) : OutOk (execCtz d a k s) := by
  unfold execCtz
  repeat' first | with_reducible assumption | with_reducible apply alu1_ok

theorem execPopc_ok (d : RegF) (a : RegF) (k : F3) (s : State) (hs : s.Ok) : OutOk (execPopc d a k s) := by
  unfold execPopc
  repeat' first | with_reducible assumption | with_reducible apply alu1_ok

theorem execSel_ok (d : RegF) (a : RegF) (b : RegF) (k : F3) (s : State) (hs : s.Ok) : OutOk (execSel d a b k s) := by
  unfold execSel
  repeat' first
    | with_reducible assumption
    | with_reducible apply land_ok
    | with_reducible apply runSlot_ok
    | with_reducible apply ExcOk_ok

theorem execAddi_ok (d : RegF) (a : RegF) (i : BitVec 14) (s : State) (hs : s.Ok) : OutOk (execAddi d a i s) := by
  unfold execAddi
  repeat' first | with_reducible assumption | with_reducible apply alui_ok

theorem execAndi_ok (d : RegF) (a : RegF) (i : BitVec 14) (s : State) (hs : s.Ok) : OutOk (execAndi d a i s) := by
  unfold execAndi
  repeat' first | with_reducible assumption | with_reducible apply alui_ok

theorem execOri_ok (d : RegF) (a : RegF) (i : BitVec 14) (s : State) (hs : s.Ok) : OutOk (execOri d a i s) := by
  unfold execOri
  repeat' first | with_reducible assumption | with_reducible apply alui_ok

theorem execXori_ok (d : RegF) (a : RegF) (i : BitVec 14) (s : State) (hs : s.Ok) : OutOk (execXori d a i s) := by
  unfold execXori
  repeat' first | with_reducible assumption | with_reducible apply alui_ok

theorem execShli_ok (d : RegF) (a : RegF) (n : BitVec 6) (s : State) (hs : s.Ok) : OutOk (execShli d a n s) := by
  unfold execShli
  repeat' first | with_reducible assumption | with_reducible apply alui_ok

theorem execShri_ok (d : RegF) (a : RegF) (n : BitVec 6) (s : State) (hs : s.Ok) : OutOk (execShri d a n s) := by
  unfold execShri
  repeat' first | with_reducible assumption | with_reducible apply alui_ok

theorem execSari_ok (d : RegF) (a : RegF) (n : BitVec 6) (s : State) (hs : s.Ok) : OutOk (execSari d a n s) := by
  unfold execSari
  repeat' first | with_reducible assumption | with_reducible apply alui_ok

theorem execLui_ok (d : RegF) (i : BitVec 20) (s : State) (hs : s.Ok) : OutOk (execLui d i s) := by
  unfold execLui
  repeat' first
    | with_reducible assumption
    | with_reducible apply land_ok
    | with_reducible apply runSlot_ok
    | with_reducible apply ExcOk_ok

theorem execLhi_ok (d : RegF) (i : BitVec 20) (s : State) (hs : s.Ok) : OutOk (execLhi d i s) := by
  unfold execLhi
  repeat' first
    | with_reducible assumption
    | with_reducible apply land_ok
    | with_reducible apply runSlot_ok
    | with_reducible apply ExcOk_ok

theorem execLtop_ok (d : RegF) (i : BitVec 12) (s : State) (hs : s.Ok) : OutOk (execLtop d i s) := by
  unfold execLtop
  repeat' first
    | with_reducible assumption
    | with_reducible apply land_ok
    | with_reducible apply runSlot_ok
    | with_reducible apply ExcOk_ok

theorem execExt_ok (d : RegF) (a : RegF) (w : BitVec 6) (p : BitVec 6) (s : State) (hs : s.Ok) :
    OutOk (execExt d a w p s) := by
  unfold execExt
  repeat' first | with_reducible assumption | with_reducible apply alui_ok

theorem execIns_ok (d : RegF) (a : RegF) (w : BitVec 6) (p : BitVec 6) (s : State) (hs : s.Ok) :
    OutOk (execIns d a w p s) := by
  unfold execIns
  repeat' first
    | with_reducible assumption
    | with_reducible apply land_ok
    | with_reducible apply runSlot_ok
    | with_reducible apply ExcOk_ok

theorem execWidx_ok (d : RegF) (f : F3) (s : State) (hs : s.Ok) : OutOk (execWidx d f s) := by
  unfold execWidx
  repeat' first
    | with_reducible assumption
    | with_reducible apply land_ok
    | with_reducible apply runSlot_ok
    | with_reducible apply ExcOk_ok

theorem execCmp_ok (d : F3) (a : RegF) (b : RegF) (k : F3) (c : Cond) (s : State) (hs : s.Ok) :
    OutOk (execCmp d a b k c s) := by
  unfold execCmp
  repeat' first
    | with_reducible assumption
    | with_reducible apply land_ok
    | with_reducible apply runSlot_ok
    | with_reducible apply guarded_ok
    | with_reducible apply ExcOk_ok

theorem execCmpi_ok (d : F3) (a : RegF) (c : Cond) (i : BitVec 10) (s : State) (hs : s.Ok) :
    OutOk (execCmpi d a c i s) := by
  unfold execCmpi
  repeat' first
    | with_reducible assumption
    | with_reducible apply land_ok
    | with_reducible apply runSlot_ok
    | with_reducible apply ExcOk_ok

theorem predOp_ok (d : F3) (k : F3) (v : Bool) (s : State) (hs : s.Ok) : OutOk (predOp d k v s) := by
  unfold predOp
  repeat' first
    | with_reducible assumption
    | with_reducible apply land_ok
    | with_reducible apply runSlot_ok
    | with_reducible apply guarded_ok
    | with_reducible apply ExcOk_ok

theorem execPand_ok (d : F3) (a : F3) (b : F3) (k : F3) (s : State) (hs : s.Ok) : OutOk (execPand d a b k s) := by
  unfold execPand
  repeat' first | with_reducible assumption | with_reducible apply predOp_ok

theorem execPor_ok (d : F3) (a : F3) (b : F3) (k : F3) (s : State) (hs : s.Ok) : OutOk (execPor d a b k s) := by
  unfold execPor
  repeat' first | with_reducible assumption | with_reducible apply predOp_ok

theorem execPxor_ok (d : F3) (a : F3) (b : F3) (k : F3) (s : State) (hs : s.Ok) : OutOk (execPxor d a b k s) := by
  unfold execPxor
  repeat' first | with_reducible assumption | with_reducible apply predOp_ok

theorem execPnot_ok (d : F3) (a : F3) (k : F3) (s : State) (hs : s.Ok) : OutOk (execPnot d a k s) := by
  unfold execPnot
  repeat' first | with_reducible assumption | with_reducible apply predOp_ok

/-! ## Dispatch.lean -/

theorem exec_ok (i : Instr) (s : State) (hs : s.Ok) : OutOk (exec i s) := by
  cases i with
  | idle n sat rnd prof => exact execIdle_ok n sat rnd prof s hs
  | brp p o => exact execBrp_ok p o s hs
  | br o => exact execBr_ok o s hs
  | brpn p o => exact execBrpn_ok p o s hs
  | call d im => exact execCall_ok d im s hs
  | jmp a k => exact execJmp_ok a k s hs
  | callr d a k => exact execCallr_ok d a k s hs
  | ret a k => exact execRet_ok a k s hs
  | setf d a k => exact execSetf_ok d a k s hs
  | loop d a im => exact execLoop_ok d a im s hs
  | loopi d n im => exact execLoopi_ok d n im s hs
  | bswap p o => exact execBswap_ok p o s hs
  | waita a b k sc c => exact execWaita_ok a b k sc c s hs
  | waito a im => exact execWaito_ok a im s hs
  | tend => exact execTend_ok s hs
  | trap code => exact execTrap_ok code s hs
  | brk code => exact execBrk_ok code s hs
  | ifence r => exact execIfence_ok r s hs
  | sysr d n => exact execSysr_ok d n s hs
  | sysw a n => exact execSysw_ok a n s hs
  | add d a b k => exact execAdd_ok d a b k s hs
  | sub d a b k => exact execSub_ok d a b k s hs
  | mul d a b k => exact execMul_ok d a b k s hs
  | mulh d a b k => exact execMulh_ok d a b k s hs
  | mulhu d a b k => exact execMulhu_ok d a b k s hs
  | divs d a b k => exact execDivs_ok d a b k s hs
  | divu d a b k => exact execDivu_ok d a b k s hs
  | rems d a b k => exact execRems_ok d a b k s hs
  | remu d a b k => exact execRemu_ok d a b k s hs
  | and d a b k => exact execAnd_ok d a b k s hs
  | or d a b k => exact execOr_ok d a b k s hs
  | xor d a b k => exact execXor_ok d a b k s hs
  | andn d a b k => exact execAndn_ok d a b k s hs
  | shl d a b k => exact execShl_ok d a b k s hs
  | shr d a b k => exact execShr_ok d a b k s hs
  | sar d a b k => exact execSar_ok d a b k s hs
  | min d a b k => exact execMin_ok d a b k s hs
  | max d a b k => exact execMax_ok d a b k s hs
  | minu d a b k => exact execMinu_ok d a b k s hs
  | maxu d a b k => exact execMaxu_ok d a b k s hs
  | clz d a k => exact execClz_ok d a k s hs
  | ctz d a k => exact execCtz_ok d a k s hs
  | popc d a k => exact execPopc_ok d a k s hs
  | sel d a b k => exact execSel_ok d a b k s hs
  | addi d a im => exact execAddi_ok d a im s hs
  | andi d a im => exact execAndi_ok d a im s hs
  | ori d a im => exact execOri_ok d a im s hs
  | xori d a im => exact execXori_ok d a im s hs
  | shli d a n => exact execShli_ok d a n s hs
  | shri d a n => exact execShri_ok d a n s hs
  | sari d a n => exact execSari_ok d a n s hs
  | lui d im => exact execLui_ok d im s hs
  | lhi d im => exact execLhi_ok d im s hs
  | ltop d im => exact execLtop_ok d im s hs
  | ext d a w p => exact execExt_ok d a w p s hs
  | ins d a w p => exact execIns_ok d a w p s hs
  | widx d f => exact execWidx_ok d f s hs
  | cmp d a b k c => exact execCmp_ok d a b k c s hs
  | cmpi d a c im => exact execCmpi_ok d a c im s hs
  | pand d a b k => exact execPand_ok d a b k s hs
  | por d a b k => exact execPor_ok d a b k s hs
  | pxor d a b k => exact execPxor_ok d a b k s hs
  | pnot d a k => exact execPnot_ok d a k s hs
  | ldB d sc l o => exact execLdB_ok d sc l o s hs
  | ldH d sc l o => exact execLdH_ok d sc l o s hs
  | ldW d sc l o => exact execLdW_ok d sc l o s hs
  | ldD d sc l o => exact execLdD_ok d sc l o s hs
  | lduB d sc l o => exact execLduB_ok d sc l o s hs
  | lduH d sc l o => exact execLduH_ok d sc l o s hs
  | lduW d sc l o => exact execLduW_ok d sc l o s hs
  | stB d sc l o => exact execStB_ok d sc l o s hs
  | stH d sc l o => exact execStH_ok d sc l o s hs
  | stW d sc l o => exact execStW_ok d sc l o s hs
  | stD d sc l o => exact execStD_ok d sc l o s hs
  | vld d sc l c o => exact execVld_ok d sc l c o s hs
  | vldb d sc l c o => exact execVldb_ok d sc l c o s hs
  | vldt d sc l c o => exact execVldt_ok d sc l c o s hs
  | vst d sc l c o => exact execVst_ok d sc l c o s hs
  | vstt d sc l c o => exact execVstt_ok d sc l c o s hs
  | vlds d a b k c l => exact execVlds_ok d a b k c l s hs
  | vsts d a b k c l => exact execVsts_ok d a b k c l s hs
  | amoAdd d a b k l => exact execAmoAdd_ok d a b k l s hs
  | amoMax d a b k l => exact execAmoMax_ok d a b k l s hs
  | amoMin d a b k l => exact execAmoMin_ok d a b k l s hs
  | amoSwap d a b k l => exact execAmoSwap_ok d a b k l s hs
  | amoCas d a b k l => exact execAmoCas_ok d a b k l s hs
  | qpush d a k => exact execQpush_ok d a k s hs
  | qdrop d k => exact execQdrop_ok d k s hs
  | vldkKbf7 d a b c l => exact execVldkKbf7_ok d a b c l s hs
  | vldkKbf4 d a b c l => exact execVldkKbf4_ok d a b c l s hs
  | vldkKbf2 d a b c l => exact execVldkKbf2_ok d a b c l s hs
  | vstkKbf7 d a b c l => exact execVstkKbf7_ok d a b c l s hs
  | vstkKbf4 d a b c l => exact execVstkKbf4_ok d a b c l s hs
  | vstkKbf2 d a b c l => exact execVstkKbf2_ok d a b c l s hs
  | vaddI32 d a b k c => exact execVaddI32_ok d a b k c s hs
  | vsubI32 d a b k c => exact execVsubI32_ok d a b k c s hs
  | vmulI32 d a b k c => exact execVmulI32_ok d a b k c s hs
  | vmulh d a b k c => exact execVmulh_ok d a b k c s hs
  | vand d a b k c => exact execVand_ok d a b k c s hs
  | vor d a b k c => exact execVor_ok d a b k c s hs
  | vxor d a b k c => exact execVxor_ok d a b k c s hs
  | vabsI32 d a k c => exact execVabsI32_ok d a k c s hs
  | vshl d a b k c => exact execVshl_ok d a b k c s hs
  | vshr d a b k c => exact execVshr_ok d a b k c s hs
  | vsar d a b k c => exact execVsar_ok d a b k c s hs
  | vminI32 d a b k c => exact execVminI32_ok d a b k c s hs
  | vmaxI32 d a b k c => exact execVmaxI32_ok d a b k c s hs
  | vminU32 d a b k c => exact execVminU32_ok d a b k c s hs
  | vmaxU32 d a b k c => exact execVmaxU32_ok d a b k c s hs
  | vaddF32 d a b k c => exact execVaddF32_ok d a b k c s hs
  | vsubF32 d a b k c => exact execVsubF32_ok d a b k c s hs
  | vmulF32 d a b k c => exact execVmulF32_ok d a b k c s hs
  | vfmaF32 d a b k c => exact execVfmaF32_ok d a b k c s hs
  | vminF32 d a b k c => exact execVminF32_ok d a b k c s hs
  | vmaxF32 d a b k c => exact execVmaxF32_ok d a b k c s hs
  | vdot2Bf16 d a b k c => exact execVdot2Bf16_ok d a b k c s hs
  | vabsF32 d a k c => exact execVabsF32_ok d a k c s hs
  | vnegF32 d a k c => exact execVnegF32_ok d a k c s hs
  | vcpysF32 d a b k c => exact execVcpysF32_ok d a b k c s hs
  | vaccrd d a k c => exact execVaccrd_ok d a k c s hs
  | vcmpF32 d a b k c f => exact execVcmpF32_ok d a b k c f s hs
  | vcmpI32 d a b k c f => exact execVcmpI32_ok d a b k c f s hs
  | vmov d a k c => exact execVmov_ok d a k c s hs
  | vsel d a b k c => exact execVsel_ok d a b k c s hs
  | vbcast d a k c => exact execVbcast_ok d a k c s hs
  | vextr d a b k c => exact execVextr_ok d a b k c s hs
  | vins d a b k c => exact execVins_ok d a b k c s hs
  | vperm d a b k c => exact execVperm_ok d a b k c s hs
  | vxcl d a r k c => exact execVxcl_ok d a r k c s hs
  | viota d k c => exact execViota_ok d k c s hs
  | vredaddF32 d a k c => exact execVredaddF32_ok d a k c s hs
  | vredaddI32 d a k c => exact execVredaddI32_ok d a k c s hs
  | vredmaxF32 d a k c => exact execVredmaxF32_ok d a k c s hs
  | vredmaxI32 d a k c => exact execVredmaxI32_ok d a k c s hs
  | vredminF32 d a k c => exact execVredminF32_ok d a k c s hs
  | vredminI32 d a k c => exact execVredminI32_ok d a k c s hs
  | vcvt d a sc t k c => exact execVcvt_ok d a sc t k c s hs
  | vcvtF32Fx128Lo d a p k c => exact execVcvtF32Fx128Lo_ok d a p k c s hs
  | vcvtF32Fx128Hi d a p k c => exact execVcvtF32Fx128Hi_ok d a p k c s hs
  | vrcp d a k c => exact execVrcp_ok d a k c s hs
  | vrcpr d a b k c => exact execVrcpr_ok d a b k c s hs
  | vrsq d a k c => exact execVrsq_ok d a k c s hs
  | vrsqr d a b k c => exact execVrsqr_ok d a b k c s hs
  | vsqrt d a k c => exact execVsqrt_ok d a k c s hs
  | vexp2 d a k c => exact execVexp2_ok d a k c s hs
  | vlog2 d a k c => exact execVlog2_ok d a k c s hs
  | vsin d a k c => exact execVsin_ok d a k c s hs
  | vcos d a k c => exact execVcos_ok d a k c s hs
  | vrand d k c => exact execVrand_ok d k c s hs
  | vrandf d k c => exact execVrandf_ok d k c s hs
  | vdrop d a b k c => exact execVdrop_ok d a b k c s hs
  | vtopk d a b k c => exact execVtopk_ok d a b k c s hs
  | vmergek d a b k c => exact execVmergek_ok d a b k c s hs
  | mpset a n => exact execMpset_ok a n s hs
  | mcall e => exact execMcall_ok e s hs
  | cpy a b g => exact execCpy_ok a b g s hs
  | cpyc a b g => exact execCpyc_ok a b g s hs
  | gset a g => exact execGset_ok a g s hs
  | gstart a b q => exact execGstart_ok a b q s hs
  | tarm a b g => exact execTarm_ok a b g s hs
  | fsend a b g => exact execFsend_ok a b g s hs
  | fmcast a b g => exact execFmcast_ok a b g s hs
  | fred a b op f g => exact execFred_ok a b op f g s hs
  | ratom a b op f g => exact execRatom_ok a b op f g s hs
  | csend a b ch => exact execCsend_ok a b ch s hs
  | crecv a b ch => exact execCrecv_ok a b ch s hs
  | chw a ch => exact execChw_ok a ch s hs
  | ccollAllred a b r => exact execCcollAllred_ok a b r s hs
  | ccollRedscat a b r => exact execCcollRedscat_ok a b r s hs
  | ccollAllgath a b r => exact execCcollAllgath_ok a b r s hs
  | ccollBcast a b r => exact execCcollBcast_ok a b r s hs
  | ccollReduce a b r => exact execCcollReduce_ok a b r s hs
  | ccollPxch a b r => exact execCcollPxch_ok a b r s hs
  | spawn a => exact execSpawn_ok a s hs
  | kilnw a => exact execKilnw_ok a s hs
  | kilnr a => exact execKilnr_ok a s hs
  | digest a b g => exact execDigest_ok a b g s hs
  | efence g sc => exact execEfence_ok g sc s hs
  | lds c pa o n => exact execLds_ok c pa o n s hs
  | swap c => exact execSwap_ok c s hs
  | strm c t pa n => exact execStrm_ok c t pa n s hs
  | strmc c t pa n => exact execStrmc_ok c t pa n s hs
  | zero c t => exact execZero_ok c t s hs
  | scale c t im => exact execScale_ok c t im s hs
  | ldacc c t pa => exact execLdacc_ok c t pa s hs
  | drain c t pa pb pc fmt => exact execDrain_ok c t pa pb pc fmt s hs
  | amax c t pb => exact execAmax_ok c t pb s hs
  | madd c pd pa im => exact execMadd_ok c pd pa im s hs
  | mloop c p target => exact execMloop_ok c p target s hs
  | mbrz c p target => exact execMbrz_ok c p target s hs
  | mwait c cls => exact execMwait_ok c cls s hs
  | mend c => exact execMend_ok c s hs
  | routineBegin c => exact execRoutineBegin_ok c s hs
  | routineFinish c => exact execRoutineFinish_ok c s hs
  | routineFlagsJoin c t => exact execRoutineFlagsJoin_ok c t s hs
  | resultLanding c t => exact execResultLanding_ok c t s hs
  | pendingAccessPerform c => exact execPendingAccessPerform_ok c s hs
  | sleepEnd c t => exact execSleepEnd_ok c t s hs
  | waitLimitExpiry c t => exact execWaitLimitExpiry_ok c t s hs
  | trapEntry c t => exact execTrapEntry_ok c t s hs
  | tretResume c t => exact execTretResume_ok c t s hs
  | tretEnd c t => exact execTretEnd_ok c t s hs
  | taskEnd c t => exact execTaskEnd_ok c t s hs
  | gangJoin g => exact execGangJoin_ok g s hs
  | gangMessageLanding c => exact execGangMessageLanding_ok c s hs
  | takeGrant c => exact execTakeGrant_ok c s hs
  | copyChunk c id => exact execCopyChunk_ok c id s hs
  | copyComplete c id => exact execCopyComplete_ok c id s hs
  | gatherRowDelivery c q => exact execGatherRowDelivery_ok c q s hs
  | gstartIndexEntry c q => exact execGstartIndexEntry_ok c q s hs
  | keyUseReport x => exact execKeyUseReport_ok x s hs
  | faultRecordPost x => exact execFaultRecordPost_ok x s hs
  | pageWalk x => exact execPageWalk_ok x s hs
  | packetForward p => exact execPacketForward_ok p s hs
  | write p => exact execWrite_ok p s hs
  | readreq p => exact execReadreq_ok p s hs
  | readdata p => exact execReaddata_ok p s hs
  | reduce p => exact execReduce_ok p s hs
  | roundTimeout x g => exact execRoundTimeout_ok x g s hs
  | atomic p => exact execAtomic_ok p s hs
  | atomicdata p => exact execAtomicdata_ok p s hs
  | ack p => exact execAck_ok p s hs
  | mcwrite p => exact execMcwrite_ok p s hs
  | responseTimeout tag => exact execResponseTimeout_ok tag s hs
  | chunk p => exact execChunk_ok p s hs
  | abortMarker p => exact execAbortMarker_ok p s hs
  | creditReturn p => exact execCreditReturn_ok p s hs
  | collectiveStart id => exact execCollectiveStart_ok id s hs
  | stepTimeout id => exact execStepTimeout_ok id s hs
  | collectiveComplete id => exact execCollectiveComplete_ok id s hs
  | prioritySwitch port => exact execPrioritySwitch_ok port s hs
  | time port p => exact execTime_ok port p s hs
  | xinvComplete x => exact execXinvComplete_ok x s hs
  | launchQueuePoll q => exact execLaunchQueuePoll_ok q s hs
  | launchAccept q => exact execLaunchAccept_ok q s hs
  | unitDispatch l => exact execUnitDispatch_ok l s hs
  | imageLoad c => exact execImageLoad_ok c s hs
  | launchComplete l => exact execLaunchComplete_ok l s hs
  | killComplete x => exact execKillComplete_ok x s hs
  | switchOutComplete x => exact execSwitchOutComplete_ok x s hs
  | efenceComplete c id => exact execEfenceComplete_ok c id s hs
  | digestComplete c id => exact execDigestComplete_ok c id s hs
  | mgctlReloadDone x => exact execMgctlReloadDone_ok x s hs
  | clctlReloadDone x => exact execClctlReloadDone_ok x s hs
  | createComplete x => exact execCreateComplete_ok x s hs
  | flit port bytes => exact execFlit_ok port bytes s hs
  | portDown port => exact execPortDown_ok port s hs
  | portUp port => exact execPortUp_ok port s hs
  | registerWrite addr bytes => exact execRegisterWrite_ok addr bytes s hs
  | hostCxlMemRead addr n => exact execHostCxlMemRead_ok addr n s hs
  | hostCxlMemWrite addr bytes => exact execHostCxlMemWrite_ok addr bytes s hs
  | hostCxlIoWindowAccess addr n w => exact execHostCxlIoWindowAccess_ok addr n w s hs
  | hostSupervisorWrite c off bytes => exact execHostSupervisorWrite_ok c off bytes s hs
  | thermalWarn die => exact execThermalWarn_ok die s hs
  | throttleStep die => exact execThrottleStep_ok die s hs
  | thermalTrip die => exact execThermalTrip_ok die s hs
  | hbmScrub addr bad => exact execHbmScrub_ok addr bad s hs
  | gtbCorrection up => exact execGtbCorrection_ok up s hs
  | xinvContext x => exact execXinvContext_ok x s hs
  | xinvPages x => exact execXinvPages_ok x s hs
  | xinvRanges x => exact execXinvRanges_ok x s hs
  | xinvNop x => exact execXinvNop_ok x s hs
  | mgctlReloadReduction x => exact execMgctlReloadReduction_ok x s hs
  | mgctlReloadMulticast x => exact execMgctlReloadMulticast_ok x s hs
  | clctlReloadChannels x => exact execClctlReloadChannels_ok x s hs
  | clctlReloadRings x => exact execClctlReloadRings_ok x s hs
  | create x => exact execCreate_ok x s hs
  | kill x => exact execKill_ok x s hs
  | signal x => exact execSignal_ok x s hs
  | wdclr x => exact execWdclr_ok x s hs
  | ucload x => exact execUcload_ok x s hs
  | attest x => exact execAttest_ok x s hs
  | debugHalt x => exact execDebugHalt_ok x s hs
  | lqbaseWrite q v => exact execLqbaseWrite_ok q v s hs
  | tctlNone c t v => exact execTctlNone_ok c t v s hs
  | tctlSetSkew c t v => exact execTctlSetSkew_ok c t v s hs
  | tctlClearSkew c t v => exact execTctlClearSkew_ok c t v s hs
  | tctlMakeMailbox c t v => exact execTctlMakeMailbox_ok c t v s hs
  | tctlReleaseMailbox c t v => exact execTctlReleaseMailbox_ok c t v s hs
  | tctlDisarm c t v => exact execTctlDisarm_ok c t v s hs
  | reduceResend => exact execReduceResend_ok s hs
  | timeSend => exact execTimeSend_ok s hs
  | gtbokLoss => exact execGtbokLoss_ok s hs
  | epochBoundary => exact execEpochBoundary_ok s hs
  | coldStart => exact execColdStart_ok s hs
  | warmStart => exact execWarmStart_ok s hs
  | firmwarePush => exact execFirmwarePush_ok s hs
  | sampleRecord x => exact execSampleRecord_ok x s hs
  | launchAged l => exact execLaunchAged_ok l s hs
  | collisionCycle c => exact execCollisionCycle_ok c s hs
  | powerFreeze c => exact execPowerFreeze_ok c s hs
  | freezeEnd c => exact execFreezeEnd_ok c s hs
  | quantumEnd x => exact execQuantumEnd_ok x s hs
  | contextYield x => exact execContextYield_ok x s hs
  | switchIn x => exact execSwitchIn_ok x s hs

/-! ## Cycle.lean -/

theorem rotate_ok (s : State) (x : Nat) (hs : s.Ok) : (rotate s x).Ok := by
  unfold rotate
  dsimp only
  repeat' first
    | with_reducible assumption
    | with_reducible apply execCreateComplete_ok
    | with_reducible apply execQuantumEnd_ok
    | with_reducible apply execContextYield_ok
    | with_reducible apply execSwitchIn_ok
    | with_reducible apply nextOf_ok

theorem hostCycles_ok (n : Nat) (s : State) (hs : s.Ok) : (hostCycles n s).Ok := by
  unfold hostCycles
  repeat' first
    | with_reducible assumption
    | intro _
    | with_reducible apply foldl_mem_ok
    | with_reducible apply Mem.wf_setByte
    | with_reducible apply State.Ok.host
    | with_reducible refine State.mk_host_ok rfl rfl rfl rfl ?_ ?_

theorem startStep_ok (s : State) (hs : s.Ok) : (startStep s).Ok := by
  unfold startStep
  dsimp only
  repeat' first
    | with_reducible assumption
    | with_reducible apply settle_ok
    | with_reducible apply strikes_ok
    | with_reducible apply rotate_ok
    | with_reducible apply hostCycles_ok
    | with_reducible apply foldl_ok
    | with_reducible refine State.mk_ok rfl rfl rfl rfl rfl ?_

theorem setPh_ok (c : Nat) (s : State) (t : Bool) (hs : s.Ok) : (setPh c s t).Ok := by
  unfold setPh
  dsimp only
  repeat' first | with_reducible assumption | with_reducible apply State.putSt_ok

theorem setPhs_ok (s : State) (hs : s.Ok) : (setPhs s).Ok := by
  unfold setPhs
  repeat' first | with_reducible assumption | with_reducible apply setPh_ok | intro _ | with_reducible apply foldl_ok

theorem returnsStep_ok (s : State) (hs : s.Ok) : (returnsStep s).Ok := by
  unfold returnsStep
  dsimp only
  repeat' first | with_reducible assumption | with_reducible refine State.mk_ok rfl rfl rfl rfl rfl ?_

theorem haltLeaving_ok (c : Nat) (s : State) (hs : s.Ok) : (haltLeaving c s).Ok := by
  unfold haltLeaving
  repeat' first
    | with_reducible assumption
    | with_reducible apply State.putCore_ok
    | with_reducible apply State.core_ok
    | split
    | with_reducible refine Core.mk_ok rfl rfl ?_

theorem endStopped_ok (s : State) (c : Nat) (hs : s.Ok) : (endStopped s c).Ok := by
  unfold endStopped
  dsimp only
  repeat' first | with_reducible assumption | with_reducible apply endResvs_ok

theorem setFreeze_ok (fs : List (Nat × Freeze)) (s : State) (c : Nat) (hs : s.Ok) : (setFreeze fs s c).Ok := by
  unfold setFreeze
  dsimp only
  repeat' first
    | with_reducible assumption
    | with_reducible apply haltLeaving_ok
    | with_reducible apply execPowerFreeze_ok
    | with_reducible apply execFreezeEnd_ok
    | with_reducible apply State.putCore_ok
    | with_reducible apply nextOf_ok
    | with_reducible apply State.core_ok
    | split
    | with_reducible refine Core.mk_ok rfl rfl ?_

theorem chargeCore_ok (s : State) (e : Nat × Core) (hs : s.Ok) : (chargeCore s e).Ok := by
  unfold chargeCore
  dsimp only
  repeat' first
    | with_reducible assumption
    | with_reducible apply Core.charge_ok
    | with_reducible apply execCollisionCycle_ok
    | with_reducible apply State.putCore_ok
    | with_reducible apply nextOf_ok
    | with_reducible apply State.core_ok

theorem arrayCycle_ok (s : State) (c : Nat) (hs : s.Ok) : (arrayCycle s c).Ok := by
  unfold arrayCycle
  dsimp only
  repeat' first
    | with_reducible assumption
    | with_reducible apply State.putSeat_ok
    | with_reducible apply State.seat_ok
    | split
    | with_reducible refine Seat.mk_ok rfl rfl ?_

theorem gangHolds_ok (s : State) (hs : s.Ok) : (gangHolds s).Ok := by
  unfold gangHolds
  dsimp only
  repeat' first | with_reducible assumption | with_reducible refine State.mk_ok rfl rfl rfl rfl rfl ?_

theorem planStep_ok (s : State) (hs : s.Ok) : (planStep s).Ok := by
  unfold planStep
  dsimp only
  repeat' first
    | with_reducible assumption
    | with_reducible apply setPhs_ok
    | with_reducible apply endStopped_ok
    | with_reducible apply setFreeze_ok
    | with_reducible apply chargeCore_ok
    | with_reducible apply arrayCycle_ok
    | with_reducible apply gangHolds_ok
    | with_reducible apply foldl_ok
    | with_reducible refine State.mk_ok rfl rfl rfl rfl rfl ?_

theorem tickStep_ok (c : Nat) (s : State) (hs : s.Ok) : (tickStep c s).Ok := by
  unfold tickStep
  repeat' first | with_reducible assumption | split | with_reducible refine State.mk_ok rfl rfl rfl rfl rfl ?_

theorem joinsStep_ok (s : State) (hs : s.Ok) : (joinsStep s).Ok := by
  unfold joinsStep
  dsimp only
  repeat' first
    | with_reducible assumption
    | with_reducible apply execSampleRecord_ok
    | intro _
    | with_reducible apply foldl_ok
    | with_reducible apply nextOf_ok
    | with_reducible refine State.mk_ok rfl rfl rfl rfl rfl ?_

theorem finishBundle_ok (s : State) (hs : s.Ok) : (finishBundle s).Ok := by
  unfold finishBundle
  dsimp only
  repeat' first
    | with_reducible assumption
    | with_reducible apply State.putCst_ok
    | with_reducible refine State.mk_ok rfl rfl rfl rfl rfl ?_

theorem nextSlot_ok (s : State) (hs : s.Ok) : (nextSlot s).Ok := by
  unfold nextSlot
  dsimp only
  repeat' first
    | with_reducible assumption
    | with_reducible apply finishBundle_ok
    | split
    | with_reducible refine State.mk_ok rfl rfl rfl rfl rfl ?_

theorem noteQuiet_ok (k : Nat) (w : W32) (n : Nat) (s : State) (hs : s.Ok) : (noteQuiet k w n s).Ok := by
  unfold noteQuiet
  dsimp only
  repeat' first | with_reducible assumption | with_reducible apply State.putCst_ok | split

theorem thenSlot_ok (k : Nat) (w : W32) (n : Nat) (r : Host.Outcome State Fault Refusal) (hr : OutOk r) : OutOk (thenSlot k w n r) := by
  cases r with
  | next t => exact nextSlot_ok _ (noteQuiet_ok _ _ _ t hr)
  | fault _ => trivial
  | refused _ => trivial

theorem execBad_ok (i : Instr) (s : State) (hs : s.Ok) : OutOk (execBad i s) := by
  unfold execBad
  dsimp only
  repeat' first
    | with_reducible assumption
    | with_reducible apply eccAt_ok
    | with_reducible apply exec_ok
    | with_reducible exact OutOk_fault
    | with_reducible exact OutOk_refused
    | with_reducible apply OutOk_next
    | with_reducible apply State.putSt_ok
    | with_reducible apply State.putCst_ok
    | split
    | with_reducible refine outok_next (by with_reducible assumption) ?_
    | with_reducible refine State.mk_ok rfl rfl rfl rfl rfl ?_

theorem runWord_ok (k : Nat) (w : W32) (s : State) (hs : s.Ok) : OutOk (runWord k w s) := by
  unfold runWord
  repeat' first
    | with_reducible assumption
    | with_reducible apply slotTrap_ok
    | with_reducible apply exec_ok
    | with_reducible apply execBad_ok
    | with_reducible apply OutOk_next
    | split

theorem atSlot_ok (k : Nat) (rest : List (Nat × W32)) (s : State) (hs : s.Ok) : (atSlot k rest s).Ok := by
  unfold atSlot
  dsimp only
  repeat' first | with_reducible assumption | with_reducible refine State.mk_ok rfl rfl rfl rfl rfl ?_

theorem slotStep_ok (s : State) (hs : s.Ok) : OutOk (slotStep s) := by
  unfold slotStep
  repeat' first
    | with_reducible assumption
    | with_reducible apply exec_ok
    | with_reducible apply finishBundle_ok
    | with_reducible apply thenSlot_ok
    | with_reducible apply runWord_ok
    | with_reducible apply atSlot_ok
    | with_reducible exact OutOk_fault
    | with_reducible exact OutOk_refused
    | with_reducible apply OutOk_next
    | split
    | with_reducible refine outok_next (by with_reducible assumption) ?_

theorem trialSlots_ok (a0 : List (Nat × W32)) (a1 : State) (ha1 : a1.Ok) : (trialSlots a0 a1).Ok := by
  induction a0 generalizing a1 with
  | nil =>
  unfold trialSlots
  try dsimp only
  repeat' first
    | with_reducible apply ih
    | with_reducible assumption
    | with_reducible apply runWord_ok
    | with_reducible apply atSlot_ok
    | with_reducible apply nextOf_ok
    | split
    | with_reducible refine State.mk_ok rfl rfl rfl rfl rfl ?_
  | cons q_ qs_ ih =>
  unfold trialSlots
  try dsimp only
  repeat' first
    | with_reducible apply ih
    | with_reducible assumption
    | with_reducible apply runWord_ok
    | with_reducible apply atSlot_ok
    | with_reducible apply nextOf_ok
    | split
    | with_reducible refine State.mk_ok rfl rfl rfl rfl rfl ?_

theorem trialOf_ok (s : State) (hs : s.Ok) : (trialOf s).Ok := by
  unfold trialOf
  dsimp only
  repeat' first
    | with_reducible assumption
    | with_reducible apply trialSlots_ok
    | with_reducible refine State.mk_ok rfl rfl rfl rfl rfl ?_

theorem trialSec_ok (c : Nat) (s : State) (hs : s.Ok) : (trialSec c s).Ok := by
  unfold trialSec
  repeat' first
    | with_reducible assumption
    | with_reducible apply trialOf_ok
    | split
    | with_reducible refine State.mk_ok rfl rfl rfl rfl rfl ?_

theorem passBp_ok (c : Nat) (t : Bool) (s : State) (hs : s.Ok) : (passBp c t s).Ok := by
  unfold passBp
  dsimp only
  repeat' first | with_reducible assumption | with_reducible apply State.putSt_ok | split

theorem openBundle_ok (c : Nat) (t : Bool) (b : Bundle) (s : State) (hs : s.Ok) : (openBundle c t b s).Ok := by
  unfold openBundle
  extract_lets s1 s2
  exact State.mk_ok rfl rfl rfl rfl rfl (State.mk_ok rfl rfl rfl rfl rfl (passBp_ok c t s hs) : s2.Ok)

theorem fetchTrap_ok (c : Nat) (t : Bool) (code : Nat) (s : State) (hs : s.Ok) : (fetchTrap c t code s).Ok := by
  unfold fetchTrap
  dsimp only
  repeat' first
    | with_reducible assumption
    | with_reducible apply State.setUE_ok
    | with_reducible apply takeTrap_ok
    | split

theorem passTurn_ok (c : Nat) (s : State) (hs : s.Ok) : (passTurn c s).Ok := by
  unfold passTurn
  dsimp only
  repeat' first | with_reducible assumption | with_reducible refine State.mk_ok rfl rfl rfl rfl rfl ?_

theorem issueStep_ok (c : Nat) (t : Bool) (s : State) (hs : s.Ok) : OutOk (issueStep c t s) := by
  unfold issueStep
  repeat' first
    | with_reducible assumption
    | with_reducible apply slotStep_ok
    | with_reducible apply openBundle_ok
    | with_reducible apply fetchTrap_ok
    | with_reducible apply passTurn_ok
    | with_reducible apply OutOk_next
    | split
    | with_reducible refine State.mk_ok rfl rfl rfl rfl rfl ?_

theorem lateLandings_ok (c : Nat) (s : State) (t : Bool) (hs : s.Ok) : (lateLandings c s t).Ok := by
  unfold lateLandings
  dsimp only
  repeat' first
    | with_reducible assumption
    | with_reducible apply putChan_ok
    | with_reducible apply landsEcc_ok
    | intro _
    | with_reducible apply State.putSt_ok
    | with_reducible apply foldl_ok
    | split

theorem endCore_ok (c : Nat) (s : State) (hs : s.Ok) : (endCore c s).Ok := by
  unfold endCore
  dsimp only
  repeat' first
    | with_reducible assumption
    | with_reducible apply devCycle_ok
    | with_reducible apply applyDrops_ok
    | with_reducible apply countSleep_ok
    | with_reducible apply lateLandings_ok
    | intro _
    | with_reducible apply foldl_ok

theorem afterStep_ok (c : Nat) (s : State) (hs : s.Ok) : (afterStep c s).Ok := by
  unfold afterStep
  dsimp only
  repeat' first
    | with_reducible assumption
    | with_reducible apply endCore_ok
    | split
    | dsimp only
    | with_reducible refine State.mk_ok rfl rfl rfl rfl rfl ?_

theorem enterRecord_ok (c : Nat) (s : State) (t : Bool) (hs : s.Ok) : (enterRecord c s t).Ok := by
  unfold enterRecord
  dsimp only
  repeat' first
    | with_reducible assumption
    | with_reducible apply endDev_ok
    | with_reducible apply trapRec_ok
    | with_reducible apply State.putSt_ok
    | split

theorem thermalDie_ok (s : State) (d : Nat) (hs : s.Ok) : (thermalDie s d).Ok := by
  unfold thermalDie
  extract_lets s1 s2
  have h1 : s1.Ok := by
    show State.Ok (if _ then _ else _)
    split
    · exact nextOf_ok (execThermalTrip_ok d s hs) hs
    · exact hs
  have h2 : s2.Ok := by
    show State.Ok (if _ then _ else _)
    split
    · exact nextOf_ok (execThermalWarn_ok d s1 h1) h1
    · exact h1
  exact nextOf_ok (execThrottleStep_ok d s2 h2) h2

theorem timers_ok (s : State) (hs : s.Ok) : (timers s).Ok := by
  unfold timers
  dsimp only
  repeat' first
    | with_reducible assumption
    | with_reducible apply thermalDie_ok
    | with_reducible apply fadeBinds_ok
    | with_reducible apply execPortDown_ok
    | with_reducible apply execReduceResend_ok
    | with_reducible apply execTimeSend_ok
    | with_reducible apply execGtbCorrection_ok
    | with_reducible apply execGtbokLoss_ok
    | with_reducible apply resend_ok
    | with_reducible apply tickTimers_ok
    | with_reducible apply execLaunchAged_ok
    | with_reducible apply execEpochBoundary_ok
    | intro _
    | with_reducible apply foldl_ok
    | with_reducible apply nextOf_ok
    | split
    | with_reducible refine State.mk_ok rfl rfl rfl rfl rfl ?_

theorem closeStep_ok (s : State) (hs : s.Ok) : (closeStep s).Ok := by
  unfold closeStep
  dsimp only
  repeat' first
    | with_reducible assumption
    | with_reducible apply settle_ok
    | with_reducible apply endStopped_ok
    | with_reducible apply enterRecord_ok
    | with_reducible apply timers_ok
    | with_reducible apply CoresOk.map
    | with_reducible apply State.Ok.cor
    | with_reducible apply State.Ok.con
    | intro _
    | with_reducible apply foldl_ok
    | with_reducible apply Core.seat_ok
    | dsimp only
    | with_reducible refine State.mk_ok rfl rfl rfl rfl rfl ?_
    | with_reducible refine Seat.mk_ok rfl rfl ?_
    | with_reducible refine Core.mk_ok2 ?_ ?_
    | with_reducible apply Core.Ok.svr
    | with_reducible refine State.mk_core_ok rfl rfl rfl ?_ ?_ ?_

theorem haltedStep_ok (s : State) (hs : s.Ok) : OutOk (haltedStep s) := by
  unfold haltedStep
  repeat' first
    | with_reducible assumption
    | with_reducible apply exec_ok
    | with_reducible apply OutOk_next
    | with_reducible apply execColdStart_ok
    | with_reducible apply hostCycles_ok
    | with_reducible exact OutOk_fault
    | split
    | with_reducible refine State.mk_ok rfl rfl rfl rfl rfl ?_

theorem turnStep_ok (s : State) (hs : s.Ok) : OutOk (turnStep s) := by
  unfold turnStep
  repeat' first
    | with_reducible assumption
    | with_reducible apply startStep_ok
    | with_reducible apply returnsStep_ok
    | with_reducible apply planStep_ok
    | with_reducible apply tickStep_ok
    | with_reducible apply joinsStep_ok
    | with_reducible apply slotStep_ok
    | with_reducible apply issueStep_ok
    | with_reducible apply afterStep_ok
    | with_reducible apply closeStep_ok
    | with_reducible apply OutOk_next
    | split

theorem placeCore_ok (v : Nat) (k : Core) (hk : k.Ok) : (placeCore v k).Ok := ⟨⟨hk.seat.spad, Mem.wf_setBytes _ _ hk.seat.ispad⟩, hk.svr⟩

/-! ## Step.lean -/

theorem State.withFetchWord_ok (s : State) (_nbits : Nat) (w : Nat) (hs : s.Ok) : (State.withFetchWord s _nbits w).Ok := by
  unfold State.withFetchWord
  dsimp only
  repeat' first
    | with_reducible assumption
    | with_reducible apply State.setStage_ok
    | with_reducible apply State.setCtxState_ok
    | with_reducible apply placeCore_ok
    | with_reducible apply State.putCore_ok
    | with_reducible apply State.core_ok
    | with_reducible refine State.mk_ok rfl rfl rfl rfl rfl ?_

end Sys2Proof.Machine
end

