-- ==== Sys2Proof/Laws/Exec.lean ====
section
/-! SUPPORT. One law per instruction and table: `exec` is its meaning; its queue fields, its guard, and whether it only posts. -/

namespace Sys2Proof.Machine

@[simp] theorem exec_idle (n : BitVec 6) (sat : Bool) (rnd : Rnd) (prof : BitVec 6) (s : State) : exec (.idle n sat rnd prof) s = execIdle n sat rnd prof s := rfl
@[simp] theorem exec_brp (p : F3) (o : BitVec 22) (s : State) : exec (.brp p o) s = execBrp p o s := rfl
@[simp] theorem exec_br (o : BitVec 22) (s : State) : exec (.br o) s = execBr o s := rfl
@[simp] theorem exec_brpn (p : F3) (o : BitVec 22) (s : State) : exec (.brpn p o) s = execBrpn p o s := rfl
@[simp] theorem exec_call (d : RegF) (i : BitVec 20) (s : State) : exec (.call d i) s = execCall d i s := rfl
@[simp] theorem exec_jmp (a : RegF) (k : F3) (s : State) : exec (.jmp a k) s = execJmp a k s := rfl
@[simp] theorem exec_callr (d : RegF) (a : RegF) (k : F3) (s : State) : exec (.callr d a k) s = execCallr d a k s := rfl
@[simp] theorem exec_ret (a : RegF) (k : F3) (s : State) : exec (.ret a k) s = execRet a k s := rfl
@[simp] theorem exec_setf (d : BitVec 2) (a : RegF) (k : F3) (s : State) : exec (.setf d a k) s = execSetf d a k s := rfl
@[simp] theorem exec_loop (d : RegF) (a : RegF) (i : BitVec 14) (s : State) : exec (.loop d a i) s = execLoop d a i s := rfl
@[simp] theorem exec_loopi (d : RegF) (n : BitVec 6) (i : BitVec 14) (s : State) : exec (.loopi d n i) s = execLoopi d n i s := rfl
@[simp] theorem exec_bswap (p : F3) (o : BitVec 22) (s : State) : exec (.bswap p o) s = execBswap p o s := rfl
@[simp] theorem exec_waita (a : RegF) (b : RegF) (k : F3) (sc : Scope) (c : WCond) (s : State) : exec (.waita a b k sc c) s = execWaita a b k sc c s := rfl
@[simp] theorem exec_waito (a : RegF) (i : BitVec 14) (s : State) : exec (.waito a i) s = execWaito a i s := rfl
@[simp] theorem exec_tend (s : State) : exec (.tend) s = execTend s := rfl
@[simp] theorem exec_trap (code : BitVec 16) (s : State) : exec (.trap code) s = execTrap code s := rfl
@[simp] theorem exec_brk (code : BitVec 16) (s : State) : exec (.brk code) s = execBrk code s := rfl
@[simp] theorem exec_ifence (r : IRegion) (s : State) : exec (.ifence r) s = execIfence r s := rfl
@[simp] theorem exec_sysr (d : RegF) (n : BitVec 12) (s : State) : exec (.sysr d n) s = execSysr d n s := rfl
@[simp] theorem exec_sysw (a : RegF) (n : BitVec 12) (s : State) : exec (.sysw a n) s = execSysw a n s := rfl
@[simp] theorem exec_add (d : RegF) (a : RegF) (b : RegF) (k : F3) (s : State) : exec (.add d a b k) s = execAdd d a b k s := rfl
@[simp] theorem exec_sub (d : RegF) (a : RegF) (b : RegF) (k : F3) (s : State) : exec (.sub d a b k) s = execSub d a b k s := rfl
@[simp] theorem exec_mul (d : RegF) (a : RegF) (b : RegF) (k : F3) (s : State) : exec (.mul d a b k) s = execMul d a b k s := rfl
@[simp] theorem exec_mulh (d : RegF) (a : RegF) (b : RegF) (k : F3) (s : State) : exec (.mulh d a b k) s = execMulh d a b k s := rfl
@[simp] theorem exec_mulhu (d : RegF) (a : RegF) (b : RegF) (k : F3) (s : State) : exec (.mulhu d a b k) s = execMulhu d a b k s := rfl
@[simp] theorem exec_divs (d : RegF) (a : RegF) (b : RegF) (k : F3) (s : State) : exec (.divs d a b k) s = execDivs d a b k s := rfl
@[simp] theorem exec_divu (d : RegF) (a : RegF) (b : RegF) (k : F3) (s : State) : exec (.divu d a b k) s = execDivu d a b k s := rfl
@[simp] theorem exec_rems (d : RegF) (a : RegF) (b : RegF) (k : F3) (s : State) : exec (.rems d a b k) s = execRems d a b k s := rfl
@[simp] theorem exec_remu (d : RegF) (a : RegF) (b : RegF) (k : F3) (s : State) : exec (.remu d a b k) s = execRemu d a b k s := rfl
@[simp] theorem exec_and (d : RegF) (a : RegF) (b : RegF) (k : F3) (s : State) : exec (.and d a b k) s = execAnd d a b k s := rfl
@[simp] theorem exec_or (d : RegF) (a : RegF) (b : RegF) (k : F3) (s : State) : exec (.or d a b k) s = execOr d a b k s := rfl
@[simp] theorem exec_xor (d : RegF) (a : RegF) (b : RegF) (k : F3) (s : State) : exec (.xor d a b k) s = execXor d a b k s := rfl
@[simp] theorem exec_andn (d : RegF) (a : RegF) (b : RegF) (k : F3) (s : State) : exec (.andn d a b k) s = execAndn d a b k s := rfl
@[simp] theorem exec_shl (d : RegF) (a : RegF) (b : RegF) (k : F3) (s : State) : exec (.shl d a b k) s = execShl d a b k s := rfl
@[simp] theorem exec_shr (d : RegF) (a : RegF) (b : RegF) (k : F3) (s : State) : exec (.shr d a b k) s = execShr d a b k s := rfl
@[simp] theorem exec_sar (d : RegF) (a : RegF) (b : RegF) (k : F3) (s : State) : exec (.sar d a b k) s = execSar d a b k s := rfl
@[simp] theorem exec_min (d : RegF) (a : RegF) (b : RegF) (k : F3) (s : State) : exec (.min d a b k) s = execMin d a b k s := rfl
@[simp] theorem exec_max (d : RegF) (a : RegF) (b : RegF) (k : F3) (s : State) : exec (.max d a b k) s = execMax d a b k s := rfl
@[simp] theorem exec_minu (d : RegF) (a : RegF) (b : RegF) (k : F3) (s : State) : exec (.minu d a b k) s = execMinu d a b k s := rfl
@[simp] theorem exec_maxu (d : RegF) (a : RegF) (b : RegF) (k : F3) (s : State) : exec (.maxu d a b k) s = execMaxu d a b k s := rfl
@[simp] theorem exec_clz (d : RegF) (a : RegF) (k : F3) (s : State) : exec (.clz d a k) s = execClz d a k s := rfl
@[simp] theorem exec_ctz (d : RegF) (a : RegF) (k : F3) (s : State) : exec (.ctz d a k) s = execCtz d a k s := rfl
@[simp] theorem exec_popc (d : RegF) (a : RegF) (k : F3) (s : State) : exec (.popc d a k) s = execPopc d a k s := rfl
@[simp] theorem exec_sel (d : RegF) (a : RegF) (b : RegF) (k : F3) (s : State) : exec (.sel d a b k) s = execSel d a b k s := rfl
@[simp] theorem exec_addi (d : RegF) (a : RegF) (i : BitVec 14) (s : State) : exec (.addi d a i) s = execAddi d a i s := rfl
@[simp] theorem exec_andi (d : RegF) (a : RegF) (i : BitVec 14) (s : State) : exec (.andi d a i) s = execAndi d a i s := rfl
@[simp] theorem exec_ori (d : RegF) (a : RegF) (i : BitVec 14) (s : State) : exec (.ori d a i) s = execOri d a i s := rfl
@[simp] theorem exec_xori (d : RegF) (a : RegF) (i : BitVec 14) (s : State) : exec (.xori d a i) s = execXori d a i s := rfl
@[simp] theorem exec_shli (d : RegF) (a : RegF) (n : BitVec 6) (s : State) : exec (.shli d a n) s = execShli d a n s := rfl
@[simp] theorem exec_shri (d : RegF) (a : RegF) (n : BitVec 6) (s : State) : exec (.shri d a n) s = execShri d a n s := rfl
@[simp] theorem exec_sari (d : RegF) (a : RegF) (n : BitVec 6) (s : State) : exec (.sari d a n) s = execSari d a n s := rfl
@[simp] theorem exec_lui (d : RegF) (i : BitVec 20) (s : State) : exec (.lui d i) s = execLui d i s := rfl
@[simp] theorem exec_lhi (d : RegF) (i : BitVec 20) (s : State) : exec (.lhi d i) s = execLhi d i s := rfl
@[simp] theorem exec_ltop (d : RegF) (i : BitVec 12) (s : State) : exec (.ltop d i) s = execLtop d i s := rfl
@[simp] theorem exec_ext (d : RegF) (a : RegF) (w : BitVec 6) (p : BitVec 6) (s : State) : exec (.ext d a w p) s = execExt d a w p s := rfl
@[simp] theorem exec_ins (d : RegF) (a : RegF) (w : BitVec 6) (p : BitVec 6) (s : State) : exec (.ins d a w p) s = execIns d a w p s := rfl
@[simp] theorem exec_widx (d : RegF) (f : F3) (s : State) : exec (.widx d f) s = execWidx d f s := rfl
@[simp] theorem exec_cmp (d : F3) (a : RegF) (b : RegF) (k : F3) (c : Cond) (s : State) : exec (.cmp d a b k c) s = execCmp d a b k c s := rfl
@[simp] theorem exec_cmpi (d : F3) (a : RegF) (c : Cond) (i : BitVec 10) (s : State) : exec (.cmpi d a c i) s = execCmpi d a c i s := rfl
@[simp] theorem exec_pand (d : F3) (a : F3) (b : F3) (k : F3) (s : State) : exec (.pand d a b k) s = execPand d a b k s := rfl
@[simp] theorem exec_por (d : F3) (a : F3) (b : F3) (k : F3) (s : State) : exec (.por d a b k) s = execPor d a b k s := rfl
@[simp] theorem exec_pxor (d : F3) (a : F3) (b : F3) (k : F3) (s : State) : exec (.pxor d a b k) s = execPxor d a b k s := rfl
@[simp] theorem exec_pnot (d : F3) (a : F3) (k : F3) (s : State) : exec (.pnot d a k) s = execPnot d a k s := rfl
@[simp] theorem exec_ldB (d : RegF) (sc : RegF) (l : Bool) (o : BitVec 13) (s : State) : exec (.ldB d sc l o) s = execLdB d sc l o s := rfl
@[simp] theorem exec_ldH (d : RegF) (sc : RegF) (l : Bool) (o : BitVec 13) (s : State) : exec (.ldH d sc l o) s = execLdH d sc l o s := rfl
@[simp] theorem exec_ldW (d : RegF) (sc : RegF) (l : Bool) (o : BitVec 13) (s : State) : exec (.ldW d sc l o) s = execLdW d sc l o s := rfl
@[simp] theorem exec_ldD (d : RegF) (sc : RegF) (l : Bool) (o : BitVec 13) (s : State) : exec (.ldD d sc l o) s = execLdD d sc l o s := rfl
@[simp] theorem exec_lduB (d : RegF) (sc : RegF) (l : Bool) (o : BitVec 13) (s : State) : exec (.lduB d sc l o) s = execLduB d sc l o s := rfl
@[simp] theorem exec_lduH (d : RegF) (sc : RegF) (l : Bool) (o : BitVec 13) (s : State) : exec (.lduH d sc l o) s = execLduH d sc l o s := rfl
@[simp] theorem exec_lduW (d : RegF) (sc : RegF) (l : Bool) (o : BitVec 13) (s : State) : exec (.lduW d sc l o) s = execLduW d sc l o s := rfl
@[simp] theorem exec_stB (d : RegF) (sc : RegF) (l : Bool) (o : BitVec 13) (s : State) : exec (.stB d sc l o) s = execStB d sc l o s := rfl
@[simp] theorem exec_stH (d : RegF) (sc : RegF) (l : Bool) (o : BitVec 13) (s : State) : exec (.stH d sc l o) s = execStH d sc l o s := rfl
@[simp] theorem exec_stW (d : RegF) (sc : RegF) (l : Bool) (o : BitVec 13) (s : State) : exec (.stW d sc l o) s = execStW d sc l o s := rfl
@[simp] theorem exec_stD (d : RegF) (sc : RegF) (l : Bool) (o : BitVec 13) (s : State) : exec (.stD d sc l o) s = execStD d sc l o s := rfl
@[simp] theorem exec_vld (d : RegF) (sc : RegF) (l : Bool) (c : CSet) (o : BitVec 11) (s : State) : exec (.vld d sc l c o) s = execVld d sc l c o s := rfl
@[simp] theorem exec_vldb (d : RegF) (sc : RegF) (l : Bool) (c : CSet) (o : BitVec 11) (s : State) : exec (.vldb d sc l c o) s = execVldb d sc l c o s := rfl
@[simp] theorem exec_vldt (d : RegF) (sc : RegF) (l : Bool) (c : CSet) (o : BitVec 11) (s : State) : exec (.vldt d sc l c o) s = execVldt d sc l c o s := rfl
@[simp] theorem exec_vst (d : RegF) (sc : RegF) (l : Bool) (c : CSet) (o : BitVec 11) (s : State) : exec (.vst d sc l c o) s = execVst d sc l c o s := rfl
@[simp] theorem exec_vstt (d : RegF) (sc : RegF) (l : Bool) (c : CSet) (o : BitVec 11) (s : State) : exec (.vstt d sc l c o) s = execVstt d sc l c o s := rfl
@[simp] theorem exec_vlds (d : RegF) (a : RegF) (b : RegF) (k : F3) (c : CSet) (l : Bool) (s : State) : exec (.vlds d a b k c l) s = execVlds d a b k c l s := rfl
@[simp] theorem exec_vsts (d : RegF) (a : RegF) (b : RegF) (k : F3) (c : CSet) (l : Bool) (s : State) : exec (.vsts d a b k c l) s = execVsts d a b k c l s := rfl
@[simp] theorem exec_amoAdd (d : RegF) (a : RegF) (b : RegF) (k : F3) (l : Bool) (s : State) : exec (.amoAdd d a b k l) s = execAmoAdd d a b k l s := rfl
@[simp] theorem exec_amoMax (d : RegF) (a : RegF) (b : RegF) (k : F3) (l : Bool) (s : State) : exec (.amoMax d a b k l) s = execAmoMax d a b k l s := rfl
@[simp] theorem exec_amoMin (d : RegF) (a : RegF) (b : RegF) (k : F3) (l : Bool) (s : State) : exec (.amoMin d a b k l) s = execAmoMin d a b k l s := rfl
@[simp] theorem exec_amoSwap (d : RegF) (a : RegF) (b : RegF) (k : F3) (l : Bool) (s : State) : exec (.amoSwap d a b k l) s = execAmoSwap d a b k l s := rfl
@[simp] theorem exec_amoCas (d : RegF) (a : RegF) (b : RegF) (k : F3) (l : Bool) (s : State) : exec (.amoCas d a b k l) s = execAmoCas d a b k l s := rfl
@[simp] theorem exec_qpush (d : BitVec 2) (a : RegF) (k : F3) (s : State) : exec (.qpush d a k) s = execQpush d a k s := rfl
@[simp] theorem exec_qdrop (d : BitVec 2) (k : F3) (s : State) : exec (.qdrop d k) s = execQdrop d k s := rfl
@[simp] theorem exec_vldkKbf7 (d : RegF) (a : RegF) (b : RegF) (c : CSet) (l : Bool) (s : State) : exec (.vldkKbf7 d a b c l) s = execVldkKbf7 d a b c l s := rfl
@[simp] theorem exec_vldkKbf4 (d : RegF) (a : RegF) (b : RegF) (c : CSet) (l : Bool) (s : State) : exec (.vldkKbf4 d a b c l) s = execVldkKbf4 d a b c l s := rfl
@[simp] theorem exec_vldkKbf2 (d : RegF) (a : RegF) (b : RegF) (c : CSet) (l : Bool) (s : State) : exec (.vldkKbf2 d a b c l) s = execVldkKbf2 d a b c l s := rfl
@[simp] theorem exec_vstkKbf7 (d : RegF) (a : RegF) (b : RegF) (c : CSet) (l : Bool) (s : State) : exec (.vstkKbf7 d a b c l) s = execVstkKbf7 d a b c l s := rfl
@[simp] theorem exec_vstkKbf4 (d : RegF) (a : RegF) (b : RegF) (c : CSet) (l : Bool) (s : State) : exec (.vstkKbf4 d a b c l) s = execVstkKbf4 d a b c l s := rfl
@[simp] theorem exec_vstkKbf2 (d : RegF) (a : RegF) (b : RegF) (c : CSet) (l : Bool) (s : State) : exec (.vstkKbf2 d a b c l) s = execVstkKbf2 d a b c l s := rfl
@[simp] theorem exec_vaddI32 (d : RegF) (a : RegF) (b : RegF) (k : F3) (c : CSet) (s : State) : exec (.vaddI32 d a b k c) s = execVaddI32 d a b k c s := rfl
@[simp] theorem exec_vsubI32 (d : RegF) (a : RegF) (b : RegF) (k : F3) (c : CSet) (s : State) : exec (.vsubI32 d a b k c) s = execVsubI32 d a b k c s := rfl
@[simp] theorem exec_vmulI32 (d : RegF) (a : RegF) (b : RegF) (k : F3) (c : CSet) (s : State) : exec (.vmulI32 d a b k c) s = execVmulI32 d a b k c s := rfl
@[simp] theorem exec_vmulh (d : RegF) (a : RegF) (b : RegF) (k : F3) (c : CSet) (s : State) : exec (.vmulh d a b k c) s = execVmulh d a b k c s := rfl
@[simp] theorem exec_vand (d : RegF) (a : RegF) (b : RegF) (k : F3) (c : CSet) (s : State) : exec (.vand d a b k c) s = execVand d a b k c s := rfl
@[simp] theorem exec_vor (d : RegF) (a : RegF) (b : RegF) (k : F3) (c : CSet) (s : State) : exec (.vor d a b k c) s = execVor d a b k c s := rfl
@[simp] theorem exec_vxor (d : RegF) (a : RegF) (b : RegF) (k : F3) (c : CSet) (s : State) : exec (.vxor d a b k c) s = execVxor d a b k c s := rfl
@[simp] theorem exec_vabsI32 (d : RegF) (a : RegF) (k : F3) (c : CSet) (s : State) : exec (.vabsI32 d a k c) s = execVabsI32 d a k c s := rfl
@[simp] theorem exec_vshl (d : RegF) (a : RegF) (b : RegF) (k : F3) (c : CSet) (s : State) : exec (.vshl d a b k c) s = execVshl d a b k c s := rfl
@[simp] theorem exec_vshr (d : RegF) (a : RegF) (b : RegF) (k : F3) (c : CSet) (s : State) : exec (.vshr d a b k c) s = execVshr d a b k c s := rfl
@[simp] theorem exec_vsar (d : RegF) (a : RegF) (b : RegF) (k : F3) (c : CSet) (s : State) : exec (.vsar d a b k c) s = execVsar d a b k c s := rfl
@[simp] theorem exec_vminI32 (d : RegF) (a : RegF) (b : RegF) (k : F3) (c : CSet) (s : State) : exec (.vminI32 d a b k c) s = execVminI32 d a b k c s := rfl
@[simp] theorem exec_vmaxI32 (d : RegF) (a : RegF) (b : RegF) (k : F3) (c : CSet) (s : State) : exec (.vmaxI32 d a b k c) s = execVmaxI32 d a b k c s := rfl
@[simp] theorem exec_vminU32 (d : RegF) (a : RegF) (b : RegF) (k : F3) (c : CSet) (s : State) : exec (.vminU32 d a b k c) s = execVminU32 d a b k c s := rfl
@[simp] theorem exec_vmaxU32 (d : RegF) (a : RegF) (b : RegF) (k : F3) (c : CSet) (s : State) : exec (.vmaxU32 d a b k c) s = execVmaxU32 d a b k c s := rfl
@[simp] theorem exec_vaddF32 (d : RegF) (a : RegF) (b : RegF) (k : F3) (c : CSet) (s : State) : exec (.vaddF32 d a b k c) s = execVaddF32 d a b k c s := rfl
@[simp] theorem exec_vsubF32 (d : RegF) (a : RegF) (b : RegF) (k : F3) (c : CSet) (s : State) : exec (.vsubF32 d a b k c) s = execVsubF32 d a b k c s := rfl
@[simp] theorem exec_vmulF32 (d : RegF) (a : RegF) (b : RegF) (k : F3) (c : CSet) (s : State) : exec (.vmulF32 d a b k c) s = execVmulF32 d a b k c s := rfl
@[simp] theorem exec_vfmaF32 (d : RegF) (a : RegF) (b : RegF) (k : F3) (c : CSet) (s : State) : exec (.vfmaF32 d a b k c) s = execVfmaF32 d a b k c s := rfl
@[simp] theorem exec_vminF32 (d : RegF) (a : RegF) (b : RegF) (k : F3) (c : CSet) (s : State) : exec (.vminF32 d a b k c) s = execVminF32 d a b k c s := rfl
@[simp] theorem exec_vmaxF32 (d : RegF) (a : RegF) (b : RegF) (k : F3) (c : CSet) (s : State) : exec (.vmaxF32 d a b k c) s = execVmaxF32 d a b k c s := rfl
@[simp] theorem exec_vdot2Bf16 (d : RegF) (a : RegF) (b : RegF) (k : F3) (c : CSet) (s : State) : exec (.vdot2Bf16 d a b k c) s = execVdot2Bf16 d a b k c s := rfl
@[simp] theorem exec_vabsF32 (d : RegF) (a : RegF) (k : F3) (c : CSet) (s : State) : exec (.vabsF32 d a k c) s = execVabsF32 d a k c s := rfl
@[simp] theorem exec_vnegF32 (d : RegF) (a : RegF) (k : F3) (c : CSet) (s : State) : exec (.vnegF32 d a k c) s = execVnegF32 d a k c s := rfl
@[simp] theorem exec_vcpysF32 (d : RegF) (a : RegF) (b : RegF) (k : F3) (c : CSet) (s : State) : exec (.vcpysF32 d a b k c) s = execVcpysF32 d a b k c s := rfl
@[simp] theorem exec_vaccrd (d : RegF) (a : RegF) (k : F3) (c : CSet) (s : State) : exec (.vaccrd d a k c) s = execVaccrd d a k c s := rfl
@[simp] theorem exec_vcmpF32 (d : F3) (a : RegF) (b : RegF) (k : F3) (c : CSet) (f : FCond) (s : State) : exec (.vcmpF32 d a b k c f) s = execVcmpF32 d a b k c f s := rfl
@[simp] theorem exec_vcmpI32 (d : F3) (a : RegF) (b : RegF) (k : F3) (c : CSet) (f : ICond) (s : State) : exec (.vcmpI32 d a b k c f) s = execVcmpI32 d a b k c f s := rfl
@[simp] theorem exec_vmov (d : RegF) (a : RegF) (k : F3) (c : CSet) (s : State) : exec (.vmov d a k c) s = execVmov d a k c s := rfl
@[simp] theorem exec_vsel (d : RegF) (a : RegF) (b : RegF) (k : F3) (c : CSet) (s : State) : exec (.vsel d a b k c) s = execVsel d a b k c s := rfl
@[simp] theorem exec_vbcast (d : RegF) (a : RegF) (k : F3) (c : CSet) (s : State) : exec (.vbcast d a k c) s = execVbcast d a k c s := rfl
@[simp] theorem exec_vextr (d : RegF) (a : RegF) (b : RegF) (k : F3) (c : CSet) (s : State) : exec (.vextr d a b k c) s = execVextr d a b k c s := rfl
@[simp] theorem exec_vins (d : RegF) (a : RegF) (b : RegF) (k : F3) (c : CSet) (s : State) : exec (.vins d a b k c) s = execVins d a b k c s := rfl
@[simp] theorem exec_vperm (d : RegF) (a : RegF) (b : RegF) (k : F3) (c : CSet) (s : State) : exec (.vperm d a b k c) s = execVperm d a b k c s := rfl
@[simp] theorem exec_vxcl (d : RegF) (a : RegF) (r : F3) (k : F3) (c : CSet) (s : State) : exec (.vxcl d a r k c) s = execVxcl d a r k c s := rfl
@[simp] theorem exec_viota (d : RegF) (k : F3) (c : CSet) (s : State) : exec (.viota d k c) s = execViota d k c s := rfl
@[simp] theorem exec_vredaddF32 (d : RegF) (a : RegF) (k : F3) (c : CSet) (s : State) : exec (.vredaddF32 d a k c) s = execVredaddF32 d a k c s := rfl
@[simp] theorem exec_vredaddI32 (d : RegF) (a : RegF) (k : F3) (c : CSet) (s : State) : exec (.vredaddI32 d a k c) s = execVredaddI32 d a k c s := rfl
@[simp] theorem exec_vredmaxF32 (d : RegF) (a : RegF) (k : F3) (c : CSet) (s : State) : exec (.vredmaxF32 d a k c) s = execVredmaxF32 d a k c s := rfl
@[simp] theorem exec_vredmaxI32 (d : RegF) (a : RegF) (k : F3) (c : CSet) (s : State) : exec (.vredmaxI32 d a k c) s = execVredmaxI32 d a k c s := rfl
@[simp] theorem exec_vredminF32 (d : RegF) (a : RegF) (k : F3) (c : CSet) (s : State) : exec (.vredminF32 d a k c) s = execVredminF32 d a k c s := rfl
@[simp] theorem exec_vredminI32 (d : RegF) (a : RegF) (k : F3) (c : CSet) (s : State) : exec (.vredminI32 d a k c) s = execVredminI32 d a k c s := rfl
@[simp] theorem exec_vcvt (d : RegF) (a : RegF) (sc : VFmt) (t : VFmt) (k : F3) (c : CSet) (s : State) : exec (.vcvt d a sc t k c) s = execVcvt d a sc t k c s := rfl
@[simp] theorem exec_vcvtF32Fx128Lo (d : RegF) (a : RegF) (p : BitVec 6) (k : F3) (c : CSet) (s : State) : exec (.vcvtF32Fx128Lo d a p k c) s = execVcvtF32Fx128Lo d a p k c s := rfl
@[simp] theorem exec_vcvtF32Fx128Hi (d : RegF) (a : RegF) (p : BitVec 6) (k : F3) (c : CSet) (s : State) : exec (.vcvtF32Fx128Hi d a p k c) s = execVcvtF32Fx128Hi d a p k c s := rfl
@[simp] theorem exec_vrcp (d : RegF) (a : RegF) (k : F3) (c : CSet) (s : State) : exec (.vrcp d a k c) s = execVrcp d a k c s := rfl
@[simp] theorem exec_vrcpr (d : RegF) (a : RegF) (b : RegF) (k : F3) (c : CSet) (s : State) : exec (.vrcpr d a b k c) s = execVrcpr d a b k c s := rfl
@[simp] theorem exec_vrsq (d : RegF) (a : RegF) (k : F3) (c : CSet) (s : State) : exec (.vrsq d a k c) s = execVrsq d a k c s := rfl
@[simp] theorem exec_vrsqr (d : RegF) (a : RegF) (b : RegF) (k : F3) (c : CSet) (s : State) : exec (.vrsqr d a b k c) s = execVrsqr d a b k c s := rfl
@[simp] theorem exec_vsqrt (d : RegF) (a : RegF) (k : F3) (c : CSet) (s : State) : exec (.vsqrt d a k c) s = execVsqrt d a k c s := rfl
@[simp] theorem exec_vexp2 (d : RegF) (a : RegF) (k : F3) (c : CSet) (s : State) : exec (.vexp2 d a k c) s = execVexp2 d a k c s := rfl
@[simp] theorem exec_vlog2 (d : RegF) (a : RegF) (k : F3) (c : CSet) (s : State) : exec (.vlog2 d a k c) s = execVlog2 d a k c s := rfl
@[simp] theorem exec_vsin (d : RegF) (a : RegF) (k : F3) (c : CSet) (s : State) : exec (.vsin d a k c) s = execVsin d a k c s := rfl
@[simp] theorem exec_vcos (d : RegF) (a : RegF) (k : F3) (c : CSet) (s : State) : exec (.vcos d a k c) s = execVcos d a k c s := rfl
@[simp] theorem exec_vrand (d : RegF) (k : F3) (c : CSet) (s : State) : exec (.vrand d k c) s = execVrand d k c s := rfl
@[simp] theorem exec_vrandf (d : RegF) (k : F3) (c : CSet) (s : State) : exec (.vrandf d k c) s = execVrandf d k c s := rfl
@[simp] theorem exec_vdrop (d : RegF) (a : RegF) (b : RegF) (k : F3) (c : CSet) (s : State) : exec (.vdrop d a b k c) s = execVdrop d a b k c s := rfl
@[simp] theorem exec_vtopk (d : RegF) (a : RegF) (b : RegF) (k : F3) (c : CSet) (s : State) : exec (.vtopk d a b k c) s = execVtopk d a b k c s := rfl
@[simp] theorem exec_vmergek (d : RegF) (a : RegF) (b : RegF) (k : F3) (c : CSet) (s : State) : exec (.vmergek d a b k c) s = execVmergek d a b k c s := rfl
@[simp] theorem exec_mpset (a : RegF) (n : F3) (s : State) : exec (.mpset a n) s = execMpset a n s := rfl
@[simp] theorem exec_mcall (e : BitVec 12) (s : State) : exec (.mcall e) s = execMcall e s := rfl
@[simp] theorem exec_cpy (a : RegF) (b : RegF) (g : BitVec 4) (s : State) : exec (.cpy a b g) s = execCpy a b g s := rfl
@[simp] theorem exec_cpyc (a : RegF) (b : RegF) (g : BitVec 4) (s : State) : exec (.cpyc a b g) s = execCpyc a b g s := rfl
@[simp] theorem exec_gset (a : RegF) (g : BitVec 4) (s : State) : exec (.gset a g) s = execGset a g s := rfl
@[simp] theorem exec_gstart (a : RegF) (b : RegF) (q : BitVec 2) (s : State) : exec (.gstart a b q) s = execGstart a b q s := rfl
@[simp] theorem exec_tarm (a : RegF) (b : RegF) (g : BitVec 4) (s : State) : exec (.tarm a b g) s = execTarm a b g s := rfl
@[simp] theorem exec_fsend (a : RegF) (b : RegF) (g : BitVec 4) (s : State) : exec (.fsend a b g) s = execFsend a b g s := rfl
@[simp] theorem exec_fmcast (a : RegF) (b : RegF) (g : BitVec 4) (s : State) : exec (.fmcast a b g) s = execFmcast a b g s := rfl
@[simp] theorem exec_fred (a : RegF) (b : RegF) (op : AOp) (f : AFmt) (g : BitVec 4) (s : State) : exec (.fred a b op f g) s = execFred a b op f g s := rfl
@[simp] theorem exec_ratom (a : RegF) (b : RegF) (op : AOp) (f : AFmt) (g : BitVec 4) (s : State) : exec (.ratom a b op f g) s = execRatom a b op f g s := rfl
@[simp] theorem exec_csend (a : RegF) (b : RegF) (ch : BitVec 12) (s : State) : exec (.csend a b ch) s = execCsend a b ch s := rfl
@[simp] theorem exec_crecv (a : RegF) (b : RegF) (ch : BitVec 12) (s : State) : exec (.crecv a b ch) s = execCrecv a b ch s := rfl
@[simp] theorem exec_chw (a : RegF) (ch : BitVec 12) (s : State) : exec (.chw a ch) s = execChw a ch s := rfl
@[simp] theorem exec_ccollAllred (a : RegF) (b : RegF) (r : BitVec 10) (s : State) : exec (.ccollAllred a b r) s = execCcollAllred a b r s := rfl
@[simp] theorem exec_ccollRedscat (a : RegF) (b : RegF) (r : BitVec 10) (s : State) : exec (.ccollRedscat a b r) s = execCcollRedscat a b r s := rfl
@[simp] theorem exec_ccollAllgath (a : RegF) (b : RegF) (r : BitVec 10) (s : State) : exec (.ccollAllgath a b r) s = execCcollAllgath a b r s := rfl
@[simp] theorem exec_ccollBcast (a : RegF) (b : RegF) (r : BitVec 10) (s : State) : exec (.ccollBcast a b r) s = execCcollBcast a b r s := rfl
@[simp] theorem exec_ccollReduce (a : RegF) (b : RegF) (r : BitVec 10) (s : State) : exec (.ccollReduce a b r) s = execCcollReduce a b r s := rfl
@[simp] theorem exec_ccollPxch (a : RegF) (b : RegF) (r : BitVec 10) (s : State) : exec (.ccollPxch a b r) s = execCcollPxch a b r s := rfl
@[simp] theorem exec_spawn (a : RegF) (s : State) : exec (.spawn a) s = execSpawn a s := rfl
@[simp] theorem exec_kilnw (a : RegF) (s : State) : exec (.kilnw a) s = execKilnw a s := rfl
@[simp] theorem exec_kilnr (a : RegF) (s : State) : exec (.kilnr a) s = execKilnr a s := rfl
@[simp] theorem exec_digest (a : RegF) (b : RegF) (g : BitVec 4) (s : State) : exec (.digest a b g) s = execDigest a b g s := rfl
@[simp] theorem exec_efence (g : BitVec 4) (sc : Scope) (s : State) : exec (.efence g sc) s = execEfence g sc s := rfl
@[simp] theorem exec_lds (c : Nat) (pa : F3) (o : Bool) (n : BitVec 7) (s : State) : exec (.lds c pa o n) s = execLds c pa o n s := rfl
@[simp] theorem exec_swap (c : Nat) (s : State) : exec (.swap c) s = execSwap c s := rfl
@[simp] theorem exec_strm (c : Nat) (t : F3) (pa : F3) (n : BitVec 7) (s : State) : exec (.strm c t pa n) s = execStrm c t pa n s := rfl
@[simp] theorem exec_strmc (c : Nat) (t : F3) (pa : F3) (n : BitVec 7) (s : State) : exec (.strmc c t pa n) s = execStrmc c t pa n s := rfl
@[simp] theorem exec_zero (c : Nat) (t : F3) (s : State) : exec (.zero c t) s = execZero c t s := rfl
@[simp] theorem exec_scale (c : Nat) (t : F3) (i : BitVec 16) (s : State) : exec (.scale c t i) s = execScale c t i s := rfl
@[simp] theorem exec_ldacc (c : Nat) (t : F3) (pa : F3) (s : State) : exec (.ldacc c t pa) s = execLdacc c t pa s := rfl
@[simp] theorem exec_drain (c : Nat) (t : F3) (pa : F3) (pb : F3) (pc : F3) (fmt : BitVec 5) (s : State) : exec (.drain c t pa pb pc fmt) s = execDrain c t pa pb pc fmt s := rfl
@[simp] theorem exec_amax (c : Nat) (t : F3) (pb : F3) (s : State) : exec (.amax c t pb) s = execAmax c t pb s := rfl
@[simp] theorem exec_madd (c : Nat) (pd : F3) (pa : F3) (i : BitVec 32) (s : State) : exec (.madd c pd pa i) s = execMadd c pd pa i s := rfl
@[simp] theorem exec_mloop (c : Nat) (p : F3) (target : BitVec 12) (s : State) : exec (.mloop c p target) s = execMloop c p target s := rfl
@[simp] theorem exec_mbrz (c : Nat) (p : F3) (target : BitVec 12) (s : State) : exec (.mbrz c p target) s = execMbrz c p target s := rfl
@[simp] theorem exec_mwait (c : Nat) (cls : BitVec 2) (s : State) : exec (.mwait c cls) s = execMwait c cls s := rfl
@[simp] theorem exec_mend (c : Nat) (s : State) : exec (.mend c) s = execMend c s := rfl
@[simp] theorem exec_routineBegin (c : Nat) (s : State) : exec (.routineBegin c) s = execRoutineBegin c s := rfl
@[simp] theorem exec_routineFinish (c : Nat) (s : State) : exec (.routineFinish c) s = execRoutineFinish c s := rfl
@[simp] theorem exec_routineFlagsJoin (c : Nat) (t : Bool) (s : State) : exec (.routineFlagsJoin c t) s = execRoutineFlagsJoin c t s := rfl
@[simp] theorem exec_resultLanding (c : Nat) (t : Bool) (s : State) : exec (.resultLanding c t) s = execResultLanding c t s := rfl
@[simp] theorem exec_pendingAccessPerform (c : Nat) (s : State) : exec (.pendingAccessPerform c) s = execPendingAccessPerform c s := rfl
@[simp] theorem exec_sleepEnd (c : Nat) (t : Bool) (s : State) : exec (.sleepEnd c t) s = execSleepEnd c t s := rfl
@[simp] theorem exec_waitLimitExpiry (c : Nat) (t : Bool) (s : State) : exec (.waitLimitExpiry c t) s = execWaitLimitExpiry c t s := rfl
@[simp] theorem exec_trapEntry (c : Nat) (t : Bool) (s : State) : exec (.trapEntry c t) s = execTrapEntry c t s := rfl
@[simp] theorem exec_tretResume (c : Nat) (t : Bool) (s : State) : exec (.tretResume c t) s = execTretResume c t s := rfl
@[simp] theorem exec_tretEnd (c : Nat) (t : Bool) (s : State) : exec (.tretEnd c t) s = execTretEnd c t s := rfl
@[simp] theorem exec_taskEnd (c : Nat) (t : Bool) (s : State) : exec (.taskEnd c t) s = execTaskEnd c t s := rfl
@[simp] theorem exec_gangJoin (g : Nat) (s : State) : exec (.gangJoin g) s = execGangJoin g s := rfl
@[simp] theorem exec_gangMessageLanding (c : Nat) (s : State) : exec (.gangMessageLanding c) s = execGangMessageLanding c s := rfl
@[simp] theorem exec_takeGrant (c : Nat) (s : State) : exec (.takeGrant c) s = execTakeGrant c s := rfl
@[simp] theorem exec_copyChunk (c : Nat) (id : Nat) (s : State) : exec (.copyChunk c id) s = execCopyChunk c id s := rfl
@[simp] theorem exec_copyComplete (c : Nat) (id : Nat) (s : State) : exec (.copyComplete c id) s = execCopyComplete c id s := rfl
@[simp] theorem exec_gatherRowDelivery (c : Nat) (q : Nat) (s : State) : exec (.gatherRowDelivery c q) s = execGatherRowDelivery c q s := rfl
@[simp] theorem exec_gstartIndexEntry (c : Nat) (q : Nat) (s : State) : exec (.gstartIndexEntry c q) s = execGstartIndexEntry c q s := rfl
@[simp] theorem exec_keyUseReport (x : Nat) (s : State) : exec (.keyUseReport x) s = execKeyUseReport x s := rfl
@[simp] theorem exec_faultRecordPost (x : Nat) (s : State) : exec (.faultRecordPost x) s = execFaultRecordPost x s := rfl
@[simp] theorem exec_pageWalk (x : Nat) (s : State) : exec (.pageWalk x) s = execPageWalk x s := rfl
@[simp] theorem exec_packetForward (p : Packet) (s : State) : exec (.packetForward p) s = execPacketForward p s := rfl
@[simp] theorem exec_write (p : Packet) (s : State) : exec (.write p) s = execWrite p s := rfl
@[simp] theorem exec_readreq (p : Packet) (s : State) : exec (.readreq p) s = execReadreq p s := rfl
@[simp] theorem exec_readdata (p : Packet) (s : State) : exec (.readdata p) s = execReaddata p s := rfl
@[simp] theorem exec_reduce (p : Packet) (s : State) : exec (.reduce p) s = execReduce p s := rfl
@[simp] theorem exec_roundTimeout (x : Nat) (g : Nat) (s : State) : exec (.roundTimeout x g) s = execRoundTimeout x g s := rfl
@[simp] theorem exec_atomic (p : Packet) (s : State) : exec (.atomic p) s = execAtomic p s := rfl
@[simp] theorem exec_atomicdata (p : Packet) (s : State) : exec (.atomicdata p) s = execAtomicdata p s := rfl
@[simp] theorem exec_ack (p : Packet) (s : State) : exec (.ack p) s = execAck p s := rfl
@[simp] theorem exec_mcwrite (p : Packet) (s : State) : exec (.mcwrite p) s = execMcwrite p s := rfl
@[simp] theorem exec_responseTimeout (tag : Nat) (s : State) : exec (.responseTimeout tag) s = execResponseTimeout tag s := rfl
@[simp] theorem exec_chunk (p : Packet) (s : State) : exec (.chunk p) s = execChunk p s := rfl
@[simp] theorem exec_abortMarker (p : Packet) (s : State) : exec (.abortMarker p) s = execAbortMarker p s := rfl
@[simp] theorem exec_creditReturn (p : Packet) (s : State) : exec (.creditReturn p) s = execCreditReturn p s := rfl
@[simp] theorem exec_collectiveStart (id : Nat) (s : State) : exec (.collectiveStart id) s = execCollectiveStart id s := rfl
@[simp] theorem exec_stepTimeout (id : Nat) (s : State) : exec (.stepTimeout id) s = execStepTimeout id s := rfl
@[simp] theorem exec_collectiveComplete (id : Nat) (s : State) : exec (.collectiveComplete id) s = execCollectiveComplete id s := rfl
@[simp] theorem exec_prioritySwitch (port : Nat) (s : State) : exec (.prioritySwitch port) s = execPrioritySwitch port s := rfl
@[simp] theorem exec_time (port : Nat) (p : Packet) (s : State) : exec (.time port p) s = execTime port p s := rfl
@[simp] theorem exec_xinvComplete (x : Nat) (s : State) : exec (.xinvComplete x) s = execXinvComplete x s := rfl
@[simp] theorem exec_launchQueuePoll (q : Nat) (s : State) : exec (.launchQueuePoll q) s = execLaunchQueuePoll q s := rfl
@[simp] theorem exec_launchAccept (q : Option Nat) (s : State) : exec (.launchAccept q) s = execLaunchAccept q s := rfl
@[simp] theorem exec_unitDispatch (l : Nat) (s : State) : exec (.unitDispatch l) s = execUnitDispatch l s := rfl
@[simp] theorem exec_imageLoad (c : Nat) (s : State) : exec (.imageLoad c) s = execImageLoad c s := rfl
@[simp] theorem exec_launchComplete (l : Nat) (s : State) : exec (.launchComplete l) s = execLaunchComplete l s := rfl
@[simp] theorem exec_killComplete (x : Nat) (s : State) : exec (.killComplete x) s = execKillComplete x s := rfl
@[simp] theorem exec_switchOutComplete (x : Nat) (s : State) : exec (.switchOutComplete x) s = execSwitchOutComplete x s := rfl
@[simp] theorem exec_efenceComplete (c : Nat) (id : Nat) (s : State) : exec (.efenceComplete c id) s = execEfenceComplete c id s := rfl
@[simp] theorem exec_digestComplete (c : Nat) (id : Nat) (s : State) : exec (.digestComplete c id) s = execDigestComplete c id s := rfl
@[simp] theorem exec_mgctlReloadDone (x : Nat) (s : State) : exec (.mgctlReloadDone x) s = execMgctlReloadDone x s := rfl
@[simp] theorem exec_clctlReloadDone (x : Nat) (s : State) : exec (.clctlReloadDone x) s = execClctlReloadDone x s := rfl
@[simp] theorem exec_createComplete (x : Nat) (s : State) : exec (.createComplete x) s = execCreateComplete x s := rfl
@[simp] theorem exec_flit (port : Nat) (bytes : List Byte) (s : State) : exec (.flit port bytes) s = execFlit port bytes s := rfl
@[simp] theorem exec_portDown (port : Nat) (s : State) : exec (.portDown port) s = execPortDown port s := rfl
@[simp] theorem exec_portUp (port : Nat) (s : State) : exec (.portUp port) s = execPortUp port s := rfl
@[simp] theorem exec_registerWrite (addr : Nat) (bytes : List Byte) (s : State) : exec (.registerWrite addr bytes) s = execRegisterWrite addr bytes s := rfl
@[simp] theorem exec_hostCxlMemRead (addr : Nat) (n : Nat) (s : State) : exec (.hostCxlMemRead addr n) s = execHostCxlMemRead addr n s := rfl
@[simp] theorem exec_hostCxlMemWrite (addr : Nat) (bytes : List Byte) (s : State) : exec (.hostCxlMemWrite addr bytes) s = execHostCxlMemWrite addr bytes s := rfl
@[simp] theorem exec_hostCxlIoWindowAccess (addr : Nat) (n : Nat) (w : Option (List Byte)) (s : State) : exec (.hostCxlIoWindowAccess addr n w) s = execHostCxlIoWindowAccess addr n w s := rfl
@[simp] theorem exec_hostSupervisorWrite (c : Nat) (off : Nat) (bytes : List Byte) (s : State) : exec (.hostSupervisorWrite c off bytes) s = execHostSupervisorWrite c off bytes s := rfl
@[simp] theorem exec_thermalWarn (die : Nat) (s : State) : exec (.thermalWarn die) s = execThermalWarn die s := rfl
@[simp] theorem exec_throttleStep (die : Nat) (s : State) : exec (.throttleStep die) s = execThrottleStep die s := rfl
@[simp] theorem exec_thermalTrip (die : Nat) (s : State) : exec (.thermalTrip die) s = execThermalTrip die s := rfl
@[simp] theorem exec_hbmScrub (addr : Nat) (bad : Bool) (s : State) : exec (.hbmScrub addr bad) s = execHbmScrub addr bad s := rfl
@[simp] theorem exec_gtbCorrection (up : Bool) (s : State) : exec (.gtbCorrection up) s = execGtbCorrection up s := rfl
@[simp] theorem exec_xinvContext (x : Nat) (s : State) : exec (.xinvContext x) s = execXinvContext x s := rfl
@[simp] theorem exec_xinvPages (x : Nat) (s : State) : exec (.xinvPages x) s = execXinvPages x s := rfl
@[simp] theorem exec_xinvRanges (x : Nat) (s : State) : exec (.xinvRanges x) s = execXinvRanges x s := rfl
@[simp] theorem exec_xinvNop (x : Nat) (s : State) : exec (.xinvNop x) s = execXinvNop x s := rfl
@[simp] theorem exec_mgctlReloadReduction (x : Nat) (s : State) : exec (.mgctlReloadReduction x) s = execMgctlReloadReduction x s := rfl
@[simp] theorem exec_mgctlReloadMulticast (x : Nat) (s : State) : exec (.mgctlReloadMulticast x) s = execMgctlReloadMulticast x s := rfl
@[simp] theorem exec_clctlReloadChannels (x : Nat) (s : State) : exec (.clctlReloadChannels x) s = execClctlReloadChannels x s := rfl
@[simp] theorem exec_clctlReloadRings (x : Nat) (s : State) : exec (.clctlReloadRings x) s = execClctlReloadRings x s := rfl
@[simp] theorem exec_create (x : Nat) (s : State) : exec (.create x) s = execCreate x s := rfl
@[simp] theorem exec_kill (x : Nat) (s : State) : exec (.kill x) s = execKill x s := rfl
@[simp] theorem exec_signal (x : Nat) (s : State) : exec (.signal x) s = execSignal x s := rfl
@[simp] theorem exec_wdclr (x : Nat) (s : State) : exec (.wdclr x) s = execWdclr x s := rfl
@[simp] theorem exec_ucload (x : Nat) (s : State) : exec (.ucload x) s = execUcload x s := rfl
@[simp] theorem exec_attest (x : Nat) (s : State) : exec (.attest x) s = execAttest x s := rfl
@[simp] theorem exec_debugHalt (x : Nat) (s : State) : exec (.debugHalt x) s = execDebugHalt x s := rfl
@[simp] theorem exec_lqbaseWrite (q : Nat) (v : Word) (s : State) : exec (.lqbaseWrite q v) s = execLqbaseWrite q v s := rfl
@[simp] theorem exec_tctlNone (c : Nat) (t : Bool) (v : Word) (s : State) : exec (.tctlNone c t v) s = execTctlNone c t v s := rfl
@[simp] theorem exec_tctlSetSkew (c : Nat) (t : Bool) (v : Word) (s : State) : exec (.tctlSetSkew c t v) s = execTctlSetSkew c t v s := rfl
@[simp] theorem exec_tctlClearSkew (c : Nat) (t : Bool) (v : Word) (s : State) : exec (.tctlClearSkew c t v) s = execTctlClearSkew c t v s := rfl
@[simp] theorem exec_tctlMakeMailbox (c : Nat) (t : Bool) (v : Word) (s : State) : exec (.tctlMakeMailbox c t v) s = execTctlMakeMailbox c t v s := rfl
@[simp] theorem exec_tctlReleaseMailbox (c : Nat) (t : Bool) (v : Word) (s : State) : exec (.tctlReleaseMailbox c t v) s = execTctlReleaseMailbox c t v s := rfl
@[simp] theorem exec_tctlDisarm (c : Nat) (t : Bool) (v : Word) (s : State) : exec (.tctlDisarm c t v) s = execTctlDisarm c t v s := rfl
@[simp] theorem exec_reduceResend (s : State) : exec (.reduceResend) s = execReduceResend s := rfl
@[simp] theorem exec_timeSend (s : State) : exec (.timeSend) s = execTimeSend s := rfl
@[simp] theorem exec_gtbokLoss (s : State) : exec (.gtbokLoss) s = execGtbokLoss s := rfl
@[simp] theorem exec_epochBoundary (s : State) : exec (.epochBoundary) s = execEpochBoundary s := rfl
@[simp] theorem exec_coldStart (s : State) : exec (.coldStart) s = execColdStart s := rfl
@[simp] theorem exec_warmStart (s : State) : exec (.warmStart) s = execWarmStart s := rfl
@[simp] theorem exec_firmwarePush (s : State) : exec (.firmwarePush) s = execFirmwarePush s := rfl
@[simp] theorem exec_sampleRecord (x : Nat) (s : State) : exec (.sampleRecord x) s = execSampleRecord x s := rfl
@[simp] theorem exec_launchAged (l : Nat) (s : State) : exec (.launchAged l) s = execLaunchAged l s := rfl
@[simp] theorem exec_collisionCycle (c : Nat) (s : State) : exec (.collisionCycle c) s = execCollisionCycle c s := rfl
@[simp] theorem exec_powerFreeze (c : Nat) (s : State) : exec (.powerFreeze c) s = execPowerFreeze c s := rfl
@[simp] theorem exec_freezeEnd (c : Nat) (s : State) : exec (.freezeEnd c) s = execFreezeEnd c s := rfl
@[simp] theorem exec_quantumEnd (x : Nat) (s : State) : exec (.quantumEnd x) s = execQuantumEnd x s := rfl
@[simp] theorem exec_contextYield (x : Nat) (s : State) : exec (.contextYield x) s = execContextYield x s := rfl
@[simp] theorem exec_switchIn (x : Nat) (s : State) : exec (.switchIn x) s = execSwitchIn x s := rfl

/-! ## Queue fields -/

@[simp] theorem queueFields_idle (n : BitVec 6) (sat : Bool) (rnd : Rnd) (prof : BitVec 6) : queueFields (.idle n sat rnd prof) = [] := rfl
@[simp] theorem queueFields_brp (p : F3) (o : BitVec 22) : queueFields (.brp p o) = [] := rfl
@[simp] theorem queueFields_br (o : BitVec 22) : queueFields (.br o) = [] := rfl
@[simp] theorem queueFields_brpn (p : F3) (o : BitVec 22) : queueFields (.brpn p o) = [] := rfl
@[simp] theorem queueFields_call (d : RegF) (i : BitVec 20) : queueFields (.call d i) = [] := rfl
@[simp] theorem queueFields_jmp (a : RegF) (k : F3) : queueFields (.jmp a k) = [a] := rfl
@[simp] theorem queueFields_callr (d : RegF) (a : RegF) (k : F3) : queueFields (.callr d a k) = [a] := rfl
@[simp] theorem queueFields_ret (a : RegF) (k : F3) : queueFields (.ret a k) = [a] := rfl
@[simp] theorem queueFields_setf (d : BitVec 2) (a : RegF) (k : F3) : queueFields (.setf d a k) = [a] := rfl
@[simp] theorem queueFields_loop (d : RegF) (a : RegF) (i : BitVec 14) : queueFields (.loop d a i) = [a] := rfl
@[simp] theorem queueFields_loopi (d : RegF) (n : BitVec 6) (i : BitVec 14) : queueFields (.loopi d n i) = [] := rfl
@[simp] theorem queueFields_bswap (p : F3) (o : BitVec 22) : queueFields (.bswap p o) = [] := rfl
@[simp] theorem queueFields_waita (a : RegF) (b : RegF) (k : F3) (sc : Scope) (c : WCond) : queueFields (.waita a b k sc c) = [a, b] := rfl
@[simp] theorem queueFields_waito (a : RegF) (i : BitVec 14) : queueFields (.waito a i) = [a] := rfl
@[simp] theorem queueFields_tend : queueFields (.tend) = [] := rfl
@[simp] theorem queueFields_trap (code : BitVec 16) : queueFields (.trap code) = [] := rfl
@[simp] theorem queueFields_brk (code : BitVec 16) : queueFields (.brk code) = [] := rfl
@[simp] theorem queueFields_ifence (r : IRegion) : queueFields (.ifence r) = [] := rfl
@[simp] theorem queueFields_sysr (d : RegF) (n : BitVec 12) : queueFields (.sysr d n) = [] := rfl
@[simp] theorem queueFields_sysw (a : RegF) (n : BitVec 12) : queueFields (.sysw a n) = [a] := rfl
@[simp] theorem queueFields_add (d : RegF) (a : RegF) (b : RegF) (k : F3) : queueFields (.add d a b k) = [a, b] := rfl
@[simp] theorem queueFields_sub (d : RegF) (a : RegF) (b : RegF) (k : F3) : queueFields (.sub d a b k) = [a, b] := rfl
@[simp] theorem queueFields_mul (d : RegF) (a : RegF) (b : RegF) (k : F3) : queueFields (.mul d a b k) = [a, b] := rfl
@[simp] theorem queueFields_mulh (d : RegF) (a : RegF) (b : RegF) (k : F3) : queueFields (.mulh d a b k) = [a, b] := rfl
@[simp] theorem queueFields_mulhu (d : RegF) (a : RegF) (b : RegF) (k : F3) : queueFields (.mulhu d a b k) = [a, b] := rfl
@[simp] theorem queueFields_divs (d : RegF) (a : RegF) (b : RegF) (k : F3) : queueFields (.divs d a b k) = [a, b] := rfl
@[simp] theorem queueFields_divu (d : RegF) (a : RegF) (b : RegF) (k : F3) : queueFields (.divu d a b k) = [a, b] := rfl
@[simp] theorem queueFields_rems (d : RegF) (a : RegF) (b : RegF) (k : F3) : queueFields (.rems d a b k) = [a, b] := rfl
@[simp] theorem queueFields_remu (d : RegF) (a : RegF) (b : RegF) (k : F3) : queueFields (.remu d a b k) = [a, b] := rfl
@[simp] theorem queueFields_and (d : RegF) (a : RegF) (b : RegF) (k : F3) : queueFields (.and d a b k) = [a, b] := rfl
@[simp] theorem queueFields_or (d : RegF) (a : RegF) (b : RegF) (k : F3) : queueFields (.or d a b k) = [a, b] := rfl
@[simp] theorem queueFields_xor (d : RegF) (a : RegF) (b : RegF) (k : F3) : queueFields (.xor d a b k) = [a, b] := rfl
@[simp] theorem queueFields_andn (d : RegF) (a : RegF) (b : RegF) (k : F3) : queueFields (.andn d a b k) = [a, b] := rfl
@[simp] theorem queueFields_shl (d : RegF) (a : RegF) (b : RegF) (k : F3) : queueFields (.shl d a b k) = [a, b] := rfl
@[simp] theorem queueFields_shr (d : RegF) (a : RegF) (b : RegF) (k : F3) : queueFields (.shr d a b k) = [a, b] := rfl
@[simp] theorem queueFields_sar (d : RegF) (a : RegF) (b : RegF) (k : F3) : queueFields (.sar d a b k) = [a, b] := rfl
@[simp] theorem queueFields_min (d : RegF) (a : RegF) (b : RegF) (k : F3) : queueFields (.min d a b k) = [a, b] := rfl
@[simp] theorem queueFields_max (d : RegF) (a : RegF) (b : RegF) (k : F3) : queueFields (.max d a b k) = [a, b] := rfl
@[simp] theorem queueFields_minu (d : RegF) (a : RegF) (b : RegF) (k : F3) : queueFields (.minu d a b k) = [a, b] := rfl
@[simp] theorem queueFields_maxu (d : RegF) (a : RegF) (b : RegF) (k : F3) : queueFields (.maxu d a b k) = [a, b] := rfl
@[simp] theorem queueFields_clz (d : RegF) (a : RegF) (k : F3) : queueFields (.clz d a k) = [a] := rfl
@[simp] theorem queueFields_ctz (d : RegF) (a : RegF) (k : F3) : queueFields (.ctz d a k) = [a] := rfl
@[simp] theorem queueFields_popc (d : RegF) (a : RegF) (k : F3) : queueFields (.popc d a k) = [a] := rfl
@[simp] theorem queueFields_sel (d : RegF) (a : RegF) (b : RegF) (k : F3) : queueFields (.sel d a b k) = [a, b] := rfl
@[simp] theorem queueFields_addi (d : RegF) (a : RegF) (i : BitVec 14) : queueFields (.addi d a i) = [a] := rfl
@[simp] theorem queueFields_andi (d : RegF) (a : RegF) (i : BitVec 14) : queueFields (.andi d a i) = [a] := rfl
@[simp] theorem queueFields_ori (d : RegF) (a : RegF) (i : BitVec 14) : queueFields (.ori d a i) = [a] := rfl
@[simp] theorem queueFields_xori (d : RegF) (a : RegF) (i : BitVec 14) : queueFields (.xori d a i) = [a] := rfl
@[simp] theorem queueFields_shli (d : RegF) (a : RegF) (n : BitVec 6) : queueFields (.shli d a n) = [a] := rfl
@[simp] theorem queueFields_shri (d : RegF) (a : RegF) (n : BitVec 6) : queueFields (.shri d a n) = [a] := rfl
@[simp] theorem queueFields_sari (d : RegF) (a : RegF) (n : BitVec 6) : queueFields (.sari d a n) = [a] := rfl
@[simp] theorem queueFields_lui (d : RegF) (i : BitVec 20) : queueFields (.lui d i) = [] := rfl
@[simp] theorem queueFields_lhi (d : RegF) (i : BitVec 20) : queueFields (.lhi d i) = [] := rfl
@[simp] theorem queueFields_ltop (d : RegF) (i : BitVec 12) : queueFields (.ltop d i) = [] := rfl
@[simp] theorem queueFields_ext (d : RegF) (a : RegF) (w : BitVec 6) (p : BitVec 6) : queueFields (.ext d a w p) = [a] := rfl
@[simp] theorem queueFields_ins (d : RegF) (a : RegF) (w : BitVec 6) (p : BitVec 6) : queueFields (.ins d a w p) = [a] := rfl
@[simp] theorem queueFields_widx (d : RegF) (f : F3) : queueFields (.widx d f) = [] := rfl
@[simp] theorem queueFields_cmp (d : F3) (a : RegF) (b : RegF) (k : F3) (c : Cond) : queueFields (.cmp d a b k c) = [a, b] := rfl
@[simp] theorem queueFields_cmpi (d : F3) (a : RegF) (c : Cond) (i : BitVec 10) : queueFields (.cmpi d a c i) = [a] := rfl
@[simp] theorem queueFields_pand (d : F3) (a : F3) (b : F3) (k : F3) : queueFields (.pand d a b k) = [] := rfl
@[simp] theorem queueFields_por (d : F3) (a : F3) (b : F3) (k : F3) : queueFields (.por d a b k) = [] := rfl
@[simp] theorem queueFields_pxor (d : F3) (a : F3) (b : F3) (k : F3) : queueFields (.pxor d a b k) = [] := rfl
@[simp] theorem queueFields_pnot (d : F3) (a : F3) (k : F3) : queueFields (.pnot d a k) = [] := rfl
@[simp] theorem queueFields_ldB (d : RegF) (sc : RegF) (l : Bool) (o : BitVec 13) : queueFields (.ldB d sc l o) = [sc] := rfl
@[simp] theorem queueFields_ldH (d : RegF) (sc : RegF) (l : Bool) (o : BitVec 13) : queueFields (.ldH d sc l o) = [sc] := rfl
@[simp] theorem queueFields_ldW (d : RegF) (sc : RegF) (l : Bool) (o : BitVec 13) : queueFields (.ldW d sc l o) = [sc] := rfl
@[simp] theorem queueFields_ldD (d : RegF) (sc : RegF) (l : Bool) (o : BitVec 13) : queueFields (.ldD d sc l o) = [sc] := rfl
@[simp] theorem queueFields_lduB (d : RegF) (sc : RegF) (l : Bool) (o : BitVec 13) : queueFields (.lduB d sc l o) = [sc] := rfl
@[simp] theorem queueFields_lduH (d : RegF) (sc : RegF) (l : Bool) (o : BitVec 13) : queueFields (.lduH d sc l o) = [sc] := rfl
@[simp] theorem queueFields_lduW (d : RegF) (sc : RegF) (l : Bool) (o : BitVec 13) : queueFields (.lduW d sc l o) = [sc] := rfl
@[simp] theorem queueFields_stB (d : RegF) (sc : RegF) (l : Bool) (o : BitVec 13) : queueFields (.stB d sc l o) = [d, sc] := rfl
@[simp] theorem queueFields_stH (d : RegF) (sc : RegF) (l : Bool) (o : BitVec 13) : queueFields (.stH d sc l o) = [d, sc] := rfl
@[simp] theorem queueFields_stW (d : RegF) (sc : RegF) (l : Bool) (o : BitVec 13) : queueFields (.stW d sc l o) = [d, sc] := rfl
@[simp] theorem queueFields_stD (d : RegF) (sc : RegF) (l : Bool) (o : BitVec 13) : queueFields (.stD d sc l o) = [d, sc] := rfl
@[simp] theorem queueFields_vld (d : RegF) (sc : RegF) (l : Bool) (c : CSet) (o : BitVec 11) : queueFields (.vld d sc l c o) = [sc] := rfl
@[simp] theorem queueFields_vldb (d : RegF) (sc : RegF) (l : Bool) (c : CSet) (o : BitVec 11) : queueFields (.vldb d sc l c o) = [sc] := rfl
@[simp] theorem queueFields_vldt (d : RegF) (sc : RegF) (l : Bool) (c : CSet) (o : BitVec 11) : queueFields (.vldt d sc l c o) = [sc] := rfl
@[simp] theorem queueFields_vst (d : RegF) (sc : RegF) (l : Bool) (c : CSet) (o : BitVec 11) : queueFields (.vst d sc l c o) = [d, sc] := rfl
@[simp] theorem queueFields_vstt (d : RegF) (sc : RegF) (l : Bool) (c : CSet) (o : BitVec 11) : queueFields (.vstt d sc l c o) = [d, sc] := rfl
@[simp] theorem queueFields_vlds (d : RegF) (a : RegF) (b : RegF) (k : F3) (c : CSet) (l : Bool) : queueFields (.vlds d a b k c l) = [a, b] := rfl
@[simp] theorem queueFields_vsts (d : RegF) (a : RegF) (b : RegF) (k : F3) (c : CSet) (l : Bool) : queueFields (.vsts d a b k c l) = [d, a, b] := rfl
@[simp] theorem queueFields_amoAdd (d : RegF) (a : RegF) (b : RegF) (k : F3) (l : Bool) : queueFields (.amoAdd d a b k l) = [a, b] := rfl
@[simp] theorem queueFields_amoMax (d : RegF) (a : RegF) (b : RegF) (k : F3) (l : Bool) : queueFields (.amoMax d a b k l) = [a, b] := rfl
@[simp] theorem queueFields_amoMin (d : RegF) (a : RegF) (b : RegF) (k : F3) (l : Bool) : queueFields (.amoMin d a b k l) = [a, b] := rfl
@[simp] theorem queueFields_amoSwap (d : RegF) (a : RegF) (b : RegF) (k : F3) (l : Bool) : queueFields (.amoSwap d a b k l) = [a, b] := rfl
@[simp] theorem queueFields_amoCas (d : RegF) (a : RegF) (b : RegF) (k : F3) (l : Bool) : queueFields (.amoCas d a b k l) = [a, b] := rfl
@[simp] theorem queueFields_qpush (d : BitVec 2) (a : RegF) (k : F3) : queueFields (.qpush d a k) = [a] := rfl
@[simp] theorem queueFields_qdrop (d : BitVec 2) (k : F3) : queueFields (.qdrop d k) = [] := rfl
@[simp] theorem queueFields_vldkKbf7 (d : RegF) (a : RegF) (b : RegF) (c : CSet) (l : Bool) : queueFields (.vldkKbf7 d a b c l) = [a, b] := rfl
@[simp] theorem queueFields_vldkKbf4 (d : RegF) (a : RegF) (b : RegF) (c : CSet) (l : Bool) : queueFields (.vldkKbf4 d a b c l) = [a, b] := rfl
@[simp] theorem queueFields_vldkKbf2 (d : RegF) (a : RegF) (b : RegF) (c : CSet) (l : Bool) : queueFields (.vldkKbf2 d a b c l) = [a, b] := rfl
@[simp] theorem queueFields_vstkKbf7 (d : RegF) (a : RegF) (b : RegF) (c : CSet) (l : Bool) : queueFields (.vstkKbf7 d a b c l) = [d, a, b] := rfl
@[simp] theorem queueFields_vstkKbf4 (d : RegF) (a : RegF) (b : RegF) (c : CSet) (l : Bool) : queueFields (.vstkKbf4 d a b c l) = [d, a, b] := rfl
@[simp] theorem queueFields_vstkKbf2 (d : RegF) (a : RegF) (b : RegF) (c : CSet) (l : Bool) : queueFields (.vstkKbf2 d a b c l) = [d, a, b] := rfl
@[simp] theorem queueFields_vaddI32 (d : RegF) (a : RegF) (b : RegF) (k : F3) (c : CSet) : queueFields (.vaddI32 d a b k c) = [a, b] := rfl
@[simp] theorem queueFields_vsubI32 (d : RegF) (a : RegF) (b : RegF) (k : F3) (c : CSet) : queueFields (.vsubI32 d a b k c) = [a, b] := rfl
@[simp] theorem queueFields_vmulI32 (d : RegF) (a : RegF) (b : RegF) (k : F3) (c : CSet) : queueFields (.vmulI32 d a b k c) = [a, b] := rfl
@[simp] theorem queueFields_vmulh (d : RegF) (a : RegF) (b : RegF) (k : F3) (c : CSet) : queueFields (.vmulh d a b k c) = [a, b] := rfl
@[simp] theorem queueFields_vand (d : RegF) (a : RegF) (b : RegF) (k : F3) (c : CSet) : queueFields (.vand d a b k c) = [a, b] := rfl
@[simp] theorem queueFields_vor (d : RegF) (a : RegF) (b : RegF) (k : F3) (c : CSet) : queueFields (.vor d a b k c) = [a, b] := rfl
@[simp] theorem queueFields_vxor (d : RegF) (a : RegF) (b : RegF) (k : F3) (c : CSet) : queueFields (.vxor d a b k c) = [a, b] := rfl
@[simp] theorem queueFields_vabsI32 (d : RegF) (a : RegF) (k : F3) (c : CSet) : queueFields (.vabsI32 d a k c) = [a] := rfl
@[simp] theorem queueFields_vshl (d : RegF) (a : RegF) (b : RegF) (k : F3) (c : CSet) : queueFields (.vshl d a b k c) = [a, b] := rfl
@[simp] theorem queueFields_vshr (d : RegF) (a : RegF) (b : RegF) (k : F3) (c : CSet) : queueFields (.vshr d a b k c) = [a, b] := rfl
@[simp] theorem queueFields_vsar (d : RegF) (a : RegF) (b : RegF) (k : F3) (c : CSet) : queueFields (.vsar d a b k c) = [a, b] := rfl
@[simp] theorem queueFields_vminI32 (d : RegF) (a : RegF) (b : RegF) (k : F3) (c : CSet) : queueFields (.vminI32 d a b k c) = [a, b] := rfl
@[simp] theorem queueFields_vmaxI32 (d : RegF) (a : RegF) (b : RegF) (k : F3) (c : CSet) : queueFields (.vmaxI32 d a b k c) = [a, b] := rfl
@[simp] theorem queueFields_vminU32 (d : RegF) (a : RegF) (b : RegF) (k : F3) (c : CSet) : queueFields (.vminU32 d a b k c) = [a, b] := rfl
@[simp] theorem queueFields_vmaxU32 (d : RegF) (a : RegF) (b : RegF) (k : F3) (c : CSet) : queueFields (.vmaxU32 d a b k c) = [a, b] := rfl
@[simp] theorem queueFields_vaddF32 (d : RegF) (a : RegF) (b : RegF) (k : F3) (c : CSet) : queueFields (.vaddF32 d a b k c) = [a, b] := rfl
@[simp] theorem queueFields_vsubF32 (d : RegF) (a : RegF) (b : RegF) (k : F3) (c : CSet) : queueFields (.vsubF32 d a b k c) = [a, b] := rfl
@[simp] theorem queueFields_vmulF32 (d : RegF) (a : RegF) (b : RegF) (k : F3) (c : CSet) : queueFields (.vmulF32 d a b k c) = [a, b] := rfl
@[simp] theorem queueFields_vfmaF32 (d : RegF) (a : RegF) (b : RegF) (k : F3) (c : CSet) : queueFields (.vfmaF32 d a b k c) = [a, b] := rfl
@[simp] theorem queueFields_vminF32 (d : RegF) (a : RegF) (b : RegF) (k : F3) (c : CSet) : queueFields (.vminF32 d a b k c) = [a, b] := rfl
@[simp] theorem queueFields_vmaxF32 (d : RegF) (a : RegF) (b : RegF) (k : F3) (c : CSet) : queueFields (.vmaxF32 d a b k c) = [a, b] := rfl
@[simp] theorem queueFields_vdot2Bf16 (d : RegF) (a : RegF) (b : RegF) (k : F3) (c : CSet) : queueFields (.vdot2Bf16 d a b k c) = [a, b] := rfl
@[simp] theorem queueFields_vabsF32 (d : RegF) (a : RegF) (k : F3) (c : CSet) : queueFields (.vabsF32 d a k c) = [a] := rfl
@[simp] theorem queueFields_vnegF32 (d : RegF) (a : RegF) (k : F3) (c : CSet) : queueFields (.vnegF32 d a k c) = [a] := rfl
@[simp] theorem queueFields_vcpysF32 (d : RegF) (a : RegF) (b : RegF) (k : F3) (c : CSet) : queueFields (.vcpysF32 d a b k c) = [a, b] := rfl
@[simp] theorem queueFields_vaccrd (d : RegF) (a : RegF) (k : F3) (c : CSet) : queueFields (.vaccrd d a k c) = [a] := rfl
@[simp] theorem queueFields_vcmpF32 (d : F3) (a : RegF) (b : RegF) (k : F3) (c : CSet) (f : FCond) : queueFields (.vcmpF32 d a b k c f) = [a, b] := rfl
@[simp] theorem queueFields_vcmpI32 (d : F3) (a : RegF) (b : RegF) (k : F3) (c : CSet) (f : ICond) : queueFields (.vcmpI32 d a b k c f) = [a, b] := rfl
@[simp] theorem queueFields_vmov (d : RegF) (a : RegF) (k : F3) (c : CSet) : queueFields (.vmov d a k c) = [a] := rfl
@[simp] theorem queueFields_vsel (d : RegF) (a : RegF) (b : RegF) (k : F3) (c : CSet) : queueFields (.vsel d a b k c) = [a, b] := rfl
@[simp] theorem queueFields_vbcast (d : RegF) (a : RegF) (k : F3) (c : CSet) : queueFields (.vbcast d a k c) = [a] := rfl
@[simp] theorem queueFields_vextr (d : RegF) (a : RegF) (b : RegF) (k : F3) (c : CSet) : queueFields (.vextr d a b k c) = [a, b] := rfl
@[simp] theorem queueFields_vins (d : RegF) (a : RegF) (b : RegF) (k : F3) (c : CSet) : queueFields (.vins d a b k c) = [a, b] := rfl
@[simp] theorem queueFields_vperm (d : RegF) (a : RegF) (b : RegF) (k : F3) (c : CSet) : queueFields (.vperm d a b k c) = [a, b] := rfl
@[simp] theorem queueFields_vxcl (d : RegF) (a : RegF) (r : F3) (k : F3) (c : CSet) : queueFields (.vxcl d a r k c) = [a] := rfl
@[simp] theorem queueFields_viota (d : RegF) (k : F3) (c : CSet) : queueFields (.viota d k c) = [] := rfl
@[simp] theorem queueFields_vredaddF32 (d : RegF) (a : RegF) (k : F3) (c : CSet) : queueFields (.vredaddF32 d a k c) = [a] := rfl
@[simp] theorem queueFields_vredaddI32 (d : RegF) (a : RegF) (k : F3) (c : CSet) : queueFields (.vredaddI32 d a k c) = [a] := rfl
@[simp] theorem queueFields_vredmaxF32 (d : RegF) (a : RegF) (k : F3) (c : CSet) : queueFields (.vredmaxF32 d a k c) = [a] := rfl
@[simp] theorem queueFields_vredmaxI32 (d : RegF) (a : RegF) (k : F3) (c : CSet) : queueFields (.vredmaxI32 d a k c) = [a] := rfl
@[simp] theorem queueFields_vredminF32 (d : RegF) (a : RegF) (k : F3) (c : CSet) : queueFields (.vredminF32 d a k c) = [a] := rfl
@[simp] theorem queueFields_vredminI32 (d : RegF) (a : RegF) (k : F3) (c : CSet) : queueFields (.vredminI32 d a k c) = [a] := rfl
@[simp] theorem queueFields_vcvt (d : RegF) (a : RegF) (sc : VFmt) (t : VFmt) (k : F3) (c : CSet) : queueFields (.vcvt d a sc t k c) = [a] := rfl
@[simp] theorem queueFields_vcvtF32Fx128Lo (d : RegF) (a : RegF) (p : BitVec 6) (k : F3) (c : CSet) : queueFields (.vcvtF32Fx128Lo d a p k c) = [a] := rfl
@[simp] theorem queueFields_vcvtF32Fx128Hi (d : RegF) (a : RegF) (p : BitVec 6) (k : F3) (c : CSet) : queueFields (.vcvtF32Fx128Hi d a p k c) = [a] := rfl
@[simp] theorem queueFields_vrcp (d : RegF) (a : RegF) (k : F3) (c : CSet) : queueFields (.vrcp d a k c) = [a] := rfl
@[simp] theorem queueFields_vrcpr (d : RegF) (a : RegF) (b : RegF) (k : F3) (c : CSet) : queueFields (.vrcpr d a b k c) = [a, b] := rfl
@[simp] theorem queueFields_vrsq (d : RegF) (a : RegF) (k : F3) (c : CSet) : queueFields (.vrsq d a k c) = [a] := rfl
@[simp] theorem queueFields_vrsqr (d : RegF) (a : RegF) (b : RegF) (k : F3) (c : CSet) : queueFields (.vrsqr d a b k c) = [a, b] := rfl
@[simp] theorem queueFields_vsqrt (d : RegF) (a : RegF) (k : F3) (c : CSet) : queueFields (.vsqrt d a k c) = [a] := rfl
@[simp] theorem queueFields_vexp2 (d : RegF) (a : RegF) (k : F3) (c : CSet) : queueFields (.vexp2 d a k c) = [a] := rfl
@[simp] theorem queueFields_vlog2 (d : RegF) (a : RegF) (k : F3) (c : CSet) : queueFields (.vlog2 d a k c) = [a] := rfl
@[simp] theorem queueFields_vsin (d : RegF) (a : RegF) (k : F3) (c : CSet) : queueFields (.vsin d a k c) = [a] := rfl
@[simp] theorem queueFields_vcos (d : RegF) (a : RegF) (k : F3) (c : CSet) : queueFields (.vcos d a k c) = [a] := rfl
@[simp] theorem queueFields_vrand (d : RegF) (k : F3) (c : CSet) : queueFields (.vrand d k c) = [] := rfl
@[simp] theorem queueFields_vrandf (d : RegF) (k : F3) (c : CSet) : queueFields (.vrandf d k c) = [] := rfl
@[simp] theorem queueFields_vdrop (d : RegF) (a : RegF) (b : RegF) (k : F3) (c : CSet) : queueFields (.vdrop d a b k c) = [a, b] := rfl
@[simp] theorem queueFields_vtopk (d : RegF) (a : RegF) (b : RegF) (k : F3) (c : CSet) : queueFields (.vtopk d a b k c) = [a, b] := rfl
@[simp] theorem queueFields_vmergek (d : RegF) (a : RegF) (b : RegF) (k : F3) (c : CSet) : queueFields (.vmergek d a b k c) = [a, b] := rfl
@[simp] theorem queueFields_mpset (a : RegF) (n : F3) : queueFields (.mpset a n) = [a] := rfl
@[simp] theorem queueFields_mcall (e : BitVec 12) : queueFields (.mcall e) = [] := rfl
@[simp] theorem queueFields_cpy (a : RegF) (b : RegF) (g : BitVec 4) : queueFields (.cpy a b g) = [a, b] := rfl
@[simp] theorem queueFields_cpyc (a : RegF) (b : RegF) (g : BitVec 4) : queueFields (.cpyc a b g) = [a, b] := rfl
@[simp] theorem queueFields_gset (a : RegF) (g : BitVec 4) : queueFields (.gset a g) = [a] := rfl
@[simp] theorem queueFields_gstart (a : RegF) (b : RegF) (q : BitVec 2) : queueFields (.gstart a b q) = [a, b] := rfl
@[simp] theorem queueFields_tarm (a : RegF) (b : RegF) (g : BitVec 4) : queueFields (.tarm a b g) = [a, b] := rfl
@[simp] theorem queueFields_fsend (a : RegF) (b : RegF) (g : BitVec 4) : queueFields (.fsend a b g) = [a, b] := rfl
@[simp] theorem queueFields_fmcast (a : RegF) (b : RegF) (g : BitVec 4) : queueFields (.fmcast a b g) = [a, b] := rfl
@[simp] theorem queueFields_fred (a : RegF) (b : RegF) (op : AOp) (f : AFmt) (g : BitVec 4) : queueFields (.fred a b op f g) = [a, b] := rfl
@[simp] theorem queueFields_ratom (a : RegF) (b : RegF) (op : AOp) (f : AFmt) (g : BitVec 4) : queueFields (.ratom a b op f g) = [a, b] := rfl
@[simp] theorem queueFields_csend (a : RegF) (b : RegF) (ch : BitVec 12) : queueFields (.csend a b ch) = [a, b] := rfl
@[simp] theorem queueFields_crecv (a : RegF) (b : RegF) (ch : BitVec 12) : queueFields (.crecv a b ch) = [a, b] := rfl
@[simp] theorem queueFields_chw (a : RegF) (ch : BitVec 12) : queueFields (.chw a ch) = [a] := rfl
@[simp] theorem queueFields_ccollAllred (a : RegF) (b : RegF) (r : BitVec 10) : queueFields (.ccollAllred a b r) = [a, b] := rfl
@[simp] theorem queueFields_ccollRedscat (a : RegF) (b : RegF) (r : BitVec 10) : queueFields (.ccollRedscat a b r) = [a, b] := rfl
@[simp] theorem queueFields_ccollAllgath (a : RegF) (b : RegF) (r : BitVec 10) : queueFields (.ccollAllgath a b r) = [a, b] := rfl
@[simp] theorem queueFields_ccollBcast (a : RegF) (b : RegF) (r : BitVec 10) : queueFields (.ccollBcast a b r) = [a, b] := rfl
@[simp] theorem queueFields_ccollReduce (a : RegF) (b : RegF) (r : BitVec 10) : queueFields (.ccollReduce a b r) = [a, b] := rfl
@[simp] theorem queueFields_ccollPxch (a : RegF) (b : RegF) (r : BitVec 10) : queueFields (.ccollPxch a b r) = [a, b] := rfl
@[simp] theorem queueFields_spawn (a : RegF) : queueFields (.spawn a) = [a] := rfl
@[simp] theorem queueFields_kilnw (a : RegF) : queueFields (.kilnw a) = [a] := rfl
@[simp] theorem queueFields_kilnr (a : RegF) : queueFields (.kilnr a) = [a] := rfl
@[simp] theorem queueFields_digest (a : RegF) (b : RegF) (g : BitVec 4) : queueFields (.digest a b g) = [a, b] := rfl
@[simp] theorem queueFields_efence (g : BitVec 4) (sc : Scope) : queueFields (.efence g sc) = [] := rfl

/-! ## Guards -/

@[simp] theorem guardOf_idle (n : BitVec 6) (sat : Bool) (rnd : Rnd) (prof : BitVec 6) : guardOf (.idle n sat rnd prof) = none := rfl
@[simp] theorem guardOf_brp (p : F3) (o : BitVec 22) : guardOf (.brp p o) = none := rfl
@[simp] theorem guardOf_br (o : BitVec 22) : guardOf (.br o) = none := rfl
@[simp] theorem guardOf_brpn (p : F3) (o : BitVec 22) : guardOf (.brpn p o) = none := rfl
@[simp] theorem guardOf_call (d : RegF) (i : BitVec 20) : guardOf (.call d i) = none := rfl
@[simp] theorem guardOf_jmp (a : RegF) (k : F3) : guardOf (.jmp a k) = some k := rfl
@[simp] theorem guardOf_callr (d : RegF) (a : RegF) (k : F3) : guardOf (.callr d a k) = some k := rfl
@[simp] theorem guardOf_ret (a : RegF) (k : F3) : guardOf (.ret a k) = some k := rfl
@[simp] theorem guardOf_setf (d : BitVec 2) (a : RegF) (k : F3) : guardOf (.setf d a k) = some k := rfl
@[simp] theorem guardOf_loop (d : RegF) (a : RegF) (i : BitVec 14) : guardOf (.loop d a i) = none := rfl
@[simp] theorem guardOf_loopi (d : RegF) (n : BitVec 6) (i : BitVec 14) : guardOf (.loopi d n i) = none := rfl
@[simp] theorem guardOf_bswap (p : F3) (o : BitVec 22) : guardOf (.bswap p o) = none := rfl
@[simp] theorem guardOf_waita (a : RegF) (b : RegF) (k : F3) (sc : Scope) (c : WCond) : guardOf (.waita a b k sc c) = some k := rfl
@[simp] theorem guardOf_waito (a : RegF) (i : BitVec 14) : guardOf (.waito a i) = none := rfl
@[simp] theorem guardOf_tend : guardOf (.tend) = none := rfl
@[simp] theorem guardOf_trap (code : BitVec 16) : guardOf (.trap code) = none := rfl
@[simp] theorem guardOf_brk (code : BitVec 16) : guardOf (.brk code) = none := rfl
@[simp] theorem guardOf_ifence (r : IRegion) : guardOf (.ifence r) = none := rfl
@[simp] theorem guardOf_sysr (d : RegF) (n : BitVec 12) : guardOf (.sysr d n) = none := rfl
@[simp] theorem guardOf_sysw (a : RegF) (n : BitVec 12) : guardOf (.sysw a n) = none := rfl
@[simp] theorem guardOf_add (d : RegF) (a : RegF) (b : RegF) (k : F3) : guardOf (.add d a b k) = some k := rfl
@[simp] theorem guardOf_sub (d : RegF) (a : RegF) (b : RegF) (k : F3) : guardOf (.sub d a b k) = some k := rfl
@[simp] theorem guardOf_mul (d : RegF) (a : RegF) (b : RegF) (k : F3) : guardOf (.mul d a b k) = some k := rfl
@[simp] theorem guardOf_mulh (d : RegF) (a : RegF) (b : RegF) (k : F3) : guardOf (.mulh d a b k) = some k := rfl
@[simp] theorem guardOf_mulhu (d : RegF) (a : RegF) (b : RegF) (k : F3) : guardOf (.mulhu d a b k) = some k := rfl
@[simp] theorem guardOf_divs (d : RegF) (a : RegF) (b : RegF) (k : F3) : guardOf (.divs d a b k) = some k := rfl
@[simp] theorem guardOf_divu (d : RegF) (a : RegF) (b : RegF) (k : F3) : guardOf (.divu d a b k) = some k := rfl
@[simp] theorem guardOf_rems (d : RegF) (a : RegF) (b : RegF) (k : F3) : guardOf (.rems d a b k) = some k := rfl
@[simp] theorem guardOf_remu (d : RegF) (a : RegF) (b : RegF) (k : F3) : guardOf (.remu d a b k) = some k := rfl
@[simp] theorem guardOf_and (d : RegF) (a : RegF) (b : RegF) (k : F3) : guardOf (.and d a b k) = some k := rfl
@[simp] theorem guardOf_or (d : RegF) (a : RegF) (b : RegF) (k : F3) : guardOf (.or d a b k) = some k := rfl
@[simp] theorem guardOf_xor (d : RegF) (a : RegF) (b : RegF) (k : F3) : guardOf (.xor d a b k) = some k := rfl
@[simp] theorem guardOf_andn (d : RegF) (a : RegF) (b : RegF) (k : F3) : guardOf (.andn d a b k) = some k := rfl
@[simp] theorem guardOf_shl (d : RegF) (a : RegF) (b : RegF) (k : F3) : guardOf (.shl d a b k) = some k := rfl
@[simp] theorem guardOf_shr (d : RegF) (a : RegF) (b : RegF) (k : F3) : guardOf (.shr d a b k) = some k := rfl
@[simp] theorem guardOf_sar (d : RegF) (a : RegF) (b : RegF) (k : F3) : guardOf (.sar d a b k) = some k := rfl
@[simp] theorem guardOf_min (d : RegF) (a : RegF) (b : RegF) (k : F3) : guardOf (.min d a b k) = some k := rfl
@[simp] theorem guardOf_max (d : RegF) (a : RegF) (b : RegF) (k : F3) : guardOf (.max d a b k) = some k := rfl
@[simp] theorem guardOf_minu (d : RegF) (a : RegF) (b : RegF) (k : F3) : guardOf (.minu d a b k) = some k := rfl
@[simp] theorem guardOf_maxu (d : RegF) (a : RegF) (b : RegF) (k : F3) : guardOf (.maxu d a b k) = some k := rfl
@[simp] theorem guardOf_clz (d : RegF) (a : RegF) (k : F3) : guardOf (.clz d a k) = some k := rfl
@[simp] theorem guardOf_ctz (d : RegF) (a : RegF) (k : F3) : guardOf (.ctz d a k) = some k := rfl
@[simp] theorem guardOf_popc (d : RegF) (a : RegF) (k : F3) : guardOf (.popc d a k) = some k := rfl
@[simp] theorem guardOf_sel (d : RegF) (a : RegF) (b : RegF) (k : F3) : guardOf (.sel d a b k) = none := rfl
@[simp] theorem guardOf_addi (d : RegF) (a : RegF) (i : BitVec 14) : guardOf (.addi d a i) = none := rfl
@[simp] theorem guardOf_andi (d : RegF) (a : RegF) (i : BitVec 14) : guardOf (.andi d a i) = none := rfl
@[simp] theorem guardOf_ori (d : RegF) (a : RegF) (i : BitVec 14) : guardOf (.ori d a i) = none := rfl
@[simp] theorem guardOf_xori (d : RegF) (a : RegF) (i : BitVec 14) : guardOf (.xori d a i) = none := rfl
@[simp] theorem guardOf_shli (d : RegF) (a : RegF) (n : BitVec 6) : guardOf (.shli d a n) = none := rfl
@[simp] theorem guardOf_shri (d : RegF) (a : RegF) (n : BitVec 6) : guardOf (.shri d a n) = none := rfl
@[simp] theorem guardOf_sari (d : RegF) (a : RegF) (n : BitVec 6) : guardOf (.sari d a n) = none := rfl
@[simp] theorem guardOf_lui (d : RegF) (i : BitVec 20) : guardOf (.lui d i) = none := rfl
@[simp] theorem guardOf_lhi (d : RegF) (i : BitVec 20) : guardOf (.lhi d i) = none := rfl
@[simp] theorem guardOf_ltop (d : RegF) (i : BitVec 12) : guardOf (.ltop d i) = none := rfl
@[simp] theorem guardOf_ext (d : RegF) (a : RegF) (w : BitVec 6) (p : BitVec 6) : guardOf (.ext d a w p) = none := rfl
@[simp] theorem guardOf_ins (d : RegF) (a : RegF) (w : BitVec 6) (p : BitVec 6) : guardOf (.ins d a w p) = none := rfl
@[simp] theorem guardOf_widx (d : RegF) (f : F3) : guardOf (.widx d f) = none := rfl
@[simp] theorem guardOf_cmp (d : F3) (a : RegF) (b : RegF) (k : F3) (c : Cond) : guardOf (.cmp d a b k c) = some k := rfl
@[simp] theorem guardOf_cmpi (d : F3) (a : RegF) (c : Cond) (i : BitVec 10) : guardOf (.cmpi d a c i) = none := rfl
@[simp] theorem guardOf_pand (d : F3) (a : F3) (b : F3) (k : F3) : guardOf (.pand d a b k) = some k := rfl
@[simp] theorem guardOf_por (d : F3) (a : F3) (b : F3) (k : F3) : guardOf (.por d a b k) = some k := rfl
@[simp] theorem guardOf_pxor (d : F3) (a : F3) (b : F3) (k : F3) : guardOf (.pxor d a b k) = some k := rfl
@[simp] theorem guardOf_pnot (d : F3) (a : F3) (k : F3) : guardOf (.pnot d a k) = some k := rfl
@[simp] theorem guardOf_ldB (d : RegF) (sc : RegF) (l : Bool) (o : BitVec 13) : guardOf (.ldB d sc l o) = none := rfl
@[simp] theorem guardOf_ldH (d : RegF) (sc : RegF) (l : Bool) (o : BitVec 13) : guardOf (.ldH d sc l o) = none := rfl
@[simp] theorem guardOf_ldW (d : RegF) (sc : RegF) (l : Bool) (o : BitVec 13) : guardOf (.ldW d sc l o) = none := rfl
@[simp] theorem guardOf_ldD (d : RegF) (sc : RegF) (l : Bool) (o : BitVec 13) : guardOf (.ldD d sc l o) = none := rfl
@[simp] theorem guardOf_lduB (d : RegF) (sc : RegF) (l : Bool) (o : BitVec 13) : guardOf (.lduB d sc l o) = none := rfl
@[simp] theorem guardOf_lduH (d : RegF) (sc : RegF) (l : Bool) (o : BitVec 13) : guardOf (.lduH d sc l o) = none := rfl
@[simp] theorem guardOf_lduW (d : RegF) (sc : RegF) (l : Bool) (o : BitVec 13) : guardOf (.lduW d sc l o) = none := rfl
@[simp] theorem guardOf_stB (d : RegF) (sc : RegF) (l : Bool) (o : BitVec 13) : guardOf (.stB d sc l o) = none := rfl
@[simp] theorem guardOf_stH (d : RegF) (sc : RegF) (l : Bool) (o : BitVec 13) : guardOf (.stH d sc l o) = none := rfl
@[simp] theorem guardOf_stW (d : RegF) (sc : RegF) (l : Bool) (o : BitVec 13) : guardOf (.stW d sc l o) = none := rfl
@[simp] theorem guardOf_stD (d : RegF) (sc : RegF) (l : Bool) (o : BitVec 13) : guardOf (.stD d sc l o) = none := rfl
@[simp] theorem guardOf_vld (d : RegF) (sc : RegF) (l : Bool) (c : CSet) (o : BitVec 11) : guardOf (.vld d sc l c o) = none := rfl
@[simp] theorem guardOf_vldb (d : RegF) (sc : RegF) (l : Bool) (c : CSet) (o : BitVec 11) : guardOf (.vldb d sc l c o) = none := rfl
@[simp] theorem guardOf_vldt (d : RegF) (sc : RegF) (l : Bool) (c : CSet) (o : BitVec 11) : guardOf (.vldt d sc l c o) = none := rfl
@[simp] theorem guardOf_vst (d : RegF) (sc : RegF) (l : Bool) (c : CSet) (o : BitVec 11) : guardOf (.vst d sc l c o) = none := rfl
@[simp] theorem guardOf_vstt (d : RegF) (sc : RegF) (l : Bool) (c : CSet) (o : BitVec 11) : guardOf (.vstt d sc l c o) = none := rfl
@[simp] theorem guardOf_vlds (d : RegF) (a : RegF) (b : RegF) (k : F3) (c : CSet) (l : Bool) : guardOf (.vlds d a b k c l) = none := rfl
@[simp] theorem guardOf_vsts (d : RegF) (a : RegF) (b : RegF) (k : F3) (c : CSet) (l : Bool) : guardOf (.vsts d a b k c l) = none := rfl
@[simp] theorem guardOf_amoAdd (d : RegF) (a : RegF) (b : RegF) (k : F3) (l : Bool) : guardOf (.amoAdd d a b k l) = some k := rfl
@[simp] theorem guardOf_amoMax (d : RegF) (a : RegF) (b : RegF) (k : F3) (l : Bool) : guardOf (.amoMax d a b k l) = some k := rfl
@[simp] theorem guardOf_amoMin (d : RegF) (a : RegF) (b : RegF) (k : F3) (l : Bool) : guardOf (.amoMin d a b k l) = some k := rfl
@[simp] theorem guardOf_amoSwap (d : RegF) (a : RegF) (b : RegF) (k : F3) (l : Bool) : guardOf (.amoSwap d a b k l) = some k := rfl
@[simp] theorem guardOf_amoCas (d : RegF) (a : RegF) (b : RegF) (k : F3) (l : Bool) : guardOf (.amoCas d a b k l) = some k := rfl
@[simp] theorem guardOf_qpush (d : BitVec 2) (a : RegF) (k : F3) : guardOf (.qpush d a k) = some k := rfl
@[simp] theorem guardOf_qdrop (d : BitVec 2) (k : F3) : guardOf (.qdrop d k) = some k := rfl
@[simp] theorem guardOf_vldkKbf7 (d : RegF) (a : RegF) (b : RegF) (c : CSet) (l : Bool) : guardOf (.vldkKbf7 d a b c l) = none := rfl
@[simp] theorem guardOf_vldkKbf4 (d : RegF) (a : RegF) (b : RegF) (c : CSet) (l : Bool) : guardOf (.vldkKbf4 d a b c l) = none := rfl
@[simp] theorem guardOf_vldkKbf2 (d : RegF) (a : RegF) (b : RegF) (c : CSet) (l : Bool) : guardOf (.vldkKbf2 d a b c l) = none := rfl
@[simp] theorem guardOf_vstkKbf7 (d : RegF) (a : RegF) (b : RegF) (c : CSet) (l : Bool) : guardOf (.vstkKbf7 d a b c l) = none := rfl
@[simp] theorem guardOf_vstkKbf4 (d : RegF) (a : RegF) (b : RegF) (c : CSet) (l : Bool) : guardOf (.vstkKbf4 d a b c l) = none := rfl
@[simp] theorem guardOf_vstkKbf2 (d : RegF) (a : RegF) (b : RegF) (c : CSet) (l : Bool) : guardOf (.vstkKbf2 d a b c l) = none := rfl
@[simp] theorem guardOf_vaddI32 (d : RegF) (a : RegF) (b : RegF) (k : F3) (c : CSet) : guardOf (.vaddI32 d a b k c) = none := rfl
@[simp] theorem guardOf_vsubI32 (d : RegF) (a : RegF) (b : RegF) (k : F3) (c : CSet) : guardOf (.vsubI32 d a b k c) = none := rfl
@[simp] theorem guardOf_vmulI32 (d : RegF) (a : RegF) (b : RegF) (k : F3) (c : CSet) : guardOf (.vmulI32 d a b k c) = none := rfl
@[simp] theorem guardOf_vmulh (d : RegF) (a : RegF) (b : RegF) (k : F3) (c : CSet) : guardOf (.vmulh d a b k c) = none := rfl
@[simp] theorem guardOf_vand (d : RegF) (a : RegF) (b : RegF) (k : F3) (c : CSet) : guardOf (.vand d a b k c) = none := rfl
@[simp] theorem guardOf_vor (d : RegF) (a : RegF) (b : RegF) (k : F3) (c : CSet) : guardOf (.vor d a b k c) = none := rfl
@[simp] theorem guardOf_vxor (d : RegF) (a : RegF) (b : RegF) (k : F3) (c : CSet) : guardOf (.vxor d a b k c) = none := rfl
@[simp] theorem guardOf_vabsI32 (d : RegF) (a : RegF) (k : F3) (c : CSet) : guardOf (.vabsI32 d a k c) = none := rfl
@[simp] theorem guardOf_vshl (d : RegF) (a : RegF) (b : RegF) (k : F3) (c : CSet) : guardOf (.vshl d a b k c) = none := rfl
@[simp] theorem guardOf_vshr (d : RegF) (a : RegF) (b : RegF) (k : F3) (c : CSet) : guardOf (.vshr d a b k c) = none := rfl
@[simp] theorem guardOf_vsar (d : RegF) (a : RegF) (b : RegF) (k : F3) (c : CSet) : guardOf (.vsar d a b k c) = none := rfl
@[simp] theorem guardOf_vminI32 (d : RegF) (a : RegF) (b : RegF) (k : F3) (c : CSet) : guardOf (.vminI32 d a b k c) = none := rfl
@[simp] theorem guardOf_vmaxI32 (d : RegF) (a : RegF) (b : RegF) (k : F3) (c : CSet) : guardOf (.vmaxI32 d a b k c) = none := rfl
@[simp] theorem guardOf_vminU32 (d : RegF) (a : RegF) (b : RegF) (k : F3) (c : CSet) : guardOf (.vminU32 d a b k c) = none := rfl
@[simp] theorem guardOf_vmaxU32 (d : RegF) (a : RegF) (b : RegF) (k : F3) (c : CSet) : guardOf (.vmaxU32 d a b k c) = none := rfl
@[simp] theorem guardOf_vaddF32 (d : RegF) (a : RegF) (b : RegF) (k : F3) (c : CSet) : guardOf (.vaddF32 d a b k c) = none := rfl
@[simp] theorem guardOf_vsubF32 (d : RegF) (a : RegF) (b : RegF) (k : F3) (c : CSet) : guardOf (.vsubF32 d a b k c) = none := rfl
@[simp] theorem guardOf_vmulF32 (d : RegF) (a : RegF) (b : RegF) (k : F3) (c : CSet) : guardOf (.vmulF32 d a b k c) = none := rfl
@[simp] theorem guardOf_vfmaF32 (d : RegF) (a : RegF) (b : RegF) (k : F3) (c : CSet) : guardOf (.vfmaF32 d a b k c) = none := rfl
@[simp] theorem guardOf_vminF32 (d : RegF) (a : RegF) (b : RegF) (k : F3) (c : CSet) : guardOf (.vminF32 d a b k c) = none := rfl
@[simp] theorem guardOf_vmaxF32 (d : RegF) (a : RegF) (b : RegF) (k : F3) (c : CSet) : guardOf (.vmaxF32 d a b k c) = none := rfl
@[simp] theorem guardOf_vdot2Bf16 (d : RegF) (a : RegF) (b : RegF) (k : F3) (c : CSet) : guardOf (.vdot2Bf16 d a b k c) = none := rfl
@[simp] theorem guardOf_vabsF32 (d : RegF) (a : RegF) (k : F3) (c : CSet) : guardOf (.vabsF32 d a k c) = none := rfl
@[simp] theorem guardOf_vnegF32 (d : RegF) (a : RegF) (k : F3) (c : CSet) : guardOf (.vnegF32 d a k c) = none := rfl
@[simp] theorem guardOf_vcpysF32 (d : RegF) (a : RegF) (b : RegF) (k : F3) (c : CSet) : guardOf (.vcpysF32 d a b k c) = none := rfl
@[simp] theorem guardOf_vaccrd (d : RegF) (a : RegF) (k : F3) (c : CSet) : guardOf (.vaccrd d a k c) = none := rfl
@[simp] theorem guardOf_vcmpF32 (d : F3) (a : RegF) (b : RegF) (k : F3) (c : CSet) (f : FCond) : guardOf (.vcmpF32 d a b k c f) = none := rfl
@[simp] theorem guardOf_vcmpI32 (d : F3) (a : RegF) (b : RegF) (k : F3) (c : CSet) (f : ICond) : guardOf (.vcmpI32 d a b k c f) = none := rfl
@[simp] theorem guardOf_vmov (d : RegF) (a : RegF) (k : F3) (c : CSet) : guardOf (.vmov d a k c) = none := rfl
@[simp] theorem guardOf_vsel (d : RegF) (a : RegF) (b : RegF) (k : F3) (c : CSet) : guardOf (.vsel d a b k c) = none := rfl
@[simp] theorem guardOf_vbcast (d : RegF) (a : RegF) (k : F3) (c : CSet) : guardOf (.vbcast d a k c) = none := rfl
@[simp] theorem guardOf_vextr (d : RegF) (a : RegF) (b : RegF) (k : F3) (c : CSet) : guardOf (.vextr d a b k c) = none := rfl
@[simp] theorem guardOf_vins (d : RegF) (a : RegF) (b : RegF) (k : F3) (c : CSet) : guardOf (.vins d a b k c) = none := rfl
@[simp] theorem guardOf_vperm (d : RegF) (a : RegF) (b : RegF) (k : F3) (c : CSet) : guardOf (.vperm d a b k c) = none := rfl
@[simp] theorem guardOf_vxcl (d : RegF) (a : RegF) (r : F3) (k : F3) (c : CSet) : guardOf (.vxcl d a r k c) = none := rfl
@[simp] theorem guardOf_viota (d : RegF) (k : F3) (c : CSet) : guardOf (.viota d k c) = none := rfl
@[simp] theorem guardOf_vredaddF32 (d : RegF) (a : RegF) (k : F3) (c : CSet) : guardOf (.vredaddF32 d a k c) = none := rfl
@[simp] theorem guardOf_vredaddI32 (d : RegF) (a : RegF) (k : F3) (c : CSet) : guardOf (.vredaddI32 d a k c) = none := rfl
@[simp] theorem guardOf_vredmaxF32 (d : RegF) (a : RegF) (k : F3) (c : CSet) : guardOf (.vredmaxF32 d a k c) = none := rfl
@[simp] theorem guardOf_vredmaxI32 (d : RegF) (a : RegF) (k : F3) (c : CSet) : guardOf (.vredmaxI32 d a k c) = none := rfl
@[simp] theorem guardOf_vredminF32 (d : RegF) (a : RegF) (k : F3) (c : CSet) : guardOf (.vredminF32 d a k c) = none := rfl
@[simp] theorem guardOf_vredminI32 (d : RegF) (a : RegF) (k : F3) (c : CSet) : guardOf (.vredminI32 d a k c) = none := rfl
@[simp] theorem guardOf_vcvt (d : RegF) (a : RegF) (sc : VFmt) (t : VFmt) (k : F3) (c : CSet) : guardOf (.vcvt d a sc t k c) = none := rfl
@[simp] theorem guardOf_vcvtF32Fx128Lo (d : RegF) (a : RegF) (p : BitVec 6) (k : F3) (c : CSet) : guardOf (.vcvtF32Fx128Lo d a p k c) = none := rfl
@[simp] theorem guardOf_vcvtF32Fx128Hi (d : RegF) (a : RegF) (p : BitVec 6) (k : F3) (c : CSet) : guardOf (.vcvtF32Fx128Hi d a p k c) = none := rfl
@[simp] theorem guardOf_vrcp (d : RegF) (a : RegF) (k : F3) (c : CSet) : guardOf (.vrcp d a k c) = none := rfl
@[simp] theorem guardOf_vrcpr (d : RegF) (a : RegF) (b : RegF) (k : F3) (c : CSet) : guardOf (.vrcpr d a b k c) = none := rfl
@[simp] theorem guardOf_vrsq (d : RegF) (a : RegF) (k : F3) (c : CSet) : guardOf (.vrsq d a k c) = none := rfl
@[simp] theorem guardOf_vrsqr (d : RegF) (a : RegF) (b : RegF) (k : F3) (c : CSet) : guardOf (.vrsqr d a b k c) = none := rfl
@[simp] theorem guardOf_vsqrt (d : RegF) (a : RegF) (k : F3) (c : CSet) : guardOf (.vsqrt d a k c) = none := rfl
@[simp] theorem guardOf_vexp2 (d : RegF) (a : RegF) (k : F3) (c : CSet) : guardOf (.vexp2 d a k c) = none := rfl
@[simp] theorem guardOf_vlog2 (d : RegF) (a : RegF) (k : F3) (c : CSet) : guardOf (.vlog2 d a k c) = none := rfl
@[simp] theorem guardOf_vsin (d : RegF) (a : RegF) (k : F3) (c : CSet) : guardOf (.vsin d a k c) = none := rfl
@[simp] theorem guardOf_vcos (d : RegF) (a : RegF) (k : F3) (c : CSet) : guardOf (.vcos d a k c) = none := rfl
@[simp] theorem guardOf_vrand (d : RegF) (k : F3) (c : CSet) : guardOf (.vrand d k c) = none := rfl
@[simp] theorem guardOf_vrandf (d : RegF) (k : F3) (c : CSet) : guardOf (.vrandf d k c) = none := rfl
@[simp] theorem guardOf_vdrop (d : RegF) (a : RegF) (b : RegF) (k : F3) (c : CSet) : guardOf (.vdrop d a b k c) = none := rfl
@[simp] theorem guardOf_vtopk (d : RegF) (a : RegF) (b : RegF) (k : F3) (c : CSet) : guardOf (.vtopk d a b k c) = none := rfl
@[simp] theorem guardOf_vmergek (d : RegF) (a : RegF) (b : RegF) (k : F3) (c : CSet) : guardOf (.vmergek d a b k c) = none := rfl
@[simp] theorem guardOf_mpset (a : RegF) (n : F3) : guardOf (.mpset a n) = none := rfl
@[simp] theorem guardOf_mcall (e : BitVec 12) : guardOf (.mcall e) = none := rfl
@[simp] theorem guardOf_cpy (a : RegF) (b : RegF) (g : BitVec 4) : guardOf (.cpy a b g) = none := rfl
@[simp] theorem guardOf_cpyc (a : RegF) (b : RegF) (g : BitVec 4) : guardOf (.cpyc a b g) = none := rfl
@[simp] theorem guardOf_gset (a : RegF) (g : BitVec 4) : guardOf (.gset a g) = none := rfl
@[simp] theorem guardOf_gstart (a : RegF) (b : RegF) (q : BitVec 2) : guardOf (.gstart a b q) = none := rfl
@[simp] theorem guardOf_tarm (a : RegF) (b : RegF) (g : BitVec 4) : guardOf (.tarm a b g) = none := rfl
@[simp] theorem guardOf_fsend (a : RegF) (b : RegF) (g : BitVec 4) : guardOf (.fsend a b g) = none := rfl
@[simp] theorem guardOf_fmcast (a : RegF) (b : RegF) (g : BitVec 4) : guardOf (.fmcast a b g) = none := rfl
@[simp] theorem guardOf_fred (a : RegF) (b : RegF) (op : AOp) (f : AFmt) (g : BitVec 4) : guardOf (.fred a b op f g) = none := rfl
@[simp] theorem guardOf_ratom (a : RegF) (b : RegF) (op : AOp) (f : AFmt) (g : BitVec 4) : guardOf (.ratom a b op f g) = none := rfl
@[simp] theorem guardOf_csend (a : RegF) (b : RegF) (ch : BitVec 12) : guardOf (.csend a b ch) = none := rfl
@[simp] theorem guardOf_crecv (a : RegF) (b : RegF) (ch : BitVec 12) : guardOf (.crecv a b ch) = none := rfl
@[simp] theorem guardOf_chw (a : RegF) (ch : BitVec 12) : guardOf (.chw a ch) = none := rfl
@[simp] theorem guardOf_ccollAllred (a : RegF) (b : RegF) (r : BitVec 10) : guardOf (.ccollAllred a b r) = none := rfl
@[simp] theorem guardOf_ccollRedscat (a : RegF) (b : RegF) (r : BitVec 10) : guardOf (.ccollRedscat a b r) = none := rfl
@[simp] theorem guardOf_ccollAllgath (a : RegF) (b : RegF) (r : BitVec 10) : guardOf (.ccollAllgath a b r) = none := rfl
@[simp] theorem guardOf_ccollBcast (a : RegF) (b : RegF) (r : BitVec 10) : guardOf (.ccollBcast a b r) = none := rfl
@[simp] theorem guardOf_ccollReduce (a : RegF) (b : RegF) (r : BitVec 10) : guardOf (.ccollReduce a b r) = none := rfl
@[simp] theorem guardOf_ccollPxch (a : RegF) (b : RegF) (r : BitVec 10) : guardOf (.ccollPxch a b r) = none := rfl
@[simp] theorem guardOf_spawn (a : RegF) : guardOf (.spawn a) = none := rfl
@[simp] theorem guardOf_kilnw (a : RegF) : guardOf (.kilnw a) = none := rfl
@[simp] theorem guardOf_kilnr (a : RegF) : guardOf (.kilnr a) = none := rfl
@[simp] theorem guardOf_digest (a : RegF) (b : RegF) (g : BitVec 4) : guardOf (.digest a b g) = none := rfl
@[simp] theorem guardOf_efence (g : BitVec 4) (sc : Scope) : guardOf (.efence g sc) = none := rfl

/-! ## Slots that only post -/

@[simp] theorem postsOnly_idle (s : State) (n : BitVec 6) (sat : Bool) (rnd : Rnd) (prof : BitVec 6) : postsOnly s (.idle n sat rnd prof) = true := rfl
@[simp] theorem postsOnly_brp (s : State) (p : F3) (o : BitVec 22) : postsOnly s (.brp p o) = false := rfl
@[simp] theorem postsOnly_br (s : State) (o : BitVec 22) : postsOnly s (.br o) = false := rfl
@[simp] theorem postsOnly_brpn (s : State) (p : F3) (o : BitVec 22) : postsOnly s (.brpn p o) = false := rfl
@[simp] theorem postsOnly_call (s : State) (d : RegF) (i : BitVec 20) : postsOnly s (.call d i) = false := rfl
@[simp] theorem postsOnly_jmp (s : State) (a : RegF) (k : F3) : postsOnly s (.jmp a k) = false := rfl
@[simp] theorem postsOnly_callr (s : State) (d : RegF) (a : RegF) (k : F3) : postsOnly s (.callr d a k) = false := rfl
@[simp] theorem postsOnly_ret (s : State) (a : RegF) (k : F3) : postsOnly s (.ret a k) = false := rfl
@[simp] theorem postsOnly_setf (s : State) (d : BitVec 2) (a : RegF) (k : F3) : postsOnly s (.setf d a k) = true := rfl
@[simp] theorem postsOnly_loop (s : State) (d : RegF) (a : RegF) (i : BitVec 14) : postsOnly s (.loop d a i) = false := rfl
@[simp] theorem postsOnly_loopi (s : State) (d : RegF) (n : BitVec 6) (i : BitVec 14) : postsOnly s (.loopi d n i) = false := rfl
@[simp] theorem postsOnly_bswap (s : State) (p : F3) (o : BitVec 22) : postsOnly s (.bswap p o) = false := rfl
@[simp] theorem postsOnly_waita (s : State) (a : RegF) (b : RegF) (k : F3) (sc : Scope) (c : WCond) : postsOnly s (.waita a b k sc c) = true := rfl
@[simp] theorem postsOnly_waito (s : State) (a : RegF) (i : BitVec 14) : postsOnly s (.waito a i) = true := rfl
@[simp] theorem postsOnly_tend (s : State) : postsOnly s (.tend) = true := rfl
@[simp] theorem postsOnly_trap (s : State) (code : BitVec 16) : postsOnly s (.trap code) = false := rfl
@[simp] theorem postsOnly_brk (s : State) (code : BitVec 16) : postsOnly s (.brk code) = false := rfl
@[simp] theorem postsOnly_ifence (s : State) (r : IRegion) : postsOnly s (.ifence r) = false := rfl
@[simp] theorem postsOnly_sysr (s : State) (d : RegF) (n : BitVec 12) : postsOnly s (.sysr d n) = decide (n ≠ 0x109) := rfl
@[simp] theorem postsOnly_sysw (s : State) (a : RegF) (n : BitVec 12) : postsOnly s (.sysw a n) = decide (n ≠ 0x30) := rfl
@[simp] theorem postsOnly_add (s : State) (d : RegF) (a : RegF) (b : RegF) (k : F3) : postsOnly s (.add d a b k) = true := rfl
@[simp] theorem postsOnly_sub (s : State) (d : RegF) (a : RegF) (b : RegF) (k : F3) : postsOnly s (.sub d a b k) = true := rfl
@[simp] theorem postsOnly_mul (s : State) (d : RegF) (a : RegF) (b : RegF) (k : F3) : postsOnly s (.mul d a b k) = true := rfl
@[simp] theorem postsOnly_mulh (s : State) (d : RegF) (a : RegF) (b : RegF) (k : F3) : postsOnly s (.mulh d a b k) = true := rfl
@[simp] theorem postsOnly_mulhu (s : State) (d : RegF) (a : RegF) (b : RegF) (k : F3) : postsOnly s (.mulhu d a b k) = true := rfl
@[simp] theorem postsOnly_divs (s : State) (d : RegF) (a : RegF) (b : RegF) (k : F3) : postsOnly s (.divs d a b k) = true := rfl
@[simp] theorem postsOnly_divu (s : State) (d : RegF) (a : RegF) (b : RegF) (k : F3) : postsOnly s (.divu d a b k) = true := rfl
@[simp] theorem postsOnly_rems (s : State) (d : RegF) (a : RegF) (b : RegF) (k : F3) : postsOnly s (.rems d a b k) = true := rfl
@[simp] theorem postsOnly_remu (s : State) (d : RegF) (a : RegF) (b : RegF) (k : F3) : postsOnly s (.remu d a b k) = true := rfl
@[simp] theorem postsOnly_and (s : State) (d : RegF) (a : RegF) (b : RegF) (k : F3) : postsOnly s (.and d a b k) = true := rfl
@[simp] theorem postsOnly_or (s : State) (d : RegF) (a : RegF) (b : RegF) (k : F3) : postsOnly s (.or d a b k) = true := rfl
@[simp] theorem postsOnly_xor (s : State) (d : RegF) (a : RegF) (b : RegF) (k : F3) : postsOnly s (.xor d a b k) = true := rfl
@[simp] theorem postsOnly_andn (s : State) (d : RegF) (a : RegF) (b : RegF) (k : F3) : postsOnly s (.andn d a b k) = true := rfl
@[simp] theorem postsOnly_shl (s : State) (d : RegF) (a : RegF) (b : RegF) (k : F3) : postsOnly s (.shl d a b k) = true := rfl
@[simp] theorem postsOnly_shr (s : State) (d : RegF) (a : RegF) (b : RegF) (k : F3) : postsOnly s (.shr d a b k) = true := rfl
@[simp] theorem postsOnly_sar (s : State) (d : RegF) (a : RegF) (b : RegF) (k : F3) : postsOnly s (.sar d a b k) = true := rfl
@[simp] theorem postsOnly_min (s : State) (d : RegF) (a : RegF) (b : RegF) (k : F3) : postsOnly s (.min d a b k) = true := rfl
@[simp] theorem postsOnly_max (s : State) (d : RegF) (a : RegF) (b : RegF) (k : F3) : postsOnly s (.max d a b k) = true := rfl
@[simp] theorem postsOnly_minu (s : State) (d : RegF) (a : RegF) (b : RegF) (k : F3) : postsOnly s (.minu d a b k) = true := rfl
@[simp] theorem postsOnly_maxu (s : State) (d : RegF) (a : RegF) (b : RegF) (k : F3) : postsOnly s (.maxu d a b k) = true := rfl
@[simp] theorem postsOnly_clz (s : State) (d : RegF) (a : RegF) (k : F3) : postsOnly s (.clz d a k) = true := rfl
@[simp] theorem postsOnly_ctz (s : State) (d : RegF) (a : RegF) (k : F3) : postsOnly s (.ctz d a k) = true := rfl
@[simp] theorem postsOnly_popc (s : State) (d : RegF) (a : RegF) (k : F3) : postsOnly s (.popc d a k) = true := rfl
@[simp] theorem postsOnly_sel (s : State) (d : RegF) (a : RegF) (b : RegF) (k : F3) : postsOnly s (.sel d a b k) = true := rfl
@[simp] theorem postsOnly_addi (s : State) (d : RegF) (a : RegF) (i : BitVec 14) : postsOnly s (.addi d a i) = true := rfl
@[simp] theorem postsOnly_andi (s : State) (d : RegF) (a : RegF) (i : BitVec 14) : postsOnly s (.andi d a i) = true := rfl
@[simp] theorem postsOnly_ori (s : State) (d : RegF) (a : RegF) (i : BitVec 14) : postsOnly s (.ori d a i) = true := rfl
@[simp] theorem postsOnly_xori (s : State) (d : RegF) (a : RegF) (i : BitVec 14) : postsOnly s (.xori d a i) = true := rfl
@[simp] theorem postsOnly_shli (s : State) (d : RegF) (a : RegF) (n : BitVec 6) : postsOnly s (.shli d a n) = true := rfl
@[simp] theorem postsOnly_shri (s : State) (d : RegF) (a : RegF) (n : BitVec 6) : postsOnly s (.shri d a n) = true := rfl
@[simp] theorem postsOnly_sari (s : State) (d : RegF) (a : RegF) (n : BitVec 6) : postsOnly s (.sari d a n) = true := rfl
@[simp] theorem postsOnly_lui (s : State) (d : RegF) (i : BitVec 20) : postsOnly s (.lui d i) = true := rfl
@[simp] theorem postsOnly_lhi (s : State) (d : RegF) (i : BitVec 20) : postsOnly s (.lhi d i) = true := rfl
@[simp] theorem postsOnly_ltop (s : State) (d : RegF) (i : BitVec 12) : postsOnly s (.ltop d i) = true := rfl
@[simp] theorem postsOnly_ext (s : State) (d : RegF) (a : RegF) (w : BitVec 6) (p : BitVec 6) : postsOnly s (.ext d a w p) = true := rfl
@[simp] theorem postsOnly_ins (s : State) (d : RegF) (a : RegF) (w : BitVec 6) (p : BitVec 6) : postsOnly s (.ins d a w p) = true := rfl
@[simp] theorem postsOnly_widx (s : State) (d : RegF) (f : F3) : postsOnly s (.widx d f) = true := rfl
@[simp] theorem postsOnly_cmp (s : State) (d : F3) (a : RegF) (b : RegF) (k : F3) (c : Cond) : postsOnly s (.cmp d a b k c) = true := rfl
@[simp] theorem postsOnly_cmpi (s : State) (d : F3) (a : RegF) (c : Cond) (i : BitVec 10) : postsOnly s (.cmpi d a c i) = true := rfl
@[simp] theorem postsOnly_pand (s : State) (d : F3) (a : F3) (b : F3) (k : F3) : postsOnly s (.pand d a b k) = true := rfl
@[simp] theorem postsOnly_por (s : State) (d : F3) (a : F3) (b : F3) (k : F3) : postsOnly s (.por d a b k) = true := rfl
@[simp] theorem postsOnly_pxor (s : State) (d : F3) (a : F3) (b : F3) (k : F3) : postsOnly s (.pxor d a b k) = true := rfl
@[simp] theorem postsOnly_pnot (s : State) (d : F3) (a : F3) (k : F3) : postsOnly s (.pnot d a k) = true := rfl
@[simp] theorem postsOnly_ldB (s : State) (d : RegF) (sc : RegF) (l : Bool) (o : BitVec 13) : postsOnly s (.ldB d sc l o) = true := rfl
@[simp] theorem postsOnly_ldH (s : State) (d : RegF) (sc : RegF) (l : Bool) (o : BitVec 13) : postsOnly s (.ldH d sc l o) = true := rfl
@[simp] theorem postsOnly_ldW (s : State) (d : RegF) (sc : RegF) (l : Bool) (o : BitVec 13) : postsOnly s (.ldW d sc l o) = true := rfl
@[simp] theorem postsOnly_ldD (s : State) (d : RegF) (sc : RegF) (l : Bool) (o : BitVec 13) : postsOnly s (.ldD d sc l o) = true := rfl
@[simp] theorem postsOnly_lduB (s : State) (d : RegF) (sc : RegF) (l : Bool) (o : BitVec 13) : postsOnly s (.lduB d sc l o) = true := rfl
@[simp] theorem postsOnly_lduH (s : State) (d : RegF) (sc : RegF) (l : Bool) (o : BitVec 13) : postsOnly s (.lduH d sc l o) = true := rfl
@[simp] theorem postsOnly_lduW (s : State) (d : RegF) (sc : RegF) (l : Bool) (o : BitVec 13) : postsOnly s (.lduW d sc l o) = true := rfl
@[simp] theorem postsOnly_stB (s : State) (d : RegF) (sc : RegF) (l : Bool) (o : BitVec 13) : postsOnly s (.stB d sc l o) = true := rfl
@[simp] theorem postsOnly_stH (s : State) (d : RegF) (sc : RegF) (l : Bool) (o : BitVec 13) : postsOnly s (.stH d sc l o) = true := rfl
@[simp] theorem postsOnly_stW (s : State) (d : RegF) (sc : RegF) (l : Bool) (o : BitVec 13) : postsOnly s (.stW d sc l o) = true := rfl
@[simp] theorem postsOnly_stD (s : State) (d : RegF) (sc : RegF) (l : Bool) (o : BitVec 13) : postsOnly s (.stD d sc l o) = true := rfl
@[simp] theorem postsOnly_vld (s : State) (d : RegF) (sc : RegF) (l : Bool) (c : CSet) (o : BitVec 11) : postsOnly s (.vld d sc l c o) = true := rfl
@[simp] theorem postsOnly_vldb (s : State) (d : RegF) (sc : RegF) (l : Bool) (c : CSet) (o : BitVec 11) : postsOnly s (.vldb d sc l c o) = true := rfl
@[simp] theorem postsOnly_vldt (s : State) (d : RegF) (sc : RegF) (l : Bool) (c : CSet) (o : BitVec 11) : postsOnly s (.vldt d sc l c o) = true := rfl
@[simp] theorem postsOnly_vst (s : State) (d : RegF) (sc : RegF) (l : Bool) (c : CSet) (o : BitVec 11) : postsOnly s (.vst d sc l c o) = true := rfl
@[simp] theorem postsOnly_vstt (s : State) (d : RegF) (sc : RegF) (l : Bool) (c : CSet) (o : BitVec 11) : postsOnly s (.vstt d sc l c o) = true := rfl
@[simp] theorem postsOnly_vlds (s : State) (d : RegF) (a : RegF) (b : RegF) (k : F3) (c : CSet) (l : Bool) : postsOnly s (.vlds d a b k c l) = true := rfl
@[simp] theorem postsOnly_vsts (s : State) (d : RegF) (a : RegF) (b : RegF) (k : F3) (c : CSet) (l : Bool) : postsOnly s (.vsts d a b k c l) = true := rfl
@[simp] theorem postsOnly_amoAdd (s : State) (d : RegF) (a : RegF) (b : RegF) (k : F3) (l : Bool) : postsOnly s (.amoAdd d a b k l) = true := rfl
@[simp] theorem postsOnly_amoMax (s : State) (d : RegF) (a : RegF) (b : RegF) (k : F3) (l : Bool) : postsOnly s (.amoMax d a b k l) = true := rfl
@[simp] theorem postsOnly_amoMin (s : State) (d : RegF) (a : RegF) (b : RegF) (k : F3) (l : Bool) : postsOnly s (.amoMin d a b k l) = true := rfl
@[simp] theorem postsOnly_amoSwap (s : State) (d : RegF) (a : RegF) (b : RegF) (k : F3) (l : Bool) : postsOnly s (.amoSwap d a b k l) = true := rfl
@[simp] theorem postsOnly_amoCas (s : State) (d : RegF) (a : RegF) (b : RegF) (k : F3) (l : Bool) : postsOnly s (.amoCas d a b k l) = true := rfl
@[simp] theorem postsOnly_qpush (s : State) (d : BitVec 2) (a : RegF) (k : F3) : postsOnly s (.qpush d a k) = false := rfl
@[simp] theorem postsOnly_qdrop (s : State) (d : BitVec 2) (k : F3) : postsOnly s (.qdrop d k) = false := rfl
@[simp] theorem postsOnly_vldkKbf7 (s : State) (d : RegF) (a : RegF) (b : RegF) (c : CSet) (l : Bool) : postsOnly s (.vldkKbf7 d a b c l) = true := rfl
@[simp] theorem postsOnly_vldkKbf4 (s : State) (d : RegF) (a : RegF) (b : RegF) (c : CSet) (l : Bool) : postsOnly s (.vldkKbf4 d a b c l) = true := rfl
@[simp] theorem postsOnly_vldkKbf2 (s : State) (d : RegF) (a : RegF) (b : RegF) (c : CSet) (l : Bool) : postsOnly s (.vldkKbf2 d a b c l) = true := rfl
@[simp] theorem postsOnly_vstkKbf7 (s : State) (d : RegF) (a : RegF) (b : RegF) (c : CSet) (l : Bool) : postsOnly s (.vstkKbf7 d a b c l) = true := rfl
@[simp] theorem postsOnly_vstkKbf4 (s : State) (d : RegF) (a : RegF) (b : RegF) (c : CSet) (l : Bool) : postsOnly s (.vstkKbf4 d a b c l) = true := rfl
@[simp] theorem postsOnly_vstkKbf2 (s : State) (d : RegF) (a : RegF) (b : RegF) (c : CSet) (l : Bool) : postsOnly s (.vstkKbf2 d a b c l) = true := rfl
@[simp] theorem postsOnly_vaddI32 (s : State) (d : RegF) (a : RegF) (b : RegF) (k : F3) (c : CSet) : postsOnly s (.vaddI32 d a b k c) = true := rfl
@[simp] theorem postsOnly_vsubI32 (s : State) (d : RegF) (a : RegF) (b : RegF) (k : F3) (c : CSet) : postsOnly s (.vsubI32 d a b k c) = true := rfl
@[simp] theorem postsOnly_vmulI32 (s : State) (d : RegF) (a : RegF) (b : RegF) (k : F3) (c : CSet) : postsOnly s (.vmulI32 d a b k c) = true := rfl
@[simp] theorem postsOnly_vmulh (s : State) (d : RegF) (a : RegF) (b : RegF) (k : F3) (c : CSet) : postsOnly s (.vmulh d a b k c) = true := rfl
@[simp] theorem postsOnly_vand (s : State) (d : RegF) (a : RegF) (b : RegF) (k : F3) (c : CSet) : postsOnly s (.vand d a b k c) = true := rfl
@[simp] theorem postsOnly_vor (s : State) (d : RegF) (a : RegF) (b : RegF) (k : F3) (c : CSet) : postsOnly s (.vor d a b k c) = true := rfl
@[simp] theorem postsOnly_vxor (s : State) (d : RegF) (a : RegF) (b : RegF) (k : F3) (c : CSet) : postsOnly s (.vxor d a b k c) = true := rfl
@[simp] theorem postsOnly_vabsI32 (s : State) (d : RegF) (a : RegF) (k : F3) (c : CSet) : postsOnly s (.vabsI32 d a k c) = true := rfl
@[simp] theorem postsOnly_vshl (s : State) (d : RegF) (a : RegF) (b : RegF) (k : F3) (c : CSet) : postsOnly s (.vshl d a b k c) = true := rfl
@[simp] theorem postsOnly_vshr (s : State) (d : RegF) (a : RegF) (b : RegF) (k : F3) (c : CSet) : postsOnly s (.vshr d a b k c) = true := rfl
@[simp] theorem postsOnly_vsar (s : State) (d : RegF) (a : RegF) (b : RegF) (k : F3) (c : CSet) : postsOnly s (.vsar d a b k c) = true := rfl
@[simp] theorem postsOnly_vminI32 (s : State) (d : RegF) (a : RegF) (b : RegF) (k : F3) (c : CSet) : postsOnly s (.vminI32 d a b k c) = true := rfl
@[simp] theorem postsOnly_vmaxI32 (s : State) (d : RegF) (a : RegF) (b : RegF) (k : F3) (c : CSet) : postsOnly s (.vmaxI32 d a b k c) = true := rfl
@[simp] theorem postsOnly_vminU32 (s : State) (d : RegF) (a : RegF) (b : RegF) (k : F3) (c : CSet) : postsOnly s (.vminU32 d a b k c) = true := rfl
@[simp] theorem postsOnly_vmaxU32 (s : State) (d : RegF) (a : RegF) (b : RegF) (k : F3) (c : CSet) : postsOnly s (.vmaxU32 d a b k c) = true := rfl
@[simp] theorem postsOnly_vaddF32 (s : State) (d : RegF) (a : RegF) (b : RegF) (k : F3) (c : CSet) : postsOnly s (.vaddF32 d a b k c) = true := rfl
@[simp] theorem postsOnly_vsubF32 (s : State) (d : RegF) (a : RegF) (b : RegF) (k : F3) (c : CSet) : postsOnly s (.vsubF32 d a b k c) = true := rfl
@[simp] theorem postsOnly_vmulF32 (s : State) (d : RegF) (a : RegF) (b : RegF) (k : F3) (c : CSet) : postsOnly s (.vmulF32 d a b k c) = true := rfl
@[simp] theorem postsOnly_vfmaF32 (s : State) (d : RegF) (a : RegF) (b : RegF) (k : F3) (c : CSet) : postsOnly s (.vfmaF32 d a b k c) = true := rfl
@[simp] theorem postsOnly_vminF32 (s : State) (d : RegF) (a : RegF) (b : RegF) (k : F3) (c : CSet) : postsOnly s (.vminF32 d a b k c) = true := rfl
@[simp] theorem postsOnly_vmaxF32 (s : State) (d : RegF) (a : RegF) (b : RegF) (k : F3) (c : CSet) : postsOnly s (.vmaxF32 d a b k c) = true := rfl
@[simp] theorem postsOnly_vdot2Bf16 (s : State) (d : RegF) (a : RegF) (b : RegF) (k : F3) (c : CSet) : postsOnly s (.vdot2Bf16 d a b k c) = true := rfl
@[simp] theorem postsOnly_vabsF32 (s : State) (d : RegF) (a : RegF) (k : F3) (c : CSet) : postsOnly s (.vabsF32 d a k c) = true := rfl
@[simp] theorem postsOnly_vnegF32 (s : State) (d : RegF) (a : RegF) (k : F3) (c : CSet) : postsOnly s (.vnegF32 d a k c) = true := rfl
@[simp] theorem postsOnly_vcpysF32 (s : State) (d : RegF) (a : RegF) (b : RegF) (k : F3) (c : CSet) : postsOnly s (.vcpysF32 d a b k c) = true := rfl
@[simp] theorem postsOnly_vaccrd (s : State) (d : RegF) (a : RegF) (k : F3) (c : CSet) : postsOnly s (.vaccrd d a k c) =
    (decide (s.cur.rnd ≠ .sr) && !(s.seat s.cur.core).mxe.ecc) := rfl
@[simp] theorem postsOnly_vcmpF32 (s : State) (d : F3) (a : RegF) (b : RegF) (k : F3) (c : CSet) (f : FCond) : postsOnly s (.vcmpF32 d a b k c f) = true := rfl
@[simp] theorem postsOnly_vcmpI32 (s : State) (d : F3) (a : RegF) (b : RegF) (k : F3) (c : CSet) (f : ICond) : postsOnly s (.vcmpI32 d a b k c f) = true := rfl
@[simp] theorem postsOnly_vmov (s : State) (d : RegF) (a : RegF) (k : F3) (c : CSet) : postsOnly s (.vmov d a k c) = true := rfl
@[simp] theorem postsOnly_vsel (s : State) (d : RegF) (a : RegF) (b : RegF) (k : F3) (c : CSet) : postsOnly s (.vsel d a b k c) = true := rfl
@[simp] theorem postsOnly_vbcast (s : State) (d : RegF) (a : RegF) (k : F3) (c : CSet) : postsOnly s (.vbcast d a k c) = true := rfl
@[simp] theorem postsOnly_vextr (s : State) (d : RegF) (a : RegF) (b : RegF) (k : F3) (c : CSet) : postsOnly s (.vextr d a b k c) = true := rfl
@[simp] theorem postsOnly_vins (s : State) (d : RegF) (a : RegF) (b : RegF) (k : F3) (c : CSet) : postsOnly s (.vins d a b k c) = true := rfl
@[simp] theorem postsOnly_vperm (s : State) (d : RegF) (a : RegF) (b : RegF) (k : F3) (c : CSet) : postsOnly s (.vperm d a b k c) = true := rfl
@[simp] theorem postsOnly_vxcl (s : State) (d : RegF) (a : RegF) (r : F3) (k : F3) (c : CSet) : postsOnly s (.vxcl d a r k c) = true := rfl
@[simp] theorem postsOnly_viota (s : State) (d : RegF) (k : F3) (c : CSet) : postsOnly s (.viota d k c) = true := rfl
@[simp] theorem postsOnly_vredaddF32 (s : State) (d : RegF) (a : RegF) (k : F3) (c : CSet) : postsOnly s (.vredaddF32 d a k c) = true := rfl
@[simp] theorem postsOnly_vredaddI32 (s : State) (d : RegF) (a : RegF) (k : F3) (c : CSet) : postsOnly s (.vredaddI32 d a k c) = true := rfl
@[simp] theorem postsOnly_vredmaxF32 (s : State) (d : RegF) (a : RegF) (k : F3) (c : CSet) : postsOnly s (.vredmaxF32 d a k c) = true := rfl
@[simp] theorem postsOnly_vredmaxI32 (s : State) (d : RegF) (a : RegF) (k : F3) (c : CSet) : postsOnly s (.vredmaxI32 d a k c) = true := rfl
@[simp] theorem postsOnly_vredminF32 (s : State) (d : RegF) (a : RegF) (k : F3) (c : CSet) : postsOnly s (.vredminF32 d a k c) = true := rfl
@[simp] theorem postsOnly_vredminI32 (s : State) (d : RegF) (a : RegF) (k : F3) (c : CSet) : postsOnly s (.vredminI32 d a k c) = true := rfl
@[simp] theorem postsOnly_vcvt (s : State) (d : RegF) (a : RegF) (sc : VFmt) (t : VFmt) (k : F3) (c : CSet) : postsOnly s (.vcvt d a sc t k c) = decide (s.cur.rnd ≠ .sr) := rfl
@[simp] theorem postsOnly_vcvtF32Fx128Lo (s : State) (d : RegF) (a : RegF) (p : BitVec 6) (k : F3) (c : CSet) : postsOnly s (.vcvtF32Fx128Lo d a p k c) = decide (s.cur.rnd ≠ .sr) := rfl
@[simp] theorem postsOnly_vcvtF32Fx128Hi (s : State) (d : RegF) (a : RegF) (p : BitVec 6) (k : F3) (c : CSet) : postsOnly s (.vcvtF32Fx128Hi d a p k c) = decide (s.cur.rnd ≠ .sr) := rfl
@[simp] theorem postsOnly_vrcp (s : State) (d : RegF) (a : RegF) (k : F3) (c : CSet) : postsOnly s (.vrcp d a k c) = true := rfl
@[simp] theorem postsOnly_vrcpr (s : State) (d : RegF) (a : RegF) (b : RegF) (k : F3) (c : CSet) : postsOnly s (.vrcpr d a b k c) = true := rfl
@[simp] theorem postsOnly_vrsq (s : State) (d : RegF) (a : RegF) (k : F3) (c : CSet) : postsOnly s (.vrsq d a k c) = true := rfl
@[simp] theorem postsOnly_vrsqr (s : State) (d : RegF) (a : RegF) (b : RegF) (k : F3) (c : CSet) : postsOnly s (.vrsqr d a b k c) = true := rfl
@[simp] theorem postsOnly_vsqrt (s : State) (d : RegF) (a : RegF) (k : F3) (c : CSet) : postsOnly s (.vsqrt d a k c) = true := rfl
@[simp] theorem postsOnly_vexp2 (s : State) (d : RegF) (a : RegF) (k : F3) (c : CSet) : postsOnly s (.vexp2 d a k c) = true := rfl
@[simp] theorem postsOnly_vlog2 (s : State) (d : RegF) (a : RegF) (k : F3) (c : CSet) : postsOnly s (.vlog2 d a k c) = true := rfl
@[simp] theorem postsOnly_vsin (s : State) (d : RegF) (a : RegF) (k : F3) (c : CSet) : postsOnly s (.vsin d a k c) = true := rfl
@[simp] theorem postsOnly_vcos (s : State) (d : RegF) (a : RegF) (k : F3) (c : CSet) : postsOnly s (.vcos d a k c) = true := rfl
@[simp] theorem postsOnly_vrand (s : State) (d : RegF) (k : F3) (c : CSet) : postsOnly s (.vrand d k c) = true := rfl
@[simp] theorem postsOnly_vrandf (s : State) (d : RegF) (k : F3) (c : CSet) : postsOnly s (.vrandf d k c) = true := rfl
@[simp] theorem postsOnly_vdrop (s : State) (d : RegF) (a : RegF) (b : RegF) (k : F3) (c : CSet) : postsOnly s (.vdrop d a b k c) = decide (clusterSet s c = 0) := rfl
@[simp] theorem postsOnly_vtopk (s : State) (d : RegF) (a : RegF) (b : RegF) (k : F3) (c : CSet) : postsOnly s (.vtopk d a b k c) = true := rfl
@[simp] theorem postsOnly_vmergek (s : State) (d : RegF) (a : RegF) (b : RegF) (k : F3) (c : CSet) : postsOnly s (.vmergek d a b k c) = true := rfl
@[simp] theorem postsOnly_mpset (s : State) (a : RegF) (n : F3) : postsOnly s (.mpset a n) = true := rfl
@[simp] theorem postsOnly_mcall (s : State) (e : BitVec 12) : postsOnly s (.mcall e) = false := rfl
@[simp] theorem postsOnly_cpy (s : State) (a : RegF) (b : RegF) (g : BitVec 4) : postsOnly s (.cpy a b g) = false := rfl
@[simp] theorem postsOnly_cpyc (s : State) (a : RegF) (b : RegF) (g : BitVec 4) : postsOnly s (.cpyc a b g) = false := rfl
@[simp] theorem postsOnly_gset (s : State) (a : RegF) (g : BitVec 4) : postsOnly s (.gset a g) = true := rfl
@[simp] theorem postsOnly_gstart (s : State) (a : RegF) (b : RegF) (q : BitVec 2) : postsOnly s (.gstart a b q) = false := rfl
@[simp] theorem postsOnly_tarm (s : State) (a : RegF) (b : RegF) (g : BitVec 4) : postsOnly s (.tarm a b g) = false := rfl
@[simp] theorem postsOnly_fsend (s : State) (a : RegF) (b : RegF) (g : BitVec 4) : postsOnly s (.fsend a b g) = false := rfl
@[simp] theorem postsOnly_fmcast (s : State) (a : RegF) (b : RegF) (g : BitVec 4) : postsOnly s (.fmcast a b g) = false := rfl
@[simp] theorem postsOnly_fred (s : State) (a : RegF) (b : RegF) (op : AOp) (f : AFmt) (g : BitVec 4) : postsOnly s (.fred a b op f g) = false := rfl
@[simp] theorem postsOnly_ratom (s : State) (a : RegF) (b : RegF) (op : AOp) (f : AFmt) (g : BitVec 4) : postsOnly s (.ratom a b op f g) = false := rfl
@[simp] theorem postsOnly_csend (s : State) (a : RegF) (b : RegF) (ch : BitVec 12) : postsOnly s (.csend a b ch) = false := rfl
@[simp] theorem postsOnly_crecv (s : State) (a : RegF) (b : RegF) (ch : BitVec 12) : postsOnly s (.crecv a b ch) = false := rfl
@[simp] theorem postsOnly_chw (s : State) (a : RegF) (ch : BitVec 12) : postsOnly s (.chw a ch) = true := rfl
@[simp] theorem postsOnly_ccollAllred (s : State) (a : RegF) (b : RegF) (r : BitVec 10) : postsOnly s (.ccollAllred a b r) = false := rfl
@[simp] theorem postsOnly_ccollRedscat (s : State) (a : RegF) (b : RegF) (r : BitVec 10) : postsOnly s (.ccollRedscat a b r) = false := rfl
@[simp] theorem postsOnly_ccollAllgath (s : State) (a : RegF) (b : RegF) (r : BitVec 10) : postsOnly s (.ccollAllgath a b r) = false := rfl
@[simp] theorem postsOnly_ccollBcast (s : State) (a : RegF) (b : RegF) (r : BitVec 10) : postsOnly s (.ccollBcast a b r) = false := rfl
@[simp] theorem postsOnly_ccollReduce (s : State) (a : RegF) (b : RegF) (r : BitVec 10) : postsOnly s (.ccollReduce a b r) = false := rfl
@[simp] theorem postsOnly_ccollPxch (s : State) (a : RegF) (b : RegF) (r : BitVec 10) : postsOnly s (.ccollPxch a b r) = false := rfl
@[simp] theorem postsOnly_spawn (s : State) (a : RegF) : postsOnly s (.spawn a) = false := rfl
@[simp] theorem postsOnly_kilnw (s : State) (a : RegF) : postsOnly s (.kilnw a) = false := rfl
@[simp] theorem postsOnly_kilnr (s : State) (a : RegF) : postsOnly s (.kilnr a) = true := rfl
@[simp] theorem postsOnly_digest (s : State) (a : RegF) (b : RegF) (g : BitVec 4) : postsOnly s (.digest a b g) = false := rfl
@[simp] theorem postsOnly_efence (s : State) (g : BitVec 4) (sc : Scope) : postsOnly s (.efence g sc) = false := rfl

end Sys2Proof.Machine
end

