-- ==== Sys2Proof/Laws/Next.lean ====
section
/-! SUPPORT. Every instruction answers a next state: one law per meaning. -/

namespace Sys2Proof.Machine

/-- The outcome is a next state. -/
def Answers (o : Host.Outcome State Fault Refusal) : Prop := ∃ t, o = .next t

theorem runSlot_next (fs : List RegF) (body : SlotRes) (s : State) :
    Answers (runSlot fs body s) := by
  unfold runSlot
  repeat' first | exact ⟨_, rfl⟩ | split

theorem execTakeGrant_next (c : Nat) (s : State) :
    Answers (execTakeGrant c s) := ⟨_, rfl⟩

theorem execCpy_next (a : RegF) (b : RegF) (g : BitVec 4) (s : State) :
    Answers (execCpy a b g s) := by
  unfold execCpy
  exact runSlot_next _ _ _

theorem execCpyc_next (a : RegF) (b : RegF) (g : BitVec 4) (s : State) :
    Answers (execCpyc a b g s) := by
  unfold execCpyc
  exact runSlot_next _ _ _

theorem execFsend_next (a : RegF) (b : RegF) (g : BitVec 4) (s : State) :
    Answers (execFsend a b g s) := by
  unfold execFsend
  dsimp only
  repeat' first | with_reducible apply runSlot_next | split

theorem execFmcast_next (a : RegF) (b : RegF) (g : BitVec 4) (s : State) :
    Answers (execFmcast a b g s) := by
  unfold execFmcast
  exact runSlot_next _ _ _

theorem execFred_next (a : RegF) (b : RegF) (op : AOp) (f : AFmt) (g : BitVec 4) (s : State) :
    Answers (execFred a b op f g s) := by
  unfold execFred
  exact runSlot_next _ _ _

theorem execRatom_next (a : RegF) (b : RegF) (op : AOp) (f : AFmt) (g : BitVec 4) (s : State) :
    Answers (execRatom a b op f g s) := by
  unfold execRatom
  exact runSlot_next _ _ _

theorem execKilnw_next (a : RegF) (s : State) :
    Answers (execKilnw a s) := by
  unfold execKilnw
  exact runSlot_next _ _ _

theorem execDigest_next (a : RegF) (b : RegF) (g : BitVec 4) (s : State) :
    Answers (execDigest a b g s) := by
  unfold execDigest
  exact runSlot_next _ _ _

theorem execEfence_next (g : BitVec 4) (sc : Scope) (s : State) :
    Answers (execEfence g sc s) := by
  unfold execEfence
  exact runSlot_next _ _ _

theorem execGstart_next (a : RegF) (b : RegF) (q : BitVec 2) (s : State) :
    Answers (execGstart a b q s) := by
  unfold execGstart
  exact runSlot_next _ _ _

theorem execTarm_next (a : RegF) (b : RegF) (g : BitVec 4) (s : State) :
    Answers (execTarm a b g s) := by
  unfold execTarm
  exact runSlot_next _ _ _

theorem execGset_next (a : RegF) (g : BitVec 4) (s : State) :
    Answers (execGset a g s) := by
  unfold execGset
  exact runSlot_next _ _ _

theorem execChw_next (a : RegF) (ch : BitVec 12) (s : State) :
    Answers (execChw a ch s) := by
  unfold execChw
  exact runSlot_next _ _ _

theorem execKilnr_next (a : RegF) (s : State) :
    Answers (execKilnr a s) := by
  unfold execKilnr
  exact runSlot_next _ _ _

theorem execSpawn_next (a : RegF) (s : State) :
    Answers (execSpawn a s) := by
  unfold execSpawn
  exact runSlot_next _ _ _

theorem execFlit_next (port : Nat) (bytes : List Byte) (s : State) :
    Answers (execFlit port bytes s) := by
  unfold execFlit
  dsimp only
  repeat' first | exact ⟨_, rfl⟩ | split

theorem execPortDown_next (port : Nat) (s : State) :
    Answers (execPortDown port s) := by
  unfold execPortDown
  dsimp only
  repeat' first | exact ⟨_, rfl⟩ | split

theorem execPortUp_next (port : Nat) (s : State) :
    Answers (execPortUp port s) := by
  unfold execPortUp
  dsimp only
  repeat' first | exact ⟨_, rfl⟩ | split

theorem execPacketForward_next (p : Packet) (s : State) :
    Answers (execPacketForward p s) := by
  unfold execPacketForward
  dsimp only
  repeat' first | exact ⟨_, rfl⟩ | split

theorem execWrite_next (p : Packet) (s : State) :
    Answers (execWrite p s) := ⟨_, rfl⟩

theorem execReadreq_next (p : Packet) (s : State) :
    Answers (execReadreq p s) := ⟨_, rfl⟩

theorem execAtomic_next (p : Packet) (s : State) :
    Answers (execAtomic p s) := ⟨_, rfl⟩

theorem execReduce_next (p : Packet) (s : State) :
    Answers (execReduce p s) := by
  unfold execReduce
  repeat' first | exact ⟨_, rfl⟩ | split

theorem execReduceResend_next (s : State) :
    Answers (execReduceResend s) := ⟨_, rfl⟩

theorem execReaddata_next (p : Packet) (s : State) :
    Answers (execReaddata p s) := ⟨_, rfl⟩

theorem execAck_next (p : Packet) (s : State) :
    Answers (execAck p s) := ⟨_, rfl⟩

theorem execResponseTimeout_next (tag : Nat) (s : State) :
    Answers (execResponseTimeout tag s) := ⟨_, rfl⟩

theorem execMcwrite_next (p : Packet) (s : State) :
    Answers (execMcwrite p s) := by
  unfold execMcwrite
  dsimp only
  repeat' first | exact ⟨_, rfl⟩ | split

theorem execRoundTimeout_next (x : Nat) (g : Nat) (s : State) :
    Answers (execRoundTimeout x g s) := by
  unfold execRoundTimeout
  dsimp only
  repeat' first | exact ⟨_, rfl⟩ | split

theorem execTime_next (port : Nat) (p : Packet) (s : State) :
    Answers (execTime port p s) := by
  unfold execTime
  dsimp only
  repeat' first | exact ⟨_, rfl⟩ | split

theorem execTimeSend_next (s : State) :
    Answers (execTimeSend s) := ⟨_, rfl⟩

theorem execGtbCorrection_next (up : Bool) (s : State) :
    Answers (execGtbCorrection up s) := by
  unfold execGtbCorrection
  repeat' first | exact ⟨_, rfl⟩ | split

theorem execGtbokLoss_next (s : State) :
    Answers (execGtbokLoss s) := by
  unfold execGtbokLoss
  repeat' first | exact ⟨_, rfl⟩ | split

theorem execDigestComplete_next (c : Nat) (id : Nat) (s : State) :
    Answers (execDigestComplete c id s) := by
  unfold execDigestComplete
  dsimp only
  repeat' first | exact ⟨_, rfl⟩ | split

theorem execCopyChunk_next (c : Nat) (id : Nat) (s : State) :
    Answers (execCopyChunk c id s) := by
  unfold execCopyChunk
  dsimp only
  repeat' first | exact ⟨_, rfl⟩ | split

theorem execCopyComplete_next (c : Nat) (id : Nat) (s : State) :
    Answers (execCopyComplete c id s) := by
  unfold execCopyComplete
  dsimp only
  repeat' first | exact ⟨_, rfl⟩ | split

theorem execEfenceComplete_next (c : Nat) (id : Nat) (s : State) :
    Answers (execEfenceComplete c id s) := by
  unfold execEfenceComplete
  repeat' first | exact ⟨_, rfl⟩ | split

theorem execAtomicdata_next (p : Packet) (s : State) :
    Answers (execAtomicdata p s) := by
  unfold execAtomicdata
  dsimp only
  repeat' first | exact ⟨_, rfl⟩ | with_reducible apply execCopyChunk_next | split

theorem execGatherRowDelivery_next (c : Nat) (q : Nat) (s : State) :
    Answers (execGatherRowDelivery c q s) := by
  unfold execGatherRowDelivery
  dsimp only
  repeat' first | exact ⟨_, rfl⟩ | split

theorem execGstartIndexEntry_next (c : Nat) (q : Nat) (s : State) :
    Answers (execGstartIndexEntry c q s) := by
  unfold execGstartIndexEntry
  dsimp only
  repeat' first | exact ⟨_, rfl⟩ | split

theorem execFaultRecordPost_next (x : Nat) (s : State) :
    Answers (execFaultRecordPost x s) := by
  unfold execFaultRecordPost
  dsimp only
  repeat' first | exact ⟨_, rfl⟩ | split

theorem execKeyUseReport_next (x : Nat) (s : State) :
    Answers (execKeyUseReport x s) := by
  unfold execKeyUseReport
  dsimp only
  repeat' first | exact ⟨_, rfl⟩ | split

theorem execPageWalk_next (x : Nat) (s : State) :
    Answers (execPageWalk x s) := by
  unfold execPageWalk
  dsimp only
  repeat' first | exact ⟨_, rfl⟩ | split

theorem execCsend_next (a : RegF) (b : RegF) (ch : BitVec 12) (s : State) :
    Answers (execCsend a b ch s) := by
  unfold execCsend
  exact runSlot_next _ _ _

theorem execCrecv_next (a : RegF) (b : RegF) (ch : BitVec 12) (s : State) :
    Answers (execCrecv a b ch s) := by
  unfold execCrecv
  exact runSlot_next _ _ _

theorem execCcollAllred_next (a : RegF) (b : RegF) (r : BitVec 10) (s : State) :
    Answers (execCcollAllred a b r s) := by
  unfold execCcollAllred
  exact runSlot_next _ _ _

theorem execCcollRedscat_next (a : RegF) (b : RegF) (r : BitVec 10) (s : State) :
    Answers (execCcollRedscat a b r s) := by
  unfold execCcollRedscat
  exact runSlot_next _ _ _

theorem execCcollAllgath_next (a : RegF) (b : RegF) (r : BitVec 10) (s : State) :
    Answers (execCcollAllgath a b r s) := by
  unfold execCcollAllgath
  exact runSlot_next _ _ _

theorem execCcollBcast_next (a : RegF) (b : RegF) (r : BitVec 10) (s : State) :
    Answers (execCcollBcast a b r s) := by
  unfold execCcollBcast
  exact runSlot_next _ _ _

theorem execCcollReduce_next (a : RegF) (b : RegF) (r : BitVec 10) (s : State) :
    Answers (execCcollReduce a b r s) := by
  unfold execCcollReduce
  exact runSlot_next _ _ _

theorem execCcollPxch_next (a : RegF) (b : RegF) (r : BitVec 10) (s : State) :
    Answers (execCcollPxch a b r s) := by
  unfold execCcollPxch
  exact runSlot_next _ _ _

theorem execChunk_next (p : Packet) (s : State) :
    Answers (execChunk p s) := ⟨_, rfl⟩

theorem execAbortMarker_next (p : Packet) (s : State) :
    Answers (execAbortMarker p s) := ⟨_, rfl⟩

theorem execCreditReturn_next (p : Packet) (s : State) :
    Answers (execCreditReturn p s) := by
  unfold execCreditReturn
  dsimp only
  repeat' first | exact ⟨_, rfl⟩ | split

theorem execCollectiveStart_next (id : Nat) (s : State) :
    Answers (execCollectiveStart id s) := by
  unfold execCollectiveStart
  dsimp only
  repeat' first | exact ⟨_, rfl⟩ | split

theorem execStepTimeout_next (id : Nat) (s : State) :
    Answers (execStepTimeout id s) := by
  unfold execStepTimeout
  repeat' first | exact ⟨_, rfl⟩ | split

theorem execCollectiveComplete_next (id : Nat) (s : State) :
    Answers (execCollectiveComplete id s) := by
  unfold execCollectiveComplete
  dsimp only
  repeat' first | exact ⟨_, rfl⟩ | split

theorem execPrioritySwitch_next (port : Nat) (s : State) :
    Answers (execPrioritySwitch port s) := ⟨_, rfl⟩

theorem execXinvContext_next (x : Nat) (s : State) :
    Answers (execXinvContext x s) := ⟨_, rfl⟩

theorem execXinvPages_next (x : Nat) (s : State) :
    Answers (execXinvPages x s) := ⟨_, rfl⟩

theorem execXinvRanges_next (x : Nat) (s : State) :
    Answers (execXinvRanges x s) := ⟨_, rfl⟩

theorem execXinvNop_next (_x : Nat) (s : State) :
    Answers (execXinvNop _x s) := ⟨_, rfl⟩

theorem execXinvComplete_next (x : Nat) (s : State) :
    Answers (execXinvComplete x s) := by
  unfold execXinvComplete
  dsimp only
  repeat' first | exact ⟨_, rfl⟩ | split

theorem execMgctlReloadReduction_next (x : Nat) (s : State) :
    Answers (execMgctlReloadReduction x s) := ⟨_, rfl⟩

theorem execMgctlReloadMulticast_next (x : Nat) (s : State) :
    Answers (execMgctlReloadMulticast x s) := ⟨_, rfl⟩

theorem execMgctlReloadDone_next (x : Nat) (s : State) :
    Answers (execMgctlReloadDone x s) := by
  unfold execMgctlReloadDone
  dsimp only
  repeat' first | exact ⟨_, rfl⟩ | split

theorem execClctlReloadChannels_next (x : Nat) (s : State) :
    Answers (execClctlReloadChannels x s) := ⟨_, rfl⟩

theorem execClctlReloadRings_next (x : Nat) (s : State) :
    Answers (execClctlReloadRings x s) := ⟨_, rfl⟩

theorem execClctlReloadDone_next (x : Nat) (s : State) :
    Answers (execClctlReloadDone x s) := by
  unfold execClctlReloadDone
  dsimp only
  repeat' first | exact ⟨_, rfl⟩ | split

theorem execLaunchAccept_next (q : Option Nat) (s : State) :
    Answers (execLaunchAccept q s) := by
  unfold execLaunchAccept
  repeat' first | exact ⟨_, rfl⟩ | split

theorem execLaunchQueuePoll_next (q : Nat) (s : State) :
    Answers (execLaunchQueuePoll q s) := by
  unfold execLaunchQueuePoll
  dsimp only
  repeat' first | exact ⟨_, rfl⟩ | split

theorem execLqbaseWrite_next (q : Nat) (v : Word) (s : State) :
    Answers (execLqbaseWrite q v s) := by
  unfold execLqbaseWrite
  dsimp only
  repeat' first | exact ⟨_, rfl⟩ | split

theorem execUnitDispatch_next (l : Nat) (s : State) :
    Answers (execUnitDispatch l s) := by
  unfold execUnitDispatch
  dsimp only
  repeat' first | exact ⟨_, rfl⟩ | split

theorem execLaunchAged_next (l : Nat) (s : State) :
    Answers (execLaunchAged l s) := ⟨_, rfl⟩

theorem execImageLoad_next (c : Nat) (s : State) :
    Answers (execImageLoad c s) := by
  unfold execImageLoad
  dsimp only
  repeat' first | exact ⟨_, rfl⟩ | split

theorem execLaunchComplete_next (l : Nat) (s : State) :
    Answers (execLaunchComplete l s) := by
  unfold execLaunchComplete
  dsimp only
  repeat' first | exact ⟨_, rfl⟩ | split

theorem execSampleRecord_next (x : Nat) (s : State) :
    Answers (execSampleRecord x s) := by
  unfold execSampleRecord
  dsimp only
  repeat' first | exact ⟨_, rfl⟩ | split

theorem tctlStep_next (r : Except (Nat × Nat) State) (s : State) :
    Answers (tctlStep r s) := by
  unfold tctlStep
  repeat' first | exact ⟨_, rfl⟩ | split

theorem execTctlNone_next (c : Nat) (t : Bool) (v : Word) (s : State) :
    Answers (execTctlNone c t v s) := by
  unfold execTctlNone
  repeat' first | with_reducible apply tctlStep_next

theorem execTctlSetSkew_next (c : Nat) (t : Bool) (v : Word) (s : State) :
    Answers (execTctlSetSkew c t v s) := by
  unfold execTctlSetSkew
  repeat' first | with_reducible apply tctlStep_next

theorem execTctlClearSkew_next (c : Nat) (t : Bool) (v : Word) (s : State) :
    Answers (execTctlClearSkew c t v s) := by
  unfold execTctlClearSkew
  repeat' first | with_reducible apply tctlStep_next

theorem execTctlMakeMailbox_next (c : Nat) (t : Bool) (v : Word) (s : State) :
    Answers (execTctlMakeMailbox c t v s) := by
  unfold execTctlMakeMailbox
  repeat' first | with_reducible apply tctlStep_next

theorem execTctlReleaseMailbox_next (c : Nat) (t : Bool) (v : Word) (s : State) :
    Answers (execTctlReleaseMailbox c t v s) := by
  unfold execTctlReleaseMailbox
  repeat' first | with_reducible apply tctlStep_next

theorem execTctlDisarm_next (c : Nat) (t : Bool) (v : Word) (s : State) :
    Answers (execTctlDisarm c t v s) := by
  unfold execTctlDisarm
  repeat' first | with_reducible apply tctlStep_next

theorem lanewise_next (fs : List RegF) (d : RegF) (k : F3) (c : CSet) (lat : Nat) (f : Nat → Nat × Nat) (s : State) :
    Answers (lanewise fs d k c lat f s) := by
  unfold lanewise
  exact runSlot_next _ _ _

theorem vec2_next (d : RegF) (a : RegF) (b : RegF) (k : F3) (c : CSet) (lat : Nat) (f : Nat → Nat → Nat × Nat) (s : State) :
    Answers (vec2 d a b k c lat f s) := by
  unfold vec2
  repeat' first | with_reducible apply lanewise_next

theorem vec1_next (d : RegF) (a : RegF) (k : F3) (c : CSet) (lat : Nat) (f : Nat → Nat × Nat) (s : State) :
    Answers (vec1 d a k c lat f s) := by
  unfold vec1
  repeat' first | with_reducible apply lanewise_next

theorem execVaddI32_next (d : RegF) (a : RegF) (b : RegF) (k : F3) (c : CSet) (s : State) :
    Answers (execVaddI32 d a b k c s) := by
  unfold execVaddI32
  repeat' first | with_reducible apply vec2_next

theorem execVsubI32_next (d : RegF) (a : RegF) (b : RegF) (k : F3) (c : CSet) (s : State) :
    Answers (execVsubI32 d a b k c s) := by
  unfold execVsubI32
  repeat' first | with_reducible apply vec2_next

theorem execVmulI32_next (d : RegF) (a : RegF) (b : RegF) (k : F3) (c : CSet) (s : State) :
    Answers (execVmulI32 d a b k c s) := by
  unfold execVmulI32
  repeat' first | with_reducible apply vec2_next

theorem execVmulh_next (d : RegF) (a : RegF) (b : RegF) (k : F3) (c : CSet) (s : State) :
    Answers (execVmulh d a b k c s) := by
  unfold execVmulh
  repeat' first | with_reducible apply vec2_next

theorem execVand_next (d : RegF) (a : RegF) (b : RegF) (k : F3) (c : CSet) (s : State) :
    Answers (execVand d a b k c s) := by
  unfold execVand
  repeat' first | with_reducible apply vec2_next

theorem execVor_next (d : RegF) (a : RegF) (b : RegF) (k : F3) (c : CSet) (s : State) :
    Answers (execVor d a b k c s) := by
  unfold execVor
  repeat' first | with_reducible apply vec2_next

theorem execVxor_next (d : RegF) (a : RegF) (b : RegF) (k : F3) (c : CSet) (s : State) :
    Answers (execVxor d a b k c s) := by
  unfold execVxor
  repeat' first | with_reducible apply vec2_next

theorem execVabsI32_next (d : RegF) (a : RegF) (k : F3) (c : CSet) (s : State) :
    Answers (execVabsI32 d a k c s) := by
  unfold execVabsI32
  repeat' first | with_reducible apply vec1_next

theorem execVshl_next (d : RegF) (a : RegF) (b : RegF) (k : F3) (c : CSet) (s : State) :
    Answers (execVshl d a b k c s) := by
  unfold execVshl
  repeat' first | with_reducible apply vec2_next

theorem execVshr_next (d : RegF) (a : RegF) (b : RegF) (k : F3) (c : CSet) (s : State) :
    Answers (execVshr d a b k c s) := by
  unfold execVshr
  repeat' first | with_reducible apply vec2_next

theorem execVsar_next (d : RegF) (a : RegF) (b : RegF) (k : F3) (c : CSet) (s : State) :
    Answers (execVsar d a b k c s) := by
  unfold execVsar
  repeat' first | with_reducible apply vec2_next

theorem execVminI32_next (d : RegF) (a : RegF) (b : RegF) (k : F3) (c : CSet) (s : State) :
    Answers (execVminI32 d a b k c s) := by
  unfold execVminI32
  repeat' first | with_reducible apply vec2_next

theorem execVmaxI32_next (d : RegF) (a : RegF) (b : RegF) (k : F3) (c : CSet) (s : State) :
    Answers (execVmaxI32 d a b k c s) := by
  unfold execVmaxI32
  repeat' first | with_reducible apply vec2_next

theorem execVminU32_next (d : RegF) (a : RegF) (b : RegF) (k : F3) (c : CSet) (s : State) :
    Answers (execVminU32 d a b k c s) := by
  unfold execVminU32
  repeat' first | with_reducible apply vec2_next

theorem execVmaxU32_next (d : RegF) (a : RegF) (b : RegF) (k : F3) (c : CSet) (s : State) :
    Answers (execVmaxU32 d a b k c s) := by
  unfold execVmaxU32
  repeat' first | with_reducible apply vec2_next

theorem execVaddF32_next (d : RegF) (a : RegF) (b : RegF) (k : F3) (c : CSet) (s : State) :
    Answers (execVaddF32 d a b k c s) := by
  unfold execVaddF32
  repeat' first | with_reducible apply vec2_next

theorem execVsubF32_next (d : RegF) (a : RegF) (b : RegF) (k : F3) (c : CSet) (s : State) :
    Answers (execVsubF32 d a b k c s) := by
  unfold execVsubF32
  repeat' first | with_reducible apply vec2_next

theorem execVmulF32_next (d : RegF) (a : RegF) (b : RegF) (k : F3) (c : CSet) (s : State) :
    Answers (execVmulF32 d a b k c s) := by
  unfold execVmulF32
  repeat' first | with_reducible apply vec2_next

theorem execVfmaF32_next (d : RegF) (a : RegF) (b : RegF) (k : F3) (c : CSet) (s : State) :
    Answers (execVfmaF32 d a b k c s) := by
  unfold execVfmaF32
  repeat' first | with_reducible apply lanewise_next

theorem execVminF32_next (d : RegF) (a : RegF) (b : RegF) (k : F3) (c : CSet) (s : State) :
    Answers (execVminF32 d a b k c s) := by
  unfold execVminF32
  repeat' first | with_reducible apply vec2_next

theorem execVmaxF32_next (d : RegF) (a : RegF) (b : RegF) (k : F3) (c : CSet) (s : State) :
    Answers (execVmaxF32 d a b k c s) := by
  unfold execVmaxF32
  repeat' first | with_reducible apply vec2_next

theorem execVdot2Bf16_next (d : RegF) (a : RegF) (b : RegF) (k : F3) (c : CSet) (s : State) :
    Answers (execVdot2Bf16 d a b k c s) := by
  unfold execVdot2Bf16
  repeat' first | with_reducible apply vec2_next

theorem execVabsF32_next (d : RegF) (a : RegF) (k : F3) (c : CSet) (s : State) :
    Answers (execVabsF32 d a k c s) := by
  unfold execVabsF32
  repeat' first | with_reducible apply vec1_next

theorem execVnegF32_next (d : RegF) (a : RegF) (k : F3) (c : CSet) (s : State) :
    Answers (execVnegF32 d a k c s) := by
  unfold execVnegF32
  repeat' first | with_reducible apply vec1_next

theorem execVcpysF32_next (d : RegF) (a : RegF) (b : RegF) (k : F3) (c : CSet) (s : State) :
    Answers (execVcpysF32 d a b k c s) := by
  unfold execVcpysF32
  repeat' first | with_reducible apply vec2_next

theorem execVcmpF32_next (d : F3) (a : RegF) (b : RegF) (k : F3) (c : CSet) (f : FCond) (s : State) :
    Answers (execVcmpF32 d a b k c f s) := by
  unfold execVcmpF32
  exact runSlot_next _ _ _

theorem execVcmpI32_next (d : F3) (a : RegF) (b : RegF) (k : F3) (c : CSet) (f : ICond) (s : State) :
    Answers (execVcmpI32 d a b k c f s) := by
  unfold execVcmpI32
  exact runSlot_next _ _ _

theorem execVmov_next (d : RegF) (a : RegF) (k : F3) (c : CSet) (s : State) :
    Answers (execVmov d a k c s) := by
  unfold execVmov
  repeat' first | with_reducible apply vec1_next

theorem execVsel_next (d : RegF) (a : RegF) (b : RegF) (k : F3) (c : CSet) (s : State) :
    Answers (execVsel d a b k c s) := by
  unfold execVsel
  exact runSlot_next _ _ _

theorem execVbcast_next (d : RegF) (a : RegF) (k : F3) (c : CSet) (s : State) :
    Answers (execVbcast d a k c s) := by
  unfold execVbcast
  dsimp only
  repeat' first | with_reducible apply lanewise_next

theorem execVextr_next (d : RegF) (a : RegF) (b : RegF) (k : F3) (c : CSet) (s : State) :
    Answers (execVextr d a b k c s) := by
  unfold execVextr
  exact runSlot_next _ _ _

theorem execVins_next (d : RegF) (a : RegF) (b : RegF) (k : F3) (c : CSet) (s : State) :
    Answers (execVins d a b k c s) := by
  unfold execVins
  exact runSlot_next _ _ _

theorem execVperm_next (d : RegF) (a : RegF) (b : RegF) (k : F3) (c : CSet) (s : State) :
    Answers (execVperm d a b k c s) := by
  unfold execVperm
  repeat' first | with_reducible apply lanewise_next

theorem execVxcl_next (d : RegF) (a : RegF) (r : F3) (k : F3) (c : CSet) (s : State) :
    Answers (execVxcl d a r k c s) := by
  unfold execVxcl
  repeat' first | with_reducible apply lanewise_next

theorem execViota_next (d : RegF) (k : F3) (c : CSet) (s : State) :
    Answers (execViota d k c s) := ⟨_, rfl⟩

theorem vred_next (d : RegF) (a : RegF) (k : F3) (c : CSet) (op : Nat → Nat → Nat × Nat) (ident : Nat) (s : State) :
    Answers (vred d a k c op ident s) := by
  unfold vred
  exact runSlot_next _ _ _

theorem execVredaddF32_next (d : RegF) (a : RegF) (k : F3) (c : CSet) (s : State) :
    Answers (execVredaddF32 d a k c s) := by
  unfold execVredaddF32
  repeat' first | with_reducible apply vred_next

theorem execVredaddI32_next (d : RegF) (a : RegF) (k : F3) (c : CSet) (s : State) :
    Answers (execVredaddI32 d a k c s) := by
  unfold execVredaddI32
  repeat' first | with_reducible apply vred_next

theorem execVredmaxF32_next (d : RegF) (a : RegF) (k : F3) (c : CSet) (s : State) :
    Answers (execVredmaxF32 d a k c s) := by
  unfold execVredmaxF32
  repeat' first | with_reducible apply vred_next

theorem execVredmaxI32_next (d : RegF) (a : RegF) (k : F3) (c : CSet) (s : State) :
    Answers (execVredmaxI32 d a k c s) := by
  unfold execVredmaxI32
  repeat' first | with_reducible apply vred_next

theorem execVredminF32_next (d : RegF) (a : RegF) (k : F3) (c : CSet) (s : State) :
    Answers (execVredminF32 d a k c s) := by
  unfold execVredminF32
  repeat' first | with_reducible apply vred_next

theorem execVredminI32_next (d : RegF) (a : RegF) (k : F3) (c : CSet) (s : State) :
    Answers (execVredminI32 d a k c s) := by
  unfold execVredminI32
  repeat' first | with_reducible apply vred_next

theorem execVcvt_next (d : RegF) (a : RegF) (src : VFmt) (dst : VFmt) (k : F3) (c : CSet) (s : State) :
    Answers (execVcvt d a src dst k c s) := by
  unfold execVcvt
  exact runSlot_next _ _ _

theorem cvtFx128_next (d : RegF) (a : RegF) (p : Nat) (k : F3) (c : CSet) (s : State) :
    Answers (cvtFx128 d a p k c s) := by
  unfold cvtFx128
  exact runSlot_next _ _ _

theorem execVcvtF32Fx128Lo_next (d : RegF) (a : RegF) (p : BitVec 6) (k : F3) (c : CSet) (s : State) :
    Answers (execVcvtF32Fx128Lo d a p k c s) := by
  unfold execVcvtF32Fx128Lo
  repeat' first | with_reducible apply cvtFx128_next

theorem execVcvtF32Fx128Hi_next (d : RegF) (a : RegF) (p : BitVec 6) (k : F3) (c : CSet) (s : State) :
    Answers (execVcvtF32Fx128Hi d a p k c s) := by
  unfold execVcvtF32Fx128Hi
  repeat' first | with_reducible apply cvtFx128_next

theorem execVrcp_next (d : RegF) (a : RegF) (k : F3) (c : CSet) (s : State) :
    Answers (execVrcp d a k c s) := by
  unfold execVrcp
  repeat' first | with_reducible apply vec1_next

theorem execVrcpr_next (d : RegF) (a : RegF) (b : RegF) (k : F3) (c : CSet) (s : State) :
    Answers (execVrcpr d a b k c s) := by
  unfold execVrcpr
  repeat' first | with_reducible apply vec2_next

theorem execVrsq_next (d : RegF) (a : RegF) (k : F3) (c : CSet) (s : State) :
    Answers (execVrsq d a k c s) := by
  unfold execVrsq
  repeat' first | with_reducible apply vec1_next

theorem execVrsqr_next (d : RegF) (a : RegF) (b : RegF) (k : F3) (c : CSet) (s : State) :
    Answers (execVrsqr d a b k c s) := by
  unfold execVrsqr
  repeat' first | with_reducible apply vec2_next

theorem execVsqrt_next (d : RegF) (a : RegF) (k : F3) (c : CSet) (s : State) :
    Answers (execVsqrt d a k c s) := by
  unfold execVsqrt
  repeat' first | with_reducible apply vec1_next

theorem execVexp2_next (d : RegF) (a : RegF) (k : F3) (c : CSet) (s : State) :
    Answers (execVexp2 d a k c s) := by
  unfold execVexp2
  repeat' first | with_reducible apply vec1_next

theorem execVlog2_next (d : RegF) (a : RegF) (k : F3) (c : CSet) (s : State) :
    Answers (execVlog2 d a k c s) := by
  unfold execVlog2
  repeat' first | with_reducible apply vec1_next

theorem execVsin_next (d : RegF) (a : RegF) (k : F3) (c : CSet) (s : State) :
    Answers (execVsin d a k c s) := by
  unfold execVsin
  repeat' first | with_reducible apply vec1_next

theorem execVcos_next (d : RegF) (a : RegF) (k : F3) (c : CSet) (s : State) :
    Answers (execVcos d a k c s) := by
  unfold execVcos
  repeat' first | with_reducible apply vec1_next

theorem execVrand_next (d : RegF) (k : F3) (c : CSet) (s : State) :
    Answers (execVrand d k c s) := ⟨_, rfl⟩

theorem execVrandf_next (d : RegF) (k : F3) (c : CSet) (s : State) :
    Answers (execVrandf d k c s) := ⟨_, rfl⟩

theorem execVdrop_next (d : RegF) (a : RegF) (b : RegF) (k : F3) (c : CSet) (s : State) :
    Answers (execVdrop d a b k c s) := by
  unfold execVdrop
  exact runSlot_next _ _ _

theorem execVtopk_next (d : RegF) (a : RegF) (b : RegF) (k : F3) (c : CSet) (s : State) :
    Answers (execVtopk d a b k c s) := by
  unfold execVtopk
  dsimp only
  repeat' first | with_reducible apply lanewise_next

theorem execVmergek_next (d : RegF) (a : RegF) (b : RegF) (k : F3) (c : CSet) (s : State) :
    Answers (execVmergek d a b k c s) := by
  unfold execVmergek
  dsimp only
  repeat' first | with_reducible apply lanewise_next

theorem execLds_next (c : Nat) (pa : F3) (o : Bool) (n : BitVec 7) (s : State) :
    Answers (execLds c pa o n s) := ⟨_, rfl⟩

theorem execSwap_next (c : Nat) (s : State) :
    Answers (execSwap c s) := ⟨_, rfl⟩

theorem execStrm_next (c : Nat) (t : F3) (pa : F3) (n : BitVec 7) (s : State) :
    Answers (execStrm c t pa n s) := ⟨_, rfl⟩

theorem execStrmc_next (c : Nat) (t : F3) (pa : F3) (n : BitVec 7) (s : State) :
    Answers (execStrmc c t pa n s) := ⟨_, rfl⟩

theorem execZero_next (c : Nat) (t : F3) (s : State) :
    Answers (execZero c t s) := ⟨_, rfl⟩

theorem execScale_next (c : Nat) (t : F3) (i : BitVec 16) (s : State) :
    Answers (execScale c t i s) := ⟨_, rfl⟩

theorem execLdacc_next (c : Nat) (t : F3) (pa : F3) (s : State) :
    Answers (execLdacc c t pa s) := ⟨_, rfl⟩

theorem execDrain_next (c : Nat) (t : F3) (pa : F3) (pb : F3) (pc : F3) (fmt : BitVec 5) (s : State) :
    Answers (execDrain c t pa pb pc fmt s) := ⟨_, rfl⟩

theorem execAmax_next (c : Nat) (t : F3) (pb : F3) (s : State) :
    Answers (execAmax c t pb s) := ⟨_, rfl⟩

theorem execMadd_next (c : Nat) (pd : F3) (pa : F3) (i : BitVec 32) (s : State) :
    Answers (execMadd c pd pa i s) := ⟨_, rfl⟩

theorem execMloop_next (c : Nat) (p : F3) (target : BitVec 12) (s : State) :
    Answers (execMloop c p target s) := ⟨_, rfl⟩

theorem execMbrz_next (c : Nat) (p : F3) (target : BitVec 12) (s : State) :
    Answers (execMbrz c p target s) := ⟨_, rfl⟩

theorem execMwait_next (c : Nat) (cls : BitVec 2) (s : State) :
    Answers (execMwait c cls s) := ⟨_, rfl⟩

theorem execMend_next (c : Nat) (s : State) :
    Answers (execMend c s) := ⟨_, rfl⟩

theorem execRoutineBegin_next (c : Nat) (s : State) :
    Answers (execRoutineBegin c s) := by
  unfold execRoutineBegin
  dsimp only
  repeat' first | exact ⟨_, rfl⟩ | split

theorem execRoutineFinish_next (c : Nat) (s : State) :
    Answers (execRoutineFinish c s) := by
  unfold execRoutineFinish
  dsimp only
  repeat' first | exact ⟨_, rfl⟩ | split

theorem execRoutineFlagsJoin_next (c : Nat) (t : Bool) (s : State) :
    Answers (execRoutineFlagsJoin c t s) := ⟨_, rfl⟩

theorem execMpset_next (a : RegF) (n : F3) (s : State) :
    Answers (execMpset a n s) := by
  unfold execMpset
  exact runSlot_next _ _ _

theorem execMcall_next (e : BitVec 12) (s : State) :
    Answers (execMcall e s) := by
  unfold execMcall
  exact runSlot_next _ _ _

theorem execVaccrd_next (d : RegF) (a : RegF) (k : F3) (cl : CSet) (s : State) :
    Answers (execVaccrd d a k cl s) := by
  unfold execVaccrd
  exact runSlot_next _ _ _

theorem execCreate_next (x : Nat) (s : State) :
    Answers (execCreate x s) := by
  unfold execCreate
  repeat' first | exact ⟨_, rfl⟩ | split

theorem execCreateComplete_next (x : Nat) (s : State) :
    Answers (execCreateComplete x s) := by
  unfold execCreateComplete
  dsimp only
  repeat' first | exact ⟨_, rfl⟩ | split

theorem execKill_next (x : Nat) (s : State) :
    Answers (execKill x s) := by
  unfold execKill
  dsimp only
  repeat' first | exact ⟨_, rfl⟩ | split

theorem execKillComplete_next (x : Nat) (s : State) :
    Answers (execKillComplete x s) := by
  unfold execKillComplete
  dsimp only
  repeat' first | exact ⟨_, rfl⟩ | split

theorem execSignal_next (x : Nat) (s : State) :
    Answers (execSignal x s) := by
  unfold execSignal
  dsimp only
  repeat' first | exact ⟨_, rfl⟩ | split

theorem execWdclr_next (x : Nat) (s : State) :
    Answers (execWdclr x s) := by
  unfold execWdclr
  dsimp only
  repeat' first | exact ⟨_, rfl⟩ | split

theorem execUcload_next (x : Nat) (s : State) :
    Answers (execUcload x s) := by
  unfold execUcload
  dsimp only
  repeat' first | exact ⟨_, rfl⟩ | split

theorem execAttest_next (x : Nat) (s : State) :
    Answers (execAttest x s) := by
  unfold execAttest
  dsimp only
  repeat' first | exact ⟨_, rfl⟩ | split

theorem execDebugHalt_next (x : Nat) (s : State) :
    Answers (execDebugHalt x s) := by
  unfold execDebugHalt
  dsimp only
  repeat' first | exact ⟨_, rfl⟩ | split

theorem execQuantumEnd_next (x : Nat) (s : State) :
    Answers (execQuantumEnd x s) := by
  unfold execQuantumEnd
  dsimp only
  repeat' first | exact ⟨_, rfl⟩ | split

theorem execContextYield_next (x : Nat) (s : State) :
    Answers (execContextYield x s) := by
  unfold execContextYield
  repeat' first | exact ⟨_, rfl⟩ | split

theorem execSwitchOutComplete_next (x : Nat) (s : State) :
    Answers (execSwitchOutComplete x s) := by
  unfold execSwitchOutComplete
  dsimp only
  repeat' first | exact ⟨_, rfl⟩ | split

theorem execSwitchIn_next (x : Nat) (s : State) :
    Answers (execSwitchIn x s) := by
  unfold execSwitchIn
  dsimp only
  repeat' first | exact ⟨_, rfl⟩ | split

theorem execIdle_next (_n : BitVec 6) (_sat : Bool) (_rnd : Rnd) (_prof : BitVec 6) (s : State) :
    Answers (execIdle _n _sat _rnd _prof s) := ⟨_, rfl⟩

theorem execBrp_next (p : F3) (o : BitVec 22) (s : State) :
    Answers (execBrp p o s) := by
  unfold execBrp
  exact runSlot_next _ _ _

theorem execBr_next (o : BitVec 22) (s : State) :
    Answers (execBr o s) := by
  unfold execBr
  exact runSlot_next _ _ _

theorem execBrpn_next (p : F3) (o : BitVec 22) (s : State) :
    Answers (execBrpn p o s) := by
  unfold execBrpn
  exact runSlot_next _ _ _

theorem execCall_next (d : RegF) (i : BitVec 20) (s : State) :
    Answers (execCall d i s) := by
  unfold execCall
  exact runSlot_next _ _ _

theorem execJmp_next (a : RegF) (k : F3) (s : State) :
    Answers (execJmp a k s) := by
  unfold execJmp
  exact runSlot_next _ _ _

theorem execCallr_next (d : RegF) (a : RegF) (k : F3) (s : State) :
    Answers (execCallr d a k s) := by
  unfold execCallr
  exact runSlot_next _ _ _

theorem execRet_next (a : RegF) (k : F3) (s : State) :
    Answers (execRet a k s) := by
  unfold execRet
  exact runSlot_next _ _ _

theorem execSetf_next (d : BitVec 2) (a : RegF) (k : F3) (s : State) :
    Answers (execSetf d a k s) := by
  unfold execSetf
  exact runSlot_next _ _ _

theorem execLoop_next (d : RegF) (a : RegF) (i : BitVec 14) (s : State) :
    Answers (execLoop d a i s) := by
  unfold execLoop
  exact runSlot_next _ _ _

theorem execLoopi_next (d : RegF) (n : BitVec 6) (i : BitVec 14) (s : State) :
    Answers (execLoopi d n i s) := by
  unfold execLoopi
  exact runSlot_next _ _ _

theorem execBswap_next (p : F3) (o : BitVec 22) (s : State) :
    Answers (execBswap p o s) := by
  unfold execBswap
  exact runSlot_next _ _ _

theorem execWaita_next (a : RegF) (b : RegF) (k : F3) (_s : Scope) (c : WCond) (s : State) :
    Answers (execWaita a b k _s c s) := by
  unfold execWaita
  exact runSlot_next _ _ _

theorem execWaito_next (a : RegF) (i : BitVec 14) (s : State) :
    Answers (execWaito a i s) := by
  unfold execWaito
  exact runSlot_next _ _ _

theorem execTend_next (s : State) :
    Answers (execTend s) := by
  unfold execTend
  exact runSlot_next _ _ _

theorem execTrap_next (code : BitVec 16) (s : State) :
    Answers (execTrap code s) := by
  unfold execTrap
  repeat' first | exact ⟨_, rfl⟩ | split

theorem execBrk_next (code : BitVec 16) (s : State) :
    Answers (execBrk code s) := by
  unfold execBrk
  repeat' first | exact ⟨_, rfl⟩ | split

theorem execIfence_next (r : IRegion) (s : State) :
    Answers (execIfence r s) := by
  unfold execIfence
  exact runSlot_next _ _ _

theorem execSysr_next (d : RegF) (n : BitVec 12) (s : State) :
    Answers (execSysr d n s) := by
  unfold execSysr
  exact runSlot_next _ _ _

theorem execSysw_next (a : RegF) (n : BitVec 12) (s : State) :
    Answers (execSysw a n s) := by
  unfold execSysw
  exact runSlot_next _ _ _

theorem execEpochBoundary_next (s : State) :
    Answers (execEpochBoundary s) := ⟨_, rfl⟩

theorem execThermalWarn_next (d : Nat) (s : State) :
    Answers (execThermalWarn d s) := by
  unfold execThermalWarn
  repeat' first | exact ⟨_, rfl⟩ | split

theorem execThrottleStep_next (d : Nat) (s : State) :
    Answers (execThrottleStep d s) := by
  unfold execThrottleStep
  dsimp only
  repeat' first | exact ⟨_, rfl⟩ | split

theorem execThermalTrip_next (d : Nat) (s : State) :
    Answers (execThermalTrip d s) := by
  unfold execThermalTrip
  dsimp only
  repeat' first | exact ⟨_, rfl⟩ | split

theorem execColdStart_next (s : State) :
    Answers (execColdStart s) := by
  unfold execColdStart
  dsimp only
  repeat' first | exact ⟨_, rfl⟩ | split

theorem execFirmwarePush_next (s : State) :
    Answers (execFirmwarePush s) := by
  unfold execFirmwarePush
  dsimp only
  repeat' first | exact ⟨_, rfl⟩ | split

theorem execWarmStart_next (s : State) :
    Answers (execWarmStart s) := by
  unfold execWarmStart
  dsimp only
  repeat' first | exact ⟨_, rfl⟩ | split

theorem execHbmScrub_next (addr : Nat) (bad : Bool) (s : State) :
    Answers (execHbmScrub addr bad s) := by
  unfold execHbmScrub
  dsimp only
  repeat' first | exact ⟨_, rfl⟩ | split

theorem execRegisterWrite_next (addr : Nat) (bytes : List Byte) (s : State) :
    Answers (execRegisterWrite addr bytes s) := by
  unfold execRegisterWrite
  repeat' first | exact ⟨_, rfl⟩ | split

theorem execHostCxlMemRead_next (addr : Nat) (n : Nat) (s : State) :
    Answers (execHostCxlMemRead addr n s) := by
  unfold execHostCxlMemRead
  dsimp only
  repeat' first | exact ⟨_, rfl⟩ | split

theorem execHostCxlMemWrite_next (addr : Nat) (bytes : List Byte) (s : State) :
    Answers (execHostCxlMemWrite addr bytes s) := by
  unfold execHostCxlMemWrite
  repeat' first | exact ⟨_, rfl⟩ | split

theorem execHostSupervisorWrite_next (c : Nat) (off : Nat) (bytes : List Byte) (s : State) :
    Answers (execHostSupervisorWrite c off bytes s) := by
  unfold execHostSupervisorWrite
  repeat' first | exact ⟨_, rfl⟩ | split

theorem execHostCxlIoWindowAccess_next (addr : Nat) (n : Nat) (w : Option (List Byte)) (s : State) :
    Answers (execHostCxlIoWindowAccess addr n w s) := by
  unfold execHostCxlIoWindowAccess
  dsimp only
  repeat' first | exact ⟨_, rfl⟩ | split

theorem loadS_next (d : RegF) (b : RegF) (al : Bool) (o : BitVec 13) (n : Nat) (signed : Bool) (s : State) :
    Answers (loadS d b al o n signed s) := by
  unfold loadS
  exact runSlot_next _ _ _

theorem storeS_next (d : RegF) (b : RegF) (al : Bool) (o : BitVec 13) (n : Nat) (s : State) :
    Answers (storeS d b al o n s) := by
  unfold storeS
  exact runSlot_next _ _ _

theorem execLdB_next (d : RegF) (b : RegF) (l : Bool) (o : BitVec 13) (s : State) :
    Answers (execLdB d b l o s) := by
  unfold execLdB
  repeat' first | with_reducible apply loadS_next

theorem execLdH_next (d : RegF) (b : RegF) (l : Bool) (o : BitVec 13) (s : State) :
    Answers (execLdH d b l o s) := by
  unfold execLdH
  repeat' first | with_reducible apply loadS_next

theorem execLdW_next (d : RegF) (b : RegF) (l : Bool) (o : BitVec 13) (s : State) :
    Answers (execLdW d b l o s) := by
  unfold execLdW
  repeat' first | with_reducible apply loadS_next

theorem execLdD_next (d : RegF) (b : RegF) (l : Bool) (o : BitVec 13) (s : State) :
    Answers (execLdD d b l o s) := by
  unfold execLdD
  repeat' first | with_reducible apply loadS_next

theorem execLduB_next (d : RegF) (b : RegF) (l : Bool) (o : BitVec 13) (s : State) :
    Answers (execLduB d b l o s) := by
  unfold execLduB
  repeat' first | with_reducible apply loadS_next

theorem execLduH_next (d : RegF) (b : RegF) (l : Bool) (o : BitVec 13) (s : State) :
    Answers (execLduH d b l o s) := by
  unfold execLduH
  repeat' first | with_reducible apply loadS_next

theorem execLduW_next (d : RegF) (b : RegF) (l : Bool) (o : BitVec 13) (s : State) :
    Answers (execLduW d b l o s) := by
  unfold execLduW
  repeat' first | with_reducible apply loadS_next

theorem execStB_next (d : RegF) (b : RegF) (l : Bool) (o : BitVec 13) (s : State) :
    Answers (execStB d b l o s) := by
  unfold execStB
  repeat' first | with_reducible apply storeS_next

theorem execStH_next (d : RegF) (b : RegF) (l : Bool) (o : BitVec 13) (s : State) :
    Answers (execStH d b l o s) := by
  unfold execStH
  repeat' first | with_reducible apply storeS_next

theorem execStW_next (d : RegF) (b : RegF) (l : Bool) (o : BitVec 13) (s : State) :
    Answers (execStW d b l o s) := by
  unfold execStW
  repeat' first | with_reducible apply storeS_next

theorem execStD_next (d : RegF) (b : RegF) (l : Bool) (o : BitVec 13) (s : State) :
    Answers (execStD d b l o s) := by
  unfold execStD
  repeat' first | with_reducible apply storeS_next

theorem execVld_next (d : RegF) (b : RegF) (l : Bool) (c : CSet) (o : BitVec 11) (s : State) :
    Answers (execVld d b l c o s) := by
  unfold execVld
  exact runSlot_next _ _ _

theorem execVldb_next (d : RegF) (b : RegF) (l : Bool) (c : CSet) (o : BitVec 11) (s : State) :
    Answers (execVldb d b l c o s) := by
  unfold execVldb
  exact runSlot_next _ _ _

theorem execVst_next (d : RegF) (b : RegF) (l : Bool) (c : CSet) (o : BitVec 11) (s : State) :
    Answers (execVst d b l c o s) := by
  unfold execVst
  exact runSlot_next _ _ _

theorem execVldt_next (d : RegF) (b : RegF) (l : Bool) (c : CSet) (o : BitVec 11) (s : State) :
    Answers (execVldt d b l c o s) := by
  unfold execVldt
  exact runSlot_next _ _ _

theorem execVstt_next (d : RegF) (b : RegF) (l : Bool) (c : CSet) (o : BitVec 11) (s : State) :
    Answers (execVstt d b l c o s) := by
  unfold execVstt
  exact runSlot_next _ _ _

theorem execVlds_next (d : RegF) (a : RegF) (b : RegF) (k : F3) (c : CSet) (l : Bool) (s : State) :
    Answers (execVlds d a b k c l s) := by
  unfold execVlds
  exact runSlot_next _ _ _

theorem execVsts_next (d : RegF) (a : RegF) (b : RegF) (k : F3) (c : CSet) (l : Bool) (s : State) :
    Answers (execVsts d a b k c l s) := by
  unfold execVsts
  exact runSlot_next _ _ _

theorem loadK_next (d : RegF) (a : RegF) (b : RegF) (c : CSet) (l : Bool) (k : Nat) (s : State) :
    Answers (loadK d a b c l k s) := by
  unfold loadK
  exact runSlot_next _ _ _

theorem storeK_next (d : RegF) (a : RegF) (b : RegF) (c : CSet) (l : Bool) (k : Nat) (s : State) :
    Answers (storeK d a b c l k s) := by
  unfold storeK
  exact runSlot_next _ _ _

theorem execVldkKbf7_next (d : RegF) (a : RegF) (b : RegF) (c : CSet) (l : Bool) (s : State) :
    Answers (execVldkKbf7 d a b c l s) := by
  unfold execVldkKbf7
  repeat' first | with_reducible apply loadK_next

theorem execVldkKbf4_next (d : RegF) (a : RegF) (b : RegF) (c : CSet) (l : Bool) (s : State) :
    Answers (execVldkKbf4 d a b c l s) := by
  unfold execVldkKbf4
  repeat' first | with_reducible apply loadK_next

theorem execVldkKbf2_next (d : RegF) (a : RegF) (b : RegF) (c : CSet) (l : Bool) (s : State) :
    Answers (execVldkKbf2 d a b c l s) := by
  unfold execVldkKbf2
  repeat' first | with_reducible apply loadK_next

theorem execVstkKbf7_next (d : RegF) (a : RegF) (b : RegF) (c : CSet) (l : Bool) (s : State) :
    Answers (execVstkKbf7 d a b c l s) := by
  unfold execVstkKbf7
  repeat' first | with_reducible apply storeK_next

theorem execVstkKbf4_next (d : RegF) (a : RegF) (b : RegF) (c : CSet) (l : Bool) (s : State) :
    Answers (execVstkKbf4 d a b c l s) := by
  unfold execVstkKbf4
  repeat' first | with_reducible apply storeK_next

theorem execVstkKbf2_next (d : RegF) (a : RegF) (b : RegF) (c : CSet) (l : Bool) (s : State) :
    Answers (execVstkKbf2 d a b c l s) := by
  unfold execVstkKbf2
  repeat' first | with_reducible apply storeK_next

theorem amo_next (op : AmoOp) (d : RegF) (a : RegF) (b : RegF) (k : F3) (l : Bool) (s : State) :
    Answers (amo op d a b k l s) := by
  unfold amo
  exact runSlot_next _ _ _

theorem execAmoAdd_next (d : RegF) (a : RegF) (b : RegF) (k : F3) (l : Bool) (s : State) :
    Answers (execAmoAdd d a b k l s) := by
  unfold execAmoAdd
  repeat' first | with_reducible apply amo_next

theorem execAmoMax_next (d : RegF) (a : RegF) (b : RegF) (k : F3) (l : Bool) (s : State) :
    Answers (execAmoMax d a b k l s) := by
  unfold execAmoMax
  repeat' first | with_reducible apply amo_next

theorem execAmoMin_next (d : RegF) (a : RegF) (b : RegF) (k : F3) (l : Bool) (s : State) :
    Answers (execAmoMin d a b k l s) := by
  unfold execAmoMin
  repeat' first | with_reducible apply amo_next

theorem execAmoSwap_next (d : RegF) (a : RegF) (b : RegF) (k : F3) (l : Bool) (s : State) :
    Answers (execAmoSwap d a b k l s) := by
  unfold execAmoSwap
  repeat' first | with_reducible apply amo_next

theorem execAmoCas_next (d : RegF) (a : RegF) (b : RegF) (k : F3) (l : Bool) (s : State) :
    Answers (execAmoCas d a b k l s) := by
  unfold execAmoCas
  repeat' first | with_reducible apply amo_next

theorem execQpush_next (d : BitVec 2) (a : RegF) (k : F3) (s : State) :
    Answers (execQpush d a k s) := by
  unfold execQpush
  exact runSlot_next _ _ _

theorem execQdrop_next (d : BitVec 2) (k : F3) (s : State) :
    Answers (execQdrop d k s) := by
  unfold execQdrop
  exact runSlot_next _ _ _

theorem execResultLanding_next (c : Nat) (t : Bool) (s : State) :
    Answers (execResultLanding c t s) := by
  unfold execResultLanding
  dsimp only
  repeat' first | exact ⟨_, rfl⟩ | split

theorem execPendingAccessPerform_next (c : Nat) (s : State) :
    Answers (execPendingAccessPerform c s) := by
  unfold execPendingAccessPerform
  repeat' first | exact ⟨_, rfl⟩ | split

theorem execSleepEnd_next (c : Nat) (t : Bool) (s : State) :
    Answers (execSleepEnd c t s) := by
  unfold execSleepEnd
  dsimp only
  repeat' first | exact ⟨_, rfl⟩ | split

theorem execWaitLimitExpiry_next (c : Nat) (t : Bool) (s : State) :
    Answers (execWaitLimitExpiry c t s) := by
  unfold execWaitLimitExpiry
  dsimp only
  repeat' first | exact ⟨_, rfl⟩ | split

theorem execTrapEntry_next (c : Nat) (t : Bool) (s : State) :
    Answers (execTrapEntry c t s) := by
  unfold execTrapEntry
  repeat' first | exact ⟨_, rfl⟩ | split

theorem execTretResume_next (c : Nat) (t : Bool) (s : State) :
    Answers (execTretResume c t s) := by
  unfold execTretResume
  repeat' first | exact ⟨_, rfl⟩ | split

theorem execTretEnd_next (c : Nat) (t : Bool) (s : State) :
    Answers (execTretEnd c t s) := by
  unfold execTretEnd
  repeat' first | exact ⟨_, rfl⟩ | split

theorem execTaskEnd_next (c : Nat) (t : Bool) (s : State) :
    Answers (execTaskEnd c t s) := by
  unfold execTaskEnd
  dsimp only
  repeat' first | exact ⟨_, rfl⟩ | split

theorem execGangJoin_next (g : Nat) (s : State) :
    Answers (execGangJoin g s) := by
  unfold execGangJoin
  dsimp only
  repeat' first | exact ⟨_, rfl⟩ | split

theorem execGangMessageLanding_next (c : Nat) (s : State) :
    Answers (execGangMessageLanding c s) := by
  unfold execGangMessageLanding
  repeat' first | exact ⟨_, rfl⟩ | split

theorem execCollisionCycle_next (c : Nat) (s : State) :
    Answers (execCollisionCycle c s) := by
  unfold execCollisionCycle
  dsimp only
  repeat' first | exact ⟨_, rfl⟩ | split

theorem execPowerFreeze_next (c : Nat) (s : State) :
    Answers (execPowerFreeze c s) := by
  unfold execPowerFreeze
  dsimp only
  repeat' first | exact ⟨_, rfl⟩ | split

theorem execFreezeEnd_next (c : Nat) (s : State) :
    Answers (execFreezeEnd c s) := by
  unfold execFreezeEnd
  dsimp only
  repeat' first | exact ⟨_, rfl⟩ | split

theorem alu_next (d : RegF) (a : RegF) (b : RegF) (k : F3) (lat : Nat) (f : Word → Word → Word) (s : State) :
    Answers (alu d a b k lat f s) := by
  unfold alu
  exact runSlot_next _ _ _

theorem alu1_next (d : RegF) (a : RegF) (k : F3) (lat : Nat) (f : Word → Word) (s : State) :
    Answers (alu1 d a k lat f s) := by
  unfold alu1
  exact runSlot_next _ _ _

theorem alui_next (d : RegF) (a : RegF) (f : Word → Word) (s : State) :
    Answers (alui d a f s) := by
  unfold alui
  exact runSlot_next _ _ _

theorem execAdd_next (d : RegF) (a : RegF) (b : RegF) (k : F3) (s : State) :
    Answers (execAdd d a b k s) := by
  unfold execAdd
  repeat' first | with_reducible apply alu_next

theorem execSub_next (d : RegF) (a : RegF) (b : RegF) (k : F3) (s : State) :
    Answers (execSub d a b k s) := by
  unfold execSub
  repeat' first | with_reducible apply alu_next

theorem execMul_next (d : RegF) (a : RegF) (b : RegF) (k : F3) (s : State) :
    Answers (execMul d a b k s) := by
  unfold execMul
  repeat' first | with_reducible apply alu_next

theorem execMulh_next (d : RegF) (a : RegF) (b : RegF) (k : F3) (s : State) :
    Answers (execMulh d a b k s) := by
  unfold execMulh
  repeat' first | with_reducible apply alu_next

theorem execMulhu_next (d : RegF) (a : RegF) (b : RegF) (k : F3) (s : State) :
    Answers (execMulhu d a b k s) := by
  unfold execMulhu
  repeat' first | with_reducible apply alu_next

theorem execDivs_next (d : RegF) (a : RegF) (b : RegF) (k : F3) (s : State) :
    Answers (execDivs d a b k s) := by
  unfold execDivs
  repeat' first | with_reducible apply alu_next

theorem execDivu_next (d : RegF) (a : RegF) (b : RegF) (k : F3) (s : State) :
    Answers (execDivu d a b k s) := by
  unfold execDivu
  repeat' first | with_reducible apply alu_next

theorem execRems_next (d : RegF) (a : RegF) (b : RegF) (k : F3) (s : State) :
    Answers (execRems d a b k s) := by
  unfold execRems
  repeat' first | with_reducible apply alu_next

theorem execRemu_next (d : RegF) (a : RegF) (b : RegF) (k : F3) (s : State) :
    Answers (execRemu d a b k s) := by
  unfold execRemu
  repeat' first | with_reducible apply alu_next

theorem execAnd_next (d : RegF) (a : RegF) (b : RegF) (k : F3) (s : State) :
    Answers (execAnd d a b k s) := by
  unfold execAnd
  repeat' first | with_reducible apply alu_next

theorem execOr_next (d : RegF) (a : RegF) (b : RegF) (k : F3) (s : State) :
    Answers (execOr d a b k s) := by
  unfold execOr
  repeat' first | with_reducible apply alu_next

theorem execXor_next (d : RegF) (a : RegF) (b : RegF) (k : F3) (s : State) :
    Answers (execXor d a b k s) := by
  unfold execXor
  repeat' first | with_reducible apply alu_next

theorem execAndn_next (d : RegF) (a : RegF) (b : RegF) (k : F3) (s : State) :
    Answers (execAndn d a b k s) := by
  unfold execAndn
  repeat' first | with_reducible apply alu_next

theorem execShl_next (d : RegF) (a : RegF) (b : RegF) (k : F3) (s : State) :
    Answers (execShl d a b k s) := by
  unfold execShl
  repeat' first | with_reducible apply alu_next

theorem execShr_next (d : RegF) (a : RegF) (b : RegF) (k : F3) (s : State) :
    Answers (execShr d a b k s) := by
  unfold execShr
  repeat' first | with_reducible apply alu_next

theorem execSar_next (d : RegF) (a : RegF) (b : RegF) (k : F3) (s : State) :
    Answers (execSar d a b k s) := by
  unfold execSar
  repeat' first | with_reducible apply alu_next

theorem execMin_next (d : RegF) (a : RegF) (b : RegF) (k : F3) (s : State) :
    Answers (execMin d a b k s) := by
  unfold execMin
  repeat' first | with_reducible apply alu_next

theorem execMax_next (d : RegF) (a : RegF) (b : RegF) (k : F3) (s : State) :
    Answers (execMax d a b k s) := by
  unfold execMax
  repeat' first | with_reducible apply alu_next

theorem execMinu_next (d : RegF) (a : RegF) (b : RegF) (k : F3) (s : State) :
    Answers (execMinu d a b k s) := by
  unfold execMinu
  repeat' first | with_reducible apply alu_next

theorem execMaxu_next (d : RegF) (a : RegF) (b : RegF) (k : F3) (s : State) :
    Answers (execMaxu d a b k s) := by
  unfold execMaxu
  repeat' first | with_reducible apply alu_next

theorem execClz_next (d : RegF) (a : RegF) (k : F3) (s : State) :
    Answers (execClz d a k s) := by
  unfold execClz
  repeat' first | with_reducible apply alu1_next

theorem execCtz_next (d : RegF) (a : RegF) (k : F3) (s : State) :
    Answers (execCtz d a k s) := by
  unfold execCtz
  repeat' first | with_reducible apply alu1_next

theorem execPopc_next (d : RegF) (a : RegF) (k : F3) (s : State) :
    Answers (execPopc d a k s) := by
  unfold execPopc
  repeat' first | with_reducible apply alu1_next

theorem execSel_next (d : RegF) (a : RegF) (b : RegF) (k : F3) (s : State) :
    Answers (execSel d a b k s) := by
  unfold execSel
  exact runSlot_next _ _ _

theorem execAddi_next (d : RegF) (a : RegF) (i : BitVec 14) (s : State) :
    Answers (execAddi d a i s) := by
  unfold execAddi
  repeat' first | with_reducible apply alui_next

theorem execAndi_next (d : RegF) (a : RegF) (i : BitVec 14) (s : State) :
    Answers (execAndi d a i s) := by
  unfold execAndi
  repeat' first | with_reducible apply alui_next

theorem execOri_next (d : RegF) (a : RegF) (i : BitVec 14) (s : State) :
    Answers (execOri d a i s) := by
  unfold execOri
  repeat' first | with_reducible apply alui_next

theorem execXori_next (d : RegF) (a : RegF) (i : BitVec 14) (s : State) :
    Answers (execXori d a i s) := by
  unfold execXori
  repeat' first | with_reducible apply alui_next

theorem execShli_next (d : RegF) (a : RegF) (n : BitVec 6) (s : State) :
    Answers (execShli d a n s) := by
  unfold execShli
  repeat' first | with_reducible apply alui_next

theorem execShri_next (d : RegF) (a : RegF) (n : BitVec 6) (s : State) :
    Answers (execShri d a n s) := by
  unfold execShri
  repeat' first | with_reducible apply alui_next

theorem execSari_next (d : RegF) (a : RegF) (n : BitVec 6) (s : State) :
    Answers (execSari d a n s) := by
  unfold execSari
  repeat' first | with_reducible apply alui_next

theorem execLui_next (d : RegF) (i : BitVec 20) (s : State) :
    Answers (execLui d i s) := by
  unfold execLui
  exact runSlot_next _ _ _

theorem execLhi_next (d : RegF) (i : BitVec 20) (s : State) :
    Answers (execLhi d i s) := by
  unfold execLhi
  exact runSlot_next _ _ _

theorem execLtop_next (d : RegF) (i : BitVec 12) (s : State) :
    Answers (execLtop d i s) := by
  unfold execLtop
  exact runSlot_next _ _ _

theorem execExt_next (d : RegF) (a : RegF) (w : BitVec 6) (p : BitVec 6) (s : State) :
    Answers (execExt d a w p s) := by
  unfold execExt
  repeat' first | with_reducible apply alui_next

theorem execIns_next (d : RegF) (a : RegF) (w : BitVec 6) (p : BitVec 6) (s : State) :
    Answers (execIns d a w p s) := by
  unfold execIns
  exact runSlot_next _ _ _

theorem execWidx_next (d : RegF) (f : F3) (s : State) :
    Answers (execWidx d f s) := by
  unfold execWidx
  exact runSlot_next _ _ _

theorem execCmp_next (d : F3) (a : RegF) (b : RegF) (k : F3) (c : Cond) (s : State) :
    Answers (execCmp d a b k c s) := by
  unfold execCmp
  exact runSlot_next _ _ _

theorem execCmpi_next (d : F3) (a : RegF) (c : Cond) (i : BitVec 10) (s : State) :
    Answers (execCmpi d a c i s) := by
  unfold execCmpi
  exact runSlot_next _ _ _

theorem predOp_next (d : F3) (k : F3) (v : Bool) (s : State) :
    Answers (predOp d k v s) := by
  unfold predOp
  exact runSlot_next _ _ _

theorem execPand_next (d : F3) (a : F3) (b : F3) (k : F3) (s : State) :
    Answers (execPand d a b k s) := by
  unfold execPand
  repeat' first | with_reducible apply predOp_next

theorem execPor_next (d : F3) (a : F3) (b : F3) (k : F3) (s : State) :
    Answers (execPor d a b k s) := by
  unfold execPor
  repeat' first | with_reducible apply predOp_next

theorem execPxor_next (d : F3) (a : F3) (b : F3) (k : F3) (s : State) :
    Answers (execPxor d a b k s) := by
  unfold execPxor
  repeat' first | with_reducible apply predOp_next

theorem execPnot_next (d : F3) (a : F3) (k : F3) (s : State) :
    Answers (execPnot d a k s) := by
  unfold execPnot
  repeat' first | with_reducible apply predOp_next

theorem exec_next (i : Instr) (s : State) : Answers (exec i s) := by
  cases i with
  | idle n sat rnd prof => exact execIdle_next n sat rnd prof s
  | brp p o => exact execBrp_next p o s
  | br o => exact execBr_next o s
  | brpn p o => exact execBrpn_next p o s
  | call d im => exact execCall_next d im s
  | jmp a k => exact execJmp_next a k s
  | callr d a k => exact execCallr_next d a k s
  | ret a k => exact execRet_next a k s
  | setf d a k => exact execSetf_next d a k s
  | loop d a im => exact execLoop_next d a im s
  | loopi d n im => exact execLoopi_next d n im s
  | bswap p o => exact execBswap_next p o s
  | waita a b k sc c => exact execWaita_next a b k sc c s
  | waito a im => exact execWaito_next a im s
  | tend => exact execTend_next s
  | trap code => exact execTrap_next code s
  | brk code => exact execBrk_next code s
  | ifence r => exact execIfence_next r s
  | sysr d n => exact execSysr_next d n s
  | sysw a n => exact execSysw_next a n s
  | add d a b k => exact execAdd_next d a b k s
  | sub d a b k => exact execSub_next d a b k s
  | mul d a b k => exact execMul_next d a b k s
  | mulh d a b k => exact execMulh_next d a b k s
  | mulhu d a b k => exact execMulhu_next d a b k s
  | divs d a b k => exact execDivs_next d a b k s
  | divu d a b k => exact execDivu_next d a b k s
  | rems d a b k => exact execRems_next d a b k s
  | remu d a b k => exact execRemu_next d a b k s
  | and d a b k => exact execAnd_next d a b k s
  | or d a b k => exact execOr_next d a b k s
  | xor d a b k => exact execXor_next d a b k s
  | andn d a b k => exact execAndn_next d a b k s
  | shl d a b k => exact execShl_next d a b k s
  | shr d a b k => exact execShr_next d a b k s
  | sar d a b k => exact execSar_next d a b k s
  | min d a b k => exact execMin_next d a b k s
  | max d a b k => exact execMax_next d a b k s
  | minu d a b k => exact execMinu_next d a b k s
  | maxu d a b k => exact execMaxu_next d a b k s
  | clz d a k => exact execClz_next d a k s
  | ctz d a k => exact execCtz_next d a k s
  | popc d a k => exact execPopc_next d a k s
  | sel d a b k => exact execSel_next d a b k s
  | addi d a im => exact execAddi_next d a im s
  | andi d a im => exact execAndi_next d a im s
  | ori d a im => exact execOri_next d a im s
  | xori d a im => exact execXori_next d a im s
  | shli d a n => exact execShli_next d a n s
  | shri d a n => exact execShri_next d a n s
  | sari d a n => exact execSari_next d a n s
  | lui d im => exact execLui_next d im s
  | lhi d im => exact execLhi_next d im s
  | ltop d im => exact execLtop_next d im s
  | ext d a w p => exact execExt_next d a w p s
  | ins d a w p => exact execIns_next d a w p s
  | widx d f => exact execWidx_next d f s
  | cmp d a b k c => exact execCmp_next d a b k c s
  | cmpi d a c im => exact execCmpi_next d a c im s
  | pand d a b k => exact execPand_next d a b k s
  | por d a b k => exact execPor_next d a b k s
  | pxor d a b k => exact execPxor_next d a b k s
  | pnot d a k => exact execPnot_next d a k s
  | ldB d sc l o => exact execLdB_next d sc l o s
  | ldH d sc l o => exact execLdH_next d sc l o s
  | ldW d sc l o => exact execLdW_next d sc l o s
  | ldD d sc l o => exact execLdD_next d sc l o s
  | lduB d sc l o => exact execLduB_next d sc l o s
  | lduH d sc l o => exact execLduH_next d sc l o s
  | lduW d sc l o => exact execLduW_next d sc l o s
  | stB d sc l o => exact execStB_next d sc l o s
  | stH d sc l o => exact execStH_next d sc l o s
  | stW d sc l o => exact execStW_next d sc l o s
  | stD d sc l o => exact execStD_next d sc l o s
  | vld d sc l c o => exact execVld_next d sc l c o s
  | vldb d sc l c o => exact execVldb_next d sc l c o s
  | vldt d sc l c o => exact execVldt_next d sc l c o s
  | vst d sc l c o => exact execVst_next d sc l c o s
  | vstt d sc l c o => exact execVstt_next d sc l c o s
  | vlds d a b k c l => exact execVlds_next d a b k c l s
  | vsts d a b k c l => exact execVsts_next d a b k c l s
  | amoAdd d a b k l => exact execAmoAdd_next d a b k l s
  | amoMax d a b k l => exact execAmoMax_next d a b k l s
  | amoMin d a b k l => exact execAmoMin_next d a b k l s
  | amoSwap d a b k l => exact execAmoSwap_next d a b k l s
  | amoCas d a b k l => exact execAmoCas_next d a b k l s
  | qpush d a k => exact execQpush_next d a k s
  | qdrop d k => exact execQdrop_next d k s
  | vldkKbf7 d a b c l => exact execVldkKbf7_next d a b c l s
  | vldkKbf4 d a b c l => exact execVldkKbf4_next d a b c l s
  | vldkKbf2 d a b c l => exact execVldkKbf2_next d a b c l s
  | vstkKbf7 d a b c l => exact execVstkKbf7_next d a b c l s
  | vstkKbf4 d a b c l => exact execVstkKbf4_next d a b c l s
  | vstkKbf2 d a b c l => exact execVstkKbf2_next d a b c l s
  | vaddI32 d a b k c => exact execVaddI32_next d a b k c s
  | vsubI32 d a b k c => exact execVsubI32_next d a b k c s
  | vmulI32 d a b k c => exact execVmulI32_next d a b k c s
  | vmulh d a b k c => exact execVmulh_next d a b k c s
  | vand d a b k c => exact execVand_next d a b k c s
  | vor d a b k c => exact execVor_next d a b k c s
  | vxor d a b k c => exact execVxor_next d a b k c s
  | vabsI32 d a k c => exact execVabsI32_next d a k c s
  | vshl d a b k c => exact execVshl_next d a b k c s
  | vshr d a b k c => exact execVshr_next d a b k c s
  | vsar d a b k c => exact execVsar_next d a b k c s
  | vminI32 d a b k c => exact execVminI32_next d a b k c s
  | vmaxI32 d a b k c => exact execVmaxI32_next d a b k c s
  | vminU32 d a b k c => exact execVminU32_next d a b k c s
  | vmaxU32 d a b k c => exact execVmaxU32_next d a b k c s
  | vaddF32 d a b k c => exact execVaddF32_next d a b k c s
  | vsubF32 d a b k c => exact execVsubF32_next d a b k c s
  | vmulF32 d a b k c => exact execVmulF32_next d a b k c s
  | vfmaF32 d a b k c => exact execVfmaF32_next d a b k c s
  | vminF32 d a b k c => exact execVminF32_next d a b k c s
  | vmaxF32 d a b k c => exact execVmaxF32_next d a b k c s
  | vdot2Bf16 d a b k c => exact execVdot2Bf16_next d a b k c s
  | vabsF32 d a k c => exact execVabsF32_next d a k c s
  | vnegF32 d a k c => exact execVnegF32_next d a k c s
  | vcpysF32 d a b k c => exact execVcpysF32_next d a b k c s
  | vaccrd d a k c => exact execVaccrd_next d a k c s
  | vcmpF32 d a b k c f => exact execVcmpF32_next d a b k c f s
  | vcmpI32 d a b k c f => exact execVcmpI32_next d a b k c f s
  | vmov d a k c => exact execVmov_next d a k c s
  | vsel d a b k c => exact execVsel_next d a b k c s
  | vbcast d a k c => exact execVbcast_next d a k c s
  | vextr d a b k c => exact execVextr_next d a b k c s
  | vins d a b k c => exact execVins_next d a b k c s
  | vperm d a b k c => exact execVperm_next d a b k c s
  | vxcl d a r k c => exact execVxcl_next d a r k c s
  | viota d k c => exact execViota_next d k c s
  | vredaddF32 d a k c => exact execVredaddF32_next d a k c s
  | vredaddI32 d a k c => exact execVredaddI32_next d a k c s
  | vredmaxF32 d a k c => exact execVredmaxF32_next d a k c s
  | vredmaxI32 d a k c => exact execVredmaxI32_next d a k c s
  | vredminF32 d a k c => exact execVredminF32_next d a k c s
  | vredminI32 d a k c => exact execVredminI32_next d a k c s
  | vcvt d a sc t k c => exact execVcvt_next d a sc t k c s
  | vcvtF32Fx128Lo d a p k c => exact execVcvtF32Fx128Lo_next d a p k c s
  | vcvtF32Fx128Hi d a p k c => exact execVcvtF32Fx128Hi_next d a p k c s
  | vrcp d a k c => exact execVrcp_next d a k c s
  | vrcpr d a b k c => exact execVrcpr_next d a b k c s
  | vrsq d a k c => exact execVrsq_next d a k c s
  | vrsqr d a b k c => exact execVrsqr_next d a b k c s
  | vsqrt d a k c => exact execVsqrt_next d a k c s
  | vexp2 d a k c => exact execVexp2_next d a k c s
  | vlog2 d a k c => exact execVlog2_next d a k c s
  | vsin d a k c => exact execVsin_next d a k c s
  | vcos d a k c => exact execVcos_next d a k c s
  | vrand d k c => exact execVrand_next d k c s
  | vrandf d k c => exact execVrandf_next d k c s
  | vdrop d a b k c => exact execVdrop_next d a b k c s
  | vtopk d a b k c => exact execVtopk_next d a b k c s
  | vmergek d a b k c => exact execVmergek_next d a b k c s
  | mpset a n => exact execMpset_next a n s
  | mcall e => exact execMcall_next e s
  | cpy a b g => exact execCpy_next a b g s
  | cpyc a b g => exact execCpyc_next a b g s
  | gset a g => exact execGset_next a g s
  | gstart a b q => exact execGstart_next a b q s
  | tarm a b g => exact execTarm_next a b g s
  | fsend a b g => exact execFsend_next a b g s
  | fmcast a b g => exact execFmcast_next a b g s
  | fred a b op f g => exact execFred_next a b op f g s
  | ratom a b op f g => exact execRatom_next a b op f g s
  | csend a b ch => exact execCsend_next a b ch s
  | crecv a b ch => exact execCrecv_next a b ch s
  | chw a ch => exact execChw_next a ch s
  | ccollAllred a b r => exact execCcollAllred_next a b r s
  | ccollRedscat a b r => exact execCcollRedscat_next a b r s
  | ccollAllgath a b r => exact execCcollAllgath_next a b r s
  | ccollBcast a b r => exact execCcollBcast_next a b r s
  | ccollReduce a b r => exact execCcollReduce_next a b r s
  | ccollPxch a b r => exact execCcollPxch_next a b r s
  | spawn a => exact execSpawn_next a s
  | kilnw a => exact execKilnw_next a s
  | kilnr a => exact execKilnr_next a s
  | digest a b g => exact execDigest_next a b g s
  | efence g sc => exact execEfence_next g sc s
  | lds c pa o n => exact execLds_next c pa o n s
  | swap c => exact execSwap_next c s
  | strm c t pa n => exact execStrm_next c t pa n s
  | strmc c t pa n => exact execStrmc_next c t pa n s
  | zero c t => exact execZero_next c t s
  | scale c t im => exact execScale_next c t im s
  | ldacc c t pa => exact execLdacc_next c t pa s
  | drain c t pa pb pc fmt => exact execDrain_next c t pa pb pc fmt s
  | amax c t pb => exact execAmax_next c t pb s
  | madd c pd pa im => exact execMadd_next c pd pa im s
  | mloop c p target => exact execMloop_next c p target s
  | mbrz c p target => exact execMbrz_next c p target s
  | mwait c cls => exact execMwait_next c cls s
  | mend c => exact execMend_next c s
  | routineBegin c => exact execRoutineBegin_next c s
  | routineFinish c => exact execRoutineFinish_next c s
  | routineFlagsJoin c t => exact execRoutineFlagsJoin_next c t s
  | resultLanding c t => exact execResultLanding_next c t s
  | pendingAccessPerform c => exact execPendingAccessPerform_next c s
  | sleepEnd c t => exact execSleepEnd_next c t s
  | waitLimitExpiry c t => exact execWaitLimitExpiry_next c t s
  | trapEntry c t => exact execTrapEntry_next c t s
  | tretResume c t => exact execTretResume_next c t s
  | tretEnd c t => exact execTretEnd_next c t s
  | taskEnd c t => exact execTaskEnd_next c t s
  | gangJoin g => exact execGangJoin_next g s
  | gangMessageLanding c => exact execGangMessageLanding_next c s
  | takeGrant c => exact execTakeGrant_next c s
  | copyChunk c id => exact execCopyChunk_next c id s
  | copyComplete c id => exact execCopyComplete_next c id s
  | gatherRowDelivery c q => exact execGatherRowDelivery_next c q s
  | gstartIndexEntry c q => exact execGstartIndexEntry_next c q s
  | keyUseReport x => exact execKeyUseReport_next x s
  | faultRecordPost x => exact execFaultRecordPost_next x s
  | pageWalk x => exact execPageWalk_next x s
  | packetForward p => exact execPacketForward_next p s
  | write p => exact execWrite_next p s
  | readreq p => exact execReadreq_next p s
  | readdata p => exact execReaddata_next p s
  | reduce p => exact execReduce_next p s
  | roundTimeout x g => exact execRoundTimeout_next x g s
  | atomic p => exact execAtomic_next p s
  | atomicdata p => exact execAtomicdata_next p s
  | ack p => exact execAck_next p s
  | mcwrite p => exact execMcwrite_next p s
  | responseTimeout tag => exact execResponseTimeout_next tag s
  | chunk p => exact execChunk_next p s
  | abortMarker p => exact execAbortMarker_next p s
  | creditReturn p => exact execCreditReturn_next p s
  | collectiveStart id => exact execCollectiveStart_next id s
  | stepTimeout id => exact execStepTimeout_next id s
  | collectiveComplete id => exact execCollectiveComplete_next id s
  | prioritySwitch port => exact execPrioritySwitch_next port s
  | time port p => exact execTime_next port p s
  | xinvComplete x => exact execXinvComplete_next x s
  | launchQueuePoll q => exact execLaunchQueuePoll_next q s
  | launchAccept q => exact execLaunchAccept_next q s
  | unitDispatch l => exact execUnitDispatch_next l s
  | imageLoad c => exact execImageLoad_next c s
  | launchComplete l => exact execLaunchComplete_next l s
  | killComplete x => exact execKillComplete_next x s
  | switchOutComplete x => exact execSwitchOutComplete_next x s
  | efenceComplete c id => exact execEfenceComplete_next c id s
  | digestComplete c id => exact execDigestComplete_next c id s
  | mgctlReloadDone x => exact execMgctlReloadDone_next x s
  | clctlReloadDone x => exact execClctlReloadDone_next x s
  | createComplete x => exact execCreateComplete_next x s
  | flit port bytes => exact execFlit_next port bytes s
  | portDown port => exact execPortDown_next port s
  | portUp port => exact execPortUp_next port s
  | registerWrite addr bytes => exact execRegisterWrite_next addr bytes s
  | hostCxlMemRead addr n => exact execHostCxlMemRead_next addr n s
  | hostCxlMemWrite addr bytes => exact execHostCxlMemWrite_next addr bytes s
  | hostCxlIoWindowAccess addr n w => exact execHostCxlIoWindowAccess_next addr n w s
  | hostSupervisorWrite c off bytes => exact execHostSupervisorWrite_next c off bytes s
  | thermalWarn die => exact execThermalWarn_next die s
  | throttleStep die => exact execThrottleStep_next die s
  | thermalTrip die => exact execThermalTrip_next die s
  | hbmScrub addr bad => exact execHbmScrub_next addr bad s
  | gtbCorrection up => exact execGtbCorrection_next up s
  | xinvContext x => exact execXinvContext_next x s
  | xinvPages x => exact execXinvPages_next x s
  | xinvRanges x => exact execXinvRanges_next x s
  | xinvNop x => exact execXinvNop_next x s
  | mgctlReloadReduction x => exact execMgctlReloadReduction_next x s
  | mgctlReloadMulticast x => exact execMgctlReloadMulticast_next x s
  | clctlReloadChannels x => exact execClctlReloadChannels_next x s
  | clctlReloadRings x => exact execClctlReloadRings_next x s
  | create x => exact execCreate_next x s
  | kill x => exact execKill_next x s
  | signal x => exact execSignal_next x s
  | wdclr x => exact execWdclr_next x s
  | ucload x => exact execUcload_next x s
  | attest x => exact execAttest_next x s
  | debugHalt x => exact execDebugHalt_next x s
  | lqbaseWrite q v => exact execLqbaseWrite_next q v s
  | tctlNone c t v => exact execTctlNone_next c t v s
  | tctlSetSkew c t v => exact execTctlSetSkew_next c t v s
  | tctlClearSkew c t v => exact execTctlClearSkew_next c t v s
  | tctlMakeMailbox c t v => exact execTctlMakeMailbox_next c t v s
  | tctlReleaseMailbox c t v => exact execTctlReleaseMailbox_next c t v s
  | tctlDisarm c t v => exact execTctlDisarm_next c t v s
  | reduceResend => exact execReduceResend_next s
  | timeSend => exact execTimeSend_next s
  | gtbokLoss => exact execGtbokLoss_next s
  | epochBoundary => exact execEpochBoundary_next s
  | coldStart => exact execColdStart_next s
  | warmStart => exact execWarmStart_next s
  | firmwarePush => exact execFirmwarePush_next s
  | sampleRecord x => exact execSampleRecord_next x s
  | launchAged l => exact execLaunchAged_next l s
  | collisionCycle c => exact execCollisionCycle_next c s
  | powerFreeze c => exact execPowerFreeze_next c s
  | freezeEnd c => exact execFreezeEnd_next c s
  | quantumEnd x => exact execQuantumEnd_next x s
  | contextYield x => exact execContextYield_next x s
  | switchIn x => exact execSwitchIn_next x s

theorem thenSlot_next (k : Nat) (w : W32) (n : Nat) (r : Host.Outcome State Fault Refusal) (hr : Answers r) :
    Answers (thenSlot k w n r) := by
  obtain ⟨t, rfl⟩ := hr
  exact ⟨_, rfl⟩

theorem execBad_next (i : Instr) (s : State) :
    Answers (execBad i s) := by
  unfold execBad
  obtain ⟨t, ht⟩ := exec_next i s
  dsimp only
  rw [ht]
  exact ⟨_, rfl⟩

theorem runWord_next (k : Nat) (w : W32) (s : State) :
    Answers (runWord k w s) := by
  unfold runWord
  repeat' first | exact ⟨_, rfl⟩ | with_reducible apply exec_next | with_reducible apply execBad_next | split

theorem slotStep_next (s : State) :
    Answers (slotStep s) := by
  unfold slotStep
  repeat' first | exact ⟨_, rfl⟩ | with_reducible apply thenSlot_next | with_reducible apply runWord_next | split

theorem issueStep_next (c : Nat) (t : Bool) (s : State) :
    Answers (issueStep c t s) := by
  unfold issueStep
  repeat' first | exact ⟨_, rfl⟩ | with_reducible apply slotStep_next | split

theorem turnStep_next (s : State) :
    Answers (turnStep s) := by
  unfold turnStep
  repeat' first | exact ⟨_, rfl⟩ | with_reducible apply slotStep_next | with_reducible apply issueStep_next | split

end Sys2Proof.Machine
end

