-- ==== Sys2Proof/Laws/PerInstr.lean ====
section
/-! SUPPORT. One lemma per instruction: the fields of its encoding fit its word of 32 bits (R169). -/

namespace Sys2Proof.Laws.Fields

/-- The fields of an encoded instruction fit a word of 32 bits. -/
def Statement (i : Instr) : Prop := ∀ w, encode i = some w → w < 2 ^ 32

theorem cset_code (c : CSet) : c.code ≤ 2 := by cases c <;> decide
theorem cond_code (c : Cond) : c.code ≤ 9 := by cases c <;> decide
theorem wcond_code (c : WCond) : c.code ≤ 3 := by cases c <;> decide
theorem scope_code (c : Scope) : c.code ≤ 4 := by cases c <;> decide
theorem iregion_code (c : IRegion) : c.code ≤ 2 := by cases c <;> decide
theorem fcond_code (c : FCond) : c.code ≤ 7 := by cases c <;> decide
theorem icond_code (c : ICond) : c.code ≤ 7 := by cases c <;> decide
theorem vfmt_code (c : VFmt) : c.code ≤ 7 := by cases c <;> decide
theorem aop_code (c : AOp) : c.code ≤ 4 := by cases c <;> decide
theorem afmt_code (c : AFmt) : c.code ≤ 4 := by cases c <;> decide
theorem rnd_code (c : Rnd) : c.code ≤ 5 := by cases c <;> decide
theorem flag_code (b : Bool) : b.toNat ≤ 1 := by cases b <;> decide


theorem idle (n : BitVec 6) (sat : Bool) (rnd : Rnd) (prof : BitVec 6) : Statement (.idle n sat rnd prof) := by
  intro w h; cases h; have := n.isLt; have := flag_code sat; have := rnd_code rnd; have := prof.isLt; simp only [encodeHeader]; omega
theorem brp (p : F3) (o : BitVec 22) : Statement (.brp p o) := by
  intro w h; cases h; have := p.isLt; have := o.isLt; simp only [eFD]; omega
theorem br (o : BitVec 22) : Statement (.br o) := by
  intro w h; cases h; have := o.isLt; simp only [eFD]; omega
theorem brpn (p : F3) (o : BitVec 22) : Statement (.brpn p o) := by
  intro w h; cases h; have := p.isLt; have := o.isLt; simp only [eFD]; omega
theorem call (d : RegF) (i : BitVec 20) : Statement (.call d i) := by
  intro w h; cases h; have := d.isLt; have := i.isLt; simp only [eFC]; omega
theorem jmp (a : RegF) (k : F3) : Statement (.jmp a k) := by
  intro w h; cases h; have := a.isLt; have := k.isLt; simp only [eFA]; omega
theorem callr (d : RegF) (a : RegF) (k : F3) : Statement (.callr d a k) := by
  intro w h; cases h; have := d.isLt; have := a.isLt; have := k.isLt; simp only [eFA]; omega
theorem ret (a : RegF) (k : F3) : Statement (.ret a k) := by
  intro w h; cases h; have := a.isLt; have := k.isLt; simp only [eFA]; omega
theorem setf (d : BitVec 2) (a : RegF) (k : F3) : Statement (.setf d a k) := by
  intro w h; cases h; have := d.isLt; have := a.isLt; have := k.isLt; simp only [eFA]; omega
theorem loop (d : RegF) (a : RegF) (i : BitVec 14) : Statement (.loop d a i) := by
  intro w h; cases h; have := d.isLt; have := a.isLt; have := i.isLt; simp only [eFB]; omega
theorem loopi (d : RegF) (n : BitVec 6) (i : BitVec 14) : Statement (.loopi d n i) := by
  intro w h; cases h; have := d.isLt; have := n.isLt; have := i.isLt; simp only [eFB]; omega
theorem bswap (p : F3) (o : BitVec 22) : Statement (.bswap p o) := by
  intro w h; cases h; have := p.isLt; have := o.isLt; simp only [eFD]; omega
theorem waita (a : RegF) (b : RegF) (k : F3) (sc : Scope) (c : WCond) : Statement (.waita a b k sc c) := by
  intro w h; cases h; have := a.isLt; have := b.isLt; have := k.isLt; have := scope_code sc; have := wcond_code c; simp only [eFA]; omega
theorem waito (a : RegF) (i : BitVec 14) : Statement (.waito a i) := by
  intro w h; cases h; have := a.isLt; have := i.isLt; simp only [eFB]; omega
theorem tend : Statement (.tend) := by
  intro w h; cases h; simp only [eFC]; omega
theorem trap (code : BitVec 16) : Statement (.trap code) := by
  intro w h; cases h; have := code.isLt; simp only [eFC]; omega
theorem brk (code : BitVec 16) : Statement (.brk code) := by
  intro w h; cases h; have := code.isLt; simp only [eFC]; omega
theorem ifence (r : IRegion) : Statement (.ifence r) := by
  intro w h; cases h; have := iregion_code r; simp only [eFC]; omega
theorem sysr (d : RegF) (n : BitVec 12) : Statement (.sysr d n) := by
  intro w h; cases h; have := d.isLt; have := n.isLt; simp only [eFB]; omega
theorem sysw (a : RegF) (n : BitVec 12) : Statement (.sysw a n) := by
  intro w h; cases h; have := a.isLt; have := n.isLt; simp only [eFB]; omega
theorem add (d : RegF) (a : RegF) (b : RegF) (k : F3) : Statement (.add d a b k) := by
  intro w h; cases h; have := d.isLt; have := a.isLt; have := b.isLt; have := k.isLt; simp only [eAlu, eFA]; omega
theorem sub (d : RegF) (a : RegF) (b : RegF) (k : F3) : Statement (.sub d a b k) := by
  intro w h; cases h; have := d.isLt; have := a.isLt; have := b.isLt; have := k.isLt; simp only [eAlu, eFA]; omega
theorem mul (d : RegF) (a : RegF) (b : RegF) (k : F3) : Statement (.mul d a b k) := by
  intro w h; cases h; have := d.isLt; have := a.isLt; have := b.isLt; have := k.isLt; simp only [eAlu, eFA]; omega
theorem mulh (d : RegF) (a : RegF) (b : RegF) (k : F3) : Statement (.mulh d a b k) := by
  intro w h; cases h; have := d.isLt; have := a.isLt; have := b.isLt; have := k.isLt; simp only [eAlu, eFA]; omega
theorem mulhu (d : RegF) (a : RegF) (b : RegF) (k : F3) : Statement (.mulhu d a b k) := by
  intro w h; cases h; have := d.isLt; have := a.isLt; have := b.isLt; have := k.isLt; simp only [eAlu, eFA]; omega
theorem divs (d : RegF) (a : RegF) (b : RegF) (k : F3) : Statement (.divs d a b k) := by
  intro w h; cases h; have := d.isLt; have := a.isLt; have := b.isLt; have := k.isLt; simp only [eAlu, eFA]; omega
theorem divu (d : RegF) (a : RegF) (b : RegF) (k : F3) : Statement (.divu d a b k) := by
  intro w h; cases h; have := d.isLt; have := a.isLt; have := b.isLt; have := k.isLt; simp only [eAlu, eFA]; omega
theorem rems (d : RegF) (a : RegF) (b : RegF) (k : F3) : Statement (.rems d a b k) := by
  intro w h; cases h; have := d.isLt; have := a.isLt; have := b.isLt; have := k.isLt; simp only [eAlu, eFA]; omega
theorem remu (d : RegF) (a : RegF) (b : RegF) (k : F3) : Statement (.remu d a b k) := by
  intro w h; cases h; have := d.isLt; have := a.isLt; have := b.isLt; have := k.isLt; simp only [eAlu, eFA]; omega
theorem and (d : RegF) (a : RegF) (b : RegF) (k : F3) : Statement (.and d a b k) := by
  intro w h; cases h; have := d.isLt; have := a.isLt; have := b.isLt; have := k.isLt; simp only [eAlu, eFA]; omega
theorem or (d : RegF) (a : RegF) (b : RegF) (k : F3) : Statement (.or d a b k) := by
  intro w h; cases h; have := d.isLt; have := a.isLt; have := b.isLt; have := k.isLt; simp only [eAlu, eFA]; omega
theorem xor (d : RegF) (a : RegF) (b : RegF) (k : F3) : Statement (.xor d a b k) := by
  intro w h; cases h; have := d.isLt; have := a.isLt; have := b.isLt; have := k.isLt; simp only [eAlu, eFA]; omega
theorem andn (d : RegF) (a : RegF) (b : RegF) (k : F3) : Statement (.andn d a b k) := by
  intro w h; cases h; have := d.isLt; have := a.isLt; have := b.isLt; have := k.isLt; simp only [eAlu, eFA]; omega
theorem shl (d : RegF) (a : RegF) (b : RegF) (k : F3) : Statement (.shl d a b k) := by
  intro w h; cases h; have := d.isLt; have := a.isLt; have := b.isLt; have := k.isLt; simp only [eAlu, eFA]; omega
theorem shr (d : RegF) (a : RegF) (b : RegF) (k : F3) : Statement (.shr d a b k) := by
  intro w h; cases h; have := d.isLt; have := a.isLt; have := b.isLt; have := k.isLt; simp only [eAlu, eFA]; omega
theorem sar (d : RegF) (a : RegF) (b : RegF) (k : F3) : Statement (.sar d a b k) := by
  intro w h; cases h; have := d.isLt; have := a.isLt; have := b.isLt; have := k.isLt; simp only [eAlu, eFA]; omega
theorem min (d : RegF) (a : RegF) (b : RegF) (k : F3) : Statement (.min d a b k) := by
  intro w h; cases h; have := d.isLt; have := a.isLt; have := b.isLt; have := k.isLt; simp only [eAlu, eFA]; omega
theorem max (d : RegF) (a : RegF) (b : RegF) (k : F3) : Statement (.max d a b k) := by
  intro w h; cases h; have := d.isLt; have := a.isLt; have := b.isLt; have := k.isLt; simp only [eAlu, eFA]; omega
theorem minu (d : RegF) (a : RegF) (b : RegF) (k : F3) : Statement (.minu d a b k) := by
  intro w h; cases h; have := d.isLt; have := a.isLt; have := b.isLt; have := k.isLt; simp only [eAlu, eFA]; omega
theorem maxu (d : RegF) (a : RegF) (b : RegF) (k : F3) : Statement (.maxu d a b k) := by
  intro w h; cases h; have := d.isLt; have := a.isLt; have := b.isLt; have := k.isLt; simp only [eAlu, eFA]; omega
theorem clz (d : RegF) (a : RegF) (k : F3) : Statement (.clz d a k) := by
  intro w h; cases h; have := d.isLt; have := a.isLt; have := k.isLt; simp only [eAlu, eFA]; omega
theorem ctz (d : RegF) (a : RegF) (k : F3) : Statement (.ctz d a k) := by
  intro w h; cases h; have := d.isLt; have := a.isLt; have := k.isLt; simp only [eAlu, eFA]; omega
theorem popc (d : RegF) (a : RegF) (k : F3) : Statement (.popc d a k) := by
  intro w h; cases h; have := d.isLt; have := a.isLt; have := k.isLt; simp only [eAlu, eFA]; omega
theorem sel (d : RegF) (a : RegF) (b : RegF) (k : F3) : Statement (.sel d a b k) := by
  intro w h; cases h; have := d.isLt; have := a.isLt; have := b.isLt; have := k.isLt; simp only [eAlu, eFA]; omega
theorem addi (d : RegF) (a : RegF) (i : BitVec 14) : Statement (.addi d a i) := by
  intro w h; cases h; have := d.isLt; have := a.isLt; have := i.isLt; simp only [eFB]; omega
theorem andi (d : RegF) (a : RegF) (i : BitVec 14) : Statement (.andi d a i) := by
  intro w h; cases h; have := d.isLt; have := a.isLt; have := i.isLt; simp only [eFB]; omega
theorem ori (d : RegF) (a : RegF) (i : BitVec 14) : Statement (.ori d a i) := by
  intro w h; cases h; have := d.isLt; have := a.isLt; have := i.isLt; simp only [eFB]; omega
theorem xori (d : RegF) (a : RegF) (i : BitVec 14) : Statement (.xori d a i) := by
  intro w h; cases h; have := d.isLt; have := a.isLt; have := i.isLt; simp only [eFB]; omega
theorem shli (d : RegF) (a : RegF) (n : BitVec 6) : Statement (.shli d a n) := by
  intro w h; cases h; have := d.isLt; have := a.isLt; have := n.isLt; simp only [eFB]; omega
theorem shri (d : RegF) (a : RegF) (n : BitVec 6) : Statement (.shri d a n) := by
  intro w h; cases h; have := d.isLt; have := a.isLt; have := n.isLt; simp only [eFB]; omega
theorem sari (d : RegF) (a : RegF) (n : BitVec 6) : Statement (.sari d a n) := by
  intro w h; cases h; have := d.isLt; have := a.isLt; have := n.isLt; simp only [eFB]; omega
theorem lui (d : RegF) (i : BitVec 20) : Statement (.lui d i) := by
  intro w h; cases h; have := d.isLt; have := i.isLt; simp only [eFC]; omega
theorem lhi (d : RegF) (i : BitVec 20) : Statement (.lhi d i) := by
  intro w h; cases h; have := d.isLt; have := i.isLt; simp only [eFC]; omega
theorem ltop (d : RegF) (i : BitVec 12) : Statement (.ltop d i) := by
  intro w h; cases h; have := d.isLt; have := i.isLt; simp only [eFC]; omega
theorem ext (d : RegF) (a : RegF) (w : BitVec 6) (p : BitVec 6) : Statement (.ext d a w p) := by
  intro w h; cases h; have := d.isLt; have := a.isLt; have := w.isLt; have := p.isLt; simp only [eFB]; omega
theorem ins (d : RegF) (a : RegF) (w : BitVec 6) (p : BitVec 6) : Statement (.ins d a w p) := by
  intro w h; cases h; have := d.isLt; have := a.isLt; have := w.isLt; have := p.isLt; simp only [eFB]; omega
theorem widx (d : RegF) (f : F3) : Statement (.widx d f) := by
  intro w h; cases h; have := d.isLt; have := f.isLt; simp only [eFB]; omega
theorem cmp (d : F3) (a : RegF) (b : RegF) (k : F3) (c : Cond) : Statement (.cmp d a b k c) := by
  intro w h; cases h; have := d.isLt; have := a.isLt; have := b.isLt; have := k.isLt; have := cond_code c; simp only [eFA]; omega
theorem cmpi (d : F3) (a : RegF) (c : Cond) (i : BitVec 10) : Statement (.cmpi d a c i) := by
  intro w h; cases h; have := d.isLt; have := a.isLt; have := cond_code c; have := i.isLt; simp only [eFB]; omega
theorem pand (d : F3) (a : F3) (b : F3) (k : F3) : Statement (.pand d a b k) := by
  intro w h; cases h; have := d.isLt; have := a.isLt; have := b.isLt; have := k.isLt; simp only [eFA]; omega
theorem por (d : F3) (a : F3) (b : F3) (k : F3) : Statement (.por d a b k) := by
  intro w h; cases h; have := d.isLt; have := a.isLt; have := b.isLt; have := k.isLt; simp only [eFA]; omega
theorem pxor (d : F3) (a : F3) (b : F3) (k : F3) : Statement (.pxor d a b k) := by
  intro w h; cases h; have := d.isLt; have := a.isLt; have := b.isLt; have := k.isLt; simp only [eFA]; omega
theorem pnot (d : F3) (a : F3) (k : F3) : Statement (.pnot d a k) := by
  intro w h; cases h; have := d.isLt; have := a.isLt; have := k.isLt; simp only [eFA]; omega
theorem ldB (d : RegF) (sc : RegF) (l : Bool) (o : BitVec 13) : Statement (.ldB d sc l o) := by
  intro w h; cases h; have := d.isLt; have := sc.isLt; have := flag_code l; have := o.isLt; simp only [eFMS, eFB]; omega
theorem ldH (d : RegF) (sc : RegF) (l : Bool) (o : BitVec 13) : Statement (.ldH d sc l o) := by
  intro w h; cases h; have := d.isLt; have := sc.isLt; have := flag_code l; have := o.isLt; simp only [eFMS, eFB]; omega
theorem ldW (d : RegF) (sc : RegF) (l : Bool) (o : BitVec 13) : Statement (.ldW d sc l o) := by
  intro w h; cases h; have := d.isLt; have := sc.isLt; have := flag_code l; have := o.isLt; simp only [eFMS, eFB]; omega
theorem ldD (d : RegF) (sc : RegF) (l : Bool) (o : BitVec 13) : Statement (.ldD d sc l o) := by
  intro w h; cases h; have := d.isLt; have := sc.isLt; have := flag_code l; have := o.isLt; simp only [eFMS, eFB]; omega
theorem lduB (d : RegF) (sc : RegF) (l : Bool) (o : BitVec 13) : Statement (.lduB d sc l o) := by
  intro w h; cases h; have := d.isLt; have := sc.isLt; have := flag_code l; have := o.isLt; simp only [eFMS, eFB]; omega
theorem lduH (d : RegF) (sc : RegF) (l : Bool) (o : BitVec 13) : Statement (.lduH d sc l o) := by
  intro w h; cases h; have := d.isLt; have := sc.isLt; have := flag_code l; have := o.isLt; simp only [eFMS, eFB]; omega
theorem lduW (d : RegF) (sc : RegF) (l : Bool) (o : BitVec 13) : Statement (.lduW d sc l o) := by
  intro w h; cases h; have := d.isLt; have := sc.isLt; have := flag_code l; have := o.isLt; simp only [eFMS, eFB]; omega
theorem stB (d : RegF) (sc : RegF) (l : Bool) (o : BitVec 13) : Statement (.stB d sc l o) := by
  intro w h; cases h; have := d.isLt; have := sc.isLt; have := flag_code l; have := o.isLt; simp only [eFMS, eFB]; omega
theorem stH (d : RegF) (sc : RegF) (l : Bool) (o : BitVec 13) : Statement (.stH d sc l o) := by
  intro w h; cases h; have := d.isLt; have := sc.isLt; have := flag_code l; have := o.isLt; simp only [eFMS, eFB]; omega
theorem stW (d : RegF) (sc : RegF) (l : Bool) (o : BitVec 13) : Statement (.stW d sc l o) := by
  intro w h; cases h; have := d.isLt; have := sc.isLt; have := flag_code l; have := o.isLt; simp only [eFMS, eFB]; omega
theorem stD (d : RegF) (sc : RegF) (l : Bool) (o : BitVec 13) : Statement (.stD d sc l o) := by
  intro w h; cases h; have := d.isLt; have := sc.isLt; have := flag_code l; have := o.isLt; simp only [eFMS, eFB]; omega
theorem vld (d : RegF) (sc : RegF) (l : Bool) (c : CSet) (o : BitVec 11) : Statement (.vld d sc l c o) := by
  intro w h; cases h; have := d.isLt; have := sc.isLt; have := flag_code l; have := cset_code c; have := o.isLt; simp only [eFMV, eFB]; omega
theorem vldb (d : RegF) (sc : RegF) (l : Bool) (c : CSet) (o : BitVec 11) : Statement (.vldb d sc l c o) := by
  intro w h; cases h; have := d.isLt; have := sc.isLt; have := flag_code l; have := cset_code c; have := o.isLt; simp only [eFMV, eFB]; omega
theorem vldt (d : RegF) (sc : RegF) (l : Bool) (c : CSet) (o : BitVec 11) : Statement (.vldt d sc l c o) := by
  intro w h; cases h; have := d.isLt; have := sc.isLt; have := flag_code l; have := cset_code c; have := o.isLt; simp only [eFMV, eFB]; omega
theorem vst (d : RegF) (sc : RegF) (l : Bool) (c : CSet) (o : BitVec 11) : Statement (.vst d sc l c o) := by
  intro w h; cases h; have := d.isLt; have := sc.isLt; have := flag_code l; have := cset_code c; have := o.isLt; simp only [eFMV, eFB]; omega
theorem vstt (d : RegF) (sc : RegF) (l : Bool) (c : CSet) (o : BitVec 11) : Statement (.vstt d sc l c o) := by
  intro w h; cases h; have := d.isLt; have := sc.isLt; have := flag_code l; have := cset_code c; have := o.isLt; simp only [eFMV, eFB]; omega
theorem vlds (d : RegF) (a : RegF) (b : RegF) (k : F3) (c : CSet) (l : Bool) : Statement (.vlds d a b k c l) := by
  intro w h; cases h; have := d.isLt; have := a.isLt; have := b.isLt; have := k.isLt; have := cset_code c; have := flag_code l; simp only [eFA]; omega
theorem vsts (d : RegF) (a : RegF) (b : RegF) (k : F3) (c : CSet) (l : Bool) : Statement (.vsts d a b k c l) := by
  intro w h; cases h; have := d.isLt; have := a.isLt; have := b.isLt; have := k.isLt; have := cset_code c; have := flag_code l; simp only [eFA]; omega
theorem amoAdd (d : RegF) (a : RegF) (b : RegF) (k : F3) (l : Bool) : Statement (.amoAdd d a b k l) := by
  intro w h; cases h; have := d.isLt; have := a.isLt; have := b.isLt; have := k.isLt; have := flag_code l; simp only [eAmo, eFA]; omega
theorem amoMax (d : RegF) (a : RegF) (b : RegF) (k : F3) (l : Bool) : Statement (.amoMax d a b k l) := by
  intro w h; cases h; have := d.isLt; have := a.isLt; have := b.isLt; have := k.isLt; have := flag_code l; simp only [eAmo, eFA]; omega
theorem amoMin (d : RegF) (a : RegF) (b : RegF) (k : F3) (l : Bool) : Statement (.amoMin d a b k l) := by
  intro w h; cases h; have := d.isLt; have := a.isLt; have := b.isLt; have := k.isLt; have := flag_code l; simp only [eAmo, eFA]; omega
theorem amoSwap (d : RegF) (a : RegF) (b : RegF) (k : F3) (l : Bool) : Statement (.amoSwap d a b k l) := by
  intro w h; cases h; have := d.isLt; have := a.isLt; have := b.isLt; have := k.isLt; have := flag_code l; simp only [eAmo, eFA]; omega
theorem amoCas (d : RegF) (a : RegF) (b : RegF) (k : F3) (l : Bool) : Statement (.amoCas d a b k l) := by
  intro w h; cases h; have := d.isLt; have := a.isLt; have := b.isLt; have := k.isLt; have := flag_code l; simp only [eAmo, eFA]; omega
theorem qpush (d : BitVec 2) (a : RegF) (k : F3) : Statement (.qpush d a k) := by
  intro w h; cases h; have := d.isLt; have := a.isLt; have := k.isLt; simp only [eFA]; omega
theorem qdrop (d : BitVec 2) (k : F3) : Statement (.qdrop d k) := by
  intro w h; cases h; have := d.isLt; have := k.isLt; simp only [eFA]; omega
theorem vldkKbf7 (d : RegF) (a : RegF) (b : RegF) (c : CSet) (l : Bool) : Statement (.vldkKbf7 d a b c l) := by
  intro w h; cases h; have := d.isLt; have := a.isLt; have := b.isLt; have := cset_code c; have := flag_code l; simp only [eKbf, eFA]; omega
theorem vldkKbf4 (d : RegF) (a : RegF) (b : RegF) (c : CSet) (l : Bool) : Statement (.vldkKbf4 d a b c l) := by
  intro w h; cases h; have := d.isLt; have := a.isLt; have := b.isLt; have := cset_code c; have := flag_code l; simp only [eKbf, eFA]; omega
theorem vldkKbf2 (d : RegF) (a : RegF) (b : RegF) (c : CSet) (l : Bool) : Statement (.vldkKbf2 d a b c l) := by
  intro w h; cases h; have := d.isLt; have := a.isLt; have := b.isLt; have := cset_code c; have := flag_code l; simp only [eKbf, eFA]; omega
theorem vstkKbf7 (d : RegF) (a : RegF) (b : RegF) (c : CSet) (l : Bool) : Statement (.vstkKbf7 d a b c l) := by
  intro w h; cases h; have := d.isLt; have := a.isLt; have := b.isLt; have := cset_code c; have := flag_code l; simp only [eKbf, eFA]; omega
theorem vstkKbf4 (d : RegF) (a : RegF) (b : RegF) (c : CSet) (l : Bool) : Statement (.vstkKbf4 d a b c l) := by
  intro w h; cases h; have := d.isLt; have := a.isLt; have := b.isLt; have := cset_code c; have := flag_code l; simp only [eKbf, eFA]; omega
theorem vstkKbf2 (d : RegF) (a : RegF) (b : RegF) (c : CSet) (l : Bool) : Statement (.vstkKbf2 d a b c l) := by
  intro w h; cases h; have := d.isLt; have := a.isLt; have := b.isLt; have := cset_code c; have := flag_code l; simp only [eKbf, eFA]; omega
theorem vaddI32 (d : RegF) (a : RegF) (b : RegF) (k : F3) (c : CSet) : Statement (.vaddI32 d a b k c) := by
  intro w h; cases h; have := d.isLt; have := a.isLt; have := b.isLt; have := k.isLt; have := cset_code c; simp only [eV2, eFA]; omega
theorem vsubI32 (d : RegF) (a : RegF) (b : RegF) (k : F3) (c : CSet) : Statement (.vsubI32 d a b k c) := by
  intro w h; cases h; have := d.isLt; have := a.isLt; have := b.isLt; have := k.isLt; have := cset_code c; simp only [eV2, eFA]; omega
theorem vmulI32 (d : RegF) (a : RegF) (b : RegF) (k : F3) (c : CSet) : Statement (.vmulI32 d a b k c) := by
  intro w h; cases h; have := d.isLt; have := a.isLt; have := b.isLt; have := k.isLt; have := cset_code c; simp only [eV2, eFA]; omega
theorem vmulh (d : RegF) (a : RegF) (b : RegF) (k : F3) (c : CSet) : Statement (.vmulh d a b k c) := by
  intro w h; cases h; have := d.isLt; have := a.isLt; have := b.isLt; have := k.isLt; have := cset_code c; simp only [eV2, eFA]; omega
theorem vand (d : RegF) (a : RegF) (b : RegF) (k : F3) (c : CSet) : Statement (.vand d a b k c) := by
  intro w h; cases h; have := d.isLt; have := a.isLt; have := b.isLt; have := k.isLt; have := cset_code c; simp only [eV2, eFA]; omega
theorem vor (d : RegF) (a : RegF) (b : RegF) (k : F3) (c : CSet) : Statement (.vor d a b k c) := by
  intro w h; cases h; have := d.isLt; have := a.isLt; have := b.isLt; have := k.isLt; have := cset_code c; simp only [eV2, eFA]; omega
theorem vxor (d : RegF) (a : RegF) (b : RegF) (k : F3) (c : CSet) : Statement (.vxor d a b k c) := by
  intro w h; cases h; have := d.isLt; have := a.isLt; have := b.isLt; have := k.isLt; have := cset_code c; simp only [eV2, eFA]; omega
theorem vabsI32 (d : RegF) (a : RegF) (k : F3) (c : CSet) : Statement (.vabsI32 d a k c) := by
  intro w h; cases h; have := d.isLt; have := a.isLt; have := k.isLt; have := cset_code c; simp only [eV1, eFA]; omega
theorem vshl (d : RegF) (a : RegF) (b : RegF) (k : F3) (c : CSet) : Statement (.vshl d a b k c) := by
  intro w h; cases h; have := d.isLt; have := a.isLt; have := b.isLt; have := k.isLt; have := cset_code c; simp only [eV2, eFA]; omega
theorem vshr (d : RegF) (a : RegF) (b : RegF) (k : F3) (c : CSet) : Statement (.vshr d a b k c) := by
  intro w h; cases h; have := d.isLt; have := a.isLt; have := b.isLt; have := k.isLt; have := cset_code c; simp only [eV2, eFA]; omega
theorem vsar (d : RegF) (a : RegF) (b : RegF) (k : F3) (c : CSet) : Statement (.vsar d a b k c) := by
  intro w h; cases h; have := d.isLt; have := a.isLt; have := b.isLt; have := k.isLt; have := cset_code c; simp only [eV2, eFA]; omega
theorem vminI32 (d : RegF) (a : RegF) (b : RegF) (k : F3) (c : CSet) : Statement (.vminI32 d a b k c) := by
  intro w h; cases h; have := d.isLt; have := a.isLt; have := b.isLt; have := k.isLt; have := cset_code c; simp only [eV2, eFA]; omega
theorem vmaxI32 (d : RegF) (a : RegF) (b : RegF) (k : F3) (c : CSet) : Statement (.vmaxI32 d a b k c) := by
  intro w h; cases h; have := d.isLt; have := a.isLt; have := b.isLt; have := k.isLt; have := cset_code c; simp only [eV2, eFA]; omega
theorem vminU32 (d : RegF) (a : RegF) (b : RegF) (k : F3) (c : CSet) : Statement (.vminU32 d a b k c) := by
  intro w h; cases h; have := d.isLt; have := a.isLt; have := b.isLt; have := k.isLt; have := cset_code c; simp only [eV2, eFA]; omega
theorem vmaxU32 (d : RegF) (a : RegF) (b : RegF) (k : F3) (c : CSet) : Statement (.vmaxU32 d a b k c) := by
  intro w h; cases h; have := d.isLt; have := a.isLt; have := b.isLt; have := k.isLt; have := cset_code c; simp only [eV2, eFA]; omega
theorem vaddF32 (d : RegF) (a : RegF) (b : RegF) (k : F3) (c : CSet) : Statement (.vaddF32 d a b k c) := by
  intro w h; cases h; have := d.isLt; have := a.isLt; have := b.isLt; have := k.isLt; have := cset_code c; simp only [eV2, eFA]; omega
theorem vsubF32 (d : RegF) (a : RegF) (b : RegF) (k : F3) (c : CSet) : Statement (.vsubF32 d a b k c) := by
  intro w h; cases h; have := d.isLt; have := a.isLt; have := b.isLt; have := k.isLt; have := cset_code c; simp only [eV2, eFA]; omega
theorem vmulF32 (d : RegF) (a : RegF) (b : RegF) (k : F3) (c : CSet) : Statement (.vmulF32 d a b k c) := by
  intro w h; cases h; have := d.isLt; have := a.isLt; have := b.isLt; have := k.isLt; have := cset_code c; simp only [eV2, eFA]; omega
theorem vfmaF32 (d : RegF) (a : RegF) (b : RegF) (k : F3) (c : CSet) : Statement (.vfmaF32 d a b k c) := by
  intro w h; cases h; have := d.isLt; have := a.isLt; have := b.isLt; have := k.isLt; have := cset_code c; simp only [eV2, eFA]; omega
theorem vminF32 (d : RegF) (a : RegF) (b : RegF) (k : F3) (c : CSet) : Statement (.vminF32 d a b k c) := by
  intro w h; cases h; have := d.isLt; have := a.isLt; have := b.isLt; have := k.isLt; have := cset_code c; simp only [eV2, eFA]; omega
theorem vmaxF32 (d : RegF) (a : RegF) (b : RegF) (k : F3) (c : CSet) : Statement (.vmaxF32 d a b k c) := by
  intro w h; cases h; have := d.isLt; have := a.isLt; have := b.isLt; have := k.isLt; have := cset_code c; simp only [eV2, eFA]; omega
theorem vdot2Bf16 (d : RegF) (a : RegF) (b : RegF) (k : F3) (c : CSet) : Statement (.vdot2Bf16 d a b k c) := by
  intro w h; cases h; have := d.isLt; have := a.isLt; have := b.isLt; have := k.isLt; have := cset_code c; simp only [eV2, eFA]; omega
theorem vabsF32 (d : RegF) (a : RegF) (k : F3) (c : CSet) : Statement (.vabsF32 d a k c) := by
  intro w h; cases h; have := d.isLt; have := a.isLt; have := k.isLt; have := cset_code c; simp only [eV1, eFA]; omega
theorem vnegF32 (d : RegF) (a : RegF) (k : F3) (c : CSet) : Statement (.vnegF32 d a k c) := by
  intro w h; cases h; have := d.isLt; have := a.isLt; have := k.isLt; have := cset_code c; simp only [eV1, eFA]; omega
theorem vcpysF32 (d : RegF) (a : RegF) (b : RegF) (k : F3) (c : CSet) : Statement (.vcpysF32 d a b k c) := by
  intro w h; cases h; have := d.isLt; have := a.isLt; have := b.isLt; have := k.isLt; have := cset_code c; simp only [eV2, eFA]; omega
theorem vaccrd (d : RegF) (a : RegF) (k : F3) (c : CSet) : Statement (.vaccrd d a k c) := by
  intro w h; cases h; have := d.isLt; have := a.isLt; have := k.isLt; have := cset_code c; simp only [eV1, eFA]; omega
theorem vcmpF32 (d : F3) (a : RegF) (b : RegF) (k : F3) (c : CSet) (f : FCond) : Statement (.vcmpF32 d a b k c f) := by
  intro w h; cases h; have := d.isLt; have := a.isLt; have := b.isLt; have := k.isLt; have := cset_code c; have := fcond_code f; simp only [eFA]; omega
theorem vcmpI32 (d : F3) (a : RegF) (b : RegF) (k : F3) (c : CSet) (f : ICond) : Statement (.vcmpI32 d a b k c f) := by
  intro w h; cases h; have := d.isLt; have := a.isLt; have := b.isLt; have := k.isLt; have := cset_code c; have := icond_code f; simp only [eFA]; omega
theorem vmov (d : RegF) (a : RegF) (k : F3) (c : CSet) : Statement (.vmov d a k c) := by
  intro w h; cases h; have := d.isLt; have := a.isLt; have := k.isLt; have := cset_code c; simp only [eV1, eFA]; omega
theorem vsel (d : RegF) (a : RegF) (b : RegF) (k : F3) (c : CSet) : Statement (.vsel d a b k c) := by
  intro w h; cases h; have := d.isLt; have := a.isLt; have := b.isLt; have := k.isLt; have := cset_code c; simp only [eV2, eFA]; omega
theorem vbcast (d : RegF) (a : RegF) (k : F3) (c : CSet) : Statement (.vbcast d a k c) := by
  intro w h; cases h; have := d.isLt; have := a.isLt; have := k.isLt; have := cset_code c; simp only [eV1, eFA]; omega
theorem vextr (d : RegF) (a : RegF) (b : RegF) (k : F3) (c : CSet) : Statement (.vextr d a b k c) := by
  intro w h; cases h; have := d.isLt; have := a.isLt; have := b.isLt; have := k.isLt; have := cset_code c; simp only [eV2, eFA]; omega
theorem vins (d : RegF) (a : RegF) (b : RegF) (k : F3) (c : CSet) : Statement (.vins d a b k c) := by
  intro w h; cases h; have := d.isLt; have := a.isLt; have := b.isLt; have := k.isLt; have := cset_code c; simp only [eV2, eFA]; omega
theorem vperm (d : RegF) (a : RegF) (b : RegF) (k : F3) (c : CSet) : Statement (.vperm d a b k c) := by
  intro w h; cases h; have := d.isLt; have := a.isLt; have := b.isLt; have := k.isLt; have := cset_code c; simp only [eV2, eFA]; omega
theorem vxcl (d : RegF) (a : RegF) (r : F3) (k : F3) (c : CSet) : Statement (.vxcl d a r k c) := by
  intro w h; cases h; have := d.isLt; have := a.isLt; have := r.isLt; have := k.isLt; have := cset_code c; simp only [eFA]; omega
theorem viota (d : RegF) (k : F3) (c : CSet) : Statement (.viota d k c) := by
  intro w h; cases h; have := d.isLt; have := k.isLt; have := cset_code c; simp only [eV0, eFA]; omega
theorem vredaddF32 (d : RegF) (a : RegF) (k : F3) (c : CSet) : Statement (.vredaddF32 d a k c) := by
  intro w h; cases h; have := d.isLt; have := a.isLt; have := k.isLt; have := cset_code c; simp only [eV1, eFA]; omega
theorem vredaddI32 (d : RegF) (a : RegF) (k : F3) (c : CSet) : Statement (.vredaddI32 d a k c) := by
  intro w h; cases h; have := d.isLt; have := a.isLt; have := k.isLt; have := cset_code c; simp only [eV1, eFA]; omega
theorem vredmaxF32 (d : RegF) (a : RegF) (k : F3) (c : CSet) : Statement (.vredmaxF32 d a k c) := by
  intro w h; cases h; have := d.isLt; have := a.isLt; have := k.isLt; have := cset_code c; simp only [eV1, eFA]; omega
theorem vredmaxI32 (d : RegF) (a : RegF) (k : F3) (c : CSet) : Statement (.vredmaxI32 d a k c) := by
  intro w h; cases h; have := d.isLt; have := a.isLt; have := k.isLt; have := cset_code c; simp only [eV1, eFA]; omega
theorem vredminF32 (d : RegF) (a : RegF) (k : F3) (c : CSet) : Statement (.vredminF32 d a k c) := by
  intro w h; cases h; have := d.isLt; have := a.isLt; have := k.isLt; have := cset_code c; simp only [eV1, eFA]; omega
theorem vredminI32 (d : RegF) (a : RegF) (k : F3) (c : CSet) : Statement (.vredminI32 d a k c) := by
  intro w h; cases h; have := d.isLt; have := a.isLt; have := k.isLt; have := cset_code c; simp only [eV1, eFA]; omega
theorem vcvt (d : RegF) (a : RegF) (sc : VFmt) (t : VFmt) (k : F3) (c : CSet) : Statement (.vcvt d a sc t k c) := by
  intro w h; cases h; have := d.isLt; have := a.isLt; have := vfmt_code sc; have := vfmt_code t; have := k.isLt; have := cset_code c; simp only [eFA]; omega
theorem vcvtF32Fx128Lo (d : RegF) (a : RegF) (p : BitVec 6) (k : F3) (c : CSet) : Statement (.vcvtF32Fx128Lo d a p k c) := by
  intro w h; cases h; have := d.isLt; have := a.isLt; have := p.isLt; have := k.isLt; have := cset_code c; simp only [eV2, eFA]; omega
theorem vcvtF32Fx128Hi (d : RegF) (a : RegF) (p : BitVec 6) (k : F3) (c : CSet) : Statement (.vcvtF32Fx128Hi d a p k c) := by
  intro w h; cases h; have := d.isLt; have := a.isLt; have := p.isLt; have := k.isLt; have := cset_code c; simp only [eV2, eFA]; omega
theorem vrcp (d : RegF) (a : RegF) (k : F3) (c : CSet) : Statement (.vrcp d a k c) := by
  intro w h; cases h; have := d.isLt; have := a.isLt; have := k.isLt; have := cset_code c; simp only [eV1, eFA]; omega
theorem vrcpr (d : RegF) (a : RegF) (b : RegF) (k : F3) (c : CSet) : Statement (.vrcpr d a b k c) := by
  intro w h; cases h; have := d.isLt; have := a.isLt; have := b.isLt; have := k.isLt; have := cset_code c; simp only [eV2, eFA]; omega
theorem vrsq (d : RegF) (a : RegF) (k : F3) (c : CSet) : Statement (.vrsq d a k c) := by
  intro w h; cases h; have := d.isLt; have := a.isLt; have := k.isLt; have := cset_code c; simp only [eV1, eFA]; omega
theorem vrsqr (d : RegF) (a : RegF) (b : RegF) (k : F3) (c : CSet) : Statement (.vrsqr d a b k c) := by
  intro w h; cases h; have := d.isLt; have := a.isLt; have := b.isLt; have := k.isLt; have := cset_code c; simp only [eV2, eFA]; omega
theorem vsqrt (d : RegF) (a : RegF) (k : F3) (c : CSet) : Statement (.vsqrt d a k c) := by
  intro w h; cases h; have := d.isLt; have := a.isLt; have := k.isLt; have := cset_code c; simp only [eV1, eFA]; omega
theorem vexp2 (d : RegF) (a : RegF) (k : F3) (c : CSet) : Statement (.vexp2 d a k c) := by
  intro w h; cases h; have := d.isLt; have := a.isLt; have := k.isLt; have := cset_code c; simp only [eV1, eFA]; omega
theorem vlog2 (d : RegF) (a : RegF) (k : F3) (c : CSet) : Statement (.vlog2 d a k c) := by
  intro w h; cases h; have := d.isLt; have := a.isLt; have := k.isLt; have := cset_code c; simp only [eV1, eFA]; omega
theorem vsin (d : RegF) (a : RegF) (k : F3) (c : CSet) : Statement (.vsin d a k c) := by
  intro w h; cases h; have := d.isLt; have := a.isLt; have := k.isLt; have := cset_code c; simp only [eV1, eFA]; omega
theorem vcos (d : RegF) (a : RegF) (k : F3) (c : CSet) : Statement (.vcos d a k c) := by
  intro w h; cases h; have := d.isLt; have := a.isLt; have := k.isLt; have := cset_code c; simp only [eV1, eFA]; omega
theorem vrand (d : RegF) (k : F3) (c : CSet) : Statement (.vrand d k c) := by
  intro w h; cases h; have := d.isLt; have := k.isLt; have := cset_code c; simp only [eV0, eFA]; omega
theorem vrandf (d : RegF) (k : F3) (c : CSet) : Statement (.vrandf d k c) := by
  intro w h; cases h; have := d.isLt; have := k.isLt; have := cset_code c; simp only [eV0, eFA]; omega
theorem vdrop (d : RegF) (a : RegF) (b : RegF) (k : F3) (c : CSet) : Statement (.vdrop d a b k c) := by
  intro w h; cases h; have := d.isLt; have := a.isLt; have := b.isLt; have := k.isLt; have := cset_code c; simp only [eV2, eFA]; omega
theorem vtopk (d : RegF) (a : RegF) (b : RegF) (k : F3) (c : CSet) : Statement (.vtopk d a b k c) := by
  intro w h; cases h; have := d.isLt; have := a.isLt; have := b.isLt; have := k.isLt; have := cset_code c; simp only [eV2, eFA]; omega
theorem vmergek (d : RegF) (a : RegF) (b : RegF) (k : F3) (c : CSet) : Statement (.vmergek d a b k c) := by
  intro w h; cases h; have := d.isLt; have := a.isLt; have := b.isLt; have := k.isLt; have := cset_code c; simp only [eV2, eFA]; omega
theorem mpset (a : RegF) (n : F3) : Statement (.mpset a n) := by
  intro w h; cases h; have := a.isLt; have := n.isLt; simp only [eFB]; omega
theorem mcall (e : BitVec 12) : Statement (.mcall e) := by
  intro w h; cases h; have := e.isLt; simp only [eFB]; omega
theorem cpy (a : RegF) (b : RegF) (g : BitVec 4) : Statement (.cpy a b g) := by
  intro w h; cases h; have := a.isLt; have := b.isLt; have := g.isLt; simp only [eFB]; omega
theorem cpyc (a : RegF) (b : RegF) (g : BitVec 4) : Statement (.cpyc a b g) := by
  intro w h; cases h; have := a.isLt; have := b.isLt; have := g.isLt; simp only [eFB]; omega
theorem gset (a : RegF) (g : BitVec 4) : Statement (.gset a g) := by
  intro w h; cases h; have := a.isLt; have := g.isLt; simp only [eFB]; omega
theorem gstart (a : RegF) (b : RegF) (q : BitVec 2) : Statement (.gstart a b q) := by
  intro w h; cases h; have := a.isLt; have := b.isLt; have := q.isLt; simp only [eFB]; omega
theorem tarm (a : RegF) (b : RegF) (g : BitVec 4) : Statement (.tarm a b g) := by
  intro w h; cases h; have := a.isLt; have := b.isLt; have := g.isLt; simp only [eFB]; omega
theorem fsend (a : RegF) (b : RegF) (g : BitVec 4) : Statement (.fsend a b g) := by
  intro w h; cases h; have := a.isLt; have := b.isLt; have := g.isLt; simp only [eFB]; omega
theorem fmcast (a : RegF) (b : RegF) (g : BitVec 4) : Statement (.fmcast a b g) := by
  intro w h; cases h; have := a.isLt; have := b.isLt; have := g.isLt; simp only [eFB]; omega
theorem fred (a : RegF) (b : RegF) (op : AOp) (f : AFmt) (g : BitVec 4) : Statement (.fred a b op f g) := by
  intro w h; cases h; have := a.isLt; have := b.isLt; have := aop_code op; have := afmt_code f; have := g.isLt; simp only [eFB]; omega
theorem ratom (a : RegF) (b : RegF) (op : AOp) (f : AFmt) (g : BitVec 4) : Statement (.ratom a b op f g) := by
  intro w h; cases h; have := a.isLt; have := b.isLt; have := aop_code op; have := afmt_code f; have := g.isLt; simp only [eFB]; omega
theorem csend (a : RegF) (b : RegF) (ch : BitVec 12) : Statement (.csend a b ch) := by
  intro w h; cases h; have := a.isLt; have := b.isLt; have := ch.isLt; simp only [eFB]; omega
theorem crecv (a : RegF) (b : RegF) (ch : BitVec 12) : Statement (.crecv a b ch) := by
  intro w h; cases h; have := a.isLt; have := b.isLt; have := ch.isLt; simp only [eFB]; omega
theorem chw (a : RegF) (ch : BitVec 12) : Statement (.chw a ch) := by
  intro w h; cases h; have := a.isLt; have := ch.isLt; simp only [eFB]; omega
theorem ccollAllred (a : RegF) (b : RegF) (r : BitVec 10) : Statement (.ccollAllred a b r) := by
  intro w h; cases h; have := a.isLt; have := b.isLt; have := r.isLt; simp only [eFB]; omega
theorem ccollRedscat (a : RegF) (b : RegF) (r : BitVec 10) : Statement (.ccollRedscat a b r) := by
  intro w h; cases h; have := a.isLt; have := b.isLt; have := r.isLt; simp only [eFB]; omega
theorem ccollAllgath (a : RegF) (b : RegF) (r : BitVec 10) : Statement (.ccollAllgath a b r) := by
  intro w h; cases h; have := a.isLt; have := b.isLt; have := r.isLt; simp only [eFB]; omega
theorem ccollBcast (a : RegF) (b : RegF) (r : BitVec 10) : Statement (.ccollBcast a b r) := by
  intro w h; cases h; have := a.isLt; have := b.isLt; have := r.isLt; simp only [eFB]; omega
theorem ccollReduce (a : RegF) (b : RegF) (r : BitVec 10) : Statement (.ccollReduce a b r) := by
  intro w h; cases h; have := a.isLt; have := b.isLt; have := r.isLt; simp only [eFB]; omega
theorem ccollPxch (a : RegF) (b : RegF) (r : BitVec 10) : Statement (.ccollPxch a b r) := by
  intro w h; cases h; have := a.isLt; have := b.isLt; have := r.isLt; simp only [eFB]; omega
theorem spawn (a : RegF) : Statement (.spawn a) := by
  intro w h; cases h; have := a.isLt; simp only [eFB]; omega
theorem kilnw (a : RegF) : Statement (.kilnw a) := by
  intro w h; cases h; have := a.isLt; simp only [eFB]; omega
theorem kilnr (a : RegF) : Statement (.kilnr a) := by
  intro w h; cases h; have := a.isLt; simp only [eFB]; omega
theorem digest (a : RegF) (b : RegF) (g : BitVec 4) : Statement (.digest a b g) := by
  intro w h; cases h; have := a.isLt; have := b.isLt; have := g.isLt; simp only [eFB]; omega
theorem efence (g : BitVec 4) (sc : Scope) : Statement (.efence g sc) := by
  intro w h; cases h; have := g.isLt; have := scope_code sc; simp only [eFB]; omega
theorem lds (c : Nat) (pa : F3) (o : Bool) (n : BitVec 7) : Statement (.lds c pa o n) := by intro w h; cases h
theorem swap (c : Nat) : Statement (.swap c) := by intro w h; cases h
theorem strm (c : Nat) (t : F3) (pa : F3) (n : BitVec 7) : Statement (.strm c t pa n) := by intro w h; cases h
theorem strmc (c : Nat) (t : F3) (pa : F3) (n : BitVec 7) : Statement (.strmc c t pa n) := by intro w h; cases h
theorem zero (c : Nat) (t : F3) : Statement (.zero c t) := by intro w h; cases h
theorem scale (c : Nat) (t : F3) (i : BitVec 16) : Statement (.scale c t i) := by intro w h; cases h
theorem ldacc (c : Nat) (t : F3) (pa : F3) : Statement (.ldacc c t pa) := by intro w h; cases h
theorem drain (c : Nat) (t : F3) (pa : F3) (pb : F3) (pc : F3) (fmt : BitVec 5) : Statement (.drain c t pa pb pc fmt) := by intro w h; cases h
theorem amax (c : Nat) (t : F3) (pb : F3) : Statement (.amax c t pb) := by intro w h; cases h
theorem madd (c : Nat) (pd : F3) (pa : F3) (i : BitVec 32) : Statement (.madd c pd pa i) := by intro w h; cases h
theorem mloop (c : Nat) (p : F3) (target : BitVec 12) : Statement (.mloop c p target) := by intro w h; cases h
theorem mbrz (c : Nat) (p : F3) (target : BitVec 12) : Statement (.mbrz c p target) := by intro w h; cases h
theorem mwait (c : Nat) (cls : BitVec 2) : Statement (.mwait c cls) := by intro w h; cases h
theorem mend (c : Nat) : Statement (.mend c) := by intro w h; cases h
theorem routineBegin (c : Nat) : Statement (.routineBegin c) := by intro w h; cases h
theorem routineFinish (c : Nat) : Statement (.routineFinish c) := by intro w h; cases h
theorem routineFlagsJoin (c : Nat) (t : Bool) : Statement (.routineFlagsJoin c t) := by intro w h; cases h
theorem resultLanding (c : Nat) (t : Bool) : Statement (.resultLanding c t) := by intro w h; cases h
theorem pendingAccessPerform (c : Nat) : Statement (.pendingAccessPerform c) := by intro w h; cases h
theorem collisionCycle (c : Nat) : Statement (.collisionCycle c) := by intro w h; cases h
theorem powerFreeze (c : Nat) : Statement (.powerFreeze c) := by intro w h; cases h
theorem freezeEnd (c : Nat) : Statement (.freezeEnd c) := by intro w h; cases h
theorem sleepEnd (c : Nat) (t : Bool) : Statement (.sleepEnd c t) := by intro w h; cases h
theorem waitLimitExpiry (c : Nat) (t : Bool) : Statement (.waitLimitExpiry c t) := by intro w h; cases h
theorem trapEntry (c : Nat) (t : Bool) : Statement (.trapEntry c t) := by intro w h; cases h
theorem tretResume (c : Nat) (t : Bool) : Statement (.tretResume c t) := by intro w h; cases h
theorem tretEnd (c : Nat) (t : Bool) : Statement (.tretEnd c t) := by intro w h; cases h
theorem taskEnd (c : Nat) (t : Bool) : Statement (.taskEnd c t) := by intro w h; cases h
theorem gangJoin (g : Nat) : Statement (.gangJoin g) := by intro w h; cases h
theorem gangMessageLanding (c : Nat) : Statement (.gangMessageLanding c) := by intro w h; cases h
theorem takeGrant (c : Nat) : Statement (.takeGrant c) := by intro w h; cases h
theorem copyChunk (c : Nat) (id : Nat) : Statement (.copyChunk c id) := by intro w h; cases h
theorem copyComplete (c : Nat) (id : Nat) : Statement (.copyComplete c id) := by intro w h; cases h
theorem gatherRowDelivery (c : Nat) (q : Nat) : Statement (.gatherRowDelivery c q) := by intro w h; cases h
theorem gstartIndexEntry (c : Nat) (q : Nat) : Statement (.gstartIndexEntry c q) := by intro w h; cases h
theorem keyUseReport (x : Nat) : Statement (.keyUseReport x) := by intro w h; cases h
theorem faultRecordPost (x : Nat) : Statement (.faultRecordPost x) := by intro w h; cases h
theorem pageWalk (x : Nat) : Statement (.pageWalk x) := by intro w h; cases h
theorem flit (port : Nat) (bytes : List Byte) : Statement (.flit port bytes) := by intro w h; cases h
theorem portDown (port : Nat) : Statement (.portDown port) := by intro w h; cases h
theorem packetForward (p : Packet) : Statement (.packetForward p) := by intro w h; cases h
theorem write (p : Packet) : Statement (.write p) := by intro w h; cases h
theorem readreq (p : Packet) : Statement (.readreq p) := by intro w h; cases h
theorem readdata (p : Packet) : Statement (.readdata p) := by intro w h; cases h
theorem reduce (p : Packet) : Statement (.reduce p) := by intro w h; cases h
theorem reduceResend : Statement (.reduceResend) := by intro w h; cases h
theorem roundTimeout (x : Nat) (g : Nat) : Statement (.roundTimeout x g) := by intro w h; cases h
theorem atomic (p : Packet) : Statement (.atomic p) := by intro w h; cases h
theorem atomicdata (p : Packet) : Statement (.atomicdata p) := by intro w h; cases h
theorem ack (p : Packet) : Statement (.ack p) := by intro w h; cases h
theorem mcwrite (p : Packet) : Statement (.mcwrite p) := by intro w h; cases h
theorem responseTimeout (tag : Nat) : Statement (.responseTimeout tag) := by intro w h; cases h
theorem chunk (p : Packet) : Statement (.chunk p) := by intro w h; cases h
theorem abortMarker (p : Packet) : Statement (.abortMarker p) := by intro w h; cases h
theorem creditReturn (p : Packet) : Statement (.creditReturn p) := by intro w h; cases h
theorem collectiveStart (id : Nat) : Statement (.collectiveStart id) := by intro w h; cases h
theorem stepTimeout (id : Nat) : Statement (.stepTimeout id) := by intro w h; cases h
theorem collectiveComplete (id : Nat) : Statement (.collectiveComplete id) := by intro w h; cases h
theorem prioritySwitch (port : Nat) : Statement (.prioritySwitch port) := by intro w h; cases h
theorem time (port : Nat) (p : Packet) : Statement (.time port p) := by intro w h; cases h
theorem timeSend : Statement (.timeSend) := by intro w h; cases h
theorem gtbCorrection (up : Bool) : Statement (.gtbCorrection up) := by intro w h; cases h
theorem gtbokLoss : Statement (.gtbokLoss) := by intro w h; cases h
theorem xinvContext (x : Nat) : Statement (.xinvContext x) := by intro w h; cases h
theorem xinvPages (x : Nat) : Statement (.xinvPages x) := by intro w h; cases h
theorem xinvRanges (x : Nat) : Statement (.xinvRanges x) := by intro w h; cases h
theorem xinvNop (x : Nat) : Statement (.xinvNop x) := by intro w h; cases h
theorem xinvComplete (x : Nat) : Statement (.xinvComplete x) := by intro w h; cases h
theorem mgctlReloadReduction (x : Nat) : Statement (.mgctlReloadReduction x) := by intro w h; cases h
theorem mgctlReloadMulticast (x : Nat) : Statement (.mgctlReloadMulticast x) := by intro w h; cases h
theorem clctlReloadChannels (x : Nat) : Statement (.clctlReloadChannels x) := by intro w h; cases h
theorem clctlReloadRings (x : Nat) : Statement (.clctlReloadRings x) := by intro w h; cases h
theorem tctlNone (c : Nat) (t : Bool) (v : Word) : Statement (.tctlNone c t v) := by intro w h; cases h
theorem tctlSetSkew (c : Nat) (t : Bool) (v : Word) : Statement (.tctlSetSkew c t v) := by intro w h; cases h
theorem tctlClearSkew (c : Nat) (t : Bool) (v : Word) : Statement (.tctlClearSkew c t v) := by intro w h; cases h
theorem tctlMakeMailbox (c : Nat) (t : Bool) (v : Word) : Statement (.tctlMakeMailbox c t v) := by intro w h; cases h
theorem tctlReleaseMailbox (c : Nat) (t : Bool) (v : Word) : Statement (.tctlReleaseMailbox c t v) := by intro w h; cases h
theorem tctlDisarm (c : Nat) (t : Bool) (v : Word) : Statement (.tctlDisarm c t v) := by intro w h; cases h
theorem launchQueuePoll (q : Nat) : Statement (.launchQueuePoll q) := by intro w h; cases h
theorem launchAccept (q : Option Nat) : Statement (.launchAccept q) := by intro w h; cases h
theorem lqbaseWrite (q : Nat) (v : Word) : Statement (.lqbaseWrite q v) := by intro w h; cases h
theorem unitDispatch (l : Nat) : Statement (.unitDispatch l) := by intro w h; cases h
theorem imageLoad (c : Nat) : Statement (.imageLoad c) := by intro w h; cases h
theorem launchAged (l : Nat) : Statement (.launchAged l) := by intro w h; cases h
theorem launchComplete (l : Nat) : Statement (.launchComplete l) := by intro w h; cases h
theorem create (x : Nat) : Statement (.create x) := by intro w h; cases h
theorem kill (x : Nat) : Statement (.kill x) := by intro w h; cases h
theorem killComplete (x : Nat) : Statement (.killComplete x) := by intro w h; cases h
theorem signal (x : Nat) : Statement (.signal x) := by intro w h; cases h
theorem wdclr (x : Nat) : Statement (.wdclr x) := by intro w h; cases h
theorem ucload (x : Nat) : Statement (.ucload x) := by intro w h; cases h
theorem attest (x : Nat) : Statement (.attest x) := by intro w h; cases h
theorem quantumEnd (x : Nat) : Statement (.quantumEnd x) := by intro w h; cases h
theorem switchOutComplete (x : Nat) : Statement (.switchOutComplete x) := by intro w h; cases h
theorem contextYield (x : Nat) : Statement (.contextYield x) := by intro w h; cases h
theorem switchIn (x : Nat) : Statement (.switchIn x) := by intro w h; cases h
theorem efenceComplete (c : Nat) (id : Nat) : Statement (.efenceComplete c id) := by intro w h; cases h
theorem digestComplete (c : Nat) (id : Nat) : Statement (.digestComplete c id) := by intro w h; cases h
theorem epochBoundary : Statement (.epochBoundary) := by intro w h; cases h
theorem debugHalt (x : Nat) : Statement (.debugHalt x) := by intro w h; cases h
theorem sampleRecord (x : Nat) : Statement (.sampleRecord x) := by intro w h; cases h
theorem registerWrite (addr : Nat) (bytes : List Byte) : Statement (.registerWrite addr bytes) := by intro w h; cases h
theorem hostCxlMemRead (addr : Nat) (n : Nat) : Statement (.hostCxlMemRead addr n) := by intro w h; cases h
theorem hostCxlMemWrite (addr : Nat) (bytes : List Byte) : Statement (.hostCxlMemWrite addr bytes) := by intro w h; cases h
theorem hostCxlIoWindowAccess (addr : Nat) (n : Nat) (w : Option (List Byte)) : Statement (.hostCxlIoWindowAccess addr n w) := by intro w h; cases h
theorem hostSupervisorWrite (c : Nat) (off : Nat) (bytes : List Byte) : Statement (.hostSupervisorWrite c off bytes) := by intro w h; cases h
theorem coldStart : Statement (.coldStart) := by intro w h; cases h
theorem warmStart : Statement (.warmStart) := by intro w h; cases h
theorem firmwarePush : Statement (.firmwarePush) := by intro w h; cases h
theorem thermalWarn (die : Nat) : Statement (.thermalWarn die) := by intro w h; cases h
theorem throttleStep (die : Nat) : Statement (.throttleStep die) := by intro w h; cases h
theorem thermalTrip (die : Nat) : Statement (.thermalTrip die) := by intro w h; cases h
theorem hbmScrub (addr : Nat) (bad : Bool) : Statement (.hbmScrub addr bad) := by intro w h; cases h
theorem portUp (port : Nat) : Statement (.portUp port) := by intro w h; cases h
theorem mgctlReloadDone (x : Nat) : Statement (.mgctlReloadDone x) := by intro w h; cases h
theorem clctlReloadDone (x : Nat) : Statement (.clctlReloadDone x) := by intro w h; cases h
theorem createComplete (x : Nat) : Statement (.createComplete x) := by intro w h; cases h

end Sys2Proof.Laws.Fields
end

