-- ==== Sys2Proof/Laws/State.lean ====
section
/-! SUPPORT. One law per field of the state and update: what an update leaves alone, and reading back what it wrote. -/

namespace Sys2Proof.Machine

/-! ## State.putCore -/

@[simp] theorem putCore_ctxs (s : State) (c : Nat) (x : Core) : (s.putCore c x).ctxs = s.ctxs := rfl
@[simp] theorem putCore_regs (s : State) (c : Nat) (x : Core) : (s.putCore c x).regs = s.regs := rfl
@[simp] theorem putCore_staging (s : State) (c : Nat) (x : Core) : (s.putCore c x).staging = s.staging := rfl
@[simp] theorem putCore_flash (s : State) (c : Nat) (x : Core) : (s.putCore c x).flash = s.flash := rfl
@[simp] theorem putCore_hbm (s : State) (c : Nat) (x : Core) : (s.putCore c x).hbm = s.hbm := rfl
@[simp] theorem putCore_poison (s : State) (c : Nat) (x : Core) : (s.putCore c x).poison = s.poison := rfl
@[simp] theorem putCore_hostMem (s : State) (c : Nat) (x : Core) : (s.putCore c x).hostMem = s.hostMem := rfl
@[simp] theorem putCore_hostFeed (s : State) (c : Nat) (x : Core) : (s.putCore c x).hostFeed = s.hostFeed := rfl
@[simp] theorem putCore_upsets (s : State) (c : Nat) (x : Core) : (s.putCore c x).upsets = s.upsets := rfl
@[simp] theorem putCore_upset (s : State) (c : Nat) (x : Core) : (s.putCore c x).upset = s.upset := rfl
@[simp] theorem putCore_ports (s : State) (c : Nat) (x : Core) : (s.putCore c x).ports = s.ports := rfl
@[simp] theorem putCore_binds (s : State) (c : Nat) (x : Core) : (s.putCore c x).binds = s.binds := rfl
@[simp] theorem putCore_outbox (s : State) (c : Nat) (x : Core) : (s.putCore c x).outbox = s.outbox := rfl
@[simp] theorem putCore_reqs (s : State) (c : Nat) (x : Core) : (s.putCore c x).reqs = s.reqs := rfl
@[simp] theorem putCore_recs (s : State) (c : Nat) (x : Core) : (s.putCore c x).recs = s.recs := rfl
@[simp] theorem putCore_nextTag (s : State) (c : Nat) (x : Core) : (s.putCore c x).nextTag = s.nextTag := rfl
@[simp] theorem putCore_mashBad (s : State) (c : Nat) (x : Core) : (s.putCore c x).mashBad = s.mashBad := rfl
@[simp] theorem putCore_returned (s : State) (c : Nat) (x : Core) : (s.putCore c x).returned = s.returned := rfl
@[simp] theorem putCore_timeCyc (s : State) (c : Nat) (x : Core) : (s.putCore c x).timeCyc = s.timeCyc := rfl
@[simp] theorem putCore_corrCyc (s : State) (c : Nat) (x : Core) : (s.putCore c x).corrCyc = s.corrCyc := rfl
@[simp] theorem putCore_timeErr (s : State) (c : Nat) (x : Core) : (s.putCore c x).timeErr = s.timeErr := rfl
@[simp] theorem putCore_gtbStep (s : State) (c : Nat) (x : Core) : (s.putCore c x).gtbStep = s.gtbStep := rfl
@[simp] theorem putCore_timeSet (s : State) (c : Nat) (x : Core) : (s.putCore c x).timeSet = s.timeSet := rfl
@[simp] theorem putCore_spawns (s : State) (c : Nat) (x : Core) : (s.putCore c x).spawns = s.spawns := rfl
@[simp] theorem putCore_launches (s : State) (c : Nat) (x : Core) : (s.putCore c x).launches = s.launches := rfl
@[simp] theorem putCore_tails (s : State) (c : Nat) (x : Core) : (s.putCore c x).tails = s.tails := rfl
@[simp] theorem putCore_stopped (s : State) (c : Nat) (x : Core) : (s.putCore c x).stopped = s.stopped := rfl
@[simp] theorem putCore_heads (s : State) (c : Nat) (x : Core) : (s.putCore c x).heads = s.heads := rfl
@[simp] theorem putCore_robin (s : State) (c : Nat) (x : Core) : (s.putCore c x).robin = s.robin := rfl
@[simp] theorem putCore_gone (s : State) (c : Nat) (x : Core) : (s.putCore c x).gone = s.gone := rfl
@[simp] theorem putCore_cert (s : State) (c : Nat) (x : Core) : (s.putCore c x).cert = s.cert := rfl
@[simp] theorem putCore_gangs (s : State) (c : Nat) (x : Core) : (s.putCore c x).gangs = s.gangs := rfl
@[simp] theorem putCore_colls (s : State) (c : Nat) (x : Core) : (s.putCore c x).colls = s.colls := rfl
@[simp] theorem putCore_dies (s : State) (c : Nat) (x : Core) : (s.putCore c x).dies = s.dies := rfl
@[simp] theorem putCore_nextId (s : State) (c : Nat) (x : Core) : (s.putCore c x).nextId = s.nextId := rfl
@[simp] theorem putCore_msix (s : State) (c : Nat) (x : Core) : (s.putCore c x).msix = s.msix := rfl
@[simp] theorem putCore_hostReply (s : State) (c : Nat) (x : Core) : (s.putCore c x).hostReply = s.hostReply := rfl
@[simp] theorem putCore_cycle (s : State) (c : Nat) (x : Core) : (s.putCore c x).cycle = s.cycle := rfl
@[simp] theorem putCore_gtb (s : State) (c : Nat) (x : Core) : (s.putCore c x).gtb = s.gtb := rfl
@[simp] theorem putCore_agenda (s : State) (c : Nat) (x : Core) : (s.putCore c x).agenda = s.agenda := rfl
@[simp] theorem putCore_inputs (s : State) (c : Nat) (x : Core) : (s.putCore c x).inputs = s.inputs := rfl
@[simp] theorem putCore_turn (s : State) (c : Nat) (x : Core) : (s.putCore c x).turn = s.turn := rfl
@[simp] theorem putCore_cur (s : State) (c : Nat) (x : Core) : (s.putCore c x).cur = s.cur := rfl
@[simp] theorem putCore_free (s : State) (c : Nat) (x : Core) : (s.putCore c x).free = s.free := rfl

/-! ## State.putSeat -/

@[simp] theorem putSeat_ctxs (s : State) (c : Nat) (x : Seat) : (s.putSeat c x).ctxs = s.ctxs := rfl
@[simp] theorem putSeat_regs (s : State) (c : Nat) (x : Seat) : (s.putSeat c x).regs = s.regs := rfl
@[simp] theorem putSeat_staging (s : State) (c : Nat) (x : Seat) : (s.putSeat c x).staging = s.staging := rfl
@[simp] theorem putSeat_flash (s : State) (c : Nat) (x : Seat) : (s.putSeat c x).flash = s.flash := rfl
@[simp] theorem putSeat_hbm (s : State) (c : Nat) (x : Seat) : (s.putSeat c x).hbm = s.hbm := rfl
@[simp] theorem putSeat_poison (s : State) (c : Nat) (x : Seat) : (s.putSeat c x).poison = s.poison := rfl
@[simp] theorem putSeat_hostMem (s : State) (c : Nat) (x : Seat) : (s.putSeat c x).hostMem = s.hostMem := rfl
@[simp] theorem putSeat_hostFeed (s : State) (c : Nat) (x : Seat) : (s.putSeat c x).hostFeed = s.hostFeed := rfl
@[simp] theorem putSeat_upsets (s : State) (c : Nat) (x : Seat) : (s.putSeat c x).upsets = s.upsets := rfl
@[simp] theorem putSeat_upset (s : State) (c : Nat) (x : Seat) : (s.putSeat c x).upset = s.upset := rfl
@[simp] theorem putSeat_ports (s : State) (c : Nat) (x : Seat) : (s.putSeat c x).ports = s.ports := rfl
@[simp] theorem putSeat_binds (s : State) (c : Nat) (x : Seat) : (s.putSeat c x).binds = s.binds := rfl
@[simp] theorem putSeat_outbox (s : State) (c : Nat) (x : Seat) : (s.putSeat c x).outbox = s.outbox := rfl
@[simp] theorem putSeat_reqs (s : State) (c : Nat) (x : Seat) : (s.putSeat c x).reqs = s.reqs := rfl
@[simp] theorem putSeat_recs (s : State) (c : Nat) (x : Seat) : (s.putSeat c x).recs = s.recs := rfl
@[simp] theorem putSeat_nextTag (s : State) (c : Nat) (x : Seat) : (s.putSeat c x).nextTag = s.nextTag := rfl
@[simp] theorem putSeat_mashBad (s : State) (c : Nat) (x : Seat) : (s.putSeat c x).mashBad = s.mashBad := rfl
@[simp] theorem putSeat_returned (s : State) (c : Nat) (x : Seat) : (s.putSeat c x).returned = s.returned := rfl
@[simp] theorem putSeat_timeCyc (s : State) (c : Nat) (x : Seat) : (s.putSeat c x).timeCyc = s.timeCyc := rfl
@[simp] theorem putSeat_corrCyc (s : State) (c : Nat) (x : Seat) : (s.putSeat c x).corrCyc = s.corrCyc := rfl
@[simp] theorem putSeat_timeErr (s : State) (c : Nat) (x : Seat) : (s.putSeat c x).timeErr = s.timeErr := rfl
@[simp] theorem putSeat_gtbStep (s : State) (c : Nat) (x : Seat) : (s.putSeat c x).gtbStep = s.gtbStep := rfl
@[simp] theorem putSeat_timeSet (s : State) (c : Nat) (x : Seat) : (s.putSeat c x).timeSet = s.timeSet := rfl
@[simp] theorem putSeat_spawns (s : State) (c : Nat) (x : Seat) : (s.putSeat c x).spawns = s.spawns := rfl
@[simp] theorem putSeat_launches (s : State) (c : Nat) (x : Seat) : (s.putSeat c x).launches = s.launches := rfl
@[simp] theorem putSeat_tails (s : State) (c : Nat) (x : Seat) : (s.putSeat c x).tails = s.tails := rfl
@[simp] theorem putSeat_stopped (s : State) (c : Nat) (x : Seat) : (s.putSeat c x).stopped = s.stopped := rfl
@[simp] theorem putSeat_heads (s : State) (c : Nat) (x : Seat) : (s.putSeat c x).heads = s.heads := rfl
@[simp] theorem putSeat_robin (s : State) (c : Nat) (x : Seat) : (s.putSeat c x).robin = s.robin := rfl
@[simp] theorem putSeat_gone (s : State) (c : Nat) (x : Seat) : (s.putSeat c x).gone = s.gone := rfl
@[simp] theorem putSeat_cert (s : State) (c : Nat) (x : Seat) : (s.putSeat c x).cert = s.cert := rfl
@[simp] theorem putSeat_gangs (s : State) (c : Nat) (x : Seat) : (s.putSeat c x).gangs = s.gangs := rfl
@[simp] theorem putSeat_colls (s : State) (c : Nat) (x : Seat) : (s.putSeat c x).colls = s.colls := rfl
@[simp] theorem putSeat_dies (s : State) (c : Nat) (x : Seat) : (s.putSeat c x).dies = s.dies := rfl
@[simp] theorem putSeat_nextId (s : State) (c : Nat) (x : Seat) : (s.putSeat c x).nextId = s.nextId := rfl
@[simp] theorem putSeat_msix (s : State) (c : Nat) (x : Seat) : (s.putSeat c x).msix = s.msix := rfl
@[simp] theorem putSeat_hostReply (s : State) (c : Nat) (x : Seat) : (s.putSeat c x).hostReply = s.hostReply := rfl
@[simp] theorem putSeat_cycle (s : State) (c : Nat) (x : Seat) : (s.putSeat c x).cycle = s.cycle := rfl
@[simp] theorem putSeat_gtb (s : State) (c : Nat) (x : Seat) : (s.putSeat c x).gtb = s.gtb := rfl
@[simp] theorem putSeat_agenda (s : State) (c : Nat) (x : Seat) : (s.putSeat c x).agenda = s.agenda := rfl
@[simp] theorem putSeat_inputs (s : State) (c : Nat) (x : Seat) : (s.putSeat c x).inputs = s.inputs := rfl
@[simp] theorem putSeat_turn (s : State) (c : Nat) (x : Seat) : (s.putSeat c x).turn = s.turn := rfl
@[simp] theorem putSeat_cur (s : State) (c : Nat) (x : Seat) : (s.putSeat c x).cur = s.cur := rfl
@[simp] theorem putSeat_free (s : State) (c : Nat) (x : Seat) : (s.putSeat c x).free = s.free := rfl

/-! ## State.putSt -/

@[simp] theorem putSt_ctxs (s : State) (c : Nat) (t : Bool) (y : Stream) : (s.putSt c t y).ctxs = s.ctxs := rfl
@[simp] theorem putSt_regs (s : State) (c : Nat) (t : Bool) (y : Stream) : (s.putSt c t y).regs = s.regs := rfl
@[simp] theorem putSt_staging (s : State) (c : Nat) (t : Bool) (y : Stream) : (s.putSt c t y).staging = s.staging := rfl
@[simp] theorem putSt_flash (s : State) (c : Nat) (t : Bool) (y : Stream) : (s.putSt c t y).flash = s.flash := rfl
@[simp] theorem putSt_hbm (s : State) (c : Nat) (t : Bool) (y : Stream) : (s.putSt c t y).hbm = s.hbm := rfl
@[simp] theorem putSt_poison (s : State) (c : Nat) (t : Bool) (y : Stream) : (s.putSt c t y).poison = s.poison := rfl
@[simp] theorem putSt_hostMem (s : State) (c : Nat) (t : Bool) (y : Stream) : (s.putSt c t y).hostMem = s.hostMem := rfl
@[simp] theorem putSt_hostFeed (s : State) (c : Nat) (t : Bool) (y : Stream) : (s.putSt c t y).hostFeed = s.hostFeed := rfl
@[simp] theorem putSt_upsets (s : State) (c : Nat) (t : Bool) (y : Stream) : (s.putSt c t y).upsets = s.upsets := rfl
@[simp] theorem putSt_upset (s : State) (c : Nat) (t : Bool) (y : Stream) : (s.putSt c t y).upset = s.upset := rfl
@[simp] theorem putSt_ports (s : State) (c : Nat) (t : Bool) (y : Stream) : (s.putSt c t y).ports = s.ports := rfl
@[simp] theorem putSt_binds (s : State) (c : Nat) (t : Bool) (y : Stream) : (s.putSt c t y).binds = s.binds := rfl
@[simp] theorem putSt_outbox (s : State) (c : Nat) (t : Bool) (y : Stream) : (s.putSt c t y).outbox = s.outbox := rfl
@[simp] theorem putSt_reqs (s : State) (c : Nat) (t : Bool) (y : Stream) : (s.putSt c t y).reqs = s.reqs := rfl
@[simp] theorem putSt_recs (s : State) (c : Nat) (t : Bool) (y : Stream) : (s.putSt c t y).recs = s.recs := rfl
@[simp] theorem putSt_nextTag (s : State) (c : Nat) (t : Bool) (y : Stream) : (s.putSt c t y).nextTag = s.nextTag := rfl
@[simp] theorem putSt_mashBad (s : State) (c : Nat) (t : Bool) (y : Stream) : (s.putSt c t y).mashBad = s.mashBad := rfl
@[simp] theorem putSt_returned (s : State) (c : Nat) (t : Bool) (y : Stream) : (s.putSt c t y).returned = s.returned := rfl
@[simp] theorem putSt_timeCyc (s : State) (c : Nat) (t : Bool) (y : Stream) : (s.putSt c t y).timeCyc = s.timeCyc := rfl
@[simp] theorem putSt_corrCyc (s : State) (c : Nat) (t : Bool) (y : Stream) : (s.putSt c t y).corrCyc = s.corrCyc := rfl
@[simp] theorem putSt_timeErr (s : State) (c : Nat) (t : Bool) (y : Stream) : (s.putSt c t y).timeErr = s.timeErr := rfl
@[simp] theorem putSt_gtbStep (s : State) (c : Nat) (t : Bool) (y : Stream) : (s.putSt c t y).gtbStep = s.gtbStep := rfl
@[simp] theorem putSt_timeSet (s : State) (c : Nat) (t : Bool) (y : Stream) : (s.putSt c t y).timeSet = s.timeSet := rfl
@[simp] theorem putSt_spawns (s : State) (c : Nat) (t : Bool) (y : Stream) : (s.putSt c t y).spawns = s.spawns := rfl
@[simp] theorem putSt_launches (s : State) (c : Nat) (t : Bool) (y : Stream) : (s.putSt c t y).launches = s.launches := rfl
@[simp] theorem putSt_tails (s : State) (c : Nat) (t : Bool) (y : Stream) : (s.putSt c t y).tails = s.tails := rfl
@[simp] theorem putSt_stopped (s : State) (c : Nat) (t : Bool) (y : Stream) : (s.putSt c t y).stopped = s.stopped := rfl
@[simp] theorem putSt_heads (s : State) (c : Nat) (t : Bool) (y : Stream) : (s.putSt c t y).heads = s.heads := rfl
@[simp] theorem putSt_robin (s : State) (c : Nat) (t : Bool) (y : Stream) : (s.putSt c t y).robin = s.robin := rfl
@[simp] theorem putSt_gone (s : State) (c : Nat) (t : Bool) (y : Stream) : (s.putSt c t y).gone = s.gone := rfl
@[simp] theorem putSt_cert (s : State) (c : Nat) (t : Bool) (y : Stream) : (s.putSt c t y).cert = s.cert := rfl
@[simp] theorem putSt_gangs (s : State) (c : Nat) (t : Bool) (y : Stream) : (s.putSt c t y).gangs = s.gangs := rfl
@[simp] theorem putSt_colls (s : State) (c : Nat) (t : Bool) (y : Stream) : (s.putSt c t y).colls = s.colls := rfl
@[simp] theorem putSt_dies (s : State) (c : Nat) (t : Bool) (y : Stream) : (s.putSt c t y).dies = s.dies := rfl
@[simp] theorem putSt_nextId (s : State) (c : Nat) (t : Bool) (y : Stream) : (s.putSt c t y).nextId = s.nextId := rfl
@[simp] theorem putSt_msix (s : State) (c : Nat) (t : Bool) (y : Stream) : (s.putSt c t y).msix = s.msix := rfl
@[simp] theorem putSt_hostReply (s : State) (c : Nat) (t : Bool) (y : Stream) : (s.putSt c t y).hostReply = s.hostReply := rfl
@[simp] theorem putSt_cycle (s : State) (c : Nat) (t : Bool) (y : Stream) : (s.putSt c t y).cycle = s.cycle := rfl
@[simp] theorem putSt_gtb (s : State) (c : Nat) (t : Bool) (y : Stream) : (s.putSt c t y).gtb = s.gtb := rfl
@[simp] theorem putSt_agenda (s : State) (c : Nat) (t : Bool) (y : Stream) : (s.putSt c t y).agenda = s.agenda := rfl
@[simp] theorem putSt_inputs (s : State) (c : Nat) (t : Bool) (y : Stream) : (s.putSt c t y).inputs = s.inputs := rfl
@[simp] theorem putSt_turn (s : State) (c : Nat) (t : Bool) (y : Stream) : (s.putSt c t y).turn = s.turn := rfl
@[simp] theorem putSt_cur (s : State) (c : Nat) (t : Bool) (y : Stream) : (s.putSt c t y).cur = s.cur := rfl
@[simp] theorem putSt_free (s : State) (c : Nat) (t : Bool) (y : Stream) : (s.putSt c t y).free = s.free := rfl

/-! ## State.putCst -/

@[simp] theorem putCst_ctxs (s : State) (y : Stream) : (s.putCst y).ctxs = s.ctxs := rfl
@[simp] theorem putCst_regs (s : State) (y : Stream) : (s.putCst y).regs = s.regs := rfl
@[simp] theorem putCst_staging (s : State) (y : Stream) : (s.putCst y).staging = s.staging := rfl
@[simp] theorem putCst_flash (s : State) (y : Stream) : (s.putCst y).flash = s.flash := rfl
@[simp] theorem putCst_hbm (s : State) (y : Stream) : (s.putCst y).hbm = s.hbm := rfl
@[simp] theorem putCst_poison (s : State) (y : Stream) : (s.putCst y).poison = s.poison := rfl
@[simp] theorem putCst_hostMem (s : State) (y : Stream) : (s.putCst y).hostMem = s.hostMem := rfl
@[simp] theorem putCst_hostFeed (s : State) (y : Stream) : (s.putCst y).hostFeed = s.hostFeed := rfl
@[simp] theorem putCst_upsets (s : State) (y : Stream) : (s.putCst y).upsets = s.upsets := rfl
@[simp] theorem putCst_upset (s : State) (y : Stream) : (s.putCst y).upset = s.upset := rfl
@[simp] theorem putCst_ports (s : State) (y : Stream) : (s.putCst y).ports = s.ports := rfl
@[simp] theorem putCst_binds (s : State) (y : Stream) : (s.putCst y).binds = s.binds := rfl
@[simp] theorem putCst_outbox (s : State) (y : Stream) : (s.putCst y).outbox = s.outbox := rfl
@[simp] theorem putCst_reqs (s : State) (y : Stream) : (s.putCst y).reqs = s.reqs := rfl
@[simp] theorem putCst_recs (s : State) (y : Stream) : (s.putCst y).recs = s.recs := rfl
@[simp] theorem putCst_nextTag (s : State) (y : Stream) : (s.putCst y).nextTag = s.nextTag := rfl
@[simp] theorem putCst_mashBad (s : State) (y : Stream) : (s.putCst y).mashBad = s.mashBad := rfl
@[simp] theorem putCst_returned (s : State) (y : Stream) : (s.putCst y).returned = s.returned := rfl
@[simp] theorem putCst_timeCyc (s : State) (y : Stream) : (s.putCst y).timeCyc = s.timeCyc := rfl
@[simp] theorem putCst_corrCyc (s : State) (y : Stream) : (s.putCst y).corrCyc = s.corrCyc := rfl
@[simp] theorem putCst_timeErr (s : State) (y : Stream) : (s.putCst y).timeErr = s.timeErr := rfl
@[simp] theorem putCst_gtbStep (s : State) (y : Stream) : (s.putCst y).gtbStep = s.gtbStep := rfl
@[simp] theorem putCst_timeSet (s : State) (y : Stream) : (s.putCst y).timeSet = s.timeSet := rfl
@[simp] theorem putCst_spawns (s : State) (y : Stream) : (s.putCst y).spawns = s.spawns := rfl
@[simp] theorem putCst_launches (s : State) (y : Stream) : (s.putCst y).launches = s.launches := rfl
@[simp] theorem putCst_tails (s : State) (y : Stream) : (s.putCst y).tails = s.tails := rfl
@[simp] theorem putCst_stopped (s : State) (y : Stream) : (s.putCst y).stopped = s.stopped := rfl
@[simp] theorem putCst_heads (s : State) (y : Stream) : (s.putCst y).heads = s.heads := rfl
@[simp] theorem putCst_robin (s : State) (y : Stream) : (s.putCst y).robin = s.robin := rfl
@[simp] theorem putCst_gone (s : State) (y : Stream) : (s.putCst y).gone = s.gone := rfl
@[simp] theorem putCst_cert (s : State) (y : Stream) : (s.putCst y).cert = s.cert := rfl
@[simp] theorem putCst_gangs (s : State) (y : Stream) : (s.putCst y).gangs = s.gangs := rfl
@[simp] theorem putCst_colls (s : State) (y : Stream) : (s.putCst y).colls = s.colls := rfl
@[simp] theorem putCst_dies (s : State) (y : Stream) : (s.putCst y).dies = s.dies := rfl
@[simp] theorem putCst_nextId (s : State) (y : Stream) : (s.putCst y).nextId = s.nextId := rfl
@[simp] theorem putCst_msix (s : State) (y : Stream) : (s.putCst y).msix = s.msix := rfl
@[simp] theorem putCst_hostReply (s : State) (y : Stream) : (s.putCst y).hostReply = s.hostReply := rfl
@[simp] theorem putCst_cycle (s : State) (y : Stream) : (s.putCst y).cycle = s.cycle := rfl
@[simp] theorem putCst_gtb (s : State) (y : Stream) : (s.putCst y).gtb = s.gtb := rfl
@[simp] theorem putCst_agenda (s : State) (y : Stream) : (s.putCst y).agenda = s.agenda := rfl
@[simp] theorem putCst_inputs (s : State) (y : Stream) : (s.putCst y).inputs = s.inputs := rfl
@[simp] theorem putCst_turn (s : State) (y : Stream) : (s.putCst y).turn = s.turn := rfl
@[simp] theorem putCst_cur (s : State) (y : Stream) : (s.putCst y).cur = s.cur := rfl
@[simp] theorem putCst_free (s : State) (y : Stream) : (s.putCst y).free = s.free := rfl

/-! ## State.putCtx -/

@[simp] theorem putCtx_cores (s : State) (x : Nat) (y : Ctx) : (s.putCtx x y).cores = s.cores := rfl
@[simp] theorem putCtx_regs (s : State) (x : Nat) (y : Ctx) : (s.putCtx x y).regs = s.regs := rfl
@[simp] theorem putCtx_staging (s : State) (x : Nat) (y : Ctx) : (s.putCtx x y).staging = s.staging := rfl
@[simp] theorem putCtx_flash (s : State) (x : Nat) (y : Ctx) : (s.putCtx x y).flash = s.flash := rfl
@[simp] theorem putCtx_hbm (s : State) (x : Nat) (y : Ctx) : (s.putCtx x y).hbm = s.hbm := rfl
@[simp] theorem putCtx_poison (s : State) (x : Nat) (y : Ctx) : (s.putCtx x y).poison = s.poison := rfl
@[simp] theorem putCtx_hostMem (s : State) (x : Nat) (y : Ctx) : (s.putCtx x y).hostMem = s.hostMem := rfl
@[simp] theorem putCtx_hostFeed (s : State) (x : Nat) (y : Ctx) : (s.putCtx x y).hostFeed = s.hostFeed := rfl
@[simp] theorem putCtx_upsets (s : State) (x : Nat) (y : Ctx) : (s.putCtx x y).upsets = s.upsets := rfl
@[simp] theorem putCtx_upset (s : State) (x : Nat) (y : Ctx) : (s.putCtx x y).upset = s.upset := rfl
@[simp] theorem putCtx_ports (s : State) (x : Nat) (y : Ctx) : (s.putCtx x y).ports = s.ports := rfl
@[simp] theorem putCtx_binds (s : State) (x : Nat) (y : Ctx) : (s.putCtx x y).binds = s.binds := rfl
@[simp] theorem putCtx_outbox (s : State) (x : Nat) (y : Ctx) : (s.putCtx x y).outbox = s.outbox := rfl
@[simp] theorem putCtx_reqs (s : State) (x : Nat) (y : Ctx) : (s.putCtx x y).reqs = s.reqs := rfl
@[simp] theorem putCtx_recs (s : State) (x : Nat) (y : Ctx) : (s.putCtx x y).recs = s.recs := rfl
@[simp] theorem putCtx_nextTag (s : State) (x : Nat) (y : Ctx) : (s.putCtx x y).nextTag = s.nextTag := rfl
@[simp] theorem putCtx_mashBad (s : State) (x : Nat) (y : Ctx) : (s.putCtx x y).mashBad = s.mashBad := rfl
@[simp] theorem putCtx_returned (s : State) (x : Nat) (y : Ctx) : (s.putCtx x y).returned = s.returned := rfl
@[simp] theorem putCtx_timeCyc (s : State) (x : Nat) (y : Ctx) : (s.putCtx x y).timeCyc = s.timeCyc := rfl
@[simp] theorem putCtx_corrCyc (s : State) (x : Nat) (y : Ctx) : (s.putCtx x y).corrCyc = s.corrCyc := rfl
@[simp] theorem putCtx_timeErr (s : State) (x : Nat) (y : Ctx) : (s.putCtx x y).timeErr = s.timeErr := rfl
@[simp] theorem putCtx_gtbStep (s : State) (x : Nat) (y : Ctx) : (s.putCtx x y).gtbStep = s.gtbStep := rfl
@[simp] theorem putCtx_timeSet (s : State) (x : Nat) (y : Ctx) : (s.putCtx x y).timeSet = s.timeSet := rfl
@[simp] theorem putCtx_spawns (s : State) (x : Nat) (y : Ctx) : (s.putCtx x y).spawns = s.spawns := rfl
@[simp] theorem putCtx_launches (s : State) (x : Nat) (y : Ctx) : (s.putCtx x y).launches = s.launches := rfl
@[simp] theorem putCtx_tails (s : State) (x : Nat) (y : Ctx) : (s.putCtx x y).tails = s.tails := rfl
@[simp] theorem putCtx_stopped (s : State) (x : Nat) (y : Ctx) : (s.putCtx x y).stopped = s.stopped := rfl
@[simp] theorem putCtx_heads (s : State) (x : Nat) (y : Ctx) : (s.putCtx x y).heads = s.heads := rfl
@[simp] theorem putCtx_robin (s : State) (x : Nat) (y : Ctx) : (s.putCtx x y).robin = s.robin := rfl
@[simp] theorem putCtx_gone (s : State) (x : Nat) (y : Ctx) : (s.putCtx x y).gone = s.gone := rfl
@[simp] theorem putCtx_cert (s : State) (x : Nat) (y : Ctx) : (s.putCtx x y).cert = s.cert := rfl
@[simp] theorem putCtx_gangs (s : State) (x : Nat) (y : Ctx) : (s.putCtx x y).gangs = s.gangs := rfl
@[simp] theorem putCtx_colls (s : State) (x : Nat) (y : Ctx) : (s.putCtx x y).colls = s.colls := rfl
@[simp] theorem putCtx_dies (s : State) (x : Nat) (y : Ctx) : (s.putCtx x y).dies = s.dies := rfl
@[simp] theorem putCtx_nextId (s : State) (x : Nat) (y : Ctx) : (s.putCtx x y).nextId = s.nextId := rfl
@[simp] theorem putCtx_msix (s : State) (x : Nat) (y : Ctx) : (s.putCtx x y).msix = s.msix := rfl
@[simp] theorem putCtx_hostReply (s : State) (x : Nat) (y : Ctx) : (s.putCtx x y).hostReply = s.hostReply := rfl
@[simp] theorem putCtx_cycle (s : State) (x : Nat) (y : Ctx) : (s.putCtx x y).cycle = s.cycle := rfl
@[simp] theorem putCtx_gtb (s : State) (x : Nat) (y : Ctx) : (s.putCtx x y).gtb = s.gtb := rfl
@[simp] theorem putCtx_agenda (s : State) (x : Nat) (y : Ctx) : (s.putCtx x y).agenda = s.agenda := rfl
@[simp] theorem putCtx_inputs (s : State) (x : Nat) (y : Ctx) : (s.putCtx x y).inputs = s.inputs := rfl
@[simp] theorem putCtx_turn (s : State) (x : Nat) (y : Ctx) : (s.putCtx x y).turn = s.turn := rfl
@[simp] theorem putCtx_cur (s : State) (x : Nat) (y : Ctx) : (s.putCtx x y).cur = s.cur := rfl
@[simp] theorem putCtx_free (s : State) (x : Nat) (y : Ctx) : (s.putCtx x y).free = s.free := rfl

/-! ## State.putPort -/

@[simp] theorem putPort_cores (s : State) (i : Nat) (q : Port) : (s.putPort i q).cores = s.cores := rfl
@[simp] theorem putPort_ctxs (s : State) (i : Nat) (q : Port) : (s.putPort i q).ctxs = s.ctxs := rfl
@[simp] theorem putPort_regs (s : State) (i : Nat) (q : Port) : (s.putPort i q).regs = s.regs := rfl
@[simp] theorem putPort_staging (s : State) (i : Nat) (q : Port) : (s.putPort i q).staging = s.staging := rfl
@[simp] theorem putPort_flash (s : State) (i : Nat) (q : Port) : (s.putPort i q).flash = s.flash := rfl
@[simp] theorem putPort_hbm (s : State) (i : Nat) (q : Port) : (s.putPort i q).hbm = s.hbm := rfl
@[simp] theorem putPort_poison (s : State) (i : Nat) (q : Port) : (s.putPort i q).poison = s.poison := rfl
@[simp] theorem putPort_hostMem (s : State) (i : Nat) (q : Port) : (s.putPort i q).hostMem = s.hostMem := rfl
@[simp] theorem putPort_hostFeed (s : State) (i : Nat) (q : Port) : (s.putPort i q).hostFeed = s.hostFeed := rfl
@[simp] theorem putPort_upsets (s : State) (i : Nat) (q : Port) : (s.putPort i q).upsets = s.upsets := rfl
@[simp] theorem putPort_upset (s : State) (i : Nat) (q : Port) : (s.putPort i q).upset = s.upset := rfl
@[simp] theorem putPort_binds (s : State) (i : Nat) (q : Port) : (s.putPort i q).binds = s.binds := rfl
@[simp] theorem putPort_outbox (s : State) (i : Nat) (q : Port) : (s.putPort i q).outbox = s.outbox := rfl
@[simp] theorem putPort_reqs (s : State) (i : Nat) (q : Port) : (s.putPort i q).reqs = s.reqs := rfl
@[simp] theorem putPort_recs (s : State) (i : Nat) (q : Port) : (s.putPort i q).recs = s.recs := rfl
@[simp] theorem putPort_nextTag (s : State) (i : Nat) (q : Port) : (s.putPort i q).nextTag = s.nextTag := rfl
@[simp] theorem putPort_mashBad (s : State) (i : Nat) (q : Port) : (s.putPort i q).mashBad = s.mashBad := rfl
@[simp] theorem putPort_returned (s : State) (i : Nat) (q : Port) : (s.putPort i q).returned = s.returned := rfl
@[simp] theorem putPort_timeCyc (s : State) (i : Nat) (q : Port) : (s.putPort i q).timeCyc = s.timeCyc := rfl
@[simp] theorem putPort_corrCyc (s : State) (i : Nat) (q : Port) : (s.putPort i q).corrCyc = s.corrCyc := rfl
@[simp] theorem putPort_timeErr (s : State) (i : Nat) (q : Port) : (s.putPort i q).timeErr = s.timeErr := rfl
@[simp] theorem putPort_gtbStep (s : State) (i : Nat) (q : Port) : (s.putPort i q).gtbStep = s.gtbStep := rfl
@[simp] theorem putPort_timeSet (s : State) (i : Nat) (q : Port) : (s.putPort i q).timeSet = s.timeSet := rfl
@[simp] theorem putPort_spawns (s : State) (i : Nat) (q : Port) : (s.putPort i q).spawns = s.spawns := rfl
@[simp] theorem putPort_launches (s : State) (i : Nat) (q : Port) : (s.putPort i q).launches = s.launches := rfl
@[simp] theorem putPort_tails (s : State) (i : Nat) (q : Port) : (s.putPort i q).tails = s.tails := rfl
@[simp] theorem putPort_stopped (s : State) (i : Nat) (q : Port) : (s.putPort i q).stopped = s.stopped := rfl
@[simp] theorem putPort_heads (s : State) (i : Nat) (q : Port) : (s.putPort i q).heads = s.heads := rfl
@[simp] theorem putPort_robin (s : State) (i : Nat) (q : Port) : (s.putPort i q).robin = s.robin := rfl
@[simp] theorem putPort_gone (s : State) (i : Nat) (q : Port) : (s.putPort i q).gone = s.gone := rfl
@[simp] theorem putPort_cert (s : State) (i : Nat) (q : Port) : (s.putPort i q).cert = s.cert := rfl
@[simp] theorem putPort_gangs (s : State) (i : Nat) (q : Port) : (s.putPort i q).gangs = s.gangs := rfl
@[simp] theorem putPort_colls (s : State) (i : Nat) (q : Port) : (s.putPort i q).colls = s.colls := rfl
@[simp] theorem putPort_dies (s : State) (i : Nat) (q : Port) : (s.putPort i q).dies = s.dies := rfl
@[simp] theorem putPort_nextId (s : State) (i : Nat) (q : Port) : (s.putPort i q).nextId = s.nextId := rfl
@[simp] theorem putPort_msix (s : State) (i : Nat) (q : Port) : (s.putPort i q).msix = s.msix := rfl
@[simp] theorem putPort_hostReply (s : State) (i : Nat) (q : Port) : (s.putPort i q).hostReply = s.hostReply := rfl
@[simp] theorem putPort_cycle (s : State) (i : Nat) (q : Port) : (s.putPort i q).cycle = s.cycle := rfl
@[simp] theorem putPort_gtb (s : State) (i : Nat) (q : Port) : (s.putPort i q).gtb = s.gtb := rfl
@[simp] theorem putPort_agenda (s : State) (i : Nat) (q : Port) : (s.putPort i q).agenda = s.agenda := rfl
@[simp] theorem putPort_inputs (s : State) (i : Nat) (q : Port) : (s.putPort i q).inputs = s.inputs := rfl
@[simp] theorem putPort_turn (s : State) (i : Nat) (q : Port) : (s.putPort i q).turn = s.turn := rfl
@[simp] theorem putPort_cur (s : State) (i : Nat) (q : Port) : (s.putPort i q).cur = s.cur := rfl
@[simp] theorem putPort_free (s : State) (i : Nat) (q : Port) : (s.putPort i q).free = s.free := rfl

/-! ## State.used -/

@[simp] theorem used_cores (s : State) : (s.used).cores = s.cores := rfl
@[simp] theorem used_ctxs (s : State) : (s.used).ctxs = s.ctxs := rfl
@[simp] theorem used_regs (s : State) : (s.used).regs = s.regs := rfl
@[simp] theorem used_staging (s : State) : (s.used).staging = s.staging := rfl
@[simp] theorem used_flash (s : State) : (s.used).flash = s.flash := rfl
@[simp] theorem used_hbm (s : State) : (s.used).hbm = s.hbm := rfl
@[simp] theorem used_poison (s : State) : (s.used).poison = s.poison := rfl
@[simp] theorem used_hostMem (s : State) : (s.used).hostMem = s.hostMem := rfl
@[simp] theorem used_hostFeed (s : State) : (s.used).hostFeed = s.hostFeed := rfl
@[simp] theorem used_upsets (s : State) : (s.used).upsets = s.upsets := rfl
@[simp] theorem used_upset (s : State) : (s.used).upset = s.upset := rfl
@[simp] theorem used_ports (s : State) : (s.used).ports = s.ports := rfl
@[simp] theorem used_binds (s : State) : (s.used).binds = s.binds := rfl
@[simp] theorem used_outbox (s : State) : (s.used).outbox = s.outbox := rfl
@[simp] theorem used_reqs (s : State) : (s.used).reqs = s.reqs := rfl
@[simp] theorem used_recs (s : State) : (s.used).recs = s.recs := rfl
@[simp] theorem used_nextTag (s : State) : (s.used).nextTag = s.nextTag := rfl
@[simp] theorem used_mashBad (s : State) : (s.used).mashBad = s.mashBad := rfl
@[simp] theorem used_returned (s : State) : (s.used).returned = s.returned := rfl
@[simp] theorem used_timeCyc (s : State) : (s.used).timeCyc = s.timeCyc := rfl
@[simp] theorem used_corrCyc (s : State) : (s.used).corrCyc = s.corrCyc := rfl
@[simp] theorem used_timeErr (s : State) : (s.used).timeErr = s.timeErr := rfl
@[simp] theorem used_gtbStep (s : State) : (s.used).gtbStep = s.gtbStep := rfl
@[simp] theorem used_timeSet (s : State) : (s.used).timeSet = s.timeSet := rfl
@[simp] theorem used_spawns (s : State) : (s.used).spawns = s.spawns := rfl
@[simp] theorem used_launches (s : State) : (s.used).launches = s.launches := rfl
@[simp] theorem used_tails (s : State) : (s.used).tails = s.tails := rfl
@[simp] theorem used_stopped (s : State) : (s.used).stopped = s.stopped := rfl
@[simp] theorem used_heads (s : State) : (s.used).heads = s.heads := rfl
@[simp] theorem used_robin (s : State) : (s.used).robin = s.robin := rfl
@[simp] theorem used_gone (s : State) : (s.used).gone = s.gone := rfl
@[simp] theorem used_cert (s : State) : (s.used).cert = s.cert := rfl
@[simp] theorem used_gangs (s : State) : (s.used).gangs = s.gangs := rfl
@[simp] theorem used_colls (s : State) : (s.used).colls = s.colls := rfl
@[simp] theorem used_dies (s : State) : (s.used).dies = s.dies := rfl
@[simp] theorem used_nextId (s : State) : (s.used).nextId = s.nextId := rfl
@[simp] theorem used_msix (s : State) : (s.used).msix = s.msix := rfl
@[simp] theorem used_hostReply (s : State) : (s.used).hostReply = s.hostReply := rfl
@[simp] theorem used_cycle (s : State) : (s.used).cycle = s.cycle := rfl
@[simp] theorem used_gtb (s : State) : (s.used).gtb = s.gtb := rfl
@[simp] theorem used_agenda (s : State) : (s.used).agenda = s.agenda := rfl
@[simp] theorem used_inputs (s : State) : (s.used).inputs = s.inputs := rfl
@[simp] theorem used_turn (s : State) : (s.used).turn = s.turn := rfl
@[simp] theorem used_cur (s : State) : (s.used).cur = s.cur := rfl

/-! ## State.setReg -/

@[simp] theorem setReg_cores (s : State) (o : Nat) (v : Word) : (s.setReg o v).cores = s.cores := rfl
@[simp] theorem setReg_ctxs (s : State) (o : Nat) (v : Word) : (s.setReg o v).ctxs = s.ctxs := rfl
@[simp] theorem setReg_staging (s : State) (o : Nat) (v : Word) : (s.setReg o v).staging = s.staging := rfl
@[simp] theorem setReg_flash (s : State) (o : Nat) (v : Word) : (s.setReg o v).flash = s.flash := rfl
@[simp] theorem setReg_hbm (s : State) (o : Nat) (v : Word) : (s.setReg o v).hbm = s.hbm := rfl
@[simp] theorem setReg_poison (s : State) (o : Nat) (v : Word) : (s.setReg o v).poison = s.poison := rfl
@[simp] theorem setReg_hostMem (s : State) (o : Nat) (v : Word) : (s.setReg o v).hostMem = s.hostMem := rfl
@[simp] theorem setReg_hostFeed (s : State) (o : Nat) (v : Word) : (s.setReg o v).hostFeed = s.hostFeed := rfl
@[simp] theorem setReg_upsets (s : State) (o : Nat) (v : Word) : (s.setReg o v).upsets = s.upsets := rfl
@[simp] theorem setReg_upset (s : State) (o : Nat) (v : Word) : (s.setReg o v).upset = s.upset := rfl
@[simp] theorem setReg_ports (s : State) (o : Nat) (v : Word) : (s.setReg o v).ports = s.ports := rfl
@[simp] theorem setReg_binds (s : State) (o : Nat) (v : Word) : (s.setReg o v).binds = s.binds := rfl
@[simp] theorem setReg_outbox (s : State) (o : Nat) (v : Word) : (s.setReg o v).outbox = s.outbox := rfl
@[simp] theorem setReg_reqs (s : State) (o : Nat) (v : Word) : (s.setReg o v).reqs = s.reqs := rfl
@[simp] theorem setReg_recs (s : State) (o : Nat) (v : Word) : (s.setReg o v).recs = s.recs := rfl
@[simp] theorem setReg_nextTag (s : State) (o : Nat) (v : Word) : (s.setReg o v).nextTag = s.nextTag := rfl
@[simp] theorem setReg_mashBad (s : State) (o : Nat) (v : Word) : (s.setReg o v).mashBad = s.mashBad := rfl
@[simp] theorem setReg_returned (s : State) (o : Nat) (v : Word) : (s.setReg o v).returned = s.returned := rfl
@[simp] theorem setReg_timeCyc (s : State) (o : Nat) (v : Word) : (s.setReg o v).timeCyc = s.timeCyc := rfl
@[simp] theorem setReg_corrCyc (s : State) (o : Nat) (v : Word) : (s.setReg o v).corrCyc = s.corrCyc := rfl
@[simp] theorem setReg_timeErr (s : State) (o : Nat) (v : Word) : (s.setReg o v).timeErr = s.timeErr := rfl
@[simp] theorem setReg_gtbStep (s : State) (o : Nat) (v : Word) : (s.setReg o v).gtbStep = s.gtbStep := rfl
@[simp] theorem setReg_timeSet (s : State) (o : Nat) (v : Word) : (s.setReg o v).timeSet = s.timeSet := rfl
@[simp] theorem setReg_spawns (s : State) (o : Nat) (v : Word) : (s.setReg o v).spawns = s.spawns := rfl
@[simp] theorem setReg_launches (s : State) (o : Nat) (v : Word) : (s.setReg o v).launches = s.launches := rfl
@[simp] theorem setReg_tails (s : State) (o : Nat) (v : Word) : (s.setReg o v).tails = s.tails := rfl
@[simp] theorem setReg_stopped (s : State) (o : Nat) (v : Word) : (s.setReg o v).stopped = s.stopped := rfl
@[simp] theorem setReg_heads (s : State) (o : Nat) (v : Word) : (s.setReg o v).heads = s.heads := rfl
@[simp] theorem setReg_robin (s : State) (o : Nat) (v : Word) : (s.setReg o v).robin = s.robin := rfl
@[simp] theorem setReg_gone (s : State) (o : Nat) (v : Word) : (s.setReg o v).gone = s.gone := rfl
@[simp] theorem setReg_cert (s : State) (o : Nat) (v : Word) : (s.setReg o v).cert = s.cert := rfl
@[simp] theorem setReg_gangs (s : State) (o : Nat) (v : Word) : (s.setReg o v).gangs = s.gangs := rfl
@[simp] theorem setReg_colls (s : State) (o : Nat) (v : Word) : (s.setReg o v).colls = s.colls := rfl
@[simp] theorem setReg_dies (s : State) (o : Nat) (v : Word) : (s.setReg o v).dies = s.dies := rfl
@[simp] theorem setReg_nextId (s : State) (o : Nat) (v : Word) : (s.setReg o v).nextId = s.nextId := rfl
@[simp] theorem setReg_msix (s : State) (o : Nat) (v : Word) : (s.setReg o v).msix = s.msix := rfl
@[simp] theorem setReg_hostReply (s : State) (o : Nat) (v : Word) : (s.setReg o v).hostReply = s.hostReply := rfl
@[simp] theorem setReg_cycle (s : State) (o : Nat) (v : Word) : (s.setReg o v).cycle = s.cycle := rfl
@[simp] theorem setReg_gtb (s : State) (o : Nat) (v : Word) : (s.setReg o v).gtb = s.gtb := rfl
@[simp] theorem setReg_agenda (s : State) (o : Nat) (v : Word) : (s.setReg o v).agenda = s.agenda := rfl
@[simp] theorem setReg_inputs (s : State) (o : Nat) (v : Word) : (s.setReg o v).inputs = s.inputs := rfl
@[simp] theorem setReg_turn (s : State) (o : Nat) (v : Word) : (s.setReg o v).turn = s.turn := rfl
@[simp] theorem setReg_cur (s : State) (o : Nat) (v : Word) : (s.setReg o v).cur = s.cur := rfl
@[simp] theorem setReg_free (s : State) (o : Nat) (v : Word) : (s.setReg o v).free = s.free := rfl

/-! ## State.setFld -/

@[simp] theorem setFld_cores (s : State) (o lo n v : Nat) : (s.setFld o lo n v).cores = s.cores := rfl
@[simp] theorem setFld_ctxs (s : State) (o lo n v : Nat) : (s.setFld o lo n v).ctxs = s.ctxs := rfl
@[simp] theorem setFld_staging (s : State) (o lo n v : Nat) : (s.setFld o lo n v).staging = s.staging := rfl
@[simp] theorem setFld_flash (s : State) (o lo n v : Nat) : (s.setFld o lo n v).flash = s.flash := rfl
@[simp] theorem setFld_hbm (s : State) (o lo n v : Nat) : (s.setFld o lo n v).hbm = s.hbm := rfl
@[simp] theorem setFld_poison (s : State) (o lo n v : Nat) : (s.setFld o lo n v).poison = s.poison := rfl
@[simp] theorem setFld_hostMem (s : State) (o lo n v : Nat) : (s.setFld o lo n v).hostMem = s.hostMem := rfl
@[simp] theorem setFld_hostFeed (s : State) (o lo n v : Nat) : (s.setFld o lo n v).hostFeed = s.hostFeed := rfl
@[simp] theorem setFld_upsets (s : State) (o lo n v : Nat) : (s.setFld o lo n v).upsets = s.upsets := rfl
@[simp] theorem setFld_upset (s : State) (o lo n v : Nat) : (s.setFld o lo n v).upset = s.upset := rfl
@[simp] theorem setFld_ports (s : State) (o lo n v : Nat) : (s.setFld o lo n v).ports = s.ports := rfl
@[simp] theorem setFld_binds (s : State) (o lo n v : Nat) : (s.setFld o lo n v).binds = s.binds := rfl
@[simp] theorem setFld_outbox (s : State) (o lo n v : Nat) : (s.setFld o lo n v).outbox = s.outbox := rfl
@[simp] theorem setFld_reqs (s : State) (o lo n v : Nat) : (s.setFld o lo n v).reqs = s.reqs := rfl
@[simp] theorem setFld_recs (s : State) (o lo n v : Nat) : (s.setFld o lo n v).recs = s.recs := rfl
@[simp] theorem setFld_nextTag (s : State) (o lo n v : Nat) : (s.setFld o lo n v).nextTag = s.nextTag := rfl
@[simp] theorem setFld_mashBad (s : State) (o lo n v : Nat) : (s.setFld o lo n v).mashBad = s.mashBad := rfl
@[simp] theorem setFld_returned (s : State) (o lo n v : Nat) : (s.setFld o lo n v).returned = s.returned := rfl
@[simp] theorem setFld_timeCyc (s : State) (o lo n v : Nat) : (s.setFld o lo n v).timeCyc = s.timeCyc := rfl
@[simp] theorem setFld_corrCyc (s : State) (o lo n v : Nat) : (s.setFld o lo n v).corrCyc = s.corrCyc := rfl
@[simp] theorem setFld_timeErr (s : State) (o lo n v : Nat) : (s.setFld o lo n v).timeErr = s.timeErr := rfl
@[simp] theorem setFld_gtbStep (s : State) (o lo n v : Nat) : (s.setFld o lo n v).gtbStep = s.gtbStep := rfl
@[simp] theorem setFld_timeSet (s : State) (o lo n v : Nat) : (s.setFld o lo n v).timeSet = s.timeSet := rfl
@[simp] theorem setFld_spawns (s : State) (o lo n v : Nat) : (s.setFld o lo n v).spawns = s.spawns := rfl
@[simp] theorem setFld_launches (s : State) (o lo n v : Nat) : (s.setFld o lo n v).launches = s.launches := rfl
@[simp] theorem setFld_tails (s : State) (o lo n v : Nat) : (s.setFld o lo n v).tails = s.tails := rfl
@[simp] theorem setFld_stopped (s : State) (o lo n v : Nat) : (s.setFld o lo n v).stopped = s.stopped := rfl
@[simp] theorem setFld_heads (s : State) (o lo n v : Nat) : (s.setFld o lo n v).heads = s.heads := rfl
@[simp] theorem setFld_robin (s : State) (o lo n v : Nat) : (s.setFld o lo n v).robin = s.robin := rfl
@[simp] theorem setFld_gone (s : State) (o lo n v : Nat) : (s.setFld o lo n v).gone = s.gone := rfl
@[simp] theorem setFld_cert (s : State) (o lo n v : Nat) : (s.setFld o lo n v).cert = s.cert := rfl
@[simp] theorem setFld_gangs (s : State) (o lo n v : Nat) : (s.setFld o lo n v).gangs = s.gangs := rfl
@[simp] theorem setFld_colls (s : State) (o lo n v : Nat) : (s.setFld o lo n v).colls = s.colls := rfl
@[simp] theorem setFld_dies (s : State) (o lo n v : Nat) : (s.setFld o lo n v).dies = s.dies := rfl
@[simp] theorem setFld_nextId (s : State) (o lo n v : Nat) : (s.setFld o lo n v).nextId = s.nextId := rfl
@[simp] theorem setFld_msix (s : State) (o lo n v : Nat) : (s.setFld o lo n v).msix = s.msix := rfl
@[simp] theorem setFld_hostReply (s : State) (o lo n v : Nat) : (s.setFld o lo n v).hostReply = s.hostReply := rfl
@[simp] theorem setFld_cycle (s : State) (o lo n v : Nat) : (s.setFld o lo n v).cycle = s.cycle := rfl
@[simp] theorem setFld_gtb (s : State) (o lo n v : Nat) : (s.setFld o lo n v).gtb = s.gtb := rfl
@[simp] theorem setFld_agenda (s : State) (o lo n v : Nat) : (s.setFld o lo n v).agenda = s.agenda := rfl
@[simp] theorem setFld_inputs (s : State) (o lo n v : Nat) : (s.setFld o lo n v).inputs = s.inputs := rfl
@[simp] theorem setFld_turn (s : State) (o lo n v : Nat) : (s.setFld o lo n v).turn = s.turn := rfl
@[simp] theorem setFld_cur (s : State) (o lo n v : Nat) : (s.setFld o lo n v).cur = s.cur := rfl
@[simp] theorem setFld_free (s : State) (o lo n v : Nat) : (s.setFld o lo n v).free = s.free := rfl

/-! ## State.bump -/

@[simp] theorem bump_cores (s : State) (o lo n k : Nat) : (s.bump o lo n k).cores = s.cores := rfl
@[simp] theorem bump_ctxs (s : State) (o lo n k : Nat) : (s.bump o lo n k).ctxs = s.ctxs := rfl
@[simp] theorem bump_staging (s : State) (o lo n k : Nat) : (s.bump o lo n k).staging = s.staging := rfl
@[simp] theorem bump_flash (s : State) (o lo n k : Nat) : (s.bump o lo n k).flash = s.flash := rfl
@[simp] theorem bump_hbm (s : State) (o lo n k : Nat) : (s.bump o lo n k).hbm = s.hbm := rfl
@[simp] theorem bump_poison (s : State) (o lo n k : Nat) : (s.bump o lo n k).poison = s.poison := rfl
@[simp] theorem bump_hostMem (s : State) (o lo n k : Nat) : (s.bump o lo n k).hostMem = s.hostMem := rfl
@[simp] theorem bump_hostFeed (s : State) (o lo n k : Nat) : (s.bump o lo n k).hostFeed = s.hostFeed := rfl
@[simp] theorem bump_upsets (s : State) (o lo n k : Nat) : (s.bump o lo n k).upsets = s.upsets := rfl
@[simp] theorem bump_upset (s : State) (o lo n k : Nat) : (s.bump o lo n k).upset = s.upset := rfl
@[simp] theorem bump_ports (s : State) (o lo n k : Nat) : (s.bump o lo n k).ports = s.ports := rfl
@[simp] theorem bump_binds (s : State) (o lo n k : Nat) : (s.bump o lo n k).binds = s.binds := rfl
@[simp] theorem bump_outbox (s : State) (o lo n k : Nat) : (s.bump o lo n k).outbox = s.outbox := rfl
@[simp] theorem bump_reqs (s : State) (o lo n k : Nat) : (s.bump o lo n k).reqs = s.reqs := rfl
@[simp] theorem bump_recs (s : State) (o lo n k : Nat) : (s.bump o lo n k).recs = s.recs := rfl
@[simp] theorem bump_nextTag (s : State) (o lo n k : Nat) : (s.bump o lo n k).nextTag = s.nextTag := rfl
@[simp] theorem bump_mashBad (s : State) (o lo n k : Nat) : (s.bump o lo n k).mashBad = s.mashBad := rfl
@[simp] theorem bump_returned (s : State) (o lo n k : Nat) : (s.bump o lo n k).returned = s.returned := rfl
@[simp] theorem bump_timeCyc (s : State) (o lo n k : Nat) : (s.bump o lo n k).timeCyc = s.timeCyc := rfl
@[simp] theorem bump_corrCyc (s : State) (o lo n k : Nat) : (s.bump o lo n k).corrCyc = s.corrCyc := rfl
@[simp] theorem bump_timeErr (s : State) (o lo n k : Nat) : (s.bump o lo n k).timeErr = s.timeErr := rfl
@[simp] theorem bump_gtbStep (s : State) (o lo n k : Nat) : (s.bump o lo n k).gtbStep = s.gtbStep := rfl
@[simp] theorem bump_timeSet (s : State) (o lo n k : Nat) : (s.bump o lo n k).timeSet = s.timeSet := rfl
@[simp] theorem bump_spawns (s : State) (o lo n k : Nat) : (s.bump o lo n k).spawns = s.spawns := rfl
@[simp] theorem bump_launches (s : State) (o lo n k : Nat) : (s.bump o lo n k).launches = s.launches := rfl
@[simp] theorem bump_tails (s : State) (o lo n k : Nat) : (s.bump o lo n k).tails = s.tails := rfl
@[simp] theorem bump_stopped (s : State) (o lo n k : Nat) : (s.bump o lo n k).stopped = s.stopped := rfl
@[simp] theorem bump_heads (s : State) (o lo n k : Nat) : (s.bump o lo n k).heads = s.heads := rfl
@[simp] theorem bump_robin (s : State) (o lo n k : Nat) : (s.bump o lo n k).robin = s.robin := rfl
@[simp] theorem bump_gone (s : State) (o lo n k : Nat) : (s.bump o lo n k).gone = s.gone := rfl
@[simp] theorem bump_cert (s : State) (o lo n k : Nat) : (s.bump o lo n k).cert = s.cert := rfl
@[simp] theorem bump_gangs (s : State) (o lo n k : Nat) : (s.bump o lo n k).gangs = s.gangs := rfl
@[simp] theorem bump_colls (s : State) (o lo n k : Nat) : (s.bump o lo n k).colls = s.colls := rfl
@[simp] theorem bump_dies (s : State) (o lo n k : Nat) : (s.bump o lo n k).dies = s.dies := rfl
@[simp] theorem bump_nextId (s : State) (o lo n k : Nat) : (s.bump o lo n k).nextId = s.nextId := rfl
@[simp] theorem bump_msix (s : State) (o lo n k : Nat) : (s.bump o lo n k).msix = s.msix := rfl
@[simp] theorem bump_hostReply (s : State) (o lo n k : Nat) : (s.bump o lo n k).hostReply = s.hostReply := rfl
@[simp] theorem bump_cycle (s : State) (o lo n k : Nat) : (s.bump o lo n k).cycle = s.cycle := rfl
@[simp] theorem bump_gtb (s : State) (o lo n k : Nat) : (s.bump o lo n k).gtb = s.gtb := rfl
@[simp] theorem bump_agenda (s : State) (o lo n k : Nat) : (s.bump o lo n k).agenda = s.agenda := rfl
@[simp] theorem bump_inputs (s : State) (o lo n k : Nat) : (s.bump o lo n k).inputs = s.inputs := rfl
@[simp] theorem bump_turn (s : State) (o lo n k : Nat) : (s.bump o lo n k).turn = s.turn := rfl
@[simp] theorem bump_cur (s : State) (o lo n k : Nat) : (s.bump o lo n k).cur = s.cur := rfl
@[simp] theorem bump_free (s : State) (o lo n k : Nat) : (s.bump o lo n k).free = s.free := rfl

/-! ## land -/

@[simp] theorem land_ctxs (d : Dest) (fl L : Nat) (s : State) : (land d fl L s).ctxs = s.ctxs := rfl
@[simp] theorem land_regs (d : Dest) (fl L : Nat) (s : State) : (land d fl L s).regs = s.regs := rfl
@[simp] theorem land_staging (d : Dest) (fl L : Nat) (s : State) : (land d fl L s).staging = s.staging := rfl
@[simp] theorem land_flash (d : Dest) (fl L : Nat) (s : State) : (land d fl L s).flash = s.flash := rfl
@[simp] theorem land_hbm (d : Dest) (fl L : Nat) (s : State) : (land d fl L s).hbm = s.hbm := rfl
@[simp] theorem land_poison (d : Dest) (fl L : Nat) (s : State) : (land d fl L s).poison = s.poison := rfl
@[simp] theorem land_hostMem (d : Dest) (fl L : Nat) (s : State) : (land d fl L s).hostMem = s.hostMem := rfl
@[simp] theorem land_hostFeed (d : Dest) (fl L : Nat) (s : State) : (land d fl L s).hostFeed = s.hostFeed := rfl
@[simp] theorem land_upsets (d : Dest) (fl L : Nat) (s : State) : (land d fl L s).upsets = s.upsets := rfl
@[simp] theorem land_upset (d : Dest) (fl L : Nat) (s : State) : (land d fl L s).upset = s.upset := rfl
@[simp] theorem land_ports (d : Dest) (fl L : Nat) (s : State) : (land d fl L s).ports = s.ports := rfl
@[simp] theorem land_binds (d : Dest) (fl L : Nat) (s : State) : (land d fl L s).binds = s.binds := rfl
@[simp] theorem land_outbox (d : Dest) (fl L : Nat) (s : State) : (land d fl L s).outbox = s.outbox := rfl
@[simp] theorem land_reqs (d : Dest) (fl L : Nat) (s : State) : (land d fl L s).reqs = s.reqs := rfl
@[simp] theorem land_recs (d : Dest) (fl L : Nat) (s : State) : (land d fl L s).recs = s.recs := rfl
@[simp] theorem land_nextTag (d : Dest) (fl L : Nat) (s : State) : (land d fl L s).nextTag = s.nextTag := rfl
@[simp] theorem land_mashBad (d : Dest) (fl L : Nat) (s : State) : (land d fl L s).mashBad = s.mashBad := rfl
@[simp] theorem land_returned (d : Dest) (fl L : Nat) (s : State) : (land d fl L s).returned = s.returned := rfl
@[simp] theorem land_timeCyc (d : Dest) (fl L : Nat) (s : State) : (land d fl L s).timeCyc = s.timeCyc := rfl
@[simp] theorem land_corrCyc (d : Dest) (fl L : Nat) (s : State) : (land d fl L s).corrCyc = s.corrCyc := rfl
@[simp] theorem land_timeErr (d : Dest) (fl L : Nat) (s : State) : (land d fl L s).timeErr = s.timeErr := rfl
@[simp] theorem land_gtbStep (d : Dest) (fl L : Nat) (s : State) : (land d fl L s).gtbStep = s.gtbStep := rfl
@[simp] theorem land_timeSet (d : Dest) (fl L : Nat) (s : State) : (land d fl L s).timeSet = s.timeSet := rfl
@[simp] theorem land_spawns (d : Dest) (fl L : Nat) (s : State) : (land d fl L s).spawns = s.spawns := rfl
@[simp] theorem land_launches (d : Dest) (fl L : Nat) (s : State) : (land d fl L s).launches = s.launches := rfl
@[simp] theorem land_tails (d : Dest) (fl L : Nat) (s : State) : (land d fl L s).tails = s.tails := rfl
@[simp] theorem land_stopped (d : Dest) (fl L : Nat) (s : State) : (land d fl L s).stopped = s.stopped := rfl
@[simp] theorem land_heads (d : Dest) (fl L : Nat) (s : State) : (land d fl L s).heads = s.heads := rfl
@[simp] theorem land_robin (d : Dest) (fl L : Nat) (s : State) : (land d fl L s).robin = s.robin := rfl
@[simp] theorem land_gone (d : Dest) (fl L : Nat) (s : State) : (land d fl L s).gone = s.gone := rfl
@[simp] theorem land_cert (d : Dest) (fl L : Nat) (s : State) : (land d fl L s).cert = s.cert := rfl
@[simp] theorem land_gangs (d : Dest) (fl L : Nat) (s : State) : (land d fl L s).gangs = s.gangs := rfl
@[simp] theorem land_colls (d : Dest) (fl L : Nat) (s : State) : (land d fl L s).colls = s.colls := rfl
@[simp] theorem land_dies (d : Dest) (fl L : Nat) (s : State) : (land d fl L s).dies = s.dies := rfl
@[simp] theorem land_nextId (d : Dest) (fl L : Nat) (s : State) : (land d fl L s).nextId = s.nextId := rfl
@[simp] theorem land_msix (d : Dest) (fl L : Nat) (s : State) : (land d fl L s).msix = s.msix := rfl
@[simp] theorem land_hostReply (d : Dest) (fl L : Nat) (s : State) : (land d fl L s).hostReply = s.hostReply := rfl
@[simp] theorem land_cycle (d : Dest) (fl L : Nat) (s : State) : (land d fl L s).cycle = s.cycle := rfl
@[simp] theorem land_gtb (d : Dest) (fl L : Nat) (s : State) : (land d fl L s).gtb = s.gtb := rfl
@[simp] theorem land_agenda (d : Dest) (fl L : Nat) (s : State) : (land d fl L s).agenda = s.agenda := rfl
@[simp] theorem land_inputs (d : Dest) (fl L : Nat) (s : State) : (land d fl L s).inputs = s.inputs := rfl
@[simp] theorem land_turn (d : Dest) (fl L : Nat) (s : State) : (land d fl L s).turn = s.turn := rfl
@[simp] theorem land_cur (d : Dest) (fl L : Nat) (s : State) : (land d fl L s).cur = s.cur := rfl
@[simp] theorem land_free (d : Dest) (fl L : Nat) (s : State) : (land d fl L s).free = s.free := rfl

/-! ## pend -/

@[simp] theorem pend_ctxs (op : AccOp) (r l : Nat) (al : Bool) (s : State) : (pend op r l al s).ctxs = s.ctxs := rfl
@[simp] theorem pend_regs (op : AccOp) (r l : Nat) (al : Bool) (s : State) : (pend op r l al s).regs = s.regs := rfl
@[simp] theorem pend_staging (op : AccOp) (r l : Nat) (al : Bool) (s : State) : (pend op r l al s).staging = s.staging := rfl
@[simp] theorem pend_flash (op : AccOp) (r l : Nat) (al : Bool) (s : State) : (pend op r l al s).flash = s.flash := rfl
@[simp] theorem pend_hbm (op : AccOp) (r l : Nat) (al : Bool) (s : State) : (pend op r l al s).hbm = s.hbm := rfl
@[simp] theorem pend_poison (op : AccOp) (r l : Nat) (al : Bool) (s : State) : (pend op r l al s).poison = s.poison := rfl
@[simp] theorem pend_hostMem (op : AccOp) (r l : Nat) (al : Bool) (s : State) : (pend op r l al s).hostMem = s.hostMem := rfl
@[simp] theorem pend_hostFeed (op : AccOp) (r l : Nat) (al : Bool) (s : State) : (pend op r l al s).hostFeed = s.hostFeed := rfl
@[simp] theorem pend_upsets (op : AccOp) (r l : Nat) (al : Bool) (s : State) : (pend op r l al s).upsets = s.upsets := rfl
@[simp] theorem pend_upset (op : AccOp) (r l : Nat) (al : Bool) (s : State) : (pend op r l al s).upset = s.upset := rfl
@[simp] theorem pend_ports (op : AccOp) (r l : Nat) (al : Bool) (s : State) : (pend op r l al s).ports = s.ports := rfl
@[simp] theorem pend_binds (op : AccOp) (r l : Nat) (al : Bool) (s : State) : (pend op r l al s).binds = s.binds := rfl
@[simp] theorem pend_outbox (op : AccOp) (r l : Nat) (al : Bool) (s : State) : (pend op r l al s).outbox = s.outbox := rfl
@[simp] theorem pend_reqs (op : AccOp) (r l : Nat) (al : Bool) (s : State) : (pend op r l al s).reqs = s.reqs := rfl
@[simp] theorem pend_recs (op : AccOp) (r l : Nat) (al : Bool) (s : State) : (pend op r l al s).recs = s.recs := rfl
@[simp] theorem pend_nextTag (op : AccOp) (r l : Nat) (al : Bool) (s : State) : (pend op r l al s).nextTag = s.nextTag := rfl
@[simp] theorem pend_mashBad (op : AccOp) (r l : Nat) (al : Bool) (s : State) : (pend op r l al s).mashBad = s.mashBad := rfl
@[simp] theorem pend_returned (op : AccOp) (r l : Nat) (al : Bool) (s : State) : (pend op r l al s).returned = s.returned := rfl
@[simp] theorem pend_timeCyc (op : AccOp) (r l : Nat) (al : Bool) (s : State) : (pend op r l al s).timeCyc = s.timeCyc := rfl
@[simp] theorem pend_corrCyc (op : AccOp) (r l : Nat) (al : Bool) (s : State) : (pend op r l al s).corrCyc = s.corrCyc := rfl
@[simp] theorem pend_timeErr (op : AccOp) (r l : Nat) (al : Bool) (s : State) : (pend op r l al s).timeErr = s.timeErr := rfl
@[simp] theorem pend_gtbStep (op : AccOp) (r l : Nat) (al : Bool) (s : State) : (pend op r l al s).gtbStep = s.gtbStep := rfl
@[simp] theorem pend_timeSet (op : AccOp) (r l : Nat) (al : Bool) (s : State) : (pend op r l al s).timeSet = s.timeSet := rfl
@[simp] theorem pend_spawns (op : AccOp) (r l : Nat) (al : Bool) (s : State) : (pend op r l al s).spawns = s.spawns := rfl
@[simp] theorem pend_launches (op : AccOp) (r l : Nat) (al : Bool) (s : State) : (pend op r l al s).launches = s.launches := rfl
@[simp] theorem pend_tails (op : AccOp) (r l : Nat) (al : Bool) (s : State) : (pend op r l al s).tails = s.tails := rfl
@[simp] theorem pend_stopped (op : AccOp) (r l : Nat) (al : Bool) (s : State) : (pend op r l al s).stopped = s.stopped := rfl
@[simp] theorem pend_heads (op : AccOp) (r l : Nat) (al : Bool) (s : State) : (pend op r l al s).heads = s.heads := rfl
@[simp] theorem pend_robin (op : AccOp) (r l : Nat) (al : Bool) (s : State) : (pend op r l al s).robin = s.robin := rfl
@[simp] theorem pend_gone (op : AccOp) (r l : Nat) (al : Bool) (s : State) : (pend op r l al s).gone = s.gone := rfl
@[simp] theorem pend_cert (op : AccOp) (r l : Nat) (al : Bool) (s : State) : (pend op r l al s).cert = s.cert := rfl
@[simp] theorem pend_gangs (op : AccOp) (r l : Nat) (al : Bool) (s : State) : (pend op r l al s).gangs = s.gangs := rfl
@[simp] theorem pend_colls (op : AccOp) (r l : Nat) (al : Bool) (s : State) : (pend op r l al s).colls = s.colls := rfl
@[simp] theorem pend_dies (op : AccOp) (r l : Nat) (al : Bool) (s : State) : (pend op r l al s).dies = s.dies := rfl
@[simp] theorem pend_nextId (op : AccOp) (r l : Nat) (al : Bool) (s : State) : (pend op r l al s).nextId = s.nextId := rfl
@[simp] theorem pend_msix (op : AccOp) (r l : Nat) (al : Bool) (s : State) : (pend op r l al s).msix = s.msix := rfl
@[simp] theorem pend_hostReply (op : AccOp) (r l : Nat) (al : Bool) (s : State) : (pend op r l al s).hostReply = s.hostReply := rfl
@[simp] theorem pend_cycle (op : AccOp) (r l : Nat) (al : Bool) (s : State) : (pend op r l al s).cycle = s.cycle := rfl
@[simp] theorem pend_gtb (op : AccOp) (r l : Nat) (al : Bool) (s : State) : (pend op r l al s).gtb = s.gtb := rfl
@[simp] theorem pend_agenda (op : AccOp) (r l : Nat) (al : Bool) (s : State) : (pend op r l al s).agenda = s.agenda := rfl
@[simp] theorem pend_inputs (op : AccOp) (r l : Nat) (al : Bool) (s : State) : (pend op r l al s).inputs = s.inputs := rfl
@[simp] theorem pend_turn (op : AccOp) (r l : Nat) (al : Bool) (s : State) : (pend op r l al s).turn = s.turn := rfl
@[simp] theorem pend_cur (op : AccOp) (r l : Nat) (al : Bool) (s : State) : (pend op r l al s).cur = s.cur := rfl
@[simp] theorem pend_free (op : AccOp) (r l : Nat) (al : Bool) (s : State) : (pend op r l al s).free = s.free := rfl

/-! ## Reading back -/

@[simp] theorem core_putCore (s : State) (c d : Nat) (x : Core) : (s.putCore c x).core d = if d = c then x else s.core d :=
  Tab.get_put _ _ _ _ _

@[simp] theorem ctx_putCtx (s : State) (x z : Nat) (y : Ctx) : (s.putCtx x y).ctx z = if z = x then y else s.ctx z :=
  Tab.get_put _ _ _ _ _

@[simp] theorem ctx_putCore (s : State) (c z : Nat) (x : Core) : (s.putCore c x).ctx z = s.ctx z := rfl

@[simp] theorem core_putCtx (s : State) (x c : Nat) (y : Ctx) : (s.putCtx x y).core c = s.core c := rfl

@[simp] theorem core_used (s : State) (c : Nat) : s.used.core c = s.core c := rfl

@[simp] theorem seat_used (s : State) (c : Nat) : s.used.seat c = s.seat c := rfl

@[simp] theorem st_used (s : State) (c : Nat) (t : Bool) : s.used.st c t = s.st c t := rfl

@[simp] theorem ctx_used (s : State) (x : Nat) : s.used.ctx x = s.ctx x := rfl

@[simp] theorem seat_putSeat (s : State) (c d : Nat) (x : Seat) : (s.putSeat c x).seat d = if d = c then x else s.seat d := by
  unfold State.seat State.putSeat
  rw [core_putCore]
  split <;> rfl

@[simp] theorem svr_putSeat (s : State) (c d : Nat) (x : Seat) : ((s.putSeat c x).core d).svr = (s.core d).svr := by
  unfold State.putSeat
  rw [core_putCore]
  split
  · subst_vars; rfl
  · rfl

@[simp] theorem owner_putSeat (s : State) (c d : Nat) (x : Seat) : ((s.putSeat c x).core d).owner = (s.core d).owner := by
  unfold State.putSeat
  rw [core_putCore]
  split
  · subst_vars; rfl
  · rfl

/-- A stream written to a seat reads back; the other stream stands. -/
@[simp] theorem st_putSt_seat (x : Seat) (t u : Bool) (y : Stream) : (x.putSt t y).st u = if u = t then y else x.st u := by
  cases t <;> cases u <;> rfl

@[simp] theorem spad_putSt (x : Seat) (t : Bool) (y : Stream) : (x.putSt t y).spad = x.spad := by cases t <;> rfl

@[simp] theorem ispad_putSt (x : Seat) (t : Bool) (y : Stream) : (x.putSt t y).ispad = x.ispad := by cases t <;> rfl

@[simp] theorem tiles_putSt (x : Seat) (t : Bool) (y : Stream) : (x.putSt t y).tiles = x.tiles := by cases t <;> rfl

@[simp] theorem gq_putSt (x : Seat) (t : Bool) (y : Stream) : (x.putSt t y).gq = x.gq := by cases t <;> rfl

@[simp] theorem mxe_putSt (x : Seat) (t : Bool) (y : Stream) : (x.putSt t y).mxe = x.mxe := by cases t <;> rfl

@[simp] theorem cmds_putSt (x : Seat) (t : Bool) (y : Stream) : (x.putSt t y).cmds = x.cmds := by cases t <;> rfl

@[simp] theorem st_putSt (s : State) (c d : Nat) (t u : Bool) (y : Stream) :
    (s.putSt c t y).st d u = if d = c ∧ u = t then y else s.st d u := by
  unfold State.putSt State.st
  rw [seat_putSeat]
  by_cases h : d = c
  · subst h; simp
  · simp [h]

@[simp] theorem cst_putCst (s : State) (y : Stream) : (s.putCst y).cst = y := by
  unfold State.cst State.putCst
  simp

@[simp] theorem reg_used (s : State) (o : Nat) : s.used.reg o = s.reg o := rfl

/-! ## General registers (R141, R142) -/

/-- s0 reads zero whatever stands in the table. -/
@[simp] theorem getS_zero (r : Regs) : r.getS 0 = 0 := rfl

/-- A write to s0 is discarded. -/
@[simp] theorem setS_zero (r : Regs) (v : Word) : r.setS 0 v = r := rfl

@[simp] theorem getS_setS (r : Regs) (d e : Nat) (v : Word) (h : d ≠ 0) :
    (r.setS d v).getS e = if e = d then v else r.getS e := by
  unfold Regs.setS Regs.getS
  simp only [h, if_false]
  by_cases he : e = 0
  · subst he; simp [Ne.symm h]
  · simp [he]

@[simp] theorem getP_zero (r : Regs) : r.getP 0 = true := rfl

@[simp] theorem setP_zero (r : Regs) (v : Bool) : r.setP 0 v = r := rfl

@[simp] theorem getK_zero (r : Regs) : r.getK 0 = BitVec.allOnes 128 := rfl

@[simp] theorem setK_zero (r : Regs) (v : BitVec 128) : r.setK 0 v = r := rfl

@[simp] theorem getV_setV (r : Regs) (d l e m : Nat) (v : W32) :
    (r.setV d l v).getV e m = if 128 * e + m = 128 * d + l then v else r.getV e m :=
  Tab.get_set _ _ _ _ _

end Sys2Proof.Machine
end

