-- ==== Sys2Proof/Laws/Slot.lean ====
section
/-! SUPPORT. What a slot can do: its queue reads, its posted result or started access, and what it leaves unchanged. -/

namespace Sys2Proof.Machine

/-- `Kept` with what is left of each queue given by a function. -/
structure KeptBy (s t : State) (left : Nat → GQueue → GQueue) : Prop where
  machine   : t.rest = s.rest
  place     : t.cur.core = s.cur.core ∧ t.cur.sec = s.cur.sec
  others    : ∀ c, c ≠ s.cur.core → t.core c = s.core c
  shell     : (t.core s.cur.core).shell = (s.core s.cur.core).shell
  seat      : (t.seat s.cur.core).shell = (s.seat s.cur.core).shell
  queues    : ∀ n, n < 4 → (t.seat s.cur.core).q n = left n ((s.seat s.cur.core).q n)
  stream    : t.st s.cur.core (!s.cur.sec) = s.st s.cur.core (!s.cur.sec)
  own       : t.cst.settled = s.cst.settled

theorem KeptBy.refl (s : State) : KeptBy s s (fun _ q => q) :=
  ⟨rfl, ⟨rfl, rfl⟩, fun _ _ => rfl, rfl, rfl, fun _ _ => rfl, rfl, rfl⟩

theorem KeptBy.trans {s t u : State} {f g : Nat → GQueue → GQueue} (h : KeptBy s t f) (k : KeptBy t u g) :
    KeptBy s u (fun n q => g n (f n q)) := by
  obtain ⟨h1, ⟨hc, hs⟩, h2, h3, h4, h5, h6, h7⟩ := h
  obtain ⟨k1, ⟨kc, ks⟩, k2, k3, k4, k5, k6, k7⟩ := k
  rw [hc] at k2 k3 k4 k5 k6
  rw [hs] at k6
  exact ⟨k1.trans h1, ⟨kc.trans hc, ks.trans hs⟩, fun c hn => (k2 c hn).trans (h2 c hn), k3.trans h3, k4.trans h4,
    fun n hn => by rw [k5 n hn, h5 n hn], k6.trans h6, k7.trans h7⟩

theorem shell_spad {x y : Seat} (h : x.shell = y.shell) : x.spad = y.spad := by
  have := congrArg Seat.spad h; exact this

theorem settled_regs {x y : Stream} (h : x.settled = y.settled) : x.regs = y.regs := by
  have := congrArg Stream.regs h; exact this

theorem settled_sys {x y : Stream} (h : x.settled = y.settled) : x.sys = y.sys := by
  have := congrArg Stream.sys h; exact this

theorem settled_trap {x y : Stream} (h : x.settled = y.settled) : x.trap = y.trap := by
  have := congrArg Stream.trap h; exact this

theorem rest_hbm {s t : State} (h : t.rest = s.rest) : t.hbm = s.hbm := by
  have := congrArg State.hbm h; exact this

/-! ## Views of updates -/

@[simp] theorem shell_putSt (x : Seat) (t : Bool) (y : Stream) : (x.putSt t y).shell = x.shell := by cases t <;> rfl

@[simp] theorem shell_putQ (x : Seat) (n : Nat) (q : GQueue) : (x.putQ n q).shell = x.shell := rfl

@[simp] theorem q_putSt (x : Seat) (t : Bool) (y : Stream) (n : Nat) : (x.putSt t y).q n = x.q n := by cases t <;> rfl

@[simp] theorem q_putQ (x : Seat) (n m : Nat) (q : GQueue) : (x.putQ n q).q m = if m = n then q else x.q m := by
  simp [Seat.putQ, Seat.q]

@[simp] theorem st_putQ (x : Seat) (n : Nat) (q : GQueue) (t : Bool) : (x.putQ n q).st t = x.st t := rfl

@[simp] theorem shell_core (k : Core) (x : Seat) : Core.shell { k with seat := x } = k.shell := rfl

/-- The named clauses of `Kept` follow from the views. -/
theorem KeptBy.kept {s t : State} {fs : List RegF} (h : KeptBy s t (leftOf fs)) : Kept s t fs where
  machine := h.machine
  place := h.place
  others := h.others
  shell := h.shell
  seat := h.seat
  queues := h.queues
  stream := h.stream
  own := h.own
  registers := settled_regs h.own
  system := settled_sys h.own
  traps := settled_trap h.own
  spadBytes := by
    intro c a
    by_cases e : c = s.cur.core
    · rw [e, shell_spad h.seat]
    · unfold State.seat; rw [h.others c e]
  hbmBytes := by intro a; rw [rest_hbm h.machine]

/-- A change of the stream under way that only touches its pending results and accesses. -/
theorem keptBy_putCst (s : State) (y : Stream) (h : y.settled = s.cst.settled) : KeptBy s (s.putCst y) (fun _ q => q) where
  machine := rfl
  place := ⟨rfl, rfl⟩
  others := by intro c hc; simp [State.putCst, State.putSt, State.putSeat, hc]
  shell := by simp [State.putCst, State.putSt, State.putSeat]
  seat := by simp [State.putCst, State.putSt]
  queues := by intro n _; simp [State.putCst, State.putSt]
  stream := by simp [State.putCst]
  own := by simpa using h

theorem keptBy_land (d : Dest) (fl lat : Nat) (s : State) : KeptBy s (land d fl lat s) (fun _ q => q) :=
  keptBy_putCst s _ rfl

theorem keptBy_pend (op : AccOp) (rem lat : Nat) (al : Bool) (s : State) : KeptBy s (pend op rem lat al s) (fun _ q => q) :=
  keptBy_putCst s _ rfl

/-- What a change of the queues of the core under way leaves. -/
theorem keptBy_popQ (n : Nat) (s : State) :
    KeptBy s (popQ n s) (fun m q => if m = n then { q with dq := q.dq.drop 1 } else q) where
  machine := rfl
  place := ⟨rfl, rfl⟩
  others := by intro c hc; simp [popQ, State.putSeat, hc]
  shell := by simp [popQ, State.putSeat]
  seat := by simp [popQ]
  queues := by
    intro m _
    simp only [popQ, seat_putSeat, if_true, q_putQ]
    split <;> simp_all
  stream := by simp [popQ, State.st]
  own := by simp [popQ, State.cst, State.st]

theorem keptBy_popIf (b : Bool) (n : Nat) (s : State) :
    KeptBy s (if b then popQ n s else s) (fun m q => if m = n ∧ b = true then { q with dq := q.dq.drop 1 } else q) := by
  cases b
  · simpa using KeptBy.refl s
  · simpa using keptBy_popQ n s

theorem KeptBy.congr {s t : State} {f g : Nat → GQueue → GQueue} (h : KeptBy s t f)
    (e : ∀ n, n < 4 → ∀ q, f n q = g n q) : KeptBy s t g :=
  { h with queues := fun n hn => by rw [h.queues n hn, e n hn] }

/-- The pops of a slot (R109 item 1). -/
theorem keptBy_popFields (fs : List RegF) (s : State) : KeptBy s (popFields fs s) (leftOf fs) := by
  let g := fun n => fs.any fun f => isPop f && decide (f.toNat % 4 = n)
  let s1 := if g 0 then popQ 0 s else s
  let s2 := if g 1 then popQ 1 s1 else s1
  let s3 := if g 2 then popQ 2 s2 else s2
  have h := (((keptBy_popIf (g 0) 0 s).trans (keptBy_popIf (g 1) 1 s1)).trans (keptBy_popIf (g 2) 2 s2)).trans
    (keptBy_popIf (g 3) 3 s3)
  refine KeptBy.congr (t := popFields fs s) h ?_
  intro n hn q
  have : n = 0 ∨ n = 1 ∨ n = 2 ∨ n = 3 := by omega
  rcases this with rfl | rfl | rfl | rfl <;> simp [leftOf, g]

theorem KeptBy.used {s t : State} {f : Nat → GQueue → GQueue} (h : KeptBy s t f) : KeptBy s t.used f :=
  ⟨h.machine, h.place, h.others, h.shell, h.seat, h.queues, h.stream, h.own⟩

/-- A state that keeps everything, then the pops of the slot. -/
theorem kept_after {s u : State} (fs : List RegF) (h : KeptBy s u (fun _ q => q)) : Kept s (popFields fs u).used fs :=
  (h.trans (keptBy_popFields fs u)).used.kept

@[simp] theorem popQ_cur (n : Nat) (s : State) : (popQ n s).cur = s.cur := rfl

@[simp] theorem popQ_st (n : Nat) (s : State) (c : Nat) (t : Bool) : (popQ n s).st c t = s.st c t := by
  simp only [popQ, State.st, seat_putSeat]
  split
  · subst c; rw [st_putQ]
  · rfl

@[simp] theorem popFields_cur (fs : List RegF) (s : State) : (popFields fs s).cur = s.cur := by
  simp only [popFields, show List.range 4 = [0, 1, 2, 3] from rfl, List.foldl]
  repeat' split
  all_goals rfl

@[simp] theorem popFields_st (fs : List RegF) (s : State) (c : Nat) (t : Bool) : (popFields fs s).st c t = s.st c t := by
  simp only [popFields, show List.range 4 = [0, 1, 2, 3] from rfl, List.foldl]
  repeat' split
  all_goals simp only [popQ_st]

@[simp] theorem popFields_cst (fs : List RegF) (s : State) : (popFields fs s).cst = s.cst := by simp [State.cst]

@[simp] theorem used_cst (s : State) : s.used.cst = s.cst := rfl

/-- Everything a slot can answer: the trap for a dead queue, its own trap, or its body's state with the pops. -/
theorem runSlot_live {fs : List RegF} {s u : State} (h : QueuesLive s fs) :
    runSlot fs (.ok u) s = .next (popFields fs u).used := by
  unfold runSlot; rw [show fs.any (deadQueue s) = false from h]; rfl

theorem runSlot_trap {fs : List RegF} {s : State} {e : Nat × Nat} (h : QueuesLive s fs) :
    runSlot fs (.error e) s = .next (slotTrap e.1 e.2 s) := by
  unfold runSlot; rw [show fs.any (deadQueue s) = false from h]; rfl

theorem runSlot_dead {fs : List RegF} {s : State} {b : SlotRes} (h : ¬ QueuesLive s fs) :
    runSlot fs b s = .next (slotTrap tcQERR 0 s) := by
  have : fs.any (deadQueue s) = true := by simpa [QueuesLive] using h
  unfold runSlot; rw [this]; rfl

theorem queuesLive_nil (s : State) : QueuesLive s [] := rfl

/-- A slot whose body posts a result. -/
theorem posts_of {i : Instr} {s : State} {fs : List RegF} {d : Dest} {fl lat : Nat} (h : QueuesLive s fs)
    (e : exec i s = runSlot fs (.ok (land d fl lat s)) s) : Posts i s fs d fl lat :=
  ⟨_, e.trans (runSlot_live h), kept_after fs (keptBy_land d fl lat s), by simp [State.used, land],
    by simp [land, Stream.pushLanding], by simp [land, Stream.pushLanding], by simp [land]⟩

/-- A slot whose body starts an access. -/
theorem starts_of {i : Instr} {s : State} {fs : List RegF} {op : AccOp} {rem lat : Nat} {al : Bool} (h : QueuesLive s fs)
    (e : exec i s = runSlot fs (.ok (pend op rem lat al s)) s) : Starts i s fs op rem lat al :=
  ⟨_, e.trans (runSlot_live h), kept_after fs (keptBy_pend op rem lat al s), by simp [State.used, pend, State.putCst],
    by simp [pend, Stream.pushAcc], by simp [pend, Stream.pushAcc], by simp [pend]⟩

/-- A slot whose body does nothing. -/
theorem passes_of {i : Instr} {s : State} {fs : List RegF} (h : QueuesLive s fs)
    (e : exec i s = runSlot fs (.ok s) s) : Passes i s fs :=
  ⟨_, e.trans (runSlot_live h), kept_after fs (KeptBy.refl s), by simp [State.used], by simp, by simp, by simp⟩

theorem traps_of {i : Instr} {s : State} {fs : List RegF} {code arg : Nat} (h : QueuesLive s fs)
    (e : exec i s = runSlot fs (.error (code, arg)) s) : Traps i s code arg := e.trans (runSlot_trap h)

/-- A slot whose body posts lanes. -/
theorem postsLanes_of {i : Instr} {s : State} {fs : List RegF} {d : RegF} {lat : Nat} {rs : List (Nat × Nat × Nat)}
    (h : QueuesLive s fs) (e : exec i s = runSlot fs (.ok (landLanes d lat rs s)) s) : PostsLanes i s fs d lat rs := by
  constructor
  · intro hr; subst hr; exact passes_of h e
  · intro hr
    refine posts_of h (e.trans ?_)
    cases rs with
    | nil => exact absurd rfl hr
    | cons => rfl

/-! ## Frames of bodies -/

/-- Where the body of a slot answers a state, nothing but pending results and accesses, and the cursor, has changed. -/
def BodyKeeps (s : State) (b : SlotRes) : Prop := ∀ u, b = .ok u → KeptBy s u (fun _ q => q)

theorem slotTrap_stopped (code arg : Nat) (s : State) : (slotTrap code arg s).cur.stopped = true := rfl

/-- The frame of a slot that did not trap. -/
theorem kept_of_runSlot {fs : List RegF} {b : SlotRes} {s t : State} (hb : BodyKeeps s b) (h : runSlot fs b s = .next t)
    (hs : t.cur.stopped = false) : Kept s t fs := by
  unfold runSlot at h
  split at h
  · cases h; exact absurd hs (by simp [slotTrap_stopped])
  · split at h
    · cases h; exact kept_after fs (hb _ rfl)
    · cases h; exact absurd hs (by simp [slotTrap_stopped])

theorem bodyKeeps_error (s : State) (e : Nat × Nat) : BodyKeeps s (.error e) := fun _ h => nomatch h

theorem bodyKeeps_ok {s u : State} (h : KeptBy s u (fun _ q => q)) : BodyKeeps s (.ok u) := by
  intro v e; cases e; exact h

theorem bodyKeeps_same (s : State) : BodyKeeps s (.ok s) := bodyKeeps_ok (KeptBy.refl s)

theorem bodyKeeps_land (d : Dest) (fl lat : Nat) (s : State) : BodyKeeps s (.ok (land d fl lat s)) :=
  bodyKeeps_ok (keptBy_land d fl lat s)

theorem bodyKeeps_pend (op : AccOp) (rem lat : Nat) (al : Bool) (s : State) : BodyKeeps s (.ok (pend op rem lat al s)) :=
  bodyKeeps_ok (keptBy_pend op rem lat al s)

theorem bodyKeeps_ite {s : State} {p : Prop} [Decidable p] {a b : SlotRes} (ha : BodyKeeps s a) (hb : BodyKeeps s b) :
    BodyKeeps s (if p then a else b) := by split <;> assumption

theorem bodyKeeps_guarded {s : State} {k : F3} {b : SlotRes} (h : BodyKeeps s b) : BodyKeeps s (guarded k s b) :=
  bodyKeeps_ite h (bodyKeeps_same s)

theorem bodyKeeps_aligned {s : State} {a n : Nat} {b : SlotRes} (h : BodyKeeps s b) : BodyKeeps s (aligned a n b) :=
  bodyKeeps_ite (bodyKeeps_error s _) h

theorem bodyKeeps_accessOk {s : State} {els : List (Nat × Nat)} {al st : Bool} {b : SlotRes} (h : BodyKeeps s b) :
    BodyKeeps s (accessOk s els al st b) :=
  bodyKeeps_ite (bodyKeeps_error s _) (bodyKeeps_ite (bodyKeeps_error s _) h)

theorem bodyKeeps_unlessEmpty {s : State} {c : CSet} {b : SlotRes} (h : BodyKeeps s b) : BodyKeeps s (unlessEmpty s c b) :=
  bodyKeeps_ite (bodyKeeps_same s) h

theorem bodyKeeps_loadV (d : RegF) (els : List (Nat × Nat)) (al : Bool) (s : State) : BodyKeeps s (loadV d els al s) :=
  bodyKeeps_accessOk (bodyKeeps_pend _ _ _ _ s)

theorem bodyKeeps_storeV (d : RegF) (els : List (Nat × Nat)) (al : Bool) (s : State) : BodyKeeps s (storeV d els al s) :=
  bodyKeeps_accessOk (bodyKeeps_pend _ _ _ _ s)

theorem bodyKeeps_column {s : State} {x : Nat} {c : CSet} {f : List (Nat × Nat) → SlotRes} (h : ∀ els, BodyKeeps s (f els)) :
    BodyKeeps s (column s x c f) :=
  bodyKeeps_ite (bodyKeeps_error s _) (bodyKeeps_ite (bodyKeeps_error s _) (h _))

theorem bodyKeeps_strided {s : State} {a b : RegF} {k : F3} {c : CSet} {f : List (Nat × Nat) → SlotRes}
    (h : ∀ els, BodyKeeps s (f els)) : BodyKeeps s (strided s a b k c f) :=
  bodyKeeps_ite (bodyKeeps_error s _) (h _)

theorem bodyKeeps_kblocks {s : State} {a b : RegF} {k : Nat} {c : CSet} {f : List (Nat × Nat × Nat) → SlotRes}
    (h : ∀ els, BodyKeeps s (f els)) : BodyKeeps s (kblocks s a b k c f) :=
  bodyKeeps_ite (bodyKeeps_error s _) (h _)

theorem bodyKeeps_userOnly {s : State} {b : SlotRes} (h : BodyKeeps s b) : BodyKeeps s (userOnly s b) :=
  bodyKeeps_ite (bodyKeeps_error s _) h

theorem bodyKeeps_sysOk {s : State} {n : Nat} {b : SlotRes} (h : BodyKeeps s b) : BodyKeeps s (sysOk n s b) :=
  bodyKeeps_ite (bodyKeeps_error s _) (bodyKeeps_ite (bodyKeeps_error s _) h)

/-- A change of the cursor alone. -/
theorem keptBy_cur (s : State) (k : Cursor) (hc : k.core = s.cur.core) (ht : k.sec = s.cur.sec) :
    KeptBy s { s with cur := k } (fun _ q => q) where
  machine := rfl
  place := ⟨hc, ht⟩
  others := fun _ _ => rfl
  shell := rfl
  seat := rfl
  queues := fun _ _ => rfl
  stream := rfl
  own := by show (s.st k.core k.sec).settled = _; rw [hc, ht]; rfl

theorem bodyKeeps_setWait (w : Wait) (s : State) : BodyKeeps s (.ok (setWait w s)) := bodyKeeps_ok (keptBy_cur s _ rfl rfl)

theorem keptBy_landLanes (d : RegF) (lat : Nat) (rs : List (Nat × Nat × Nat)) (s : State) :
    KeptBy s (landLanes d lat rs s) (fun _ q => q) := by
  unfold landLanes; split
  · exact KeptBy.refl s
  · exact keptBy_land _ _ _ s

theorem bodyKeeps_landLanes (d : RegF) (lat : Nat) (rs : List (Nat × Nat × Nat)) (s : State) :
    BodyKeeps s (.ok (landLanes d lat rs s)) := bodyKeeps_ok (keptBy_landLanes d lat rs s)

theorem bodyKeeps_landMask (d : F3) (rs : List (Nat × Bool × Nat)) (s : State) : BodyKeeps s (.ok (landMask d rs s)) := by
  apply bodyKeeps_ok; unfold landMask; split
  · exact KeptBy.refl s
  · exact keptBy_land _ _ _ s

end Sys2Proof.Machine
end

