-- ==== Sys2Proof/Laws/Record.lean ====
section
/-! SUPPORT. What a write to HBM and a debug record can change. -/

namespace Sys2Proof.Machine

/-- A fold of changes that keep a property keeps it. -/
theorem foldl_keeps {α β : Type} (P : β → Prop) (f : β → α → β) (h : ∀ b a, P b → P (f b a)) :
    ∀ (l : List α) (b : β), P b → P (l.foldl f b)
  | [], _, hb => hb
  | a :: l, b, hb => foldl_keeps P f h l (f b a) (h b a hb)

/-- Only the records of contexts differ. -/
def CtxsOnly (s t : State) : Prop := ∃ cs, t = { s with ctxs := cs }

theorem CtxsOnly.refl (s : State) : CtxsOnly s s := ⟨s.ctxs, rfl⟩

theorem CtxsOnly.trans {s t u : State} (h : CtxsOnly s t) (k : CtxsOnly t u) : CtxsOnly s u := by
  obtain ⟨a, rfl⟩ := h; obtain ⟨b, rfl⟩ := k; exact ⟨b, rfl⟩

theorem ctxsOnly_mendImage (x c lo n : Nat) (s : State) : CtxsOnly s (mendImage x c lo n s) := by
  unfold mendImage
  dsimp only
  split
  · split
    · exact .refl s
    · exact ⟨_, rfl⟩
  · exact .refl s

theorem ctxsOnly_markImage (x c lo hi : Nat) (s : State) : CtxsOnly s (markImage x c lo hi s) := by
  unfold markImage
  dsimp only
  refine (ctxsOnly_mendImage x c lo (hi - lo) s).trans ?_
  split
  · exact .refl _
  · split <;> exact ⟨_, rfl⟩

theorem ctxsOnly_imageTouch (a n : Nat) (s : State) : CtxsOnly s (imageTouch a n s) := by
  unfold imageTouch
  refine foldl_keeps (CtxsOnly s) _ ?_ _ _ (.refl s)
  intro t x ht
  split
  · exact ht
  · refine foldl_keeps (CtxsOnly s) _ ?_ _ _ ht
    intro u c hu
    dsimp only
    split
    · exact hu.trans (ctxsOnly_markImage _ _ _ _ u)
    · exact hu

/-- A write to HBM changes the bytes written, the lines in error, the polls that follow from it, and what contexts know of
their images. -/
theorem hbmWrite_eq (a : Nat) (bs : List Byte) (s : State) :
    ∃ ps ag cs, hbmWrite a bs s = { s with hbm := Mem.setBytes s.hbm a bs, poison := ps, agenda := ag, ctxs := cs } := by
  obtain ⟨cs, h⟩ := ctxsOnly_imageTouch a bs.length (hbmPut a bs s)
  exact ⟨_, _, cs, h⟩

/-- A debug record changes HBM, registers of the debug block, and what follows from the write. -/
theorem debugRec_eq (x : Nat) (r : DRec) (s : State) :
    ∃ hb ps ag cs rs, debugRec x r s = { s with hbm := hb, poison := ps, agenda := ag, ctxs := cs, regs := rs } := by
  unfold debugRec
  dsimp only
  split
  · exact ⟨_, _, _, _, _, rfl⟩
  · split
    · exact ⟨s.hbm, s.poison, s.agenda, s.ctxs, _, rfl⟩
    · split
      · next h =>
        obtain ⟨ps, ag, cs, e⟩ := hbmWrite_eq ((s.reg (dbgOff x + 0x08)).toNat % 2 ^ 44 / 2 ^ 12 * 2 ^ 12
          + 32 * (s.fld (dbgOff x + 0x10) 0 64 % 2 ^ (s.fld (dbgOff x + 0x08) 0 4 + 8))) r.bytes s
        exact ⟨_, ps, ag, cs, _, by rw [e]; rfl⟩
      · exact ⟨s.hbm, s.poison, s.agenda, s.ctxs, _, rfl⟩

/-- A branch record changes no core and not the cursor. -/
theorem branchRec_eq (kind target : Nat) (s : State) :
    ∃ hb ps ag cs rs, branchRec kind target s = { s with hbm := hb, poison := ps, agenda := ag, ctxs := cs, regs := rs } := by
  unfold branchRec
  dsimp only
  split
  · exact ⟨_, _, _, _, _, rfl⟩
  · exact debugRec_eq _ _ s

@[simp] theorem branchRec_cur (kind target : Nat) (s : State) : (branchRec kind target s).cur = s.cur := by
  obtain ⟨_, _, _, _, _, h⟩ := branchRec_eq kind target s; rw [h]

@[simp] theorem branchRec_core (kind target : Nat) (s : State) (c : Nat) : (branchRec kind target s).core c = s.core c := by
  obtain ⟨_, _, _, _, _, h⟩ := branchRec_eq kind target s; rw [h]; rfl

@[simp] theorem branchRec_cst (kind target : Nat) (s : State) : (branchRec kind target s).cst = s.cst := by
  obtain ⟨_, _, _, _, _, h⟩ := branchRec_eq kind target s; rw [h]; rfl

@[simp] theorem transfer_cst (kind target idle : Nat) (swap : Bool) (s : State) :
    (transfer kind target idle swap s).cst = s.cst := branchRec_cst kind target s

@[simp] theorem transfer_cur (kind target idle : Nat) (swap : Bool) (s : State) :
    (transfer kind target idle swap s).cur = { s.cur with part := { s.cur.part with goto := some (target, idle, swap) } } := by
  simp [transfer, goto_]

theorem keptBy_transfer (kind target idle : Nat) (swap : Bool) (s : State) :
    KeptBy (branchRec kind target s) (transfer kind target idle swap s) (fun _ q => q) := keptBy_cur _ _ rfl rfl

/-- A slot whose body transfers. -/
theorem takes_of {i : Instr} {s : State} {fs : List RegF} {kind target idle : Nat} {swap : Bool} (h : QueuesLive s fs)
    (e : exec i s = runSlot fs (.ok (transfer kind target idle swap s)) s) : Takes i s fs kind target idle swap :=
  ⟨_, e.trans (runSlot_live h), kept_after fs (keptBy_transfer kind target idle swap s), by simp [State.used], by simp, by simp,
    by simp⟩

/-- A slot whose body transfers and posts a link or a count. -/
theorem takesWith_of {i : Instr} {s : State} {fs : List RegF} {d : RegF} {v : Word} {kind target idle : Nat}
    (h : QueuesLive s fs) (e : exec i s = runSlot fs (.ok (land (.s d.toNat v) 0 1 (transfer kind target idle false s))) s) :
    TakesWith i s fs d v kind target idle :=
  ⟨_, e.trans (runSlot_live h), kept_after fs ((keptBy_transfer kind target idle false s).trans (keptBy_land _ _ _ _)),
    by simp [State.used], by simp [land, Stream.pushLanding], by simp [land, Stream.pushLanding],
    by simp [land, Stream.pushLanding]⟩

end Sys2Proof.Machine
end

