-- ==== Sys2Proof/Laws/Trap.lean ====
section
/-! SUPPORT. What taking a trap can change (R384, R387, R390). -/

namespace Sys2Proof.Machine

/-- Taking a trap in user mode (R387). -/
theorem takeTrap_user {c : Nat} {t : Bool} {i : TrapInfo} {same : Bool} {s : State} (h : (s.st c t).sys.sup = false) :
    takeTrap c t i same s = s.putSt c t ((s.st c t).enter i same) := by
  unfold takeTrap; simp [h]

/-- The stream enters the handler. -/
theorem takeTrap_st {c : Nat} {t : Bool} {i : TrapInfo} {same : Bool} {s : State} (h : (s.st c t).sys.sup = false) :
    (takeTrap c t i same s).st c t = (s.st c t).enter i same := by
  rw [takeTrap_user h]
  simp only [State.putSt, State.st, seat_putSeat, if_true]
  rw [st_putSt_seat, if_pos rfl]

theorem takeTrap_core {c : Nat} {t : Bool} {i : TrapInfo} {same : Bool} {s : State} (h : (s.st c t).sys.sup = false)
    {d : Nat} (hd : d ≠ c) : (takeTrap c t i same s).core d = s.core d := by
  rw [takeTrap_user h]; simp [State.putSt, State.putSeat, hd]

theorem takeTrap_hbm {c : Nat} {t : Bool} {i : TrapInfo} {same : Bool} {s : State} (h : (s.st c t).sys.sup = false) :
    (takeTrap c t i same s).hbm = s.hbm := by rw [takeTrap_user h]; rfl

theorem takeTrap_cur {c : Nat} {t : Bool} {i : TrapInfo} {same : Bool} {s : State} (h : (s.st c t).sys.sup = false) :
    (takeTrap c t i same s).cur = s.cur := by rw [takeTrap_user h]; rfl

end Sys2Proof.Machine
end

