-- ==== Sys2Proof/Tests/Slice0.lean ====
section
/-! SUPPORT. The model's own tests. Expected values come from the spec's tables and examples, or from hand calculation. -/

namespace Sys2Proof.Tests

set_option Elab.async false

open Sys2Proof.Machine

/-! ## Encodings: words written out from the opcode table -/

/-- An instruction word: the fixed bits of its row, and its fields by the place of their lowest bit. -/
def word (m : Nat) (fs : List (Nat × Nat)) : Nat := fs.foldl (fun w f => w + f.2 * 2 ^ f.1) m

/-- Every word decodes to its instruction, which is well formed. -/
def agrees (l : List (Nat × Instr)) : Bool := l.all fun e => decide (decodeTableWord 32 e.1 = some e.2) && e.2.wellFormed

def wordsCSlot : List (Nat × Instr) :=
  [(word 0x00000000 [(18, 37), (17, 1), (14, 4), (8, 11)], .idle 37#6 true .rna 11#6), (word 0x04000000 [(23, 5), (0, 0x26b4d2)], .brp 5#3 0x26b4d2#22),
   (word 0x04000000 [(0, 0x26b4d2)], .br 0x26b4d2#22), (word 0x04400000 [(23, 5), (0, 0x26b4d2)], .brpn 5#3 0x26b4d2#22),
   (word 0x08000000 [(20, 9), (0, 0xeb4d2)], .call 9#6 0xeb4d2#20), (word 0x0C000000 [(14, 9), (5, 5)], .jmp 9#6 5#3),
   (word 0x0C000001 [(20, 9), (14, 18), (5, 5)], .callr 9#6 18#6 5#3), (word 0x0C000002 [(14, 9), (5, 5)], .ret 9#6 5#3),
   (word 0x0C000003 [(20, 3), (14, 9), (5, 5)], .setf 3#2 9#6 5#3), (word 0x10000000 [(20, 9), (14, 18), (0, 0x34d2)], .loop 9#6 18#6 0x34d2#14),
   (word 0x14000000 [(20, 9), (14, 11), (0, 0x34d2)], .loopi 9#6 11#6 0x34d2#14), (word 0x18000000 [(23, 5), (0, 0x26b4d2)], .bswap 5#3 0x26b4d2#22),
   (word 0x1C000000 [(14, 9), (8, 18), (5, 5), (2, 4), (0, 2)], .waita 9#6 18#6 5#3 .system .geu),
   (word 0x20000000 [(14, 9), (0, 0x34d2)], .waito 9#6 0x34d2#14), (word 0x24000000 [], .tend), (word 0x24010000 [(0, 0xb4d2)], .trap 0xb4d2#16),
   (word 0x24020000 [(0, 0xb4d2)], .brk 0xb4d2#16), (word 0x24030000 [(0, 2)], .ifence .executing),
   (word 0x28000000 [(20, 9), (0, 0xcd2)], .sysr 9#6 0xcd2#12), (word 0x28001000 [(14, 9), (0, 0xcd2)], .sysw 9#6 0xcd2#12)]

theorem test_decode_c_slot : agrees wordsCSlot = true := by decide +kernel

def wordsScalarRegister : List (Nat × Instr) :=
  [(word 0x2C000000 [(20, 9), (14, 18), (8, 35), (5, 5)], .add 9#6 18#6 35#6 5#3),
   (word 0x2C000001 [(20, 9), (14, 18), (8, 35), (5, 5)], .sub 9#6 18#6 35#6 5#3),
   (word 0x2C000002 [(20, 9), (14, 18), (8, 35), (5, 5)], .mul 9#6 18#6 35#6 5#3),
   (word 0x2C000003 [(20, 9), (14, 18), (8, 35), (5, 5)], .mulh 9#6 18#6 35#6 5#3),
   (word 0x2C000004 [(20, 9), (14, 18), (8, 35), (5, 5)], .mulhu 9#6 18#6 35#6 5#3),
   (word 0x2C000005 [(20, 9), (14, 18), (8, 35), (5, 5)], .divs 9#6 18#6 35#6 5#3),
   (word 0x2C000006 [(20, 9), (14, 18), (8, 35), (5, 5)], .divu 9#6 18#6 35#6 5#3),
   (word 0x2C000007 [(20, 9), (14, 18), (8, 35), (5, 5)], .rems 9#6 18#6 35#6 5#3),
   (word 0x2C000008 [(20, 9), (14, 18), (8, 35), (5, 5)], .remu 9#6 18#6 35#6 5#3),
   (word 0x2C000009 [(20, 9), (14, 18), (8, 35), (5, 5)], .and 9#6 18#6 35#6 5#3),
   (word 0x2C00000A [(20, 9), (14, 18), (8, 35), (5, 5)], .or 9#6 18#6 35#6 5#3),
   (word 0x2C00000B [(20, 9), (14, 18), (8, 35), (5, 5)], .xor 9#6 18#6 35#6 5#3),
   (word 0x2C00000C [(20, 9), (14, 18), (8, 35), (5, 5)], .andn 9#6 18#6 35#6 5#3),
   (word 0x2C00000D [(20, 9), (14, 18), (8, 35), (5, 5)], .shl 9#6 18#6 35#6 5#3),
   (word 0x2C00000E [(20, 9), (14, 18), (8, 35), (5, 5)], .shr 9#6 18#6 35#6 5#3),
   (word 0x2C00000F [(20, 9), (14, 18), (8, 35), (5, 5)], .sar 9#6 18#6 35#6 5#3),
   (word 0x2C000010 [(20, 9), (14, 18), (8, 35), (5, 5)], .min 9#6 18#6 35#6 5#3),
   (word 0x2C000011 [(20, 9), (14, 18), (8, 35), (5, 5)], .max 9#6 18#6 35#6 5#3),
   (word 0x2C000012 [(20, 9), (14, 18), (8, 35), (5, 5)], .minu 9#6 18#6 35#6 5#3),
   (word 0x2C000013 [(20, 9), (14, 18), (8, 35), (5, 5)], .maxu 9#6 18#6 35#6 5#3), (word 0x2C000014 [(20, 9), (14, 18), (5, 5)], .clz 9#6 18#6 5#3),
   (word 0x2C000015 [(20, 9), (14, 18), (5, 5)], .ctz 9#6 18#6 5#3), (word 0x2C000016 [(20, 9), (14, 18), (5, 5)], .popc 9#6 18#6 5#3),
   (word 0x2C000017 [(20, 9), (14, 18), (8, 35), (5, 5)], .sel 9#6 18#6 35#6 5#3)]

theorem test_decode_scalar_register : agrees wordsScalarRegister = true := by decide +kernel

def wordsScalarImmediateAndPredicate : List (Nat × Instr) :=
  [(word 0x30000000 [(20, 9), (14, 18), (0, 0x34d2)], .addi 9#6 18#6 0x34d2#14),
   (word 0x34000000 [(20, 9), (14, 18), (0, 0x34d2)], .andi 9#6 18#6 0x34d2#14),
   (word 0x38000000 [(20, 9), (14, 18), (0, 0x34d2)], .ori 9#6 18#6 0x34d2#14),
   (word 0x3C000000 [(20, 9), (14, 18), (0, 0x34d2)], .xori 9#6 18#6 0x34d2#14), (word 0x40000000 [(20, 9), (14, 18), (0, 11)], .shli 9#6 18#6 11#6),
   (word 0x40000040 [(20, 9), (14, 18), (0, 11)], .shri 9#6 18#6 11#6), (word 0x40000080 [(20, 9), (14, 18), (0, 11)], .sari 9#6 18#6 11#6),
   (word 0x44000000 [(20, 9), (0, 0xeb4d2)], .lui 9#6 0xeb4d2#20), (word 0x48000000 [(20, 9), (0, 0xeb4d2)], .lhi 9#6 0xeb4d2#20),
   (word 0x4C000000 [(20, 9), (0, 0xcd2)], .ltop 9#6 0xcd2#12), (word 0x50000000 [(20, 9), (14, 18), (6, 6), (0, 9)], .ext 9#6 18#6 6#6 9#6),
   (word 0x50001000 [(20, 9), (14, 18), (6, 6), (0, 9)], .ins 9#6 18#6 6#6 9#6), (word 0x50002000 [(20, 9), (0, 5)], .widx 9#6 5#3),
   (word 0x54000000 [(20, 6), (14, 9), (8, 18), (5, 5), (0, 2)], .cmp 6#3 9#6 18#6 5#3 .lt),
   (word 0x58000000 [(20, 6), (14, 9), (10, 2), (0, 843)], .cmpi 6#3 9#6 .lt 843#10),
   (word 0x5C000000 [(20, 6), (14, 3), (8, 4), (5, 5)], .pand 6#3 3#3 4#3 5#3),
   (word 0x5C000001 [(20, 6), (14, 3), (8, 4), (5, 5)], .por 6#3 3#3 4#3 5#3),
   (word 0x5C000002 [(20, 6), (14, 3), (8, 4), (5, 5)], .pxor 6#3 3#3 4#3 5#3), (word 0x5C000003 [(20, 6), (14, 3), (5, 5)], .pnot 6#3 3#3 5#3)]

theorem test_decode_scalar_immediate_and_predicate : agrees wordsScalarImmediateAndPredicate = true := by decide +kernel

def wordsMemory : List (Nat × Instr) :=
  [(word 0x60000000 [(20, 9), (14, 18), (13, 1), (0, 0x14d2)], .ldB 9#6 18#6 true 0x14d2#13),
   (word 0x64000000 [(20, 9), (14, 18), (13, 1), (0, 0x14d2)], .ldH 9#6 18#6 true 0x14d2#13),
   (word 0x68000000 [(20, 9), (14, 18), (13, 1), (0, 0x14d2)], .ldW 9#6 18#6 true 0x14d2#13),
   (word 0x6C000000 [(20, 9), (14, 18), (13, 1), (0, 0x14d2)], .ldD 9#6 18#6 true 0x14d2#13),
   (word 0x70000000 [(20, 9), (14, 18), (13, 1), (0, 0x14d2)], .lduB 9#6 18#6 true 0x14d2#13),
   (word 0x74000000 [(20, 9), (14, 18), (13, 1), (0, 0x14d2)], .lduH 9#6 18#6 true 0x14d2#13),
   (word 0x78000000 [(20, 9), (14, 18), (13, 1), (0, 0x14d2)], .lduW 9#6 18#6 true 0x14d2#13),
   (word 0x7C000000 [(20, 9), (14, 18), (13, 1), (0, 0x14d2)], .stB 9#6 18#6 true 0x14d2#13),
   (word 0x80000000 [(20, 9), (14, 18), (13, 1), (0, 0x14d2)], .stH 9#6 18#6 true 0x14d2#13),
   (word 0x84000000 [(20, 9), (14, 18), (13, 1), (0, 0x14d2)], .stW 9#6 18#6 true 0x14d2#13),
   (word 0x88000000 [(20, 9), (14, 18), (13, 1), (0, 0x14d2)], .stD 9#6 18#6 true 0x14d2#13),
   (word 0x8C000000 [(20, 9), (14, 18), (13, 1), (11, 2), (0, 0x4d2)], .vld 9#6 18#6 true .b 0x4d2#11),
   (word 0x90000000 [(20, 9), (14, 18), (13, 1), (11, 2), (0, 0x4d2)], .vldb 9#6 18#6 true .b 0x4d2#11),
   (word 0x94000000 [(20, 9), (14, 18), (13, 1), (11, 2), (0, 0x4d2)], .vldt 9#6 18#6 true .b 0x4d2#11),
   (word 0x98000000 [(20, 9), (14, 18), (13, 1), (11, 2), (0, 0x4d2)], .vst 9#6 18#6 true .b 0x4d2#11),
   (word 0x9C000000 [(20, 9), (14, 18), (13, 1), (11, 2), (0, 0x4d2)], .vstt 9#6 18#6 true .b 0x4d2#11),
   (word 0xA0000000 [(20, 9), (14, 18), (8, 35), (5, 5), (2, 2), (1, 1)], .vlds 9#6 18#6 35#6 5#3 .b true),
   (word 0xA0000010 [(20, 9), (14, 18), (8, 35), (5, 5), (2, 2), (1, 1)], .vsts 9#6 18#6 35#6 5#3 .b true),
   (word 0xA4000000 [(20, 9), (14, 18), (8, 35), (5, 5), (4, 1)], .amoAdd 9#6 18#6 35#6 5#3 true),
   (word 0xA4000001 [(20, 9), (14, 18), (8, 35), (5, 5), (4, 1)], .amoMax 9#6 18#6 35#6 5#3 true),
   (word 0xA4000002 [(20, 9), (14, 18), (8, 35), (5, 5), (4, 1)], .amoMin 9#6 18#6 35#6 5#3 true),
   (word 0xA4000003 [(20, 9), (14, 18), (8, 35), (5, 5), (4, 1)], .amoSwap 9#6 18#6 35#6 5#3 true),
   (word 0xA4000004 [(20, 9), (14, 18), (8, 35), (5, 5), (4, 1)], .amoCas 9#6 18#6 35#6 5#3 true),
   (word 0xA4000008 [(20, 3), (14, 9), (5, 5)], .qpush 3#2 9#6 5#3), (word 0xA4000009 [(20, 3), (5, 5)], .qdrop 3#2 5#3),
   (word 0xA400000A [(20, 9), (14, 18), (8, 35), (5, 2), (4, 1)], .vldkKbf7 9#6 18#6 35#6 .b true),
   (word 0xA400000B [(20, 9), (14, 18), (8, 35), (5, 2), (4, 1)], .vldkKbf4 9#6 18#6 35#6 .b true),
   (word 0xA400000C [(20, 9), (14, 18), (8, 35), (5, 2), (4, 1)], .vldkKbf2 9#6 18#6 35#6 .b true),
   (word 0xA400000D [(20, 9), (14, 18), (8, 35), (5, 2), (4, 1)], .vstkKbf7 9#6 18#6 35#6 .b true),
   (word 0xA400000E [(20, 9), (14, 18), (8, 35), (5, 2), (4, 1)], .vstkKbf4 9#6 18#6 35#6 .b true),
   (word 0xA400000F [(20, 9), (14, 18), (8, 35), (5, 2), (4, 1)], .vstkKbf2 9#6 18#6 35#6 .b true)]

theorem test_decode_memory : agrees wordsMemory = true := by decide +kernel

def wordsVectorInteger : List (Nat × Instr) :=
  [(word 0xA8000000 [(20, 9), (14, 18), (8, 35), (5, 5), (3, 2)], .vaddI32 9#6 18#6 35#6 5#3 .b),
   (word 0xA8000001 [(20, 9), (14, 18), (8, 35), (5, 5), (3, 2)], .vsubI32 9#6 18#6 35#6 5#3 .b),
   (word 0xA8000002 [(20, 9), (14, 18), (8, 35), (5, 5), (3, 2)], .vmulI32 9#6 18#6 35#6 5#3 .b),
   (word 0xA8000003 [(20, 9), (14, 18), (8, 35), (5, 5), (3, 2)], .vmulh 9#6 18#6 35#6 5#3 .b),
   (word 0xA8000004 [(20, 9), (14, 18), (8, 35), (5, 5), (3, 2)], .vand 9#6 18#6 35#6 5#3 .b),
   (word 0xA8000005 [(20, 9), (14, 18), (8, 35), (5, 5), (3, 2)], .vor 9#6 18#6 35#6 5#3 .b),
   (word 0xA8000006 [(20, 9), (14, 18), (8, 35), (5, 5), (3, 2)], .vxor 9#6 18#6 35#6 5#3 .b),
   (word 0xA8000007 [(20, 9), (14, 18), (5, 5), (3, 2)], .vabsI32 9#6 18#6 5#3 .b),
   (word 0xAC000000 [(20, 9), (14, 18), (8, 35), (5, 5), (3, 2)], .vshl 9#6 18#6 35#6 5#3 .b),
   (word 0xAC000001 [(20, 9), (14, 18), (8, 35), (5, 5), (3, 2)], .vshr 9#6 18#6 35#6 5#3 .b),
   (word 0xAC000002 [(20, 9), (14, 18), (8, 35), (5, 5), (3, 2)], .vsar 9#6 18#6 35#6 5#3 .b),
   (word 0xAC000003 [(20, 9), (14, 18), (8, 35), (5, 5), (3, 2)], .vminI32 9#6 18#6 35#6 5#3 .b),
   (word 0xAC000004 [(20, 9), (14, 18), (8, 35), (5, 5), (3, 2)], .vmaxI32 9#6 18#6 35#6 5#3 .b),
   (word 0xAC000005 [(20, 9), (14, 18), (8, 35), (5, 5), (3, 2)], .vminU32 9#6 18#6 35#6 5#3 .b),
   (word 0xAC000006 [(20, 9), (14, 18), (8, 35), (5, 5), (3, 2)], .vmaxU32 9#6 18#6 35#6 5#3 .b)]

theorem test_decode_vector_integer : agrees wordsVectorInteger = true := by decide +kernel

def wordsVectorFloat : List (Nat × Instr) :=
  [(word 0xB0000000 [(20, 9), (14, 18), (8, 35), (5, 5), (3, 2)], .vaddF32 9#6 18#6 35#6 5#3 .b),
   (word 0xB0000001 [(20, 9), (14, 18), (8, 35), (5, 5), (3, 2)], .vsubF32 9#6 18#6 35#6 5#3 .b),
   (word 0xB0000002 [(20, 9), (14, 18), (8, 35), (5, 5), (3, 2)], .vmulF32 9#6 18#6 35#6 5#3 .b),
   (word 0xB0000003 [(20, 9), (14, 18), (8, 35), (5, 5), (3, 2)], .vfmaF32 9#6 18#6 35#6 5#3 .b),
   (word 0xB0000004 [(20, 9), (14, 18), (8, 35), (5, 5), (3, 2)], .vminF32 9#6 18#6 35#6 5#3 .b),
   (word 0xB0000005 [(20, 9), (14, 18), (8, 35), (5, 5), (3, 2)], .vmaxF32 9#6 18#6 35#6 5#3 .b),
   (word 0xB0000006 [(20, 9), (14, 18), (8, 35), (5, 5), (3, 2)], .vdot2Bf16 9#6 18#6 35#6 5#3 .b),
   (word 0xB4000000 [(20, 9), (14, 18), (5, 5), (3, 2)], .vabsF32 9#6 18#6 5#3 .b),
   (word 0xB4000001 [(20, 9), (14, 18), (5, 5), (3, 2)], .vnegF32 9#6 18#6 5#3 .b),
   (word 0xB4000002 [(20, 9), (14, 18), (8, 35), (5, 5), (3, 2)], .vcpysF32 9#6 18#6 35#6 5#3 .b),
   (word 0xB4000003 [(20, 9), (14, 18), (5, 5), (3, 2)], .vaccrd 9#6 18#6 5#3 .b),
   (word 0xB8000000 [(20, 6), (14, 9), (8, 18), (5, 5), (3, 2), (0, 2)], .vcmpF32 6#3 9#6 18#6 5#3 .b .lt),
   (word 0xBC000000 [(20, 6), (14, 9), (8, 18), (5, 5), (3, 2), (0, 2)], .vcmpI32 6#3 9#6 18#6 5#3 .b .lt)]

theorem test_decode_vector_float : agrees wordsVectorFloat = true := by decide +kernel

def wordsVectorMoveAndReduction : List (Nat × Instr) :=
  [(word 0xC0000000 [(20, 9), (14, 18), (5, 5), (3, 2)], .vmov 9#6 18#6 5#3 .b),
   (word 0xC0000001 [(20, 9), (14, 18), (8, 35), (5, 5), (3, 2)], .vsel 9#6 18#6 35#6 5#3 .b),
   (word 0xC0000002 [(20, 9), (14, 18), (5, 5), (3, 2)], .vbcast 9#6 18#6 5#3 .b),
   (word 0xC0000003 [(20, 9), (14, 18), (8, 35), (5, 5), (3, 2)], .vextr 9#6 18#6 35#6 5#3 .b),
   (word 0xC0000004 [(20, 9), (14, 18), (8, 35), (5, 5), (3, 2)], .vins 9#6 18#6 35#6 5#3 .b),
   (word 0xC0000005 [(20, 9), (14, 18), (8, 35), (5, 5), (3, 2)], .vperm 9#6 18#6 35#6 5#3 .b),
   (word 0xC0000006 [(20, 9), (14, 18), (8, 6), (5, 5), (3, 2)], .vxcl 9#6 18#6 6#3 5#3 .b),
   (word 0xC0000007 [(20, 9), (5, 5), (3, 2)], .viota 9#6 5#3 .b), (word 0xC4000000 [(20, 9), (14, 18), (5, 5), (3, 2)], .vredaddF32 9#6 18#6 5#3 .b),
   (word 0xC4000001 [(20, 9), (14, 18), (5, 5), (3, 2)], .vredaddI32 9#6 18#6 5#3 .b),
   (word 0xC4000002 [(20, 9), (14, 18), (5, 5), (3, 2)], .vredmaxF32 9#6 18#6 5#3 .b),
   (word 0xC4000003 [(20, 9), (14, 18), (5, 5), (3, 2)], .vredmaxI32 9#6 18#6 5#3 .b),
   (word 0xC4000004 [(20, 9), (14, 18), (5, 5), (3, 2)], .vredminF32 9#6 18#6 5#3 .b),
   (word 0xC4000005 [(20, 9), (14, 18), (5, 5), (3, 2)], .vredminI32 9#6 18#6 5#3 .b)]

theorem test_decode_vector_move_and_reduction : agrees wordsVectorMoveAndReduction = true := by decide +kernel

def wordsVectorConversionAndFunction : List (Nat × Instr) :=
  [(word 0xC8000000 [(20, 9), (14, 18), (11, 1), (8, 4), (5, 5), (3, 2)], .vcvt 9#6 18#6 .bf16 .kbf7 5#3 .b),
   (word 0xC8000001 [(20, 9), (14, 18), (8, 11), (5, 5), (3, 2)], .vcvtF32Fx128Lo 9#6 18#6 11#6 5#3 .b),
   (word 0xC8000002 [(20, 9), (14, 18), (8, 11), (5, 5), (3, 2)], .vcvtF32Fx128Hi 9#6 18#6 11#6 5#3 .b),
   (word 0xCC000000 [(20, 9), (14, 18), (5, 5), (3, 2)], .vrcp 9#6 18#6 5#3 .b),
   (word 0xCC000001 [(20, 9), (14, 18), (8, 35), (5, 5), (3, 2)], .vrcpr 9#6 18#6 35#6 5#3 .b),
   (word 0xCC000002 [(20, 9), (14, 18), (5, 5), (3, 2)], .vrsq 9#6 18#6 5#3 .b),
   (word 0xCC000003 [(20, 9), (14, 18), (8, 35), (5, 5), (3, 2)], .vrsqr 9#6 18#6 35#6 5#3 .b),
   (word 0xCC000004 [(20, 9), (14, 18), (5, 5), (3, 2)], .vsqrt 9#6 18#6 5#3 .b),
   (word 0xCC000005 [(20, 9), (14, 18), (5, 5), (3, 2)], .vexp2 9#6 18#6 5#3 .b),
   (word 0xCC000006 [(20, 9), (14, 18), (5, 5), (3, 2)], .vlog2 9#6 18#6 5#3 .b),
   (word 0xCC000007 [(20, 9), (14, 18), (5, 5), (3, 2)], .vsin 9#6 18#6 5#3 .b),
   (word 0xD0000000 [(20, 9), (14, 18), (5, 5), (3, 2)], .vcos 9#6 18#6 5#3 .b), (word 0xD0000001 [(20, 9), (5, 5), (3, 2)], .vrand 9#6 5#3 .b),
   (word 0xD0000002 [(20, 9), (5, 5), (3, 2)], .vrandf 9#6 5#3 .b),
   (word 0xD0000003 [(20, 9), (14, 18), (8, 35), (5, 5), (3, 2)], .vdrop 9#6 18#6 35#6 5#3 .b),
   (word 0xD0000004 [(20, 9), (14, 18), (8, 35), (5, 5), (3, 2)], .vtopk 9#6 18#6 35#6 5#3 .b),
   (word 0xD0000005 [(20, 9), (14, 18), (8, 35), (5, 5), (3, 2)], .vmergek 9#6 18#6 35#6 5#3 .b)]

theorem test_decode_vector_conversion_and_function : agrees wordsVectorConversionAndFunction = true := by decide +kernel

def wordsEngine : List (Nat × Instr) :=
  [(word 0xD4000000 [(20, 9), (0, 6)], .mpset 9#6 6#3), (word 0xD4002000 [(0, 0xcd2)], .mcall 0xcd2#12),
   (word 0xD8000000 [(20, 9), (14, 18), (0, 11)], .cpy 9#6 18#6 11#4), (word 0xD8000010 [(20, 9), (14, 18), (0, 11)], .cpyc 9#6 18#6 11#4),
   (word 0xDC000000 [(20, 9), (0, 11)], .gset 9#6 11#4), (word 0xE0000000 [(20, 9), (14, 18), (0, 3)], .gstart 9#6 18#6 3#2),
   (word 0xE4000000 [(20, 9), (14, 18), (0, 11)], .tarm 9#6 18#6 11#4), (word 0xE8000000 [(20, 9), (14, 18), (0, 11)], .fsend 9#6 18#6 11#4),
   (word 0xE8001000 [(20, 9), (14, 18), (0, 11)], .fmcast 9#6 18#6 11#4),
   (word 0xE8002000 [(20, 9), (14, 18), (10, 2), (7, 1), (0, 11)], .fred 9#6 18#6 .min .bf16 11#4),
   (word 0xEC000000 [(20, 9), (14, 18), (11, 3), (8, 3), (0, 11)], .ratom 9#6 18#6 .swap .int64 11#4),
   (word 0xF0000000 [(20, 9), (14, 18), (0, 0xcd2)], .csend 9#6 18#6 0xcd2#12),
   (word 0xF0001000 [(20, 9), (14, 18), (0, 0xcd2)], .crecv 9#6 18#6 0xcd2#12), (word 0xF0002000 [(20, 9), (0, 0xcd2)], .chw 9#6 0xcd2#12),
   (word 0xF4000000 [(20, 9), (14, 18), (0, 843)], .ccollAllred 9#6 18#6 843#10),
   (word 0xF4000400 [(20, 9), (14, 18), (0, 843)], .ccollRedscat 9#6 18#6 843#10),
   (word 0xF4000800 [(20, 9), (14, 18), (0, 843)], .ccollAllgath 9#6 18#6 843#10),
   (word 0xF4000C00 [(20, 9), (14, 18), (0, 843)], .ccollBcast 9#6 18#6 843#10),
   (word 0xF4001000 [(20, 9), (14, 18), (0, 843)], .ccollReduce 9#6 18#6 843#10),
   (word 0xF4001400 [(20, 9), (14, 18), (0, 843)], .ccollPxch 9#6 18#6 843#10), (word 0xF8000000 [(20, 9)], .spawn 9#6),
   (word 0xF8000400 [(20, 9)], .kilnw 9#6), (word 0xF8000800 [(20, 9)], .kilnr 9#6),
   (word 0xF8000C00 [(20, 9), (14, 18), (0, 11)], .digest 9#6 18#6 11#4), (word 0xF8001000 [(3, 11), (0, 2)], .efence 11#4 .package)]

theorem test_decode_engine : agrees wordsEngine = true := by decide +kernel

/-- Microwords from the encodings of R179 and R180; the fourth is the spec's own example. -/
def microwords : List (Nat × Instr) :=
  [(word 0 [(59, 1), (53, 1), (46, 1), (39, 127)], .lds 3 1 true 127), (word 0 [(59, 2)], .swap 3),
   (word 0 [(59, 3), (56, 2), (53, 1), (39, 127)], .strm 3 2 1 127), (0x1A203F8000000000, .strm 3 2 1 127),
   (word 0 [(59, 4), (56, 2), (53, 1), (39, 63)], .strmc 3 2 1 63), (word 0 [(59, 5), (56, 3)], .zero 3 3),
   (word 0 [(59, 6), (56, 1), (53, 2)], .ldacc 3 1 2), (word 0 [(59, 7), (56, 2), (53, 3), (50, 4), (47, 5), (34, 12)], .drain 3 2 3 4 5 12),
   (word 0 [(59, 8), (56, 2), (50, 6)], .amax 3 2 6), (word 0 [(59, 9), (56, 2), (0, 0xFFFD)], .scale 3 2 0xFFFD),
   (word 0 [(59, 10), (56, 1), (53, 2), (0, 32768)], .madd 3 1 2 32768), (word 0 [(59, 11), (56, 7), (44, 0x905)], .mloop 3 7 0x905),
   (word 0 [(59, 12), (56, 7), (44, 0xFFF)], .mbrz 3 7 0xFFF), (word 0 [(59, 13), (0, 3)], .mwait 3 3), (word 0 [(59, 14)], .mend 3)]

theorem test_decode_microwords : (microwords.all fun e => decide (decodeMicro 3 e.1 = some e.2) && e.2.wellFormed) = true := by decide +kernel

/-- R181: unassigned micro-opcodes, nonzero zero fields, a format that DRAIN does not have, an empty class mask. -/
theorem test_bad_microwords :
    (([0, word 0 [(59, 15)], word 0 [(59, 31)], word 0 [(59, 2), (0, 1)], word 0 [(59, 5), (53, 1)], word 0 [(59, 7), (34, 1)],
       word 0 [(59, 13)], word 0 [(59, 13), (2, 1)]]).all fun w => decide (decodeMicro 3 w = none)) = true := by decide +kernel

/-! ## Well-formedness: an ill-formed step for each check -/

def samplePacket : Packet :=
  { kind := .write, vc := 0, det := false, hops := 0, dctx := 0, status := 0, len := 0, srcPkg := 1, srcCore := 0, op := 0, fmt := 0, frac := 0,
    tag := 0, addr := 0, group := 0, payload := [] }

theorem test_ill_formed :
    ([Instr.idle 0 false .rne 12, .brp 0 1, .call 56 0, .callr 63 1 0, .loop 57 1 0, .loopi 58 1 0, .sysr 59 0, .add 60 1 2 0, .sub 61 1 2 0,
      .divs 62 1 2 0, .clz 56 1 0, .addi 57 1 0, .lui 58 0, .ext 5 1 63 1, .ins 5 1 32 32, .ext 56 1 0 0, .widx 5 7, .widx 60 1, .ldB 56 1 false 0,
      .lduW 63 1 false 0, .vld 56 1 false .all 0, .vlds 56 1 2 0 .all false, .amoAdd 56 1 2 0 false, .vldkKbf7 56 1 2 .all false,
      .vaddI32 56 1 2 0 .all, .vaddF32 56 1 2 0 .all, .vmov 56 1 0 .all, .viota 56 0 .all, .vredaddF32 56 1 0 .all, .vcvt 5 1 .bf16 .bf16 0 .all,
      .vcvt 56 1 .f32 .bf16 0 .all, .vrcp 56 1 0 .all, .vrand 56 0 .all, .vdrop 56 1 2 0 .all, .vtopk 56 1 2 0 .all,
      .fred 1 2 .swap .int32 0, .fred 1 2 .cas .int32 0, .ratom 1 2 .swap .fx128 0, .ratom 1 3 .cas .int64 0, .ratom 1 56 .cas .int64 0,
      .ratom 1 3 .add .fx128 0, .lds 192 0 false 0, .drain 0 0 0 0 0 1, .mwait 0 0, .resultLanding 192 false, .gatherRowDelivery 0 4,
      .keyUseReport 16, .flit 128 [], .flit 0 [], .roundTimeout 0 1024, .portDown 128, .launchQueuePoll 64, .create 16, .thermalWarn 4,
      .hostSupervisorWrite 192 0 []]).all (fun i => !i.wellFormed) = true := by decide +kernel

/-- The same shapes at the edge of what is well formed. -/
theorem test_well_formed :
    ([Instr.idle 63 true .sr 11, .brp 1 0, .call 55 0, .ext 5 1 63 0, .ins 5 1 31 32, .widx 55 6, .vcvt 55 63 .f32 .bf16 7 .b, .fred 1 2 .min .fp32 0,
      .ratom 1 54 .cas .int64 0, .ratom 1 54 .add .fx128 0, .lds 191 7 true 127, .drain 0 0 0 0 0 2, .drain 0 0 0 0 0 14, .mwait 0 1,
      .gatherRowDelivery 191 3, .keyUseReport 15, .flit 127 (List.replicate 256 0), .roundTimeout 15 1023, .launchQueuePoll 63, .thermalWarn 3,
      .packetForward samplePacket]).all Instr.wellFormed = true := by decide +kernel


/-! ## Small states -/

/-- Core 0 runs a user task of context 0; its primary stream is about to issue in the common region; STAGE is READY. -/
def user : State := State.reset.withFetchWord 32 0

def onSt (f : Stream → Stream) (s : State) : State := s.putSt 0 false (f (s.st 0 false))
def onSeat (f : Seat → Seat) (s : State) : State := s.putSeat 0 (f (s.seat 0))
def onCore (f : Core → Core) (s : State) : State := s.putCore 0 (f (s.core 0))
def onCtx (f : Ctx → Ctx) (s : State) : State := s.putCtx 0 (f (s.ctx 0))
def onRegs (f : Regs → Regs) (s : State) : State := onSt (fun y => { y with regs := f y.regs }) s

/-- `user` with scalar registers. -/
def withS (l : List (Nat × Word)) : State := onRegs (fun r => { r with s := l }) user

/-- `user` with lanes of vector registers: (register, lane, value), rising. -/
def withV (l : List (Nat × Nat × W32)) : State := onRegs (fun r => { r with v := l.map fun e => (128 * e.1 + e.2.1, e.2.2) }) user

/-- A handler runs on the primary stream of core 0. -/
def handler : State := onSt (fun y => { y with sys := { y.sys with sup := true } }) user

/-- The result that an instruction posts: its place, its value, its flags and its latency. -/
def posted (i : Instr) (s : State) : Option (Dest × Nat × Nat) :=
  match exec i s with
  | .next t => match t.cst.landing with
    | [e] => some (e.dest, e.flags, e.rem)
    | _ => none
  | _ => none

/-- The access that an instruction starts. -/
def started (i : Instr) (s : State) : Option (AccOp × Nat × Nat) :=
  match exec i s with
  | .next t => match t.cst.acc with
    | [a] => some (a.op, a.rem, a.lat)
    | _ => none
  | _ => none

/-- The bundle's requests after an instruction. -/
def asked (i : Instr) (s : State) : Option Part := match exec i s with | .next t => some t.cur.part | _ => none

/-- Code, slot and address of the handler after an instruction that traps. -/
def trapped (i : Instr) (s : State) : Option (Nat × Nat × Nat) :=
  match exec i s with
  | .next t => if t.cur.stopped then some (t.cst.trap.code, t.cst.trap.slot, t.cst.pc) else none
  | _ => none

def nextIs (i : Instr) (s : State) (p : State → Bool) : Bool := match exec i s with | .next t => p t | _ => false

/-! ## Scalar slots: hand calculation from R201 to R210, and the examples of R206 and of chapter 14 -/

/-- s1 = -7, s2 = 2, s4 = -2^63, s6 = -1, s7 = 66. -/
def nums : State := withS [(1, 0xFFFFFFFFFFFFFFF9), (2, 2), (4, 0x8000000000000000), (6, 0xFFFFFFFFFFFFFFFF), (7, 66)]

def gives (s : State) (l : List (Instr × Word × Nat)) : Bool := l.all fun e => decide (posted e.1 s = some (.s 5 e.2.1, 0, e.2.2))

theorem test_scalar_results : gives nums
    [(.add 5 1 2 0, 0xFFFFFFFFFFFFFFFB, 1), (.sub 5 2 1 0, 9, 1), (.mul 5 1 2 0, 0xFFFFFFFFFFFFFFF2, 3),
     (.mulh 5 1 2 0, 0xFFFFFFFFFFFFFFFF, 3), (.mulhu 5 1 2 0, 1, 3), (.divs 5 1 2 0, 0xFFFFFFFFFFFFFFFD, 20),
     (.rems 5 1 2 0, 0xFFFFFFFFFFFFFFFF, 20), (.divu 5 1 2 0, 0x7FFFFFFFFFFFFFFC, 20), (.remu 5 1 2 0, 1, 20),
     (.and 5 1 7 0, 64, 1), (.or 5 2 7 0, 66, 1), (.xor 5 2 7 0, 64, 1), (.andn 5 7 2 0, 64, 1), (.shl 5 2 7 0, 8, 1),
     (.shr 5 4 7 0, 0x2000000000000000, 1), (.sar 5 1 7 0, 0xFFFFFFFFFFFFFFFE, 1), (.min 5 1 2 0, 0xFFFFFFFFFFFFFFF9, 1),
     (.max 5 1 2 0, 2, 1), (.minu 5 1 2 0, 2, 1), (.maxu 5 1 2 0, 0xFFFFFFFFFFFFFFF9, 1), (.clz 5 2 0, 62, 2), (.clz 5 3 0, 64, 2),
     (.ctz 5 4 0, 63, 2), (.ctz 5 3 0, 64, 2), (.popc 5 1 0, 62, 2), (.sel 5 1 2 0, 0xFFFFFFFFFFFFFFF9, 1), (.sel 5 1 2 1, 2, 1)] = true := by
  decide +kernel

/-- R202: division by zero, and the most negative number by -1. -/
theorem test_division_special_cases : gives nums
    [(.divs 5 1 3 0, 0xFFFFFFFFFFFFFFFF, 20), (.rems 5 1 3 0, 0xFFFFFFFFFFFFFFF9, 20), (.divu 5 1 3 0, 0xFFFFFFFFFFFFFFFF, 20),
     (.remu 5 1 3 0, 0xFFFFFFFFFFFFFFF9, 20), (.divs 5 4 6 0, 0x8000000000000000, 20), (.rems 5 4 6 0, 0, 20)] = true := by decide +kernel

theorem test_immediates : gives nums
    [(.addi 5 2 0x2000, 0xFFFFFFFFFFFFE002, 1), (.andi 5 7 0x3FF8, 64, 1), (.ori 5 7 1, 67, 1), (.xori 5 2 0x3FFF, 0xFFFFFFFFFFFFFFFD, 1),
     (.shli 5 2 62, 0x8000000000000000, 1), (.shri 5 4 63, 1, 1), (.sari 5 4 63, 0xFFFFFFFFFFFFFFFF, 1),
     (.ext 5 1 3 2, 14, 1), (.widx 5 6, 0, 1)] = true := by decide +kernel

/-- INS keeps the bits of d outside the field. -/
theorem test_ins : posted (.ins 7 2 1 4) nums = some (.s 7 98, 0, 1) := by decide +kernel

/-- R206: the four bundles that leave s5 = 0x0123456789ABCDEF. -/
theorem test_constant_of_R206 :
    posted (.lui 5 0x89ABC) (withS [(5, 7)]) = some (.s 5 0xFFFFFFFF89ABC000, 0, 1) ∧
    posted (.ori 5 5 0xDEF) (withS [(5, 0xFFFFFFFF89ABC000)]) = some (.s 5 0xFFFFFFFF89ABCDEF, 0, 1) ∧
    posted (.lhi 5 0x34567) (withS [(5, 0xFFFFFFFF89ABCDEF)]) = some (.s 5 0xFFF3456789ABCDEF, 0, 1) ∧
    posted (.ltop 5 0x012) (withS [(5, 0xFFF3456789ABCDEF)]) = some (.s 5 0x0123456789ABCDEF, 0, 1) := by decide +kernel

/-- Chapter 14: `WIDX s5, 1` in the task with work id 0x2053, fields of widths 4, 8 and 12. -/
theorem test_widx_example :
    posted (.widx 5 1) (onSt (fun y => { y with task := y.task.map fun k =>
      { k with wid := 0x2053, fields := [(0, 4), (4, 8), (12, 12), (24, 0), (24, 0), (24, 0)] } }) user) = some (.s 5 5, 0, 1) := by
  decide +kernel

theorem test_predicates :
    posted (.cmp 3 1 2 0 .lt) nums = some (.p 3 true, 0, 1) ∧ posted (.cmp 3 1 2 0 .ltu) nums = some (.p 3 false, 0, 1) ∧
    posted (.cmpi 3 1 .eq 0x3F9) nums = some (.p 3 true, 0, 1) ∧ posted (.pand 3 0 1 0) nums = some (.p 3 false, 0, 1) ∧
    posted (.por 3 0 1 0) nums = some (.p 3 true, 0, 1) ∧ posted (.pxor 3 0 0 0) nums = some (.p 3 false, 0, 1) ∧
    posted (.pnot 3 1 0) nums = some (.p 3 true, 0, 1) := by decide +kernel

/-! ## C slot -/

/-- Address and length of the bundle under way. -/
def at_ (pc len : Nat) (s : State) : State := { s with cur := { s.cur with pc := pc, len := len } }

theorem test_transfers :
    [Instr.br 0x3FFFFF, .brp 1 4, .brpn 1 4, .bswap 0 4, .jmp 7 0].map
        (fun i => (asked i (at_ 0x8000 8 (withS [(7, 0x7FFFC)]))).map Part.goto) =
      [some (some (0x7FFC, 1, false)), some none, some (some (0x8010, 1, false)), some (some (0x8010, 1, true)),
       some (some (0x7FFFC, 1, false))] ∧
    posted (.call 5 1) (at_ 0x7FFF8 8 user) = some (.s 5 0, 0, 1) ∧ posted (.callr 5 7 0) (at_ 0x8000 12 (withS [(7, 0x10000)])) = some (.s 5 0x800C, 0, 1) ∧
    trapped (.jmp 7 0) nums = some (tcALIGN, 0, 0x500) ∧ trapped (.ret 7 0) (withS [(7, 0x80000)]) = some (tcALIGN, 0, 0x500) := by decide +kernel

/-- R187's one-bundle loop: taken while the new count is below 4. -/
theorem test_loop_of_R187 :
    posted (.loopi 1 4 0) (withS [(1, 2)]) = some (.s 1 3, 0, 1) ∧ (asked (.loopi 1 4 0) (at_ 0x1000C 12 (withS [(1, 2)]))).map Part.goto = some (some (0x1000C, 0, false)) ∧
    (asked (.loopi 1 4 0) (at_ 0x1000C 12 (withS [(1, 3)]))).map Part.goto = some none ∧
    (asked (.loop 1 2 0x3FFF) (at_ 0x1000C 12 (withS [(1, 2), (2, 4)]))).map Part.goto = some (some (0x10008, 0, false)) := by decide +kernel

theorem test_waits :
    ((asked (.waita 2 3 0 .system .eq) (withS [(2, 0x20008), (3, 42)])).bind Part.wait).map (fun w => (w.isA, w.addr, w.val)) = some (true, 0x20008, 42) ∧
    trapped (.waita 2 3 0 .system .eq) (withS [(2, 0x600000)]) = some (5, 0, 0x500) ∧
    ((asked (.waito 2 1535) user).bind Part.wait).map Wait.addr = some 1535 ∧ trapped (.waito 2 1536) user = some (5, 0, 0x500) ∧
    (asked .tend user).map Part.tend = some true ∧
    nextIs (.sysr 5 0x009) user (fun t => t.cst.landing.map Landing.dest = [.s 5 0]) = true ∧
    posted (.sysw 2 0x010) (withS [(2, 9)]) = some (.sys 0x10 9, 0, 1) ∧ trapped (.sysr 5 0x100) user = some (tcPRIV, 0, 0x100 * tcPRIV) ∧
    posted (.setf 3 1 0) nums = some (.xf 3 0xFFFFFFFFF9, 0, 4) := by decide +kernel

theorem test_software_traps :
    trapped (.trap 7) user = some (16, 0, 0x1000) ∧ nextIs (.trap 7) user (fun t => decide (t.cst.trap.arg = 7 ∧ t.cst.trap.done = 1)) = true ∧
    trapped (.brk 7) user = none ∧ nextIs (.ifence .common) user (fun t => decide (t.cur.part.extra = 1)) = true ∧
    nextIs (.idle 0 false .rne 0) user (fun t => decide (t.cst.landing = [])) = true := by decide +kernel

/-! ## Scratchpad slots -/

theorem test_scalar_accesses :
    [Instr.ldB 5 2 false 0x1FFF, .ldH 5 7 false 1, .ldW 5 4 false 0, .ldD 5 3 true 1, .lduB 5 7 false 0, .lduH 5 7 false 0, .lduW 5 0 false 1].map
        (fun i => started i (withS [(2, 1), (4, 0x5FFFFC), (7, 66)])) =
      [some (.loadS 5 0 1 true, 1, 3), some (.loadS 5 68 2 true, 1, 3), some (.loadS 5 0x5FFFFC 4 true, 1, 3), some (.loadS 5 8 8 false, 1, 3),
       some (.loadS 5 66 1 false, 1, 3), some (.loadS 5 66 2 false, 1, 3), some (.loadS 5 4 4 false, 1, 3)] ∧
    [Instr.stB 1 2 false 0, .stH 1 2 false 0, .stW 7 0 false 1, .stD 7 0 true 1].map (fun i => started i nums) =
      [some (.store [(2, [0xF9])], 2, 2), some (.store [(2, [0xF9, 0xFF])], 2, 2), some (.store [(4, [66, 0, 0, 0])], 2, 2),
       some (.store [(8, [66, 0, 0, 0, 0, 0, 0, 0])], 2, 2)] := by decide +kernel

/-- R384's example of a precise stop: a word load from 0x40002 traps ALIGN. -/
theorem test_misaligned_load : trapped (.ldW 5 6 false 0) { withS [(6, 0x40002)] with cur := { user.cur with slot := 3 } } = some (5, 3, 0x500) := by
  decide +kernel

/-- R217's example: from 0x50040 in a skewed tile, lane 9 of cluster 3 reaches 0x5094C. -/
theorem test_column_address :
    (match started (.vldt 5 2 false .all 0) (onSeat (fun x => { x with tiles := [(80, ⟨.core, true, 0⟩)] }) (withS [(2, 0x50040)])) with
      | some (.loadV 5 els, 1, 4) => els.contains (57, 0x5094C)
      | _ => false) = true := by decide +kernel

theorem test_vector_accesses :
    (match started (.vld 5 2 false .all 1) (withS []) with | some (.loadV 5 els, 1, 4) => els.contains (127, 64 + 508) | _ => false) = true ∧
    (match started (.vldb 5 2 false .all 1) (withS []) with | some (.loadV 5 els, 1, 4) => els.contains (127, 64 + 60) | _ => false) = true ∧
    (match started (.vst 5 2 false .all 1) (withV [(5, 127, 9)]) with | some (.store els, 2, 2) => els.contains (64 + 508, [9, 0, 0, 0]) | _ => false) = true ∧
    (match started (.vlds 5 0 2 0 .all false) nums with | some (.loadV 5 _, _, _) => true | _ => false) = false ∧
    (match started (.vlds 5 0 7 0 .all false) (withS [(7, 8)]) with | some (.loadV 5 els, 1, 4) => els.contains (3, 24) | _ => false) = true := by decide +kernel

/-- Both planes of the block of R23, and the lanes that VLDK.KBF4 gives (R218, R239). -/
theorem test_block_load_of_R23 :
    (let s := onSeat (fun x => { x with spad := Mem.setBytes (Mem.setBytes [] 0x4000 [0x4C, 0x06, 0x80, 0x0E]) 0x5000 [0x80, 0xFE] })
        (onSt (fun y => { y with sys := { y.sys with clma := 1 }, acc := [⟨0, 0, 3, false, 0, 0, 0, .loadK 5 4 [(0, 0x4000, 0x5000)]⟩] }) user)
     nextIs (.pendingAccessPerform 0) s fun t =>
       match (t.st 0 false).landing with
       | [⟨_, _, _, .v 5 ls, _⟩] => decide (ls.take 7 = [(0, 0x00FE800C), (1, 0x00FE8012), (2, 0x00FE8001), (3, 0x00FE8000), (4, 0x00FE8008), (5, 0x00FE8007), (6, 0x00FE8000)])
       | _ => false) = true := by decide +kernel

theorem test_atomics :
    started (.amoAdd 5 4 2 0 false) (withS [(2, 2), (4, 8)]) = some (.amoSample 5 8 .add 2 0, 1, 3) ∧
    started (.amoCas 5 4 2 0 false) (withS [(2, 2), (4, 8), (5, 6)]) = some (.amoSample 5 8 .cas 2 6, 1, 3) ∧
    amoNew .max 0xFFFFFFFFFFFFFFFF 3 0 = some 3 ∧ amoNew .min 0xFFFFFFFFFFFFFFFF 3 0 = some 0xFFFFFFFFFFFFFFFF ∧
    amoNew .cas 6 2 6 = some 2 ∧ amoNew .cas 5 2 6 = none ∧ trapped (.amoSwap 5 4 2 0 false) (withS [(4, 4)]) = some (5, 0, 0x500) := by decide +kernel

/-- R109's example, without its store: SA pops A for both operands, then SB peeks B. -/
def queue1 : State :=
  onSeat (fun x => { x with gq := [(1, { GQueue.reset with gqc := 1, dq := [⟨false, [3]⟩, ⟨false, [5]⟩, ⟨false, [7]⟩] })] }) user

theorem test_pops_of_one_bundle :
    posted (.add 5 57 57 0) queue1 = some (.s 5 6, 0, 1) ∧
    (match exec (.add 5 57 57 0) queue1 with | .next t => posted (.add 6 61 0 0) (onSt (fun y => { y with landing := [] }) t) | _ => none) = some (.s 6 5, 0, 1) ∧
    trapped (.add 5 56 0 0) user = some (tcQERR, 0, 0x100 * tcQERR) ∧ trapped (.qdrop 2 0) queue1 = some (tcQERR, 0, 0x100 * tcQERR) := by decide +kernel

/-! ## Vector slots -/

def lane0 (i : Instr) (s : State) : Option (W32 × Nat × Nat) :=
  match posted i s with
  | some (.v 5 ((0, w) :: _), f, l) => some (w, f, l)
  | _ => none

/-- v1 lane 0 = -2 or 2.0, v2 lane 0 = 3 or 3.0, v5 lane 0 = 1.0. -/
def ints : State := withV [(1, 0, 0xFFFFFFFE), (2, 0, 3)]
def floats : State := withV [(1, 0, 0xC0000000), (2, 0, 0x40400000), (5, 0, 0x3F800000)]

def lanes (s : State) (l : List (Instr × W32 × Nat)) : Bool := l.all fun e => decide (lane0 e.1 s = some (e.2.1, 0, e.2.2))

theorem test_vector_integers : lanes ints
    [(.vaddI32 5 1 2 0 .all, 1, 2), (.vsubI32 5 1 2 0 .all, 0xFFFFFFFB, 2), (.vmulI32 5 1 2 0 .all, 0xFFFFFFFA, 3), (.vmulh 5 1 2 0 .all, 0xFFFFFFFF, 3),
     (.vand 5 1 2 0 .all, 2, 2), (.vor 5 1 2 0 .all, 0xFFFFFFFF, 2), (.vxor 5 1 2 0 .all, 0xFFFFFFFD, 2), (.vabsI32 5 1 0 .all, 2, 2),
     (.vshl 5 1 2 0 .all, 0xFFFFFFF0, 2), (.vshr 5 1 2 0 .all, 0x1FFFFFFF, 2), (.vsar 5 1 2 0 .all, 0xFFFFFFFF, 2), (.vminI32 5 1 2 0 .all, 0xFFFFFFFE, 2),
     (.vmaxI32 5 1 2 0 .all, 3, 2), (.vminU32 5 1 2 0 .all, 3, 2), (.vmaxU32 5 1 2 0 .all, 0xFFFFFFFE, 2)] = true := by decide +kernel

theorem test_vector_floats : lanes floats
    [(.vaddF32 5 1 2 0 .all, 0x3F800000, 3), (.vsubF32 5 1 2 0 .all, 0xC0A00000, 3), (.vmulF32 5 1 2 0 .all, 0xC0C00000, 3), (.vfmaF32 5 1 2 0 .all, 0xC0A00000, 4),
     (.vminF32 5 1 2 0 .all, 0xC0000000, 3), (.vmaxF32 5 1 2 0 .all, 0x40400000, 3), (.vabsF32 5 1 0 .all, 0x40000000, 1), (.vnegF32 5 1 0 .all, 0x40000000, 1),
     (.vcpysF32 5 2 1 0 .all, 0xC0400000, 1), (.vmov 5 1 0 .all, 0xC0000000, 1), (.vsel 5 1 2 0 .all, 0xC0000000, 1), (.vxcl 5 1 0 0 .all, 0xC0000000, 6),
     (.viota 5 0 .all, 0, 1)] = true := by decide +kernel

/-- R242: the reciprocal of 3.0; lanes of zero raise DZ. -/
theorem test_reciprocal : lane0 (.vrcp 5 2 0 .all) floats = some (0x3EAA4000, 8, 3) := by decide +kernel

/-- R236: the fixed tree of the example gives 2^24 with NX. -/
theorem test_reduction_tree :
    lane0 (.vredaddF32 5 1 0 .all) (withV [(1, 0, 0x4B800000), (1, 1, 0x3F800000), (1, 3, 0x3F800000)]) = some (0x4B800000, 1, 8) := by decide +kernel

/-- R239: VCVT.KBF4.F32 of the example block, with NX and UF. -/
theorem test_block_conversion :
    (match posted (.vcvt 5 6 .f32 .kbf4 0 .all) (withV [(6, 0, 0x40400000), (6, 1, 0xBECCCCCD), (6, 2, 0x3DCCCCCD), (6, 3, 0x3D4CCCCD), (6, 4, 0x3F800000), (6, 5, 0x3F666666)]) with
      | some (.v 5 ls, 3, 6) => decide ((ls.take 7).map Prod.snd = [0x00FE800C, 0x00FE8012, 0x00FE8001, 0x00FE8000, 0x00FE8008, 0x00FE8007, 0x00FE8000])
      | _ => false) = true := by decide +kernel

/-- R249: the example of VTOPK. -/
theorem test_topk :
    (let inf : W32 := 0xFF800000
     let v10 := [0x3F000000, 0x40000000, 0xBF800000, 0x40000000, 0x7FC00000, 0x7F800000] ++ List.replicate 10 inf
     match posted (.vtopk 12 10 11 0 .all) (withV (v10.mapIdx (fun i w => (10, i, w)) ++ (List.range 16).map fun i => (11, i, BitVec.ofNat 32 i))) with
      | some (.v 12 ls, 0, 8) => decide ((ls.take 16).map Prod.snd = [5, 1, 3, 0, 2, 6, 7, 8, 9, 10, 11, 12, 13, 14, 15, 4])
      | _ => false) = true := by decide +kernel

/-! ## Formats and keyed randomness: the examples of chapters 01 and 02 -/

/-- 0.3 in E5M2, in three modes, with NX. -/
theorem test_e5m2 :
    encodeFloat fmtE5m2 .rne false 0 (f32Val 0x3E99999A) = (0x35, 1) ∧ encodeFloat fmtE5m2 .rtz false 0 (f32Val 0x3E99999A) = (0x34, 1) ∧
    encodeFloat fmtE5m2 .sr false 858992640 (f32Val 0x3E99999A) = (0x35, 1) ∧ encodeFloat fmtE5m2 .sr false 858992639 (f32Val 0x3E99999A) = (0x34, 1) := by decide +kernel

/-- 5 into FX128, and 2.75 from FX128 to INT32. -/
theorem test_fx128 :
    encodeInt fmtFx128 64 .rne false 0 (decodeIntF fmtI64 0 5) = (5 * 2 ^ 64, 0) ∧
    encodeInt fmtFx128 127 .rne false 0 (decodeIntF fmtI64 0 5) = (2 ^ 127, 16) ∧ encodeInt fmtFx128 127 .rne true 0 (decodeIntF fmtI64 0 5) = (2 ^ 127 - 1, 16) ∧
    encodeInt fmtI32 0 .rne false 0 (decodeIntF fmtFx128 64 (2 * 2 ^ 64 + 0xC000000000000000)) = (3, 1) ∧
    encodeInt fmtI32 0 .rtz false 0 (decodeIntF fmtFx128 64 (2 * 2 ^ 64 + 0xC000000000000000)) = (2, 1) := by decide +kernel

theorem test_krg_zero : krg 0 0 = 0x6D107A2E10A4D9901BB7124B50297979 := by decide +kernel

theorem test_counters :
    ctrRound 0 (1000003 / 4) = 0x0100000000000000000000000003D090 ∧ ctrDraw 77 0x2A 5 = 0x0300004D000000000000002A00000005 := by decide +kernel

/-- R151's example header, and the words of the full bundle. -/
theorem test_full_bundle :
    (match decodeHeader 0x000B44AA with | .ok h => decide (h = ⟨2, true, .sr, 4, 0xAA⟩) | _ => false) = true ∧
    decodeTableWord 32 0x2C20C400 = some (.add 2 3 4 0) ∧ decodeTableWord 32 0x68518002 = some (.ldW 5 6 false 2) ∧
    decodeTableWord 32 0xB0108300 = some (.vaddF32 1 2 3 0 .all) ∧ decodeTableWord 32 0xD8720003 = some (.cpy 7 8 3) := by decide +kernel

/-- Chapter 07: the fates of chosen words: no instruction, or one of another slot. -/
theorem test_fates_of_words :
    decodeTableWord 32 0x2F900000 = none ∧ decodeTableWord 32 0x54100000 = some (.cmp 1 0 0 0 .eq) ∧ decodeTableWord 32 0x54900000 = none ∧
    decodeTableWord 32 0xAC000007 = none ∧ decodeTableWord 32 0xB0108318 = none ∧ decodeTableWord 32 0x24080000 = none ∧
    (match slotInstr 6 0x2C20C400 with | .error e => decide (e = tcSLOT) | _ => false) = true ∧
    (match slotInstr 1 0 with | .error e => decide (e = tcILLI) | _ => false) = true := by decide +kernel

/-! ## Steps without a word -/

theorem test_reset_stage : State.reset.stage = 0 ∧ State.reset.memWf = true := by decide +kernel

/-- R426: after a thermal trip the clocks stand, and a step with nothing to come faults. -/
theorem test_halted : (match step ((State.reset.setStage 5).setFld oTHERM 17 1 1) with | .fault .clocksStopped => true | _ => false) = true := by
  decide +kernel

/-- R425: a package HALTED because its HBM training failed keeps its clocks. -/
theorem test_halted_clocks : (match step (State.reset.setStage 5) with | .next t => decide (t.turn ≠ .start) && decide (t.stage = 5) | _ => false) = true := by
  decide +kernel

/-- A result lands at its tick. -/
theorem test_landing :
    (let s := onSt (fun y => { y with ph := .issue, landing := [⟨0, 1, 3, .s 4 9, (0x8000, 1)⟩] }) user
     nextIs (.resultLanding 0 false) s fun t => decide ((t.st 0 false).regs.getS 4 = 9 ∧ (t.st 0 false).sys.fflags = 3 ∧ (t.st 0 false).landing = [])) = true := by decide +kernel

/-- The store of litmus 1 performs. -/
theorem test_store_performs :
    (let s := onSt (fun y => { y with acc := [⟨0, 0, 2, false, 0, 0, 0, .store [(0x1000, [7, 0, 0, 0])]⟩] }) user
     nextIs (.pendingAccessPerform 0) s fun t => decide (Mem.num (t.seat 0).spad 0x1000 4 = 7 ∧ (t.st 0 false).acc = [])) = true := by decide +kernel

/-- R8, R130, R139, R442: what the host writes it reads back. -/
theorem test_host_accesses :
    nextIs (.hostCxlMemWrite 5 [1, 2]) user (fun t => decide (Mem.num t.hbm 4 4 = 0x00020100)) = true ∧
    nextIs (.hostSupervisorWrite 7 0x500 [9]) user (fun t => decide (Mem.byte (t.core 7).svr 0x500 = 9)) = true ∧
    nextIs (.hostCxlIoWindowAccess 0x123 2 (some [8, 9])) user (fun t => decide (Mem.num (t.seat 0).spad 0x123 2 = 0x0908)) = true ∧
    nextIs (.registerWrite 0x200000 [5, 0, 0, 0, 0, 0, 0, 0]) user (fun t => decide (t.pkg = 5)) = true := by decide +kernel

/-- R123: a mailbox of two tiles; R213: a granted take. -/
theorem test_tiles :
    nextIs (.tctlMakeMailbox 0 false (3 + 5 * 2 ^ 16 + 2 * 2 ^ 32)) user
      (fun t => decide (((t.seat 0).tile 5).st = .mbx ∧ ((t.seat 0).tile 6).st = .mbx ∧ ((t.seat 0).tile 7).st = .core)) = true ∧
    nextIs (.takeGrant 0) (onSeat (fun x => { x with takes := [⟨1, 9, true, 0⟩] }) user) (fun t => decide (((t.seat 0).tile 9).st = .engW)) = true := by decide +kernel

/-- R393: CREATE of a core set that is empty is refused with ERR; R395: WDCLR. -/
theorem test_refused_create :
    nextIs (.create 1) user (fun t => t.flag (ccbOff 1 + 0x58) 8) = true ∧ nextIs (.kill 1) user (fun t => t.flag (ccbOff 1 + 0x58) 8) = true := by decide +kernel

/-- R277: MLOOP counts down and goes to its target until the count is 1. -/
theorem test_mloop :
    (let r : Routine := ⟨1, 0x900, 0, .rne, false, [2, 0, 0, 0, 0, 0, 0, 0], [], [], originOf user, [], 0, true, false, 0, []⟩
     let s := onSeat (fun x => { x with mxe := { x.mxe with queue := [r], upc := 0x905 } }) user
     nextIs (.mloop 0 0 0x901) s fun t => decide ((t.seat 0).mxe.upc = 0x901) && decide ((t.seat 0).mxe.queue.map (fun q => nth 0 q.mp 0) = [1])) = true := by decide +kernel

/-- R426: a warning lowers a die's tokens by five per cent of 4,608, rounded down. -/
theorem test_thermal_warn : nextIs (.thermalWarn 2) user (fun t => decide (t.dtok 2 = 4377 ∧ t.dtok 1 = 4608)) = true := by decide +kernel

/-! ## Witnesses: states and operands that meet the hypotheses of the obligations, clause by clause -/

/-- Every item of a list of hypotheses holds. -/
def met (l : List Bool) : Bool := l.all id

/-- `QueuesLive` as a test. -/
def live (s : State) (fs : List RegF) : Bool := !fs.any (deadQueue s)

theorem queuesLive_of_live {s : State} {fs : List RegF} (h : live s fs = true) : QueuesLive s fs := by simpa [live, QueuesLive] using h

/-- DecodeInvertsEncode, EncodeInvertsDecode, MicrowordsRoundTrip. -/
theorem witness_encoding :
    ([Instr.add 55 63 0 7, .addi 0 0 0x2000, .ldD 55 63 true 0x1FFF, .vaddF32 55 63 63 7 .b, .efence 15 .system, .csend 63 63 4095].all
      fun i => i.wellFormed && (encode i).isSome) = true ∧
    ([0, 0x24000000, 0xF800107C].all fun w => (decodeTableWord 32 w).isSome) = true ∧
    ([Instr.mend 191, .madd 0 7 7 0xFFFFFFFF, .drain 0 7 7 7 7 14].all fun i => i.wellFormed && (encodeMicro i).isSome) = true ∧
    ([0x7000000000000000, 0x1A203F8000000000].all fun w => (decodeMicro 0 w).isSome) = true := by decide +kernel

theorem witness_BadWordsTrapAtTheirSlot :
    majorClass (nfld 0x2C20C400 26 6) = some .s ∧ slotClass 6 = .v ∧ majorClass (nfld 0x3FFFFFF 26 6) = none ∧
    majorClass (nfld 0x2F900000 26 6) = some (slotClass 2) ∧ decodeTableWord 32 0x2F900000 = none := by decide +kernel

/-- ADDI s4, s4, 3 where the next step fetches; the same word as the next slot of a bundle under way; a bundle without slots. -/
def placed : State := State.reset.withFetchWord 32 0x30410003
def inBundle : State := { placed with turn := .slot 0 false, cur := { placed.cur with todo := [(1, 0x30410003)] } }

theorem witness_StepRunsTheDecodedInstruction :
    met [decide ((({ user with agenda := [.coldStart] } : State).stage) ≠ 5), decide (placed.stage ≠ 5), decide (placed.agenda = []),
      decide (placed.turn = .issue 0 false), issuing placed 0 false,
      (match fetch placed 0 false with
        | .ok b => match (openBundle 0 false b placed).cur.todo with
          | [(1, w)] => (match decodeSlot (slotClass 1) w.toNat with | .ok i => decide (i = .addi 4 4 3) | .error _ => false)
          | _ => false
        | .error _ => false),
      decide (inBundle.stage ≠ 5), decide (inBundle.agenda = []), decide (({ inBundle with cur := { inBundle.cur with todo := [] } } : State).turn = .slot 0 false)] = true := by
  decide +kernel

/-- Hypotheses of the fetch at the first and at the last bundle of the common region. -/
theorem witness_FetchReadsTheBundleAtPc :
    (user.st 0 false).task = some ⟨0, 0, [], false, none, 0, 0, 0⟩ ∧ (user.st 0 false).stale = [] ∧ (user.seat 0).ibad = [] ∧ (user.st 0 false).pc = 0x8000 ∧
    (match decodeHeader (Mem.num (user.seat 0).ispad 0x8000 4) with | .ok h => decide (slotsOf h.mask = []) | _ => false) = true ∧
    (match decodeHeader (Mem.num (user.seat 0).ispad 0xFFFC 4) with | .ok h => decide (0xFFFC + 4 + 4 * (slotsOf h.mask).length ≤ 0x10000) | _ => false) = true := by
  decide +kernel

theorem witness_FixedRegisters :
    (∃ v, (⟨0, 1, 0, .s 0 v, (0x8000, 1)⟩ : Landing).dest = .s 0 5) ∧ (55#6).toNat < 56 ∧
    ((onSeat (fun x => { x with gq := [(0, { GQueue.reset with dq := [⟨true, [1]⟩] }), (3, { GQueue.reset with dq := [⟨false, [1]⟩] })] }) user).seat 0).q (56 % 4) =
      { GQueue.reset with dq := [⟨true, [1]⟩] } ∧
    (((onSeat (fun x => { x with gq := [(0, { GQueue.reset with dq := [⟨true, [1]⟩] }), (3, { GQueue.reset with dq := [⟨false, [1]⟩] })] }) user).seat 0).q (63 % 4)).dq =
      [⟨false, [1]⟩] := ⟨⟨5, rfl⟩, by decide +kernel⟩

/-- DeadQueuesAndFalseGuards, first part. -/
theorem witness_DeadQueueTraps : ¬ QueuesLive user (queueFields (.add 5 56 63 0)) := by unfold QueuesLive; decide +kernel

/-- DeadQueuesAndFalseGuards, second part. -/
theorem witness_FalseGuardPerformsNothing :
    guardOf (.amoCas 55 63 1 7 true) = some 7 ∧ rdP user 7 = false ∧ live queue1 (queueFields (.add 5 57 61 1)) = true ∧ rdP queue1 1 = false := by decide +kernel

theorem witness_ResultSlotsFrame :
    ([Instr.add 5 1 2 0, .stD 1 3 false 0, .vaddI32 5 1 2 0 .all, .sysw 1 0x10, .gset 3 0].all fun i =>
      postsOnly user i && nextIs i user fun t => !t.cur.stopped) = true := by decide +kernel

/-- ThreeRegisterResults, CountAndDivisionResults, ImmediateAndBitFieldResults, PredicateResults. -/
theorem witness_scalar_results :
    met [live nums [1, 2], rdP nums 0, decide (rdS nums 3 = 0), decide (rdS nums 4 = BitVec.intMin 64), decide (rdS nums 6 = BitVec.allOnes 64),
      decide (rdS nums 2 ≠ 0), decide ((0#6).toNat + (63#6).toNat + 1 ≤ 64), decide ((63#6).toNat + (0#6).toNat + 1 ≤ 64), (nums.cst.task).isSome,
      decide ((6#3).toNat = 6), decide ((5#3).toNat < 6), live queue1 [57, 61]] = true := by decide +kernel

theorem witness_TransfersGoWhereTheRulesSay :
    met [rdP user 0, !rdP user 1, live nums [7], decide ((rdS (withS [(7, 0x7FFFC)]) 7).toNat < 2 ^ 19), decide ((rdS (withS [(7, 0x7FFFC)]) 7).toNat % 4 = 0),
      decide ((rdS nums 3 + 1).toNat < (rdS nums 2).toNat), decide ((rdS nums 2).toNat ≤ (rdS nums 7 + 1).toNat), decide ((rdS nums 3 + 1).toNat < (63#6).toNat),
      decide ((0#6).toNat ≤ (rdS nums 3 + 1).toNat), !user.cst.sys.sup, decide ((user.core 0).owner = some 0), !(user.ctx 0).dbga] = true := by decide +kernel

theorem witness_MisalignedOperandsTrap :
    met [live nums [7], rdP nums 0, decide (2 ^ 19 ≤ (rdS (withS [(7, 0x80000)]) 7).toNat), decide ((rdS nums 7).toNat % 4 ≠ 0),
      decide (0x600000 < (rdS (withS [(2, 0x600000)]) 2).toNat + 1), decide ((rdS (withS [(2, 1)]) 2).toNat % 2 ≠ 0), decide ((rdS nums 7).toNat % 4 ≠ 0),
      decide ((rdS nums 7).toNat % 8 ≠ 0), decide (0x600000 < (rdS (withS [(2, 0x5FFFFC)]) 2).toNat + 8)] = true ∧
    -- rows, columns, strides, block planes, AMO
    (let s := withS [(1, 1), (2, 0x5FFFC0), (3, 0x600000), (4, 0x100), (5, 0x5FFFE0), (7, 66)]
     met [live s [1, 2, 3, 4, 7], rdP s 0, decide (clusterSet s .all ≠ 0), decide ((rdS s 7).toNat % 64 ≠ 0), decide (127 ∈ setLanes s .all),
       decide ((rdS s 2).toNat % 64 = 0), decide (0x600000 < (rdS s 2).toNat + 4 * 127 + 4), decide (0x600000 < (rdS s 3).toNat + 64),
       decide (256 ≤ (rdS s 4).toNat % 4096), decide ((rdS s 7).toNat % 32 ≠ 0), decide (0x600000 ≤ (rdS s 3).toNat), !((s.seat 0).tile 0).skew,
       decide (0 ∈ writtenLanes s 0 .all), decide ((rdS s 7).toNat % 4 ≠ 0), decide (0x600000 < (rdS s 3).toNat + 4), decide ((rdS s 1).toNat % 2 ≠ 0),
       decide (7 ∈ clustersOf (clusterSet s .all)), ([7, 4, 2].all fun n => decide (0x600000 < (rdS s 5).toNat + 2 * (n + 1) * 7 + 2 * (n + 1))),
       decide (0x600000 < (rdS s 3).toNat + 2 * 7 + 2), decide ((rdS s 7).toNat % 8 ≠ 0), decide (0x600000 < (rdS s 3).toNat + 8)]) = true := by decide +kernel

theorem witness_WaitsAndEndsComplete :
    met [live nums [1, 2], rdP nums 0, decide ((rdS (withS [(2, 0x5FFFF8)]) 2).toNat % 8 = 0), decide ((rdS (withS [(2, 0x5FFFF8)]) 2).toNat < 0x600000),
      decide ((rdS nums 7).toNat % 8 ≠ 0), decide (0x600000 ≤ (rdS (withS [(2, 0x600000)]) 2).toNat), decide ((rdS nums 7).toNat / 4096 + (1535#14).toNat < 1536),
      decide (1536 ≤ (rdS nums 7).toNat / 4096 + (1536#14).toNat), !user.cst.sys.sup] = true := by decide +kernel

def debuggable : State := onCtx (fun y => { y with dbga := true }) user

theorem witness_SupervisorAndSoftwareTraps :
    met [handler.cst.sys.sup, !user.cst.sys.sup, !debuggable.cst.sys.sup, (debuggable.ctx (debuggable.ctxOf debuggable.cur.core)).dbga,
      !(user.ctx (user.ctxOf user.cur.core)).dbga] = true := by decide +kernel

theorem witness_SystemRegisterAccess :
    met [live user [1], !sysAssigned 0xFFF, sysAssigned 0x100, sysAssigned 0x10, sysAssigned 0x109, sysAssigned 0x30, !user.cst.sys.sup, handler.cst.sys.sup,
      live handler [1]] = true := by decide +kernel

theorem witness_SystemRegistersFencesAndFormats : met [live user [1], rdP user 0, decide (0x20 ≤ 0x2F), decide (0x110 ≤ 0x117)] = true := by decide +kernel

/-- PreciseTrapEntry and SupervisorTrapIsContextFault. -/
theorem witness_trap_entry :
    met [!user.cst.sys.sup, decide ((user.seat user.cur.core).resv = []), handler.cst.sys.sup, decide ((handler.core handler.cur.core).owner = some 0)] = true := by
  decide +kernel

/-- A handler that has been entered, its task waiting or not. -/
def entered (w : Option Wait) : Stream :=
  { handler.st 0 false with held := some ⟨[⟨0, 2, 0, .s 4 9, (0x8000, 1)⟩], [], 1, w, .none, 0x8000, false, false⟩, trap := { TrapRegs.reset with tpc := 0x8000 } }

theorem witness_ReturnRestoresTheTask :
    ((entered none).held.bind Held.wait) = none ∧
    ((entered (some ⟨true, 8, .eq, 1, 0x8000, 0, 0x8008, true, 4, false⟩)).held.bind Held.wait).map Wait.bundle = some (entered none).trap.tpc := by decide +kernel

theorem witness_ScalarAccessesStart :
    met ([1, 2, 4, 8].flatMap fun n =>
      let s := withS [(2, BitVec.ofNat 64 (0x600000 - n))]
      [live s [1, 2], decide ((rdS s 2).toNat % n = 0), decide ((rdS s 2).toNat + n ≤ 0x600000), !detBars s (0x600000 - n) n true, !detBars s (0x600000 - n) n false]) = true := by
  decide +kernel

/-- The skewed tile 1535, and an empty cluster set. -/
def skewed : State := onSeat (fun x => { x with tiles := [(1535, ⟨.core, true, 0⟩)] }) (withS [(2, 0x5FF000), (7, 8)])
def noClusters : State := onSt (fun y => { y with sys := { y.sys with clma := 0 } }) user

theorem witness_VectorAccessesStart :
    met [decide (clusterSet noClusters .a = 0), live noClusters [1, 2, 3], decide (clusterSet skewed .all ≠ 0), live skewed [1, 2, 3],
      decide ((rdS skewed 2).toNat % 64 = 0), decide ((rdS skewed 2).toNat % 4096 < 256), ((skewed.seat 0).tile 1535).skew,
      ((setLanes skewed .all).all fun p => decide (0x5FF000 + 4 * p + 4 ≤ 0x600000) && decide (0x5FF000 + 256 * (p % 16) + 4 * (p / 16) + 4 ≤ 0x600000)),
      decide (writtenLanes user 1 .all = []), decide (writtenLanes skewed 0 .all ≠ []),
      ((writtenLanes skewed 0 .all).all fun p => decide ((rdS skewed 3 + BitVec.ofNat 64 p * rdS skewed 7).toNat % 4 = 0)
        && decide ((rdS skewed 3 + BitVec.ofNat 64 p * rdS skewed 7).toNat + 4 ≤ 0x600000)
        && !detBars skewed (rdS skewed 3 + BitVec.ofNat 64 p * rdS skewed 7).toNat 4 true)] = true := by decide +kernel

theorem witness_BlockAccessesStart :
    (let s := withS [(2, 0x600000 - 128), (3, 0x600000 - 16)]
     met [decide (clusterSet s .all ≠ 0), decide ((rdS s 2).toNat % 2 = 0), decide ((rdS s 3).toNat % 2 = 0), live s [1, 2, 3],
       ((clustersOf (clusterSet s .all)).all fun i => decide (0x600000 - 128 + 16 * i + 16 ≤ 0x600000) && decide (0x600000 - 16 + 2 * i + 2 ≤ 0x600000)
         && !detBars s (0x600000 - 128 + 16 * i) 16 true && !detBars s (0x600000 - 16 + 2 * i) 2 true)]) = true := by decide +kernel

theorem witness_AtomicsStartAndPerform :
    (let s := withS [(2, 0x5FFFF8)]
     met [live s [2, 3], rdP s 0, decide ((rdS s 2).toNat % 8 = 0), decide ((rdS s 2).toNat + 8 ≤ 0x600000), !detBars s 0x5FFFF8 8 true]) = true := by decide +kernel

/-- Queue 1 takes scalars, queue 2 rows longer than a scalar entry (VQ 0, ROWB 5), queue 3 vectors of 64 doublewords. -/
def queues : State :=
  onSeat (fun x => { x with gq := [(1, { GQueue.reset with gqc := 1 }), (2, { GQueue.reset with gqc := 1 + 5 * 2 ^ 10 }), (3, { GQueue.reset with gqc := 1 + 2 ^ 9 + 63 * 2 ^ 10 })] }) user

theorem witness_QueueOperations :
    met [rdP queues 0, live queues [1], !queues.cur.sec, ((queues.seat 0).q 1).en, decide (((queues.seat 0).q 1).gqc.toNat / 2 ^ 10 % 64 = 0), ((queues.seat 0).q 3).en,
      bitN ((queues.seat 0).q 3).gqc.toNat 9, decide (((queues.seat 0).q 1).gs = none), !((queues.seat 0).q 0).en, ((queues.seat 0).q 2).en,
      !bitN ((queues.seat 0).q 2).gqc.toNat 9, decide (((queues.seat 0).q 2).gqc.toNat / 2 ^ 10 % 64 ≠ 0),
      ((onSeat (fun x => { x with gq := [(1, { GQueue.reset with gqc := 1, gs := some ⟨2, 0, 1, 0, 0, 1, 0, [], originOf user⟩ })] }) user).seat 0 |>.q 1).gs.isSome,
      ({ queues with cur := { queues.cur with sec := true } } : State).cur.sec] = true := by decide +kernel

def landing (d : Dest) : State := onSt (fun y => { y with landing := [⟨0, 1, 3, d, (0x8000, 1)⟩] }) user

/-- The same with an uncorrectable error in the entry. -/
def struck (d : Dest) : State := { landing d with upset := [.land 0 false] }

theorem witness_ResultLands :
    ([Dest.s 0 5, .s 55 5, .p 0 false, .p 7 true, .v 55 [(127, 5)]].all fun d =>
      met [(landing d).ticking 0 false, decide (((landing d).st 0 false).landing = [⟨0, 1, 3, d, (0x8000, 1)⟩]), decide ((.land 0 false : Upset) ∉ (landing d).upset),
        (struck d).ticking 0 false, decide ((.land 0 false : Upset) ∈ (struck d).upset), decide (((struck d).st 0 false).landing = [⟨0, 1, 3, d, (0x8000, 1)⟩])]) = true := by
  decide +kernel

def accessing (op : AccOp) : State := onSt (fun y => { y with acc := [⟨0, 0, 3, false, 0, 0, 3, op⟩] }) user

theorem witness_LoadsAndStoresPerform :
    ([AccOp.loadS 5 0x5FFFF8 8 false, .loadS 5 0 1 true, .store [(0x5FFFFC, [1, 2, 3, 4])]].all fun op =>
      let s := accessing op
      met [decide ((s.core 0).frozen = none), decide ((s.st 0 false).acc = [⟨0, 0, 3, false, 0, 0, 3, op⟩]), decide ((s.st 0 true).acc = []), decide ((s.st 0 false).wait = none),
        decide ((s.st 0 true).wait = none), decide ((s.seat 0).resv = []), decide ((s.seat 0).bad = [])]) = true := by decide +kernel

/-- AtomicsPerform: the sample, then the write under its reservation; and what the two ticks leave. -/
theorem witness_AtomicsPerform :
    (let s := accessing (.amoSample 5 0x5FFFF8 .cas 7 9)
     met [decide ((s.core 0).frozen = none), decide ((s.st 0 false).acc = [⟨0, 0, 3, false, 0, 0, 3, .amoSample 5 0x5FFFF8 .cas 7 9⟩]), decide ((s.st 0 true).acc = []),
       decide ((s.st 0 false).lastAcc = []), decide ((s.st 0 true).lastAcc = []), decide ((s.st 0 false).wait = none), decide ((s.st 0 true).wait = none),
       decide ((s.seat 0).resv = []), decide ((s.seat 0).bad = []),
       nextIs (.pendingAccessPerform 0) s fun t => decide ((t.seat 0).resv = [⟨0x5FFFF8, false, 0, 0, []⟩]) && decide ((t.st 0 false).landing.map Landing.dest = [.s 5 0])]) = true ∧
    ([(9, 7), (8, 9)].all fun e =>
      let s := onSeat (fun x => { x with resv := [⟨0x5FFFF8, false, 0, 9, []⟩], spad := Mem.setNum [] 0x5FFFF8 8 9 }) (accessing (.amoWrite 5 0x5FFFF8 .cas 7 (BitVec.ofNat 64 e.1) 9))
      met [decide ((s.core 0).frozen = none), decide ((s.st 0 true).acc = []), decide ((s.st 0 false).wait = none), decide ((s.st 0 false).lastAcc = []),
        decide ((s.seat 0).resv = [⟨0x5FFFF8, false, 0, 9, []⟩]), decide ((amoNew .cas 9 7 (BitVec.ofNat 64 e.1)).isSome = (e.2 = 7)),
        nextIs (.pendingAccessPerform 0) s fun t => decide (Mem.num (t.seat 0).spad 0x5FFFF8 8 = e.2 ∧ (t.seat 0).resv = [])]) = true := by decide +kernel

/-- VectorIntegerResults, VectorFloatResults, VectorComparesAndMoves, ReductionAndTopKResults, ConversionsAndDraws: live fields, lanes that
are written and lanes that are not, with SR and without, scalar and block formats, a task that is not deterministic. -/
theorem witness_vector_results :
    met [live user [1, 2, 3], decide (writtenLanes user 0 .all ≠ []), decide (writtenLanes user 1 .all = []), decide ((rdS user 1).toNat % 128 ∈ writtenLanes user 0 .all),
      decide ((rdS user 1).toNat % 128 ∉ writtenLanes user 1 .all), decide ((vfmtElem .bf16).kbf = none), decide ((vfmtElem .kbf4).kbf = some 4),
      decide (({ user with cur := { user.cur with rnd := .sr } } : State).cur.rnd = .sr), decide (user.cur.rnd ≠ .sr),
      decide (clusterSet user .all ≠ 0), decide (clusterSet noClusters .a = 0), (user.cst.task.all fun t => !t.det)] = true := by decide +kernel

/-- ConversionsAndDraws: VACCRD in a deterministic task, with a routine of an earlier cycle in the queue and of the same cycle, and in a trial;
accumulators without an error. -/
theorem witness_accumulator_reads :
    (let routine : Routine := ⟨1, 0x900, 0, .rne, false, [], [], [], originOf user, [], 4, true, false, 0, []⟩
     let s := fun (n : Nat) => { (onSeat (fun x => { x with mxe := { x.mxe with queue := [routine] } }) (onSt (fun y => { y with task := y.task.map fun k => { k with det := true } }) user)) with cycle := n }
     let runs := fun (s : State) => (s.cst.task.all fun k => !k.det) || s.cur.trial || decide (writtenLanes s 0 .all = []) || (s.seat 0).mxe.queue.all fun r => decide (s.cycle ≤ r.cyc)
     met [runs user, live user [1], !(user.seat 0).mxe.ecc, !runs (s 5), live (s 5) [1], runs (s 4), runs { s 5 with cur := { (s 5).cur with trial := true } }]) = true := by
  decide +kernel

/-- FloatingPointSpecialCases: a signalling and a quiet NaN, infinities, zeros, a negative number, arguments at the bounds of VSIN and VEXP2. -/
theorem witness_FloatingPointSpecialCases :
    met [decide (0x7F800000 < 0x7F800001 % 2 ^ 31), !(Nat.testBit 0x7F800001 22), Nat.testBit 0xFFC00000 22, decide (0x7F800000 < 0xFFC00000 % 2 ^ 31),
      decide (0xFF800000 % 2 ^ 31 = 0x7F800000), decide (0x80000000 % 2 ^ 31 = 0), decide (2 ^ 31 ≤ 0x80000001), decide (0x49800000 ≤ 0x49800000 % 2 ^ 31),
      decide (0xFF7FFFFF % 2 ^ 31 < 0x7F800000), decide (0x43000000 ≤ 0x7F7FFFFF)] = true ∧
    -- roots, small arguments, the seeds of 3 and of 4 and of the greatest number
    met [decide (0 < 1 ∧ 1 < 0x7F800000), decide (0 < 0x801FFFFF % 2 ^ 31 ∧ 0x801FFFFF % 2 ^ 31 < 2 ^ 21),
      ([(0x40400000, 0xC00000, 150, 676), (0xFF7FFFFF, 0xFFFFFF, 276, 4)].all fun e =>
        decide (e.1 / 2 ^ 23 % 256 ≠ 255) && decide ((f32Units e.1).natAbs * 2 ^ 23 = e.2.1 * 2 ^ e.2.2.1) && decide (2 ^ 23 ≤ e.2.1 ∧ e.2.1 < 2 ^ 24 ∧ 21 ≤ e.2.2.1) &&
          (let d := 257 + 2 * ((e.2.1 - 2 ^ 23) / 2 ^ 16)
           decide (2 ^ 21 < 2 * (2 ^ 11 + e.2.2.2) * d + d) && decide (2 * (2 ^ 11 + e.2.2.2) * d < 2 ^ 21 + d))),
      ([(0x40800000, 0x800000, 151, 2032), (0x3F800000, 0x800000, 149, 2032)].all fun e =>
        decide ((f32Units e.1).natAbs * 2 ^ 23 = e.2.1 * 2 ^ e.2.2.1) &&
          (let d := (1 + (e.2.2.1 + 1) % 2) * (129 + 2 * ((e.2.1 - 2 ^ 23) / 2 ^ 17))
           decide ((2 * (2 ^ 11 + e.2.2.2) - 1) ^ 2 * d < 2 ^ 33) && decide (2 ^ 33 < (2 * (2 ^ 11 + e.2.2.2) + 1) ^ 2 * d)))] = true := by decide +kernel

/-- ArithmeticRoundsOnce: finite codes from the smallest subnormal to the largest number; sums and products that are zero; halves of a
BF16 pair that are finite. -/
theorem witness_ArithmeticRoundsOnce :
    met ([0, 0x80000000, 1, 0x007FFFFF, 0x00800000, 0x3F800000, 0xBF800000, 0x7F7FFFFF, 0xFF7FFFFF].map fun w => decide (w < 2 ^ 32) && decide (w / 2 ^ 23 % 256 ≠ 255)) = true ∧
    met [decide (f32Units 0x3F800000 + f32Units 0xBF800000 = 0), decide (f32Units 0 + f32Units 0x80000000 = 0), decide (f32Units 0x3F800000 - f32Units 0x3F800000 = 0),
      decide (f32Units 0x80000000 * f32Units 0x3F800000 = 0), decide (f32Units 0 * 2 ^ 149 + f32Units 0 * f32Units 0x3F800000 = 0),
      decide (f32Units 0xBF800000 * 2 ^ 149 + f32Units 0x3F800000 * f32Units 0x3F800000 = 0),
      ([(0x3F807F7F, 0), (0x3F807F7F, 1)].all fun e => decide (e.1 / 2 ^ (16 * e.2) % 2 ^ 16 * 2 ^ 16 / 2 ^ 23 % 256 ≠ 255))] = true := by decide +kernel

theorem witness_FormatValuesConvertToThemselves :
    met ([fmtF32, fmtBf16, fmtE4m3, fmtE5m2].flatMap fun f => [decide (f.maxCode < 2 ^ f.width), decide (f.maxCode % 2 ^ (f.width - 1) ≤ f.maxCode),
      decide (2 ^ (f.width - 1) % 2 ^ (f.width - 1) ≤ f.maxCode)]) = true ∧
    met ([fmtU8, fmtI8, fmtU32, fmtI32, fmtI64, fmtFx128].map fun f => decide (2 ^ f.bits - 1 < 2 ^ f.bits)) = true := by decide +kernel

/-! ### Engines -/

/-- `user` with scalar registers and a geometry set 0 of doublewords (number, value). -/
def withG (l : List (Nat × Word)) (g : List (Nat × Word)) : State := onRegs (fun r => { r with s := l, g := g }) user

/-- A one-dimensional FP32 copy of 16 elements between spaces `ssp` and `dsp`, with or without a record. -/
def line (ssp dsp nocr : Nat) : List (Nat × Word) :=
  [(0, BitVec.ofNat 64 (3 * 2 ^ 56 + 3 * 2 ^ 51 + ssp * 2 ^ 49 + dsp * 2 ^ 47 + 1 * 2 ^ 16 + nocr)), (9, BitVec.ofNat 64 (15 * 2 ^ 40 + 4)), (10, 4)]

theorem witness_EngineRegistersAndArming :
    (let s := withS [(1, 0x5FFF40), (2, 0x5FFFC0), (3, 0x5FFF00), (4, 0x8000000000000000), (5, 0xFFFFFF80)]
     met [live s [1, 2], decide ((rdS s 1).toNat % 64 = 0), decide ((rdS s 1).toNat + 192 ≤ 0x600000), !detBars s 0x5FFF40 192 false,
       decide ((rdS s 2).toNat % 64 = 0), decide ((rdS s 2).toNat + 64 ≤ 0x600000), !detBars s 0x5FFFC0 64 false, decide ((rdS s 3).toNat % 256 = 0),
       decide ((rdS s 3).toNat + 256 ≤ 0x600000), !detBars s 0x5FFF00 256 false, (rdS s 4).toNat.testBit 63, decide ((rdS s 5).toNat % 128 = 0)]) = true ∧
    (let s := onRegs (fun r => { r with s := [(1, 0x5FFFF8), (2, 1)] }) queues
     met [live s [1, 2], decide ((rdS s 1).toNat % 8 = 0), decide ((rdS s 1).toNat + 8 * (rdS s 2).toNat ≤ 0x600000), ((s.seat 0).q 1).en, ((s.seat 0).q 3).en,
       decide (((s.seat 0).q 1).gqc.toNat / 2 ^ 10 % 64 = 0), bitN ((s.seat 0).q 3).gqc.toNat 9, decide (((s.seat 0).q 1).gs = none), decide ((rdS s 2).toNat ≠ 0),
       decide ((rdS s 3).toNat = 0), !(s.seat 0).barred (tilesOf 0x5FFFF8 8)]) = true ∧
    (let s := withG [(1, 0x5FE000), (2, 4097)] (line 1 1 1)
     met [live s [1, 2], decide ((rdS s 1).toNat % 4096 = 0), decide ((rdS s 2).toNat ≠ 0), decide ((rdS s 1).toNat / 4096 + ((rdS s 2).toNat + 4095) / 4096 ≤ 1536),
       decide ((s.seat 0).takes = []), decide ((s.seat 0).armings.length < 64), nocr (curSet s 0), recOk (curSet (withG [] (line 1 1 0)) 0)]) = true ∧
    (∀ i, ((withG [(1, 0x5FE000), (2, 4097)] (line 1 1 1)).seat 0).tile i = Tile.free) :=
  ⟨by decide +kernel, by decide +kernel, by decide +kernel, fun _ => rfl⟩

/-- The set's geometry is accepted, and nothing bars its tiles. -/
def copying (s : State) (dst : Bool) : Bool :=
  match geoOf (curSet s 0) with
  | some g => g.ok (rdS s 1).toNat (if dst then (rdS s 2).toNat else 0)
      && !(s.seat 0).barred ((copyTiles g ((rdS s 1).toNat % 2 ^ 23) ((rdS s 2).toNat % 2 ^ 23) dst).map fun t => t.1)
  | none => false

/-- A context's channel 5: V, FP32 on both sides, with operation and optimiser codes; and ring 9 over channels 5 and 6 of two members. -/
def chanWord (op : Nat) : Word := BitVec.ofNat 64 (1 + op * 2 ^ 16 + 3 * 2 ^ 22 + 3 * 2 ^ 27)
def ringWord : Word := BitVec.ofNat 64 (1 + 1 * 2 ^ 28 + 6 * 2 ^ 40 + 5 * 2 ^ 52)
def channels (op : Nat) (n : Word) : State :=
  ((onCtx (fun y => { y with chans := [(40, chanWord op), (48, chanWord op)], rings := [(72, ringWord)] }) (withS [(1, 0x1000), (2, n)])).setReg (clOff 0) 1).setReg (clOff 0 + 8) 1

/-- `user` as the only member of gang 3, whose context reaches the scratchpad windows of this package at address 0; deterministic or not. -/
def gangOf1 (det : Bool) : State :=
  let s := onCtx (fun y => { y with rng := [(0, 7), (1, 0xFFFFFFFFFFF000), (2, BitVec.ofNat 64 winBase)] }) (withG [(1, 0x5FFFC0), (2, 0x2000)] (line 1 0 1))
  { (onSt (fun y => { y with task := y.task.map fun k => { k with gang := some 3, gsize := 1, det := det } }) s) with gangs := [(3, ⟨[0], 0, 0, none⟩)] }

/-- The tile of the source belongs to an engine that writes it. -/
def gangBarred : State := onSeat (fun x => { x with tiles := [(1535, ⟨.engW, false, 0⟩)] }) (gangOf1 true)

theorem witness_EngineCommandsJoin :
    met [-- sets without a geometry, copies that fit and do not
      live (withG [] []) [1, 2], decide (geoOf (curSet (withG [] [(0, 1)]) 0) = none), nocr (curSet (withG [] [(0, 1)]) 0),
      copying (withG [(1, 0x5FFFC0), (2, 0x1000)] (line 1 1 1)) true, nocr (curSet (withG [] (line 1 1 1)) 0), !copying (withG [(1, 0x5FFFC4), (2, 0x600000)] (line 1 1 1)) true,
      (match geoOf (curSet (gangOf1 false) 0) with
        | some g => sendOk g (rdS (gangOf1 false) 2) && g.ok 0x5FFFC0 0x2000 && decide (gangTarget (gangOf1 false) g (rdS (gangOf1 false) 2) = some (0, [(2, 0x2000)]))
            && decide (gangTarget gangBarred g (rdS gangBarred 2) = some (0, [(2, 0x2000)]))
        | none => false),
      (let k := capturedCmd gangBarred .fsend (curSet gangBarred 0) (rdS gangBarred 1) (rdS gangBarred 2)
       (msgReads k).any fun r => detBars gangBarred r.1 r.2 false),
      (let k := capturedCmd (gangOf1 true) .fsend (curSet (gangOf1 true) 0) (rdS (gangOf1 true) 1) (rdS (gangOf1 true) 2)
       (msgReads k).all fun r => !detBars (gangOf1 true) r.1 r.2 false)] = true ∧
    -- RATOM, DIGEST, EFENCE
    (let s := withG [(1, 0xFFFFFFFFFFFFFC), (2, 0x10000000000)] [(0, 1), (2, 0x8000000000000000)]
     let bad := withG [(1, 2), (2, 0x10000000001)] [(0, 2), (2, 2)]
     met [nocr (curSet s 0), recOk (curSet (withG [] []) 0), !nocr (curSet bad 0), !recOk (curSet bad 0), decide ((rdS s 1).toNat % afmtSize .fp32 = 0),
       decide ((rdS bad 1).toNat % afmtSize .fp32 ≠ 0), !(originOf s).det, (originOf (gangOf1 true)).det, bitN (setDw (curSet s 0) 2) 63, !bitN (setDw (curSet bad 0) 2) 63,
       decide (setDw (curSet bad 0) 2 % afmtSize .fp32 ≠ 0), decide (setDw (curSet (withG [] [(0, 1)]) 0) 2 % 32 = 0), decide ((rdS s 2).toNat ≤ 2 ^ 40),
       decide (2 ^ 40 < (rdS bad 2).toNat)]) = true ∧
    -- KILNW, MCALL
    (let s := onCtx (fun y => { y with rng := [(8 * 63, 0x21), (8 * 63 + 5, 0x00020001)] }) (withS [(1, 0x100), (2, 0x101)])
     met [decide ((rdS s 1).toNat % 256 = 0), decide ((rdS s 2).toNat % 256 ≠ 0), decide ((kilnPairs (s.ctx 0))[0]? = some (63, 1))]) = true ∧
    (let one := fun (w : Word) (o : Owner) => onSeat (fun x => { x with tiles := [(1535, ⟨o, false, 0⟩)], mxe := { x.mxe with mp := [(0, w)] } }) user
     let fine := fun (s : State) => (List.range 8).all fun j =>
       let w := (Tab.get 0 (s.seat 0).mxe.mp j).toNat
       w / 2 ^ 62 = 0 || (w / 2 ^ 62 ≠ 3 && w % 2 ^ 48 < 0x600000 && w % 2 ^ 48 / 4096 + w / 2 ^ 51 % 2 ^ 11 < 1536)
     met [fine user, fine (one (BitVec.ofNat 64 (2 ^ 63 + 0x5FFFFF)) .core), fine (one (BitVec.ofNat 64 (2 ^ 62 + 0x5FFFFF)) .fab),
       !fine (one (BitVec.ofNat 64 (2 ^ 63 + 2 ^ 62)) .core), !fine (one (BitVec.ofNat 64 (2 ^ 63 + 0x600000)) .core), !fine (one (BitVec.ofNat 64 (2 ^ 63 + 2 ^ 51 + 0x5FFFFF)) .core),
       decide (((one 0 .fab).seat 0).tile 1535 = ⟨.fab, false, 0⟩), decide (((one 0 .core).seat 0).tile 1535 = ⟨.core, false, 0⟩)]) = true := by decide +kernel

theorem witness_EngineAndCollectiveCommandsJoin :
    met [copying (withG [(1, 0x5FFFC0), (2, 0x1000)] (line 1 1 1)) true, live (withG [] []) [1, 2],
      (let s := withG [(1, 0x5FFFC0), (2, 0xFFFFFFFFFFFFC0)] (line 1 0 1)
       copying s true && (match geoOf (curSet s 0) with
         | some g => sendOk g (rdS s 2) && decide (gangTarget s g (rdS s 2) = none) && fredOk .fp32 g (rdS s 2)
         | none => false)),
      (let s := withG [(1, 0x5FFFC0), (2, 63)] (line 1 0 1)
       copying s false && (match geoOf (curSet s 0) with | some g => mcastOk g (rdS s 2) | none => false))] = true ∧
    (let s := withG [(1, 0xFFFFFFFFFFFFFC), (2, 0x10000000000), (3, 0x100)] [(0, 1), (2, 0x8000000000000000)]
     met [nocr (curSet s 0), decide ((rdS s 3).toNat % 256 = 0), (List.range 8).all fun j => decide (mpTk (Tab.get 0 (s.seat 0).mxe.mp j) = 0)]) = true ∧
    (let s := channels 0 0xFFFFFFFFFF
     let y := s.ctx 0
     met [live s [1, 2], s.flag (clOff 0) 0, s.flag (clOff 0 + 8) 0, chanOk (y.chan 5), decide (cOp (y.chan 5) = 0), decide (cOpt (y.chan 5) = 0),
       decide ((rdS s 2).toNat ≠ 0), decide ((rdS s 2).toNat < 2 ^ 40), decide ((rdS s 1).toNat % 4 = 0), !cPri (y.chan 5), !chanOk (y.chan 4),
       !(user.flag (clOff 0) 0), !(user.flag (clOff 0 + 8) 0), !ringDescOk (y.ringDesc 8),
       ringDescOk (y.ringDesc 9), ringChansOk (y.chan (rSch (y.ringDesc 9))) (y.chan (rRch (y.ringDesc 9))), decide (rSlot (y.ringDesc 9) = 0),
       decide (rM (y.ringDesc 9) ≤ (rdS (channels 0 2) 2).toNat), decide (cWfmt (y.chan 5) = cMfmt (y.chan 5)),
       decide (rRank (y.ringDesc 9) ^^^ 2 ^ rPb (y.ringDesc 9) < rM (y.ringDesc 9)), decide ((rdS (channels 0 2) 2).toNat % 2 ^ (rPj (y.ringDesc 9) + 1) = 0),
       (let y := (channels 1 2).ctx 0
        ringChansOk (y.chan 5) (y.chan 6) && decide (cOp (y.chan 5) ≠ 0))]) = true := by decide +kernel

/-- A routine of profile `p` runs on core 0 with its parameters. -/
def running (p : Nat) : State :=
  onSeat (fun x => { x with mxe := { x.mxe with queue := [⟨1, 0x900, p, .rne, false, [1, 0, 0x1000, 2, 0, 0, 0, 0], [], [], originOf user, [], 0, true, false, 0, []⟩], upc := 0x905 } }) user

theorem witness_MicroOperations :
    ([0, 7].all fun p =>
      let s := running p
      match (s.seat 0).mxe.running with
      | some r =>
        met [!(s.seat 0).mxe.ecc, decide (r.mp.length = 8), decide (r.prof < 8), decide (-32768 ≤ Tab.get 0 (s.seat 0).mxe.accE 7 + (0x8000#16).toInt),
          decide (Tab.get 0 (s.seat 0).mxe.accE 7 + (0x7FFF#16).toInt ≤ 32767),
          (match doZero 7 r (s.seat 0) with | .ok _ => true | .error _ => false), (match doScale 7 1 r (s.seat 0) with | .ok _ => decide (p ≠ 7) | .error _ => decide (p = 7)),
          (match doAmax 7 2 r (s.seat 0) with | .ok _ => false | .error e => decide (e = tcOWNVIOL)), (match doAmax 7 0 r (s.seat 0) with | .ok _ => false | .error e => decide (e = tcALIGN))]
      | none => false) = true ∧
    met [decide ((1#2).getLsbD 1 = false), (2#2).getLsbD 1] = true := by decide +kernel

/-- An INT8 routine that holds the first 33 tiles, with one row in its plane: parameter 0 at 0, parameter 1 at 0x20000; its transforms name
INT8 for both operands and INT32 for the accumulators. -/
def integers (resv : List Resv) : State :=
  onSeat (fun x => { x with resv := resv, mxe := { x.mxe with active := { x.mxe.active with prof := 7, kl := 1, re := [(3, .num 5 0)] }, queue :=
    [⟨1, 0x900, 7, .rne, false, [0, 0x20000, 0, 0, 0, 0, 0, 0], [1, 1, 0, 8], [], originOf user, (List.range 33).map fun i => (i, true), 0, true, false, 0, []⟩] } }) user

/-- MicroOperations: LDS, STRM, STRMC, LDACC, DRAIN and AMAX. -/
theorem witness_MicroDataOperations :
    (let s := integers []
     let x := s.seat 0
     match x.mxe.running with
     | some r =>
       met [decide (r.prof = 7), decide ((0 + 1) * (almanac 7).depth % 128 = 0), decide (x.mxe.active.prof = r.prof), decide (x.mxe.active.kl ≤ 128), decide (x.resv = []),
         (match layOf (nth (0 : Word) r.xf 0).toNat (almanac 7).stat true 256 1 true true, layOf (nth (0 : Word) r.xf 1).toNat (almanac 7).stream true 1 1 false true with
           | some l, some m => [l, m].all fun l => l.whole && !l.misaligned 0 && (l.runs 0).all fun q => r.holds false q && !x.isBad q.1.toNat q.2
           | _, _ => false),
         decide (EFmt.ofCode ((nth (0 : Word) r.xf 3).toNat % 32) = some .i32), r.holds false (0, 131072), r.holds true (0, 131072), !x.isBad 0 131072,
         decide (EFmt.ofCode 8 = some .i32), !bitN (nth (0 : Word) r.xf 2).toNat 10, !bitN (nth (0 : Word) r.xf 2).toNat 11, r.holds true (0x20000, 4), decide (Tab.get 0 x.mxe.accE 0 = 0),
         ((List.range 256).all fun j => decide (nth PVal.zero (Tab.run PVal.zero x.mxe.active.re 0 256) j = .num (if j = 3 then 5 else 0) 0))]
     | none => false) = true ∧
    -- wide units begin at even tiles, or at multiples of four; the accumulators of a pair that are all zero
    met [decide ((6#3).toNat % 2 = 0), decide ((4#3).toNat % 4 = 0), decide (Tab.run (0 : BitVec 48) ((running 8).seat 0).mxe.acc (32768 * 6) 4 = [0, 0, 0, 0]),
      decide ((0x800000000000#48).toInt = -2 ^ 47)] = true := by decide +kernel

/-- The primary stream of core 0 waits. -/
def waiting_ (ok tested : Bool) (ph : Ph) (count : Nat) : State :=
  (onSt (fun y => { y with wait := some ⟨true, 8, .eq, 1, 0x8000, 0, 0x8008, tested, count, ok⟩, ph := ph }) user).setReg (ccbOff 0 + 0x40) 5

theorem witness_WaitsEndOrSleep :
    ([(true, false, 1), (true, true, 1), (false, false, 1), (false, true, 5), (false, true, 6)].all fun e =>
      let s := waiting_ e.1 e.2.1 (if e.2.1 then .sleep else .test) e.2.2
      met [decide ((s.st 0 false).wait.map (fun w => (w.ok, w.tested, w.count)) = some e), decide ((s.core 0).frozen = none), (gangTask (s.st 0 false)).isNone,
        decide ((s.seat 0).resv = []), decide (s.fld (ccbOff (s.ctxOf 0) + 0x40) 0 48 = 5)]) = true := by decide +kernel

/-- A user task with pending conditions, and a handler whose return is under way. -/
def pending (f : Pending → Pending) : State := onSt (fun y => { y with pend := f y.pend }) user
def returning (e : Bool) (k : BitVec 8) : State :=
  onSt (fun y => { y with ret := some (e, k), held := some ⟨[], [], 0, none, .none, 0x8000, false, false⟩ }) handler
def ending : State := onSt (fun y => { y with ending := true }) user

theorem witness_BoundaryTrapsReturnsAndTaskEnd :
    met [trapDue (pending fun p => { p with ecc := [⟨14, 0x8004, 3, 0, none⟩] }) 0 false, trapDue (pending fun p => { p with faults := [⟨0, 0x8000, 7, cGENMISS, 0, 0, 0, 0⟩] }) 0 false,
      decide (((pending fun p => { p with quant := true }).st 0 false).pend = { Pending.none with quant := true }), trapDue (pending fun p => { p with quant := true }) 0 false,
      !(user.st 0 false).stepDue, !(user.ctx (user.ctxOf 0)).dbga, tretReady ((returning true 0x80).st 0 false), tretReady ((returning false 0).st 0 false),
      decide (((returning false 0).st 0 false).dev = none), decide (((returning true 0x80).st 0 false).dev = none), decide (((returning true 0x80).st 0 false).landing = []),
      decide (((pending fun p => { p with faults := [⟨0, 0x8000, 7, cGENMISS, 0, 0, 0, 0⟩] }).st 0 false).pend.ecc = []),
      decide (((returning false 0).st 0 false).landing = []), decide (((returning false 0).st 0 false).trap.done ||| 0 = 0), ((returning false 0).st 0 false).held.isSome,
      decide (((returning false 0).st 0 false).pend = Pending.none), (ending.st 0 false).task.isSome, (ending.st 0 false).ending, !(ending.st 0 false).sys.sup,
      decide ((ending.st 0 false).idle = 0), decide ((ending.st 0 false).landing = []), decide ((ending.st 0 false).acc = []), decide ((ending.core 0).frozen = none),
      (ending.st 0 false).task.all fun k => decide (k.gang = none),
      (let s := { ending with gangs := [(3, ⟨[0], 0, 0, some 0⟩)] }
       (Tab.get ⟨[], 0, 0, none⟩ s.gangs 3).ends.any fun e => decide (e ≤ (s.st 0 false).sys.ticks))] = true := by
  decide +kernel

/-- Core 0 with a tile in a state and a take of it. -/
def taking (o : Owner) (dst : Bool) : State := onSeat (fun x => { x with tiles := [(1535, ⟨o, false, 0⟩)], takes := [⟨4, 1535, dst, 0⟩] }) user

/-- Both streams of core 0 have a bundle ready whose slot 1 is present. -/
def clash : State :=
  { (onSeat (fun x => { x with prim := { x.prim with ph := .issue }, sec := { x.prim with ph := .issue } }) placed) with cycle := 5 }

/-- A core about to be overdrawn, and one frozen without a cause that lasts. -/
def overdrawn : State := onCore (fun k => { k with charges := List.replicate 63 100 }) clash
def frozen_ : State := onCore (fun k => { k with frozen := some ⟨3, []⟩ }) user

/-- The only member of gang 3 stands at a BR whose target is itself. -/
def gangOfOne : State :=
  let s := (State.reset.withFetchWord 32 0).putCore 0 (let k := (State.reset.withFetchWord 32 0).core 0; { k with seat := { k.seat with ispad := Mem.setNum [] 0x8000 8 (1 + 0x04000000 * 2 ^ 32) } })
  { (onSt (fun y => { y with ph := .issue, task := y.task.map fun k => { k with gang := some 3, gsize := 1 } }) s) with gangs := [(3, ⟨[0], 0, 0, none⟩)], cycle := 9 }

def message : GMsg := ⟨8, 0, 0, [], 0, [(0x5FFFFF, 9)], true⟩
def messaged : State := onSeat (fun x => { x with msgs := [message], prim := { x.prim with ph := .issue, sys := { x.prim.sys with ticks := 1 } } }) user

theorem witness_CoreUnitSteps :
    ([(Owner.core, true), (.core, false), (.fab, true), (.mbx, false), (.engW, true)].all fun o =>
      decide ((((taking o.1 o.2).seat 0).tile 1535).st = o.1) && !((taking o.1 o.2).seat 0).oldAccess 1535 0) = true ∧
    met [(let s := onSeat (fun x => { x with mxe := { x.mxe with queue := [⟨1, 0x900, 0, .rne, false, [], [], [], originOf user, [], 0, false, false, 0, []⟩] } }) user
          match (s.seat 0).mxe.queue.find? (fun q => !q.mended) with | some r => !r.begun && (s.seat 0).granted r.id | none => false),
      (let s := onSeat (fun x => { x with mxe := { x.mxe with queue := [⟨1, 0x900, 0, .rne, false, [], [], [], originOf user, [], 0, true, true, 16, []⟩] } }) user
       match (s.seat 0).mxe.queue.find? (fun q => q.mended) with | some r => issuerHolds s 0 0 r.org | none => false),
      decide ((clash.core 0).frozen = none), collides clash 0, (match freezeOf overdrawn 0 with | some f => decide (f.cause = 7) | none => false),
      (frozen_.core 0).frozen.isSome, decide (freezeOf frozen_ 0 = none),
      (match gangMembers gangOfOne 3 with
        | [n] => decide ((gangOfOne.core n.1).frozen = none) && decide (n.2.ph = .issue) && atJoin gangOfOne n.1
        | _ => false),
      messaged.ticking 0 false, decide (dueMsgs messaged 0 = [message]), decide ((message.data.map fun d => d.1).Nodup), decide ((messaged.seat 0).resv = []),
      message.data.all fun d => decide (((messaged.seat 0).tile (tileOf d.1)).st = .core)] = true := by decide +kernel

/-! ### Host, package and contexts -/

theorem witness_HostAccesses :
    met ([0x200000, 0x210000, 0x217FF8, 0x500000, 0x500018].map fun o => decide (o % 8 = 0 ∧ (o = 0x200000 ∨ (0x210000 ≤ o ∧ o < 0x218000) ∨ (0x500000 ≤ o ∧ o < 0x500020)))) = true ∧
    met [(user.core 0).owner.isSome, decide ((user.seat 0).bad = []), decide ((user.core 0).svrBad = []), decide ((user.seat 0).resv = []), decide (0x7FFFF8 % 8 = 0 ∧ 0x7FFFF8 < 0x800000),
      { (user.core 0).seat with bad := [0x5FFFF8] }.isBad 0x5FFFFF 1, !{ (user.core 0).seat with bad := [0x5FFFF8] }.isBad 0x5FFFF7 1, decide (4 ≤ user.stage), !user.poisoned 0x6BFFFFFFC0 64,
      ({ user with poison := [7247757311] } : State).poisoned 0x6BFFFFFFFF 1, decide (State.reset.stage < 4), decide (0x6BFFFFFFFF + 1 ≤ 0x6C00000000)] = true := by decide +kernel

/-- Die 3 hot or not, at a temperature, with steps of throttling; its next step in cycle 5,000, now or one cycle on. -/
def hot (h : Bool) (t : Nat) (xs : List Nat) (now : Nat) : State := { user with dies := [(3, ⟨0, t, xs, h, 5000⟩)], cycle := now }

theorem witness_PowerTemperatureAndScrub :
    met [decide ((user.die 3).steps = []), !(user.die 3).hot, ((hot true 600 [] 0).die 3).hot,
      ([(false, 600, [60927, 1]), (false, 900, [60927]), (true, 775, [60927, 1]), (true, 776, [60927])].all fun e =>
        let s := hot e.1 e.2.1 e.2.2 5000
        decide ((s.die 3).due ≤ s.cycle) && decide ((s.die 3).steps = e.2.2) && decide (s.dtok 3 + 60927 < 65536)
          && (if e.1 && decide (776 ≤ e.2.1) then decide (e.2.2.length = 1) else !(s.die 3).hot || decide ((s.die 3).tj < 776))),
      decide ((hot true 600 [1] 4999).cycle < ((hot true 600 [1] 4999).die 3).due), ((List.range 4).all fun i => decide ((user.die i).tj ≤ 800) && decide ((user.die i).tj < 65536)),
      decide (user.agenda = []), decide (user.inputs = []), decide (144 ≤ user.dtok 3), decide (0x6BFFFFFFFF / 64 ∉ user.poison)] = true := by
  decide +kernel

/-- StartUpAndFirmware: states in RECOVERY, in READY and in neither; what an image's header holds is a free value, and one of the two cases of
its check holds. -/
theorem witness_StartUpAndFirmware :
    met [decide ((State.reset.setStage 2).stage = 2), decide (user.stage = 4), decide (State.reset.stage ≠ 2), decide (State.reset.stage ≠ 4),
      (List.range 16).all fun x => decide ((State.reset.setStage 4).ctxState x = 0)] = true ∧
    (∀ c, ((State.reset.setStage 4).seat c).resv = []) ∧
    (∀ s : State, firmwareCheck s.flash = 0 ∨ firmwareCheck s.flash ≠ 0) ∧
    (∀ s : State, firmwareCheck (stagedImage s) = 0 ∨ firmwareCheck (stagedImage s) ≠ 0) :=
  ⟨by decide +kernel, fun _ => rfl, fun _ => Decidable.em _, fun _ => Decidable.em _⟩

/-- Context 15 with a core set, a state, a command's operands and an image area; core 191 belongs to it. -/
def ctx15 (st : Nat) (cmd : Word) : State :=
  ((((State.reset.setStage 4).setCtxState 15 st).setReg (ccbOff 15 + 0x20) (BitVec.ofNat 64 (2 ^ 63))).setReg (ccbOff 15 + 0x48) cmd).putCore 191 { Core.reset with owner := some 15 }

def tasked : State := (ctx15 1 (BitVec.ofNat 64 (191 * 2 ^ 32 + 2 ^ 8))).putSt 191 true { Stream.reset with task := (user.st 0 false).task }

theorem witness_ContextCommands :
    met [(user.setCtxBusy 3 true).ctxBusy 3, !(ctx15 0 0).ctxBusy 15, ctxLives (ctx15 1 0) 15, decide (State.reset.coreSet 15 = 0),
      (let s := (((ctx15 0 0).setReg (ccbOff 0 + 0x20) (BitVec.ofNat 64 (2 ^ 63 + 2 ^ 62))).setCtxState 0 1)
       ctxLives s 0 && decide (s.coreSet 0 ≠ s.coreSet 15) && decide (s.coreSet 0 &&& s.coreSet 15 ≠ 0)),
      !createRefused (ctx15 0 0) 15, decide ((ctx15 2 0).ctxState 15 ≠ 0), decide ((ctx15 2 0).colls = []), decide (((ctx15 3 0).seatOf 15 191).mxe.left = 0), decide ((ctx15 3 0).colls = [])] = true ∧
    (∀ c, ((ctx15 2 0).win 15 c).held = []) ∧
    met [decide (192 ≤ (ctx15 2 (BitVec.ofNat 64 (192 * 2 ^ 32))).fld (ccbOff 15 + 0x48) 32 32), !bitN ((ctx15 2 0).coreSet 15) ((ctx15 2 0).fld (ccbOff 15 + 0x48) 32 32),
      decide (2 ≤ (ctx15 2 0x200).fld (ccbOff 15 + 0x48) 8 2), decide (tasked.ctxState 15 = 1), bitN (tasked.coreSet 15) (tasked.fld (ccbOff 15 + 0x48) 32 32),
      decide (tasked.fld (ccbOff 15 + 0x48) 8 2 = 1), ((tasked.seatOf 15 191).st true).task.isSome, ((tasked.seatOf 15 191).st false).task.isNone,
      (ctx15 2 0).ownHbm (((ctx15 2 0).reg (ccbOff 15 + 0x50)).toNat % 2 ^ 56 / 8 * 8) 16384, !(ctx15 2 0).ownHbm (2 ^ 44) 16384, decide ((ctx15 2 0).setCores 15 = [191]),
      !(ctx15 2 0).poisoned 0 16384, ({ ctx15 2 0 with poison := [255] } : State).poisoned 0 16384, !(ctx15 2 0).ctxBusy 15,
      ((ctx15 0 0).setCtxBusy 15 true).ctxBusy 15 && !ctxLives ((ctx15 0 0).setCtxBusy 15 true) 15, decide (((ctx15 3 0).ctx 15).drain = []), decide ((ctx15 3 0).ctxState 15 = 3),
      decide (((ctx15 3 0).core 191).owner = some 15), !((ctx15 1 0).ctx 15).dbga, (((ctx15 1 0).putCtx 15 { Ctx.reset with dbga := true }).ctx 15).dbga] = true :=
  ⟨by decide +kernel, fun _ => rfl, by decide +kernel⟩

/-- A quantum of 1,024 cycles, run out or not; another context of the same set waits or does not; a context leaves. -/
def quantum (gtb : Word) : State := { (ctx15 1 0).setReg (ccbOff 15) 1 with gtb := gtb }
def two : State := (((quantum 1024).setCtxState 14 2).setReg (ccbOff 14 + 0x20) (BitVec.ofNat 64 (2 ^ 63))).putCtx 14 { Ctx.reset with leaving := false }
def leaving_ (w : WinSt) : State := (ctx15 1 0).putCtx 15 { Ctx.reset with leaving := true, wins := [(191, ⟨w, []⟩)] }
/-- Context 15 is out with a task on its core, and its set is free. -/
def outside : State :=
  (((ctx15 2 0).putCore 191 Core.reset).putCtx 15 { Ctx.reset with wins := [(191, ⟨.image, []⟩)], saved := [(191, { Seat.zero with prim := { Stream.reset with task := (user.st 0 false).task } })] })
def sampling (n : Nat) : State :=
  { ((tasked.putCore 191 { tasked.core 191 with seat := { (tasked.seat 191) with prim := (tasked.seat 191).sec, sec := Stream.reset } }).setReg (dbgOff 15) (BitVec.ofNat 64 (2 ^ 32 * n + 2))).putCtx 15
      { Ctx.reset with dbga := true } with gtb := 2048 }

theorem witness_ContextSwitching :
    met [decide ((quantum 1024).ctxState 15 = 1), decide ((quantum 1024).fld (ccbOff 15) 0 32 * 1024 = 1024), decide (((quantum 1024).gtb - ((quantum 1024).ctx 15).qstart).toNat = 1024),
      !othersWait (quantum 1024) 15, decide (((quantum 1023).gtb - ((quantum 1023).ctx 15).qstart).toNat < 1024), wantsSet tasked 15, !wantsSet (ctx15 1 0) 15,
      ((leaving_ .live).ctx 15).leaving, ((leaving_ .live).setCores 15).all (coreStopped (leaving_ .live) 15), decide (((leaving_ .live).win 15 191).st = .live), decide (((leaving_ .live).seat 191).resv = []),
      ((leaving_ .held).setCores 15).all (coreStopped (leaving_ .held) 15), decide ((leaving_ .held).win 15 191 = ⟨.held, []⟩), decide ((leaving_ .held).setCores 15 = [191]),
      decide (((leaving_ .held).core 191).owner = some 15), decide (((leaving_ .held).seat 191).resv = []), decide (((leaving_ .held).st 191 false).dev = none), decide (((leaving_ .held).st 191 true).dev = none),
      ([false, true].all fun t => let y := (leaving_ .held).st 191 t; y.held.isNone && y.acc.isEmpty && y.landing.isEmpty), !((quantum 1024).ctx 15).leaving, !nextHolder (ctx15 1 0) 15,
      nextHolder outside 15, decide (outside.setCores 15 = [191]), decide (outside.win 15 191 = ⟨.image, []⟩), decide ((outside.ctx 15).taint = []),
      decide ((sampling 0).fld (dbgOff 15) 32 16 = 0), decide ((sampling 3).gtb.toNat % ((sampling 3).fld (dbgOff 15) 32 16 * 1024) ≠ 0),
      decide ((sampling 2).gtb.toNat % ((sampling 2).fld (dbgOff 15) 32 16 * 1024) = 0), (sampling 2).flag (dbgOff 15) 1,
      decide ((sampling 2).fld (dbgOff 15 + 0x10) 0 64 = (sampling 2).fld (dbgOff 15 + 0x18) 0 64), ((sampling 2).st 191 false).task.isSome, ((sampling 2).st 191 true).task.isNone,
      decide ((sampling 2).setCores 15 = [191]), decide (((sampling 2).core 191).owner = some 15)] = true ∧
    othersWait (((quantum 1024).setCtxState 14 2 |>.setReg (ccbOff 14 + 0x20) (BitVec.ofNat 64 (2 ^ 63))).putCtx 14 (outside.ctx 15) |> fun s =>
      s.putCtx 14 { s.ctx 14 with saved := [(191, { Seat.zero with prim := { Stream.reset with task := (user.st 0 false).task } })] }) 15 = true := by decide +kernel

/-- Tiles 1534 and 1535 of core 0 in a state. -/
def pair (o : Owner) (sk : Bool) (a : List Arming) : State := onSeat (fun x => { x with tiles := [(1534, ⟨o, sk, 0⟩), (1535, ⟨o, sk, 0⟩)], armings := a }) user
/-- The TCTL word of an operation on them. -/
def tctl (op : Nat) : Word := BitVec.ofNat 64 (op + 1534 * 2 ^ 16 + 2 * 2 ^ 32)
def arming : Arming := ⟨1534, 4097, 2, 0, ⟨true, 0, 0, 0⟩, originOf user⟩

theorem witness_TileControl :
    met [decide (0 < (tctl 1).toNat / 2 ^ 32 % 2 ^ 11), decide ((tctl 1).toNat / 2 ^ 16 % 2 ^ 11 + (tctl 1).toNat / 2 ^ 32 % 2 ^ 11 ≤ 1536), decide ((tctl 5).toNat % 16 = 5),
      decide (((pair .core false []).seat 0).takes = []), decide (((pair .fab false [arming]).seat 0).armings = [arming]),
      ([(Owner.core, false), (.core, true), (.mbx, false), (.fab, false)].all fun e =>
        decide (((pair e.1 e.2 []).seat 0).tile 1534 = ⟨e.1, e.2, 0⟩) && decide (((pair e.1 e.2 []).seat 0).tile 1535 = ⟨e.1, e.2, 0⟩)),
      live user [1], decide ((rdS (withS [(1, tctl 6)]) 1).toNat % 16 = 6), decide ((rdS (withS [(1, 0x600000001)]) 1).toNat / 2 ^ 32 % 2 ^ 11 = 6),
      decide (1536 < (0x300050000#64 + 1530 * 2 ^ 16).toNat / 2 ^ 16 % 2 ^ 11 + 3), (match doTctl 0 false (tctl 3) (pair .core false []) with | .ok _ => true | .error _ => false),
      (match doTctl 0 false (tctl 4) (pair .core false []) with | .ok _ => false | .error _ => true)] = true := by decide +kernel

/-! ### Tables, launches, fabric and collectives -/

/-- Context 15 with a GO under way in its XINV, group or collective control register. -/
def busy (o : Nat) (w : Nat) : State := (ctx15 2 0).setReg o (BitVec.ofNat 64 w)

theorem witness_TranslationsAndTablesReload :
    (let oX := trOff 15 + 0x18
     let oM := trOff 15 + 0x30
     let oC := clOff 15 + 0x10
     met [(busy oX 2).flag oX 1, !(ctx15 2 0).flag oX 1, !(ctx15 2 0).flag oM 1, decide ((busy oC (4095 * 2 ^ 32)).fld oC 32 12 + (busy oC 0).fld oC 20 12 < 4096),
       decide (4096 ≤ (busy oC (4095 * 2 ^ 32 + 2 ^ 20)).fld oC 32 12 + (busy oC (4095 * 2 ^ 32 + 2 ^ 20)).fld oC 20 12),
       decide (1024 ≤ (busy oC (1023 * 2 ^ 32 + 2 ^ 20)).fld oC 32 12 + (busy oC (1023 * 2 ^ 32 + 2 ^ 20)).fld oC 20 12),
       decide ((busy oX 2).fld oX 2 2 = 0), decide ((busy oX 6).fld oX 2 2 = 1), decide ((busy oX 10).fld oX 2 2 = 2), decide ((busy oX 6).fld oX 16 16 = 0),
       (busy oX 2).ownHbm (pageOf ((busy oX 2).reg (trOff 15 + 8)).toNat * 4096) 4096, (busy oM 2).flag oM 1, decide ((busy oM 2).fld oM 12 10 = 0), (busy oM 10).flag oM 3,
       decide ((busy oM (63 * 2 ^ 22 + 10)).fld oM 22 10 < 64), (busy oM 2).ownHbm (((busy oM 2).reg (trOff 15 + 0x20)).toNat % 2 ^ 56 / 0x10000 * 0x10000) 0x10000,
       groupOk [BitVec.ofNat 64 (1 + 5 * 2 ^ 40), 0, 0, 0, 0, 0, 0, 0], !groupOk (List.replicate 8 0), !groupOk [1, 0, 0, 0, 0, 0, 0, 0], !Tab.has ((busy oM 2).ctx 15).rounds 0, (busy oC 2).flag oC 1, decide ((busy oC 2).fld oC 20 12 = 0),
       (busy oC 10).flag oC 3, Tab.has ({ (ctx15 2 0).ctx 15 with rounds := [(0, ⟨0, []⟩)] } : Ctx).rounds 0, (busy oC 2).ownHbm (((busy oC 2).reg (clOff 15)).toNat % 2 ^ 56 / 0x40000 * 0x40000) 0x40000,
       [64, 1024, 4096].all fun n => !(busy oC 2).poisoned 0 n && ({ busy oC 2 with poison := [0] } : State).poisoned 0 n]) = true := by decide +kernel

/-- A header of one task for context 15 without a record, its descriptor and its entry. -/
def header : List Word := [0, BitVec.ofNat 64 (15 * 2 ^ 16), 0, 0, 0, 0, 0, 0, 0, 0, 0, 0, 0, 0, 0, 8]
def descriptor : List Byte := List.replicate 8 0 ++ [1] ++ List.replicate 55 0
def launch (u r : Nat) (cl : Bool) : Launch := ⟨4, 15, header, 0x8000, 4, 4, u, r, 0, 0, false, [], 0, 0, 0, false, cl⟩
def answer (a : Agent) (va n : Nat) (bs : List Byte) : Req :=
  { tag := 0, agent := a, kind := .readreq, va := va, n := n, sup := false, cyc := 0, dpkg := 0, core := 0, addr := 0, data := [], dig := false, port := none, res := some ⟨0, 0, bs⟩ }

/-- Queue 63 is enabled for context 15, which holds its set, with one header at HEAD. -/
def queue63 (l : List Launch) : State :=
  { (ctx15 1 0).setReg (lqOff 63) (BitVec.ofNat 64 (1 + 15 * 2 ^ 8)) with
      tails := [(63, 1)], hbm := Mem.setBytes [] 0 (header.flatMap fun w => leBytes 8 w.toNat), launches := l,
      reqs := [answer (.hdr 252 1) 0 64 descriptor, answer (.hdr 252 2) 64 4 [0, 0x80, 0, 0], answer (.hdr 4862 1) 64 4 [1, 2, 3, 4], answer (.hdr 4862 2) 68 4 [5, 6, 7, 8]] }

theorem witness_LaunchesRun :
    (let s := queue63 []
     met [s.flag (lqOff 63) 0, !State.reset.flag (lqOff 63) 0, s.ownHbm (s.reg (lqOff 63 + 8)).toNat 8, decide (63 ∉ s.stopped), lqServed s 63, !lqServed s 62, decide (s.launches.length < 4096),
       !s.poisoned 0 128, ({ s with poison := [1] } : State).poisoned 0 128, headerOk s 15 header, !headerOk s 14 header, hNorec header,
       decide (hImage header = 0), decide (hTask header = 0), decide ((reqsOf s (.hdr 252 1)).map (fun r => r.res.map Resp.status) = [some 0]),
       decide (gotBytes (reqsOf s (.hdr 252 1)) 0 64 = descriptor), decide (descOk descriptor 0 = some (0, 0)), decide (gotBytes (reqsOf s (.hdr 252 2)) 64 4 = [0, 0x80, 0, 0]),
       entryOk (leNat [0, 0x80, 0, 0]), entryOk 0x8000, entryOk 0x47FFC, takesLaunches s 15, !takesLaunches s 14,
       (match xlate ({ s with ctxs := Tab.put s.ctxs 15 { Ctx.reset with rng := [(0, 7), (1, 0xFFFFFFFFFFF000)] } }) 15 (originOf user) 0 .read with | .ok _ => true | .error _ => false)]) = true ∧
    (let s := queue63 [launch 0 0 false]
     let t := s.putSeat 191 { Seat.reset with image := some 0 }
     met [holdsSet t 15, (match chosen t 15 with | some k => decide (k.id = 4) && decide (hGsm1 k.hdr = 0) && decide (placement t k = some [(191, false)]) | none => false),
       recPending s (.launch 4) = false, ready s (launch 1 0 false), decide (groupCount header (hColvl header) ≤ 1), !launchBusy s (launch 1 0 false),
       decide (loadFor s 15 191 = some (launch 0 0 false)), holdsSet s 15, freeStream s 191 false, freeStream s 191 true, decide ((launch 0 0 false).clen ≤ 0x8000),
       decide (gotBytes (reqsOf s (.hdr (4 * (256 * 4 + 191) + 2) 1)) 64 4 = [1, 2, 3, 4]), decide (gotBytes (reqsOf s (.hdr (4 * (256 * 4 + 191) + 2) 2)) 68 4 = [5, 6, 7, 8])]) = true ∧
    -- a gang of two primaries of one die
    (let h := setAt (setAt header 1 (BitVec.ofNat 64 (15 * 2 ^ 16 + 6 * 2 ^ 27 + 2 ^ 20))) 3 1
     let s := (queue63 [{ launch 0 0 false with hdr := h }]).setReg (ccbOff 15 + 0x20) (BitVec.ofNat 64 (2 ^ 63 + 2 ^ 62))
     let k : Core := { Core.reset with owner := some 15, seat := { Seat.reset with image := some 0 } }
     let t := (s.putCore 190 k).putCore 191 k
     met [holdsSet t 15, (match chosen t 15 with
       | some k => decide (k.id = 4) && decide (hGsm1 k.hdr = 1) && decide (placement t k = some [(190, false), (191, false)]) | none => false),
       decide ([(190, false), (191, false)].Nodup)]) = true ∧
    -- a header that waits, and one that has been read before
    (let bytes := header.flatMap fun w => leBytes 8 w.toNat
     let s := { queue63 [] with spawns := [⟨5, 15, 191, originOf user, 0, 0, 0⟩], heads := [(63, header)],
                                reqs := [answer (.hdr 21 0) 0 128 bytes, answer (.hdr 21 1) 0 64 descriptor, answer (.hdr 21 2) 64 4 [0, 0x80, 0, 0]] }
     let h := setAt (setAt (wordsOf bytes 16) 6 0) 7 (BitVec.ofNat 64 (hdw (wordsOf bytes 16) 7 / 2 ^ 32 * 2 ^ 32))
     met [decide (Tab.find s.heads 63 = some header), decide (Tab.find (queue63 []).heads 63 = none), takesLaunches s 15, !takesLaunches (ctx15 4 0) 15,
       decide (gotBytes (reqsOf s (.hdr 21 0)) 0 128 = bytes), headerOk s 15 h, decide (gotBytes (reqsOf s (.hdr 21 1)) 0 64 = descriptor),
       decide (gotBytes (reqsOf s (.hdr 21 2)) 64 4 = [0, 0x80, 0, 0]), decide (hImage h = 0)]) = true := by decide +kernel

def packet (k : PKind) (addr : Nat) (pay : List Byte) : Packet :=
  { kind := k, vc := 0, det := false, hops := 0, dctx := 15, status := 0, len := 64, srcPkg := 7, srcCore := 3, op := 0, fmt := 0, frac := 0, tag := 9, addr := addr, group := 0, payload := pay }

/-- Group 0 of context 15: two members, FP32 sums of one element at address 0; package 7's core 3 is rank 0. -/
def grouped : State :=
  { ((ctx15 2 0).setReg (trOff 15 + 0x20) 1) with
    ctxs := [(15, { Ctx.reset with groups := [(0, BitVec.ofNat 64 (1 + 1 * 2 ^ 28)), (3, 64)], rounds := [(0, ⟨0, []⟩)] })], hbm := Mem.setNum [] 64 4 (7 + 3 * 2 ^ 12), cycle := 5000 }

/-- A port that is up, a route through it, and a route that stays here. -/
def routed : State := { ((((ctx15 2 0).setReg oFCFG 0x1000).setReg (routeOff 1) (2 ^ 30)).setReg (routeOff 2) 0x80000005) with ports := [(5, { Port.reset with up := true })] }

theorem witness_FabricRequests :
    met [decide ((packet .write 0 [1]).srcPkg ≠ (ctx15 2 0).pkg), decide ((ctx15 2 0).recs = []), decide (ctxCheck (ctx15 2 0) 15 = stOK), decide (rowRun 0x6BFFFFFFFF 1 = some .hbm),
      decide (rowRun 0x6BFFFFFFC0 64 = some .hbm), !(ctx15 2 0).poisoned 0 64, ({ ctx15 2 0 with poison := [0] } : State).poisoned 0 64, decide (aopOf 0 = some .add),
      decide (afmtOf 0 = some .fp32), decide (rowRun 0x6C00000000 1 = none), decide ((ctx15 4 0).ctxState 15 = 4), decide ((ctx15 0 0).ctxState 15 = 0),
      !(ctx15 2 0).flag (trOff 15 + 0x20) 0, grouped.flag (trOff 15 + 0x20) 0, decide ((packet .reduce (2 ^ 44) []).addr / 2 ^ 44 ≠ grouped.pkg),
      (match findGroup (grouped.ctx 15) 0 1024 0 with
        | some (0, e) => decide (e.dst = 0) && decide (e.len = 1) && decide (e.op = .add) && decide (e.fmt = .fp32) && decide (e.fxp = 0)
            && decide (rankOf grouped e.memb 7 3 e.n 0 = some 0) && !(Round.full ⟨0, [(0, 0, 0)]⟩ e) && decide (grouped.cycle < 0 + max 5 (e.tmo * 1100) ∨ e.tmo * 1100 ≤ grouped.cycle)
        | _ => false),
      decide (grouped.mashBad = []), (Tab.find (grouped.ctx 15).rounds 0).isSome, ((grouped.ctx 15).group 0).isSome,
      bitN (routed.reg (routeOff 1)).toNat 30, !bitN (routed.reg (routeOff 2)).toNat 30, decide (routePorts routed 3 = []), decide (routePorts routed 2 = [5]), decide (choosePort routed [5] (packet .write (2 * 2 ^ 44) []) = some 5),
      decide ((routed.port 5).replay.length + (0 + 279) / 248 ≤ 1024), !behindOlder routed (packet .write (2 * 2 ^ 44) [])] = true ∧
    -- multicast, contexts that are gone, packets that wait
    (let cast := { ctx15 2 0 with ctxs := [(15, { Ctx.reset with mgroups := [(8, 1)] })] }
     let older := packet .readreq (2 * 2 ^ 44) []
     let p := { packet .write (2 * 2 ^ 44) [] with tag := 10 }
     let two := { p with vc := 2 }
     met [decide (ctxCheck cast 15 = stOK), decide (cast.pkg ∈ groupHere cast (packet .mcwrite 0 [1])), decide (15 ∈ ({ ctx15 0 0 with gone := [15] } : State).gone),
       decide (15 ∉ (ctx15 0 0).gone), decide ((15, 1024) ∉ (ctx15 2 0).mashBad), decide ((ctx15 3 0).ctxState 15 = 3),
       behindOlder { routed with outbox := [older, p] } p, !behindOlder { routed with outbox := [p, older] } p,
       decide (choosePort { routed with binds := [⟨7, 3, 9, 2, 2, 0, 2 ^ 52, 6, 0⟩] } [5] two = none),
       decide (1024 < (({ routed with ports := [(5, { Port.reset with up := true, replay := List.replicate 1024 [] })] } : State).port 5).replay.length + 1)]) = true := by decide +kernel

/-- A flit in sequence that carries no packet bytes. -/
def flit0 : List Byte := let b := leBytes 2 0x8000 ++ List.replicate 250 0; b ++ leBytes 4 (crc32c b)
def linked (q : Port) : State := { user with ports := [(127, q)], cycle := 2 ^ 24, timeErr := -1 }

theorem witness_LinksAndTime :
    met [!(user.port 127).up, ((linked { Port.reset with up := true }).port 127).up, decide (flit0.length = 256), decide (crc32c (flit0.take 252) = leNat (flit0.drop 252)),
      decide (leNat (flit0.take 2) % 4096 = 0),
      decide (crc32c ((1 :: flit0.drop 1).take 252) ≠ leNat ((1 :: flit0.drop 1).drop 252)), decide (({ Port.reset with recvSeq := 1 } : Port).recvSeq ≠ leNat (flit0.take 2) % 4096), ({ Port.reset with fails := 8 } : Port).failed 0, ({ Port.reset with replay := [[]] } : Port).failed 65536,
      !({ Port.reset with replay := [[]] } : Port).failed 65535, !({ Port.reset with fails := 7 } : Port).failed 0, user.flag oFCFG 13 = false, (user.setReg oFCFG 0x2000).flag oFCFG 13,
      decide (followed (linked { Port.reset with hop := some 0 }) = some (127, 0)), decide (followed ((State.reset.setStage 4).putPort 127 { Port.reset with hop := some 0 }) = some (127, 0)),
      !anyContext (State.reset.setStage 4), !(State.reset.setStage 4).timeSet, anyContext user, decide (((linked { Port.reset with rtt := some 9 }).port 127).rtt = some 9),
      ((linked { Port.reset with up := true, timeDue := true }).port 127).timeDue, decide (((linked { Port.reset with up := true }).port 127).replay.length < 1024),
      decide (1024 ≤ ((linked { Port.reset with up := true, replay := List.replicate 1024 [] }).port 127).replay.length), (user.setReg oFSTAT 1).flag oFSTAT 0, !user.flag oFSTAT 0,
      decide (user.timeCyc = 0), (let s : State := { user with timeCyc := 1 }; decide (0 < s.timeCyc ∧ s.cycle < s.timeCyc - 1 + 2 ^ 24 ∧ -4 ≤ s.timeErr ∧ s.timeErr ≤ 4)), decide (followed user = none), !user.timeSet, decide (user.cycle % 65536 = 0),
      decide (({ user with cycle := 65535 } : State).cycle % 65536 ≠ 0), decide ((linked Port.reset).timeCyc - 1 + 2 ^ 24 ≤ (linked Port.reset).cycle),
      decide ((linked Port.reset).corrCyc ≤ (linked Port.reset).cycle), decide ((linked Port.reset).timeErr < 0), decide (0 < ({ user with timeErr := 1 } : State).timeErr),
      decide (({ user with corrCyc := 1 } : State).cycle < 1)] = true := by decide +kernel

/-- Channel 5 of context 0 with peer package 1; a CRECV of eight elements on it, and a chunk of its only step. -/
def crecv (ph tm : Nat) : Coll :=
  { id := 3, ctx := 0, core := 0, org := originOf user, kind := 6, sch := 5, rch := 5, se := [chanWord 0 + BitVec.ofNat 64 (2 ^ 52), 0, 0, 0, 0, 0, 0, 0],
    re := [chanWord 0 + BitVec.ofNat 64 (2 ^ 52), 0, 0, 0, 0, 0, 0, 0], ring := List.replicate 8 0, addr := 0x1000, n := 8, scope := 0, va := 0, stamp := 0, seq := 0, timer := tm, own := 0,
    sent := [], back := [], got := [], toSend := [], early := [], loc := [], opt := [], optEnt := [], flags := 0, keyed := false, abort := none, phase := ph }
def collecting (l : List Coll) : State := { channels 0 8 with colls := l }
def chunkOf (seq : Nat) : Packet :=
  { packet .chunk 0 (leBytes 2 (5 + 2 ^ 12) ++ leBytes 1 3 ++ leBytes 1 7 ++ leBytes 2 0 ++ leBytes 2 seq ++ leBytes 8 (7 * 2 ^ 40) ++ List.replicate 32 0) with dctx := 0 }

theorem witness_CollectivesAdvance :
    met [decide ((collecting []).ctxState 0 = 1), decide ((onChannel (collecting []) 0 5 false).isNone), decide ((headOf (chunkOf 0)).ch = 5), decide ((headOf (chunkOf 0)).seq = 0),
      decide ((((collecting []).ctx 0).chst_ 5).2 = 0), seqLater 32767 0, !seqLater 32768 0, decide ((headOf (chunkOf 32768)).seq ≠ 0), decide (State.reset.ctxState 0 = 0),
      decide (((collecting []).setCtxState 0 4).ctxState 0 = 4), decide (cPeer (crecv 2 0).se ≠ (collecting []).pkg),
      decide (onChannel (collecting [crecv 2 0]) 0 5 false = some (crecv 2 0)), (crecv 2 0).shape (headOf (chunkOf 0)) (chunkOf 0).payload.length, !(crecv 2 0).shape (headOf (chunkOf 0)) 0,
      decide (({ crecv 2 0 with abort := some (0, 0, 0, 0) } : Coll).abort.isSome), decide (onChannel (collecting []) 0 5 true = none),
      decide (collOf (collecting [crecv 0 0]) 3 = some (crecv 0 0)), mayStart (collecting [crecv 0 0]) (crecv 0 0), !mayStart (collecting [{ crecv 0 0 with id := 2 }]) (crecv 0 0),
      decide (((collecting [crecv 0 0]).ctx 0).chHeld = []), decide (cOpt (crecv 0 0).gov = 0), decide ((crecv 2 0).timer < (crecv 2 0).tmo), decide ((crecv 2 22000000).tmo ≤ (crecv 2 22000000).timer),
      decide ((collecting [crecv 3 0]).recs = []), decide ((collecting []).reqs = []), decide ((crecv 0 0).ownSeg = none), decide ((crecv 2 0).toSend = []), decide ((crecv 2 0).early = []),
      decide ((crecv 2 0).optEnt = []), decide (onChannel (collecting [crecv 1 0]) 0 5 false = some (crecv 1 0)), decide ((chunkOf 0).srcPkg ≠ (collecting []).pkg),
      (({ crecv 2 0 with got := [(0, 0, 8, true)] } : Coll).got.any fun v => decide (v.1 = 0 ∧ v.2.1 = 0)),
      decide (onChannel (collecting [{ crecv 2 0 with kind := 7 }]) 0 5 true = some { crecv 2 0 with kind := 7 }),
      (let k := { crecv 2 0 with kind := 7, rch := 4 }
       decide (onChannel (collecting [k]) 0 5 true = some k) && decide (onChannel (collecting [k]) 0 5 false = none)),
      (let k := { crecv 2 0 with kind := 0, sch := 6 }
       decide (onChannel (collecting [k]) 0 5 false = some k) && decide ((headOf (chunkOf 0)).ch ≠ k.sch) && decide (cPeer k.se ≠ (collecting [k]).pkg)),
      decide (((collecting []).setCtxState 0 3).ctxState 0 = 3), decide ((onChannel (collecting []) 0 5 true).isNone),
      decide (Tab.find ({ (collecting []).ctx 0 with chNum := [(5, 32768)] } : Ctx).chNum 5 = some 32768), decide (32768 ≤ (0 + 65536 - 32768 % 65536) % 65536),
      decide (Tab.find ((collecting []).ctx 0).chNum 5 = none),
      (let k := { crecv 2 0 with got := [(0, 0, 8, true)] }
       decide (k.ownSeg.bind (fun z => k.cut z.1 z.2 k.own) = none) && (List.range k.steps).all k.stepDone),
      !(({ crecv 2 0 with got := [(7, 9, 8, true)] } : Coll).got.any fun v => decide (v.1 = 0 ∧ v.2.1 = 0))] = true := by decide +kernel

/-! ### Engines, reports and memory -/

/-- A command of core 0 with geometry set 0 of `line`. -/
def cmd (kind : CKind) (next status : Nat) : Cmd :=
  let set := (withG [] (line 1 1 1)).cst.regs.gset 0
  { id := 3, kind := kind, org := originOf user, set := set, a := 0x1000, b := 0x2000, x := 0, e := 0, bytes := [], tiles := [], crec := recOf set, place := true, after := [], next := next,
    crc := 0, flags := 0, status := status, cause := 0, byte3 := 0, cut := false, sum := 0, phase := 0, olds := [] }
def commanded (k : Cmd) : State := onSeat (fun x => { x with cmds := [k] }) user

/-- FabricRequests: answers to a RATOM. -/
theorem witness_RatomAnswers :
    (let q := fun (rs : Option Resp) => { answer (.cmd 0 3 0) 0x1000 4 [] with tag := 9, dpkg := 7, kind := .atomic, res := rs }
     let k := fun (w : Word) => { cmd (.ratom .add .fp32) 0 0 with phase := 1, set := (withG [] (line 1 1 1 ++ [])).cst.regs.gset 0 |>.set 2 w }
     let s := fun (w : Word) => { onCtx (fun y => { y with rng := [(0, 7), (1, 0xFFFFFFFFFFF000)] }) (onSeat (fun x => { x with cmds := [k w] }) user) with reqs := [q none], nextTag := 11 }
     let p := packet .atomicdata 0 [1, 2, 3, 4]
     met [decide ((s 0).recs = []), decide ((s 0).reqs.find? (fun r => decide (r.tag = p.tag) && decide (r.dpkg = p.srcPkg)) = some (q none)), decide (reqsOf (s 0) (.cmd 0 3 0) = [q none]),
       decide ((ctx15 2 0).reqs.find? (fun r => decide (r.tag = p.tag) && decide (r.dpkg = p.srcPkg)) = none),
       decide (cmdHome (s 0) 0 3 = some 0), decide (((s 0).core 0).owner = some 0), decide (cmdOf (s 0) 0 0 3 = some (k 0)), decide ((k 0).status = 0), decide ((k 0).tiles = []), (k 0).crec.none,
       decide (cmdOf (s (2 ^ 63)) 0 0 3 = some (k (2 ^ 63))), bitN (setDw (k (2 ^ 63)).set 2) 63, !bitN (setDw (k 0).set 2) 63, decide (p.payload.length = afmtSize .fp32), decide (p.status = 0),
       (match xlate (s 0) 0 (k 0).org (setDw (k 0).set 2) .write with
         | .ok l => decide (l.phys / 2 ^ 44 = (s 0).pkg) && decide (rowRun (l.phys % 2 ^ 44) 4 = some .hbm) && decide (ctxCheck (s 0) l.dctx = stOK)
         | .error _ => false),
       (s 0).reqs.all fun r => decide (r.tag ≠ (s 0).nextTag ∧ r.agent ≠ .cmd 0 3 1)]) = true := by decide +kernel

/-- Queue 1 holds an index and no row; an answered read of it; an index run under way. -/
def gathering (lim : Word) (rs : List Req) : State :=
  { onSeat (fun x => { x with gq := [(1, { GQueue.reset with gqc := 1, aq := [⟨5, 0, 1, lim, originOf user⟩], gs := some ⟨2, 0x100, 1, 0, 0, 1, 0, [], originOf user⟩ })] }) user with reqs := rs }

theorem witness_EngineSteps :
    ([cmd .cpy 0 0, cmd .cpyc 0 0].all fun k =>
      let s := commanded k
      met [decide (cmdHome s 0 3 = some 0), decide (cmdOf s 0 0 3 = some k), decide ((s.core 0).owner = some 0), !(s.ctx 0).leaving, mayBegin s 0 0 k, !k.cut, decide (k.phase = 0), decide ((s.seat 0).bad = []),
        decide ((s.seat 0).resv = []), decide (s.reqs = []),
        (match geoOf k.set with
          | some g => decide (g.ssp = 1) && decide (g.dsp = 1) && decide (k.next < g.units g.dfmt) && !overlaps s 0 0 k g && decide (g.sfmt = g.dfmt) && decide (0 ≤ (g.foot false 0x2000).1) && !g.dfmt.block && decide (g.exts = [16]) && decide (g.rnd ≠ .sr) && decide (g.units g.dfmt ≤ (cmd .cpy 16 0).next)
          | none => false), k.crec.none]) = true ∧
    -- a copy of blocks of KBF7 in linear order
    (match geoOf ((withG [] ((0, BitVec.ofNat 64 (12 * 2 ^ 56 + 12 * 2 ^ 51 + 2 ^ 49 + 2 ^ 47 + 2 ^ 16 + 1)) :: (line 1 1 1).drop 1)).cst.regs.gset 0) with
      | some g => met [decide (g.sfmt = g.dfmt), g.dfmt.block, !g.trans]
      | none => false) = true ∧
    met [!fenceWaits (commanded (cmd .efence 0 0)) ((commanded (cmd .efence 0 0)).seat 0) [], fenceWaits (commanded (cmd .efence 0 0)) ((commanded (cmd .cpy 0 0)).seat 0) [3],
      decide ((cmd .digest 0 6).status ≠ 0), decide ((cmd .digest 0x2000 0).b.toNat ≤ (cmd .digest 0x2000 0).next),
      (match xlate (onCtx (fun y => { y with rng := [(0, 7), (1, 0xFFFFFFFFFFF000)] }) (commanded (cmd .digest 0x2000 0))) 0 (originOf user) (setDw (cmd .digest 0x2000 0).set 2) .write with
        | .ok l => decide (l.phys / 2 ^ 44 = user.pkg) && decide (l.phys % 2 ^ 44 + 32 ≤ 0x6C00000000) && decide (ctxCheck user l.dctx = stOK)
        | .error _ => false),
      decide ((((gathering 5 []).seat 0).q 1).aq.length = 1), decide ((((gathering 5 []).seat 0).q 1).dq.length < 16), decide (reqsOf (gathering 5 []) (.row 0 1 0) = []),
      decide ((5#64).toNat % 2 ^ 32 ≠ 0 ∧ (5#64).toNat % 2 ^ 32 ≤ (5#64).toNat),
      decide ((reqsOf (gathering 0 [answer (.row 0 1 0) 0 8 [1, 2, 3, 4, 5, 6, 7, 8]]) (.row 0 1 0)).map (fun r => r.res.map Resp.status) = [some 0]),
      decide (((user.seat 0).q 1).aq = []), (((gathering 0 []).seat 0).q 1).gs.isSome, ((gathering 0 []).core 0).owner.isSome, ((gathering 0 []).seat 0).granted 2,
      decide ((((gathering 0 []).seat 0).q 1).aq.length < 32)] = true := by decide +kernel

def report : KeyRep := ⟨5, 6, 7, 0, 3, originOf user⟩
def reporting (l : List (W32 × W32 × Word)) : State := onCtx (fun y => { y with keyReps := [report], keylog := l }) user
def post (o : Origin) : FPost := ⟨0, o, ⟨0x1000, 0x8000, 3, 2, 0, 0, 0, 0⟩⟩
def posting (o : Origin) (n : Nat) : State :=
  onCtx (fun y => { y with posts := [post o] }) (pending fun p => { p with faults := List.replicate n ⟨0, 0, 0, 2, 0, 0, 0, 0⟩ })

theorem witness_ReportsAndWalks :
    met [decide (((reporting []).ctx 0).keyReps = [report]), ((reporting (List.replicate 64 (0, 0, 0))).ctx 0).keylog.all fun e => !(decide (e.1 = 5) && decide (e.2.1 = 6)),
      decide (((reporting [(5, 6, 7)]).ctx 0).keylog.find? (fun e => decide (e.1 = 5) && decide (e.2.1 = 6)) = some (5, 6, 7)),
      decide (((reporting [(5, 6, 8)]).ctx 0).keylog.find? (fun e => decide (e.1 = 5) && decide (e.2.1 = 6)) = some (5, 6, 8)), report.org.kwen,
      decide (((reporting []).core 0).owner = some 0), issuerAlive (reporting []) 0 0 report.org, decide (((posting (originOf user) 8).ctx 0).posts = [post (originOf user)]),
      decide ((user.setCtxState 0 4).ctxState 0 = 4), decide ((posting (originOf user) 8).ctxState 0 = 1), issuerAlive (posting (originOf user) 8) 0 0 (originOf user),
      decide (((posting (originOf user) 8).st 0 false).pend.faults.length = 8), decide (((posting (originOf user) 7).st 0 false).pend.faults.length < 8), decide ((post (originOf user)).frec.cause ≠ 10),
      (let s := onCtx (fun y => { y with posts := [⟨0, originOf user, ⟨0x1000, 0x8000, 3, 10, 0, 0, 14, 0⟩⟩] }) user
       decide (s.ctxState 0 ≠ 3) && decide ((s.ctx 0).posts.map (fun p => p.frec.cause) = [10]) && issuerAlive s 0 0 (originOf user)),
      !issuerAlive (posting { originOf user with launch := some 99 } 0) 0 0 { originOf user with launch := some 99 },
      decide (((onCtx (fun y => { y with walks := [⟨0x1000⟩] }) user).ctx 0).walks = [⟨0x1000⟩]), decide ((user.ctx 0).keyReps = []), decide ((user.ctx 0).posts = []), decide ((user.ctx 0).walks = [])] = true := by
  decide +kernel

/-- A state with every kind of memory in use. -/
def stored : State :=
  { (onSeat (fun x => { x with spad := Mem.setNum [] 0 8 5 }) (user.putCore 1 { Core.reset with svr := [(0, 1)] })) with hbm := Mem.setNum [] 4096 8 (2 ^ 64 - 1), hostMem := [(0, 1)], staging := [(0, 1)] }

/-- The outcome is the fault of the stopped clocks. -/
def faulted (o : Host.Outcome State Fault Refusal) : Bool := match o with | .fault .clocksStopped => true | _ => false

/-- The outcome is a next state whose memories are canonical. -/
def nextWf (o : Host.Outcome State Fault Refusal) : Bool := match o with | .next t => t.memWf | _ => false

theorem witness_MemoriesStayCanonical :
    met [stored.memWf, !({ stored with hbm := [(0, 0)] } : State).memWf,
      nextWf (step { stored with agenda := [.hostCxlMemWrite 4096 [0, 1]] })] = true := by decide +kernel

/-- `stored` after a thermal trip, with steps and inputs to come. -/
def tripped (es : List Instr) (ins : List (List Instr)) : State := { (stored.setStage 5).setFld oTHERM 17 1 1 with agenda := es, inputs := ins }

theorem witness_StepsStopOnlyWhileHalted :
    met [!stored.clocksStand, !(stored.setStage 5).clocksStand, (tripped [] []).clocksStand, decide ((tripped [] []).agenda = []), decide ((tripped [] []).inputs = []),
      faulted (step (tripped [] [])), decide ((tripped [] [[]]).inputs ≠ []), (tripped [] [[]]).clocksStand, (tripped [.coldStart] []).clocksStand,
      (tripped [.wdclr 0] []).clocksStand, decide ((tripped [.wdclr 0] []).agenda = .wdclr 0 :: []), !isRegRead (.wdclr 0), decide (Instr.wdclr 0 ≠ .coldStart),
      decide ((tripped [.coldStart] []).agenda = .coldStart :: [])] = true := by decide +kernel

/-- Range entries 0 (V = 0), 62 and 63 match page 0 to all pages; with GEN, without. -/
def ranged (w0 : Word) : State := onCtx (fun y => { y with rng := [(8 * 63, w0), (8 * 63 + 1, 0xFFFFFFFFFFF000), (8 * 63 + 5, 0x00020001)] }) user
def noRange : State := user.setReg (trOff 0) 1

theorem witness_TranslationFollowsTheLowestMatch :
    ([(7 : Word), 0x27, 0x67, 0xF].all fun w =>
      let d := ((ranged w).ctx 0).rngDw
      met [(d 63 0).testBit 0, (List.range 8).all fun n => decide (d 63 n &&& rngRsv n = 0), decide (d 63 0 / 2 ^ 12 % 2 ^ 44 ≤ 0), decide ((2 ^ 56 - 1) / 4096 ≤ d 63 1 / 2 ^ 12 % 2 ^ 44),
        (List.range 63).all fun i => !(d i 0).testBit 0]) = true ∧
    (let d := ((ranged 0x27).ctx 0).rngDw
     met [(d 63 0).testBit 5, decide (d 63 5 / 2 ^ 0 % 2 ^ 16 = 1), decide (d 63 5 / 2 ^ 16 % 2 ^ 16 = 2), (d 63 0).testBit 1, (d 63 0).testBit 2, !(d 63 0).testBit 3,
       (((ranged 0x67).ctx 0).rngDw 63 0).testBit 6, !(((ranged 7).ctx 0).rngDw 63 0).testBit 5, !(originOf user).replay,
       ([(1, true), (2, true), (3, false), (0, false)].all fun e =>
         decide (([(63, e.1)] : List (Nat × Nat)).find? (fun p => decide (p.1 = 63)) = some (63, e.1)) && decide (e.2 = true ↔ (e.1 ≠ 0 ∧ (1 = e.1 ∨ 2 = e.1))))]) = true ∧
    met [(List.range 64).all fun i => !((user.ctx 0).rngDw i 0).testBit 0, !user.flag (trOff 0) 0, noRange.flag (trOff 0) 0, decide ((noRange.ctx 0).cached 0 = none),
      decide ((walk noRange 0 0).fault ≠ 0),
      (let s := { noRange with hbm := Mem.setNum (Mem.setNum (Mem.setNum (Mem.setNum (Mem.setNum [] 0 8 0x1001) 0x1000 8 0x2001) 0x2000 8 0x3001) 0x3000 8 0x4001) 0x4000 8 0x5007 }
       let e := walk s 0 0
       decide (e.fault = 0) && permits .read e.rd e.w e.a)] = true := by decide +kernel

end Sys2Proof.Tests
end

section
/-! The accesses of the host and the boot processor: registers, commands, windows, the supervisor region and HBM (R8, R65, R67,
R130, R139, R391, R414, R415, R417, R442). -/

namespace Sys2Proof.Machine.HostAccess

/-! ## Bits of a register that is written (R8, R415) -/

theorem bitN_eq_testBit (w i : Nat) : bitN w i = w.testBit i := by
  rw [bitN, Nat.testBit_eq_decide_div_mod_eq]

/-- A run of bits set, from `lo` up to but not including `hi`. -/
theorem testBit_run {lo hi : Nat} (h : lo ≤ hi) (i : Nat) :
    (2 ^ hi - 2 ^ lo).testBit i = decide (lo ≤ i ∧ i < hi) := by
  have e : 2 ^ hi - 2 ^ lo = 2 ^ lo * (2 ^ (hi - lo) - 1) := by
    rw [Nat.mul_sub, ← Nat.pow_add, Nat.add_sub_cancel' h, Nat.mul_one]
  rw [e, Nat.testBit_two_pow_mul, Nat.testBit_two_pow_sub_one, ← Bool.decide_and]
  exact decide_eq_decide.mpr (by omega)

/-- The bits that a mask names are replaced by those of `v`, the others stand. -/
theorem testBit_replace (i : Nat) : ∀ old v m : Nat,
    (old - (old &&& m) + (v &&& m)).testBit i = if m.testBit i then v.testBit i else old.testBit i := by
  induction i with
  | zero =>
    intro old v m
    have hle : old &&& m ≤ old := Nat.and_le_left
    have ho := Nat.and_mod_two_eq_one (a := old) (b := m)
    have hv := Nat.and_mod_two_eq_one (a := v) (b := m)
    simp only [Nat.testBit_zero, decide_eq_true_eq]
    split <;> exact decide_eq_decide.mpr (by omega)
  | succ i ih =>
    intro old v m
    have hle : old &&& m ≤ old := Nat.and_le_left
    have ho := Nat.and_mod_two_eq_one (a := old) (b := m)
    have hv := Nat.and_mod_two_eq_one (a := v) (b := m)
    have hod := Nat.and_div_two (a := old) (b := m)
    have hvd := Nat.and_div_two (a := v) (b := m)
    have half : (old - (old &&& m) + (v &&& m)) / 2 = old / 2 - (old / 2 &&& m / 2) + (v / 2 &&& m / 2) := by omega
    simp only [Nat.testBit_succ, half, ih]

/-- Bit `i` of a little-endian number is bit `i % 8` of its byte `i / 8` (R7). -/
theorem testBit_leNat : ∀ (bs : List Byte) (i : Nat), (leNat bs).testBit i = (nth 0 bs (i / 8)).getLsbD (i % 8)
  | [], i => by simp [leNat, nth]
  | b :: bs, i => by
    have e : leNat (b :: bs) = 2 ^ 8 * leNat bs + b.toNat := by rw [leNat]; omega
    rw [e, Nat.testBit_two_pow_mul_add _ b.isLt]
    split
    · next h => rw [Nat.div_eq_of_lt h, Nat.mod_eq_of_lt h]; rfl
    · next h =>
      obtain ⟨j, rfl⟩ : ∃ j, i = j + 8 := ⟨i - 8, by omega⟩
      rw [Nat.add_sub_cancel, testBit_leNat bs j, Nat.add_div_right j (by omega), Nat.add_mod_right]; rfl

/-- R8, R415: of a register without W1C bits, a write changes the RW bits of the bytes that it names. -/
theorem regAfter_getLsbD {s : State} {o lo : Nat} {bs : List Byte} (hw : ((regInfo o).getD ⟨0, 0, 0⟩).w1c = 0)
    (hne : bs ≠ []) {i : Nat} (hi : i < 64) :
    (regAfter s o lo bs).1.getLsbD i =
      if 8 * lo ≤ i ∧ i < 8 * (lo + bs.length) ∧ bitN ((regInfo o).getD ⟨0, 0, 0⟩).rw i = true
        then (nth 0 bs (i / 8 - lo)).getLsbD (i % 8) else (s.reg o).getLsbD i := by
  have hlen := List.length_pos_iff.mpr hne
  have hmask : bitsMask (8 * (lo + bs.length) - 1) (8 * lo) = 2 ^ (8 * (lo + bs.length)) - 2 ^ (8 * lo) := by
    rw [bitsMask, Nat.sub_add_cancel (by omega)]
  have hnamed := testBit_run (lo := 8 * lo) (hi := 8 * (lo + bs.length)) (by omega) i
  simp only [regAfter, hw, hmask, Nat.and_zero, Nat.zero_and, Nat.sub_zero, BitVec.getLsbD_ofNat, hi, decide_true,
    Bool.true_and, testBit_replace, Nat.testBit_and, hnamed, bitN_eq_testBit]
  by_cases h : 8 * lo ≤ i ∧ i < 8 * (lo + bs.length) ∧ ((regInfo o).getD ⟨0, 0, 0⟩).rw.testBit i = true
  · obtain ⟨h1, h2, h3⟩ := h
    have hv : (leNat bs * 2 ^ (8 * lo) % 2 ^ 64).testBit i = (nth 0 bs (i / 8 - lo)).getLsbD (i % 8) := by
      rw [Nat.testBit_mod_two_pow, Nat.testBit_mul_two_pow, testBit_leNat, show (i - 8 * lo) / 8 = i / 8 - lo by omega,
        show (i - 8 * lo) % 8 = i % 8 by omega]
      simp [hi, h1]
    rw [if_pos (by simp [h1, h2, h3]), if_pos ⟨h1, h2, h3⟩, hv]
  · rw [if_neg h, if_neg (by simpa only [Bool.and_eq_true, decide_eq_true_eq, and_comm, and_assoc] using h)]
    rfl

/-- A write that names no RW bit and no W1C bit leaves the word as it was. -/
theorem regAfter_eq_old {s : State} {o lo : Nat} {bs : List Byte} (hw : ((regInfo o).getD ⟨0, 0, 0⟩).w1c = 0)
    (hr : ((regInfo o).getD ⟨0, 0, 0⟩).rw &&& bitsMask (8 * (lo + bs.length) - 1) (8 * lo) = 0) :
    (regAfter s o lo bs).1 = s.reg o := by
  simp [regAfter, hw, hr]

/-! ## The part of a run that lies in a region (R65) -/

/-- Nothing of a run lies in a region that ends before it or begins after it. -/
theorem clip_outside {lo hi a : Nat} {bs : List Byte} (h : a + bs.length ≤ lo ∨ hi ≤ a) : (clip lo hi a bs).2 = [] := by
  unfold clip
  rcases h with h | h
  · rw [List.drop_eq_nil_of_le (by omega), List.take_nil]
  · rw [show hi - max a lo = 0 by omega, List.take_zero]

/-- A run inside a region is kept whole. -/
theorem clip_inside {lo hi a : Nat} {bs : List Byte} (hlo : lo ≤ a) (hhi : a + bs.length ≤ hi) : clip lo hi a bs = (a, bs) := by
  unfold clip
  rw [show max a lo = a by omega, show lo - a = 0 by omega, List.drop_zero, List.take_of_length_le (by omega)]

/-! ## Writes of one register -/

/-- A write that stays inside one aligned group of eight bytes writes that register (R415). -/
theorem execRegisterWrite_one {s : State} {o lo : Nat} {bs : List Byte} (ho : o % 8 = 0) (hst : o < stagingOff) (hne : bs ≠ [])
    (hlen : lo + bs.length ≤ 8) : execRegisterWrite (o + lo) bs s = .next (writeReg o lo bs s) := by
  have hpos := List.length_pos_iff.mpr hne
  have hcount : ((o + lo) % 8 + bs.length + 7) / 8 = 1 := by omega
  have hbase : (o + lo) / 8 * 8 = o := by omega
  have hclip : clip o (o + 8) (o + lo) bs = (o + lo, bs) := clip_inside (by omega) (by omega)
  have hgroup : ¬(stagingOff ≤ o ∧ o < stagingEnd) := by omega
  rw [execRegisterWrite, if_neg (by simp [hne]; omega), writeBar0, hcount]
  simp [hbase, hclip, writeGroup, hgroup]

/-- Registers of the fabric and of the power ring: none has a W1C bit, is ever busy, or triggers anything. -/
def plainOff (o : Nat) : Prop := o = 0x200000 ∨ (0x210000 ≤ o ∧ o < 0x218000) ∨ (0x500000 ≤ o ∧ o < 0x500020)

theorem regInfo_plain {o : Nat} (ho : o % 8 = 0) (hp : plainOff o) :
    (regInfo o).isSome = true ∧ ((regInfo o).getD ⟨0, 0, 0⟩).w1c = 0 := by
  unfold plainOff at hp
  rcases hp with rfl | hp | hp
  · exact ⟨rfl, rfl⟩
  · have e : regInfo o = some ⟨0, bitsMask 31 30 + bitsMask 23 8 + bitsMask 6 0, 0⟩ := by
      unfold regInfo
      rw [if_neg (by omega), if_neg (by omega), if_neg (by omega), if_neg (by omega), if_neg (by omega), if_pos hp]
    rw [e]; exact ⟨rfl, rfl⟩
  · have e : regInfo o = some ⟨4608 * 2 ^ 32 + 4 * 2 ^ 16 + 16 * 2 ^ 8 + 24, bitsMask 47 32 + bitsMask 23 0, 0⟩ := by
      unfold regInfo
      rw [if_neg (by omega), if_neg (by omega), if_neg (by omega), if_neg (by omega), if_neg (by omega), if_neg (by omega),
        if_neg (by omega), if_neg (by omega), if_pos hp]
    rw [e]; exact ⟨rfl, rfl⟩

theorem busyReg_plain {s : State} {o : Nat} (hp : plainOff o) : busyReg s o = false := by
  unfold plainOff at hp
  rw [busyReg, if_neg (by omega), if_neg (by omega)]

theorem trigger_plain {s : State} {o b : Nat} (hp : plainOff o) : trigger o b s = s := by
  unfold plainOff at hp
  rw [trigger, if_neg (by unfold oSYSCTL; omega), if_neg (by omega), if_neg (by omega), if_neg (by omega), if_neg (by omega)]

/-- A write of such a register changes that register alone. -/
theorem writeReg_plain {s : State} {o lo : Nat} {bs : List Byte} (ho : o % 8 = 0) (hp : plainOff o) (hne : bs ≠ []) :
    writeReg o lo bs s = s.setReg o (regAfter s o lo bs).1 := by
  have hq : ¬(0x400000 ≤ o ∧ o < 0x400800 ∧ o % 0x20 = 0) := by unfold plainOff at hp; omega
  have hinfo := (regInfo_plain ho hp).1
  unfold writeReg
  rw [if_neg (by simp [hne, busyReg_plain hp, Option.ne_none_iff_isSome, hinfo])]
  simp only [if_neg hq]
  split
  · exact trigger_plain hp
  · rfl

/-- R8, R415: the clause on a write of one register. -/
theorem registerWrite_plain {s : State} {o lo : Nat} {bs : List Byte} (ho : o % 8 = 0) (hp : plainOff o) (hne : bs ≠ [])
    (hlen : lo + bs.length ≤ 8) :
    ∃ u v, exec (.registerWrite (o + lo) bs) s = .next u ∧ u = s.setReg o v ∧
      ∀ i, i < 64 → v.getLsbD i =
        (if 8 * lo ≤ i ∧ i < 8 * (lo + bs.length) ∧ bitN ((regInfo o).getD ⟨0, 0, 0⟩).rw i = true
          then (nth 0 bs (i / 8 - lo)).getLsbD (i % 8) else (s.reg o).getLsbD i) := by
  have hst : o < stagingOff := by unfold plainOff at hp; unfold stagingOff; omega
  refine ⟨_, (regAfter s o lo bs).1, ?_, rfl, fun i hi => regAfter_getLsbD (regInfo_plain ho hp).2 hne hi⟩
  rw [exec_registerWrite, execRegisterWrite_one ho hst hne hlen, writeReg_plain ho hp hne]

/-! ## The commands of a control block (R391) -/

/-- CMD of context `x`. -/
def cmdOff (x : Nat) : Nat := ccbOff x + 0x48

theorem regInfo_cmd {x : Nat} (hx : x < 16) : regInfo (cmdOff x) = some ⟨0, bitsMask 63 32 + bitsMask 9 8, 0⟩ := by
  have hoff : (0x600000 + 0x80 * x + 0x48) % 0x80 = 0x48 := by omega
  unfold regInfo cmdOff ccbOff
  rw [if_neg (by omega), if_neg (by omega), if_neg (by omega), if_neg (by omega), if_neg (by omega), if_neg (by omega),
    if_neg (by omega), if_neg (by omega), if_neg (by omega), if_pos (by omega), hoff]
  rfl

/-- Byte 0 of CMD holds no stored bit: a write of it stores nothing and runs the command. -/
theorem registerWrite_cmd (s : State) {x : Nat} (hx : x < 16) (b : Byte) :
    exec (.registerWrite (cmdOff x) [b]) s = .next (command x b.toNat (s.setReg (cmdOff x) (s.reg (cmdOff x)))) := by
  have hr : ((regInfo (cmdOff x)).getD ⟨0, 0, 0⟩).rw &&& bitsMask (8 * (0 + [b].length) - 1) (8 * 0) = 0 := by
    rw [regInfo_cmd hx]
    change (bitsMask 63 32 + bitsMask 9 8) &&& bitsMask 7 0 = 0
    decide
  have hafter : (regAfter s (cmdOff x) 0 [b]).1 = s.reg (cmdOff x) := regAfter_eq_old (by rw [regInfo_cmd hx]; rfl) hr
  have hb : busyReg s (cmdOff x) = false := by
    unfold busyReg cmdOff ccbOff
    rw [if_neg (by omega), if_neg (by omega)]
  have hq : ¬(0x400000 ≤ cmdOff x ∧ cmdOff x < 0x400800 ∧ cmdOff x % 0x20 = 0) := by unfold cmdOff ccbOff; omega
  have htrig : ∀ t : State, trigger (cmdOff x) b.toNat t = command x b.toNat t := by
    intro t
    unfold trigger cmdOff ccbOff oSYSCTL
    rw [if_neg (by omega), if_neg (by omega), if_neg (by omega), if_pos (by omega), if_pos (by omega),
      show (0x600000 + 0x80 * x + 0x48 - 0x600000) / 0x80 = x by omega]
  rw [exec_registerWrite]
  have h := execRegisterWrite_one (s := s) (o := cmdOff x) (lo := 0) (bs := [b]) (by unfold cmdOff ccbOff; omega)
    (by unfold cmdOff ccbOff stagingOff; omega) (by simp) (by simp)
  rw [Nat.add_zero] at h
  rw [h, writeReg, if_neg (by simp [hb, regInfo_cmd hx])]
  simp only [if_neg hq, hafter, htrig]

theorem next_nextOf {r : Host.Outcome State Fault Refusal} (h : Answers r) (s : State) :
    Host.Outcome.next (nextOf r s) = r := by
  obtain ⟨t, rfl⟩ := h; rfl

/-- R391: the clause on commands. -/
theorem registerWrite_runs_command (s : State) {x : Nat} (hx : x < 16) :
    let cmd := ccbOff x + 0x48
    let s0 := s.setReg cmd (s.reg cmd)
    exec (.registerWrite cmd [1]) s = exec (.create x) s0 ∧ exec (.registerWrite cmd [2]) s = exec (.kill x) s0 ∧
    exec (.registerWrite cmd [3]) s = exec (.signal x) s0 ∧ exec (.registerWrite cmd [4]) s = exec (.wdclr x) s0 ∧
    exec (.registerWrite cmd [5]) s = exec (.ucload x) s0 ∧ exec (.registerWrite cmd [6]) s = exec (.attest x) s0 :=
  ⟨(registerWrite_cmd s hx 1).trans (next_nextOf (execCreate_next x _) _),
    (registerWrite_cmd s hx 2).trans (next_nextOf (execKill_next x _) _),
    (registerWrite_cmd s hx 3).trans (next_nextOf (execSignal_next x _) _),
    (registerWrite_cmd s hx 4).trans (next_nextOf (execWdclr_next x _) _),
    (registerWrite_cmd s hx 5).trans (next_nextOf (execUcload_next x _) _),
    (registerWrite_cmd s hx 6).trans (next_nextOf (execAttest_next x _) _)⟩

/-! ## What stands after a run of bytes is written -/

/-- The bytes `bs` stand from `from_` on, and every other byte is the old one. -/
def Overwritten (bs : List Byte) (new old : Nat → Byte) (from_ : Nat) : Prop :=
  ∀ b, new b = if from_ ≤ b ∧ b < from_ + bs.length then nth 0 bs (b - from_) else old b

theorem overwritten_setBytes (m : Mem) (a : Nat) (bs : List Byte) :
    Overwritten bs (Mem.byte (Mem.setBytes m a bs)) (Mem.byte m) a := fun b => Mem.byte_setBytes bs m a b

/-- A run written in two pieces is the run written at once. -/
theorem setBytes_take_drop : ∀ (k : Nat) (bs : List Byte) (m : Mem) (a : Nat),
    Mem.setBytes (Mem.setBytes m a (bs.take k)) (a + k) (bs.drop k) = Mem.setBytes m a bs
  | 0, _, _, _ => rfl
  | _ + 1, [], _, _ => rfl
  | k + 1, b :: bs, m, a => by
    rw [show a + (k + 1) = a + 1 + k by omega]
    exact setBytes_take_drop k bs (Mem.setByte m a b) (a + 1)

theorem nth_eq_getD {α : Type} (d : α) : ∀ (l : List α) (i : Nat), nth d l i = l.getD i d
  | [], _ => rfl
  | _ :: _, 0 => rfl
  | _ :: l, i + 1 => nth_eq_getD d l i

theorem nth_map_range {α : Type} {d : α} {f : Nat → α} {n i : Nat} (hi : i < n) : nth d ((List.range n).map f) i = f i := by
  simp [nth_eq_getD, hi]

/-! ## Uncorrectable errors seen by the host (R416, R424) -/

/-- UE is set, and only the registers and the interrupts to the host differ. -/
theorem setUE_eq (s : State) : ∃ rs ms, s.setUE = { s with regs := rs, msix := ms } := by
  unfold State.setUE
  split
  · exact ⟨s.regs, s.msix, rfl⟩
  · exact ⟨_, _, rfl⟩

@[simp] theorem setUE_cores (s : State) : s.setUE.cores = s.cores := by obtain ⟨_, _, h⟩ := setUE_eq s; rw [h]
@[simp] theorem setUE_hbm (s : State) : s.setUE.hbm = s.hbm := by obtain ⟨_, _, h⟩ := setUE_eq s; rw [h]
@[simp] theorem setUE_poison (s : State) : s.setUE.poison = s.poison := by obtain ⟨_, _, h⟩ := setUE_eq s; rw [h]
@[simp] theorem setUE_hostReply (s : State) : s.setUE.hostReply = s.hostReply := by obtain ⟨_, _, h⟩ := setUE_eq s; rw [h]

@[simp] theorem reg_setReg (s : State) (o : Nat) (v : Word) : (s.setReg o v).reg o = v := by
  have hfind : ∀ t : Tab Word, Tab.find (Tab.put t o v) o = some v := by
    intro t
    induction t with
    | nil => simp [Tab.put, Tab.find]
    | cons e t ih =>
      rw [Tab.put]
      split
      · simp [Tab.find]
      · split
        · simp [Tab.find]
        · next h => rw [Tab.find, if_neg h, ih]
  rw [State.reg, State.setReg, hfind]; rfl

@[simp] theorem setUE_flag (s : State) : s.setUE.flag oECCSTAT 0 = true := by
  unfold State.setUE
  split
  · assumption
  · have hbit : ∀ w : Word, bitN (BitVec.ofNat 64 (insBits w.toNat 0 1 1)).toNat 0 = true := by
      intro w
      rw [bitN, decide_eq_true_eq, BitVec.toNat_ofNat, insBits]
      have := w.isLt
      omega
    rw [State.flag, State.msi]
    change bitN ((s.setFld oECCSTAT 0 1 1).reg oECCSTAT).toNat 0 = true
    rw [State.setFld, reg_setReg]
    exact hbit _

/-! ## Addresses of windows (R65, R130, R442; log entry 61) -/

theorem ioPlace_window {c off : Nat} (hc : c < 192) (hoff : off < 0x800000) :
    ioPlace (0x800000 * c + off) = winBase + (0x800000 * c + off) := by
  unfold ioPlace winEnd winBase
  rw [if_pos (by omega)]

theorem ioLimit_window {c off : Nat} (hc : c < 192) (hoff : off < 0x800000) : ioLimit (0x800000 * c + off) = 64 := by
  unfold ioLimit regBase
  rw [if_neg (by omega)]

theorem window_div {c off : Nat} (hoff : off < 0x800000) : (0x800000 * c + off) / 0x800000 = c := by omega

theorem window_mod {c off : Nat} (hoff : off < 0x800000) : (0x800000 * c + off) % 0x800000 = off := by omega

/-- The row of a window address, by its offset in the window (R65). -/
theorem rowOf_window {c off : Nat} (hc : c < 192) (hoff : off < 0x800000) :
    rowOf (winBase + (0x800000 * c + off)) =
      if off < 0x600000 then some .data else if off < 0x608000 then some .sup else if off < 0x680000 then some .code else none := by
  unfold rowOf
  rw [if_neg (by unfold hbmSize winBase; omega), if_neg (by unfold hostBase winBase; omega),
    if_pos (by unfold winBase winEnd; omega), Nat.add_sub_cancel_left, window_mod hoff]

theorem rowOf_window_ne_hbm {c off : Nat} (hc : c < 192) (hoff : off < 0x800000) :
    rowOf (winBase + (0x800000 * c + off)) ≠ some .hbm := by
  rw [rowOf_window hc hoff]
  repeat' split
  all_goals exact fun h => nomatch h

/-- The assigned rows of a window. -/
theorem rowOf_window_assigned {c off : Nat} (hc : c < 192) (hoff : off < 0x680000) :
    rowOf (winBase + (0x800000 * c + off)) = some .data ∨ rowOf (winBase + (0x800000 * c + off)) = some .sup ∨
      rowOf (winBase + (0x800000 * c + off)) = some .code := by
  rw [rowOf_window hc (by omega), if_pos hoff]
  split
  · exact .inl rfl
  · split
    · exact .inr (.inl rfl)
    · exact .inr (.inr rfl)

/-- A byte of the assigned rows of a window is read as CXL.io reads it. -/
theorem localByte_window {s : State} {c off : Nat} (hc : c < 192) (hoff : off < 0x680000) :
    localByte s (winBase + (0x800000 * c + off)) = ioByte s (0x800000 * c + off) := by
  rcases rowOf_window_assigned hc hoff with h | h | h <;> simp only [localByte, h, Nat.add_sub_cancel_left]

theorem localBad_window {s : State} {c off : Nat} (hc : c < 192) (hoff : off < 0x680000) :
    localBad s (winBase + (0x800000 * c + off)) = (s.core c).ioBad off := by
  have hdiv := window_div (c := c) (show off < 0x800000 by omega)
  have hmod := window_mod (c := c) (show off < 0x800000 by omega)
  rcases rowOf_window_assigned hc hoff with h | h | h <;>
    simp only [localBad, h, winCore, winOffset, Nat.add_sub_cancel_left, hdiv, hmod]

/-- Beyond the bank a window is unassigned: it reads zero and holds no error. -/
theorem local_unassigned {s : State} {c off : Nat} (hc : c < 192) (hlo : 0x680000 ≤ off) (hoff : off < 0x800000) :
    localByte s (winBase + (0x800000 * c + off)) = 0 ∧ localBad s (winBase + (0x800000 * c + off)) = false := by
  have hrow := rowOf_window hc hoff
  rw [if_neg (by omega), if_neg (by omega), if_neg (by omega)] at hrow
  unfold localByte localBad
  rw [hrow]
  exact ⟨rfl, rfl⟩

/-! ## One byte of a window (R424, R442) -/

theorem ioBad_data {k : Core} {off : Nat} (howner : k.owner.isSome = true) (hoff : off < 0x600000) :
    k.ioBad off = k.seat.isBad off 1 := by
  unfold Core.ioBad
  rw [if_neg (by omega), if_neg (by simp [Option.ne_none_iff_isSome, howner]), if_pos hoff]

theorem ioBad_sup {k : Core} {off : Nat} (hlo : 0x600000 ≤ off) (hoff : off < 0x608000) (hbad : k.svrBad = []) :
    k.ioBad off = false := by
  unfold Core.ioBad
  rw [if_pos ⟨hlo, hoff⟩, hbad]; rfl

/-- A byte of the data scratchpad of a core that a context holds, where no error stands. -/
theorem ioByte_data {s : State} {c off : Nat} (hc : c < 192) (howner : (s.core c).owner.isSome = true) (hoff : off < 0x600000)
    (hbad : (s.core c).ioBad off = false) : ioByte s (0x800000 * c + off) = Mem.byte (s.core c).seat.spad off := by
  unfold ioByte
  simp only [window_div (show off < 0x800000 by omega), window_mod (show off < 0x800000 by omega)]
  rw [if_neg (by omega), if_neg (by simp [hbad]), if_neg (by omega), if_neg (by simp [Option.ne_none_iff_isSome, howner]),
    if_pos hoff]

/-- A byte of the supervisor region, where no error stands. -/
theorem ioByte_sup {s : State} {c off : Nat} (hc : c < 192) (hlo : 0x600000 ≤ off) (hoff : off < 0x608000)
    (hbad : (s.core c).ioBad off = false) : ioByte s (0x800000 * c + off) = Mem.byte (s.core c).svr (off - 0x600000) := by
  unfold ioByte
  simp only [window_div (show off < 0x800000 by omega), window_mod (show off < 0x800000 by omega)]
  rw [if_neg (by omega), if_neg (by simp [hbad]), if_pos ⟨hlo, hoff⟩]

/-- A run with an error holds a byte with an error (R424). -/
theorem isBad_byte {x : Seat} {a n : Nat} (hn : 0 < n) (h : x.isBad a n = true) : ∃ i, i < n ∧ x.isBad (a + i) 1 = true := by
  obtain ⟨w, hw, ht⟩ := List.any_eq_true.mp h
  simp only [touches, Bool.and_eq_true, decide_eq_true_eq] at ht
  refine ⟨w - a, by omega, List.any_eq_true.mpr ⟨w, hw, ?_⟩⟩
  simp only [touches, Bool.and_eq_true, decide_eq_true_eq]
  omega

/-! ## CXL.io reads -/

/-- What a CXL.io read that is no HBM read answers, and that it sets UE where it meets an error. -/
theorem hostCxlIoRead {s : State} {addr n : Nat} (hn : 0 < n) (hlim : n ≤ ioLimit addr) (hrow : rowOf (ioPlace addr) ≠ some .hbm) :
    exec (.hostCxlIoWindowAccess addr n none) s =
      .next { (if (List.range n).any (fun i => localBad s (ioPlace addr + i)) then s.setUE else s) with
        hostReply := ((List.range n).map fun i => localByte s (ioPlace addr + i), false), free := s.free + 2 ^ 44 } := by
  have hgo : ¬(n = 0 ∨ ioLimit addr < n) := by omega
  simp [execHostCxlIoWindowAccess, hgo, hrow, List.any_map, Function.comp_def]

/-- A read that meets no error only answers. -/
theorem hostCxlIoRead_clean {s : State} {addr n : Nat} (mem : Nat → Byte) (hn : 0 < n) (hlim : n ≤ ioLimit addr)
    (hrow : rowOf (ioPlace addr) ≠ some .hbm)
    (hbyte : ∀ i, i < n → localByte s (ioPlace addr + i) = mem i ∧ localBad s (ioPlace addr + i) = false) :
    ∃ u, exec (.hostCxlIoWindowAccess addr n none) s = .next u ∧
      u.hostReply = ((List.range n).map mem, false) ∧ u.regs = s.regs ∧ u.cores = s.cores ∧ u.hbm = s.hbm := by
  have hclean : (List.range n).any (fun i => localBad s (ioPlace addr + i)) = false :=
    List.any_eq_false.mpr fun i hi => by simp [(hbyte i (List.mem_range.mp hi)).2]
  have hmap : (List.range n).map (fun i => localByte s (ioPlace addr + i)) = (List.range n).map mem :=
    List.map_congr_left fun i hi => (hbyte i (List.mem_range.mp hi)).1
  rw [hostCxlIoRead hn hlim hrow, hclean, hmap]
  exact ⟨_, rfl, rfl, rfl, rfl, rfl⟩

/-- R65, R68, R415: a register is read at its place in this step's addresses (log entry 61). -/
theorem hostCxlIo_register_read (s : State) {o : Nat} (ho : o % 8 = 0) (hlt : o < 0x800000) :
    ∃ u, exec (.hostCxlIoWindowAccess (0xF0000000000 + o) 8 none) s = .next u ∧
      u.hostReply = (leBytes 8 (s.readReg o).toNat, false) ∧ u.regs = s.regs ∧ u.cores = s.cores ∧ u.hbm = s.hbm := by
  have hplace : ioPlace (0xF0000000000 + o) = 0xF0000000000 + o := by
    unfold ioPlace winEnd winBase regBase
    rw [if_neg (by omega), if_neg (by omega), Nat.mod_eq_of_lt (by omega)]
  have hlim : ioLimit (0xF0000000000 + o) = 8 := by
    unfold ioLimit regBase
    rw [if_pos (by omega)]
  have hrow : ∀ i, i < 8 → rowOf (0xF0000000000 + o + i) = some .regs := by
    intro i hi
    unfold rowOf
    rw [if_neg (by unfold hbmSize; omega), if_neg (by unfold hostBase winBase; omega), if_neg (by unfold winBase winEnd; omega),
      if_pos (by unfold regBase; omega)]
  have hbyte : ∀ i, i < 8 → localByte s (ioPlace (0xF0000000000 + o) + i) = nth 0 (leBytes 8 (s.readReg o).toNat) i ∧
      localBad s (ioPlace (0xF0000000000 + o) + i) = false := by
    intro i hi
    rw [hplace]
    unfold localByte localBad
    rw [hrow i hi]
    refine ⟨?_, rfl⟩
    change bar0Byte s (0xF0000000000 + o + i - regBase) = _
    rw [show 0xF0000000000 + o + i - regBase = o + i by unfold regBase; omega, bar0Byte,
      if_neg (by unfold stagingOff; omega), show (o + i) / 8 * 8 = o by omega, show (o + i) % 8 = i by omega]
  exact hostCxlIoRead_clean _ (by omega) (Nat.le_of_eq hlim.symm) (by rw [hplace, ← Nat.add_zero (_ + o), hrow 0 (by omega)]; simp) hbyte

/-- A window read answers the bytes from `from_` on of `mem`, and no core and no byte of HBM differs after it. -/
def Reads (s : State) (c n from_ : Nat) (mem : Nat → Byte) : Prop :=
  ∃ u, exec (.hostCxlIoWindowAccess (0x800000 * c + from_) n none) s = .next u ∧
    u.hostReply = ((List.range n).map fun i => mem (from_ + i), false) ∧ u.cores = s.cores ∧ u.hbm = s.hbm

/-- A run of one window whose bytes hold no error is read as it stands. -/
theorem reads_of {s : State} {c n from_ : Nat} {mem : Nat → Byte} (hc : c < 192) (hn : 0 < n) (hn64 : n ≤ 64)
    (hend : from_ + n ≤ 0x800000)
    (hbyte : ∀ b, from_ ≤ b → b < from_ + n →
      localByte s (winBase + (0x800000 * c + b)) = mem b ∧ localBad s (winBase + (0x800000 * c + b)) = false) :
    Reads s c n from_ mem := by
  have hplace := ioPlace_window hc (show from_ < 0x800000 by omega)
  have hlim := ioLimit_window hc (show from_ < 0x800000 by omega)
  obtain ⟨u, hu, hreply, -, hcores, hhbm⟩ := hostCxlIoRead_clean (s := s) (fun i => mem (from_ + i)) hn (by rw [hlim]; exact hn64)
    (by rw [hplace]; exact rowOf_window_ne_hbm hc (by omega)) (fun i hi => by
      rw [hplace, Nat.add_assoc, Nat.add_assoc]
      exact hbyte (from_ + i) (by omega) (by omega))
  exact ⟨u, hu, hreply, hcores, hhbm⟩

/-- R442: the data scratchpad of a core that a context holds. -/
theorem reads_data {s : State} {c n off : Nat} (hc : c < 192) (hn : 0 < n) (hn64 : n ≤ 64)
    (howner : (s.core c).owner.isSome = true) (hend : off + n ≤ 0x600000) (hbad : (s.core c).seat.bad = []) :
    Reads s c n off (Mem.byte (s.core c).seat.spad) :=
  reads_of hc hn hn64 (by omega) fun b _ hb => by
    have hclean : (s.core c).ioBad b = false := by
      rw [ioBad_data howner (by omega), Seat.isBad, hbad]; rfl
    exact ⟨(localByte_window hc (by omega)).trans (ioByte_data hc howner (by omega) hclean),
      (localBad_window hc (by omega)).trans hclean⟩

/-- R130: the supervisor region, whoever holds the core. -/
theorem reads_sup {s : State} {c n off : Nat} (hc : c < 192) (hn : 0 < n) (hn64 : n ≤ 64) (hend : off + n ≤ 0x8000)
    (hbad : (s.core c).svrBad = []) : Reads s c n (0x600000 + off) fun b => Mem.byte (s.core c).svr (b - 0x600000) :=
  reads_of hc hn hn64 (by omega) fun b hlo hb => by
    have hclean : (s.core c).ioBad b = false := ioBad_sup (by omega) (by omega) hbad
    exact ⟨(localByte_window hc (by omega)).trans (ioByte_sup hc (by omega) (by omega) hclean),
      (localBad_window hc (by omega)).trans hclean⟩

/-- R65: the unassigned end of a window. -/
theorem reads_unassigned {s : State} {c n off : Nat} (hc : c < 192) (hn : 0 < n) (hn64 : n ≤ 64) (hlo : 0x680000 ≤ off)
    (hend : off + n ≤ 0x800000) : Reads s c n off fun _ => 0 :=
  reads_of hc hn hn64 hend fun _ _ _ => local_unassigned hc (by omega) (by omega)

/-- R424, R442: a read that meets an error sets UE, and its bytes without an error are read as they stand. -/
theorem hostCxlIo_data_read_bad {s : State} {c n off : Nat} (hc : c < 192) (hn : 0 < n) (hn64 : n ≤ 64)
    (howner : (s.core c).owner.isSome = true) (hend : off + n ≤ 0x600000) (hbad : (s.core c).seat.isBad off n = true) :
    ∃ u, exec (.hostCxlIoWindowAccess (0x800000 * c + off) n none) s = .next u ∧ u.flag oECCSTAT 0 = true ∧ u.cores = s.cores ∧
      u.hbm = s.hbm ∧ u.hostReply.1.length = n ∧ ∀ i, i < n → (s.core c).seat.isBad (off + i) 1 = false →
        nth 0 u.hostReply.1 i = Mem.byte (s.core c).seat.spad (off + i) := by
  have hplace := ioPlace_window hc (show off < 0x800000 by omega)
  have hlim := ioLimit_window hc (show off < 0x800000 by omega)
  have hat : ∀ i, ioPlace (0x800000 * c + off) + i = winBase + (0x800000 * c + (off + i)) := by
    intro i; rw [hplace, Nat.add_assoc, Nat.add_assoc]
  have hioBad : ∀ i, i < n → (s.core c).ioBad (off + i) = (s.core c).seat.isBad (off + i) 1 :=
    fun i hi => ioBad_data howner (by omega)
  have hmet : (List.range n).any (fun i => localBad s (ioPlace (0x800000 * c + off) + i)) = true := by
    obtain ⟨i, hi, hib⟩ := isBad_byte hn hbad
    refine List.any_eq_true.mpr ⟨i, List.mem_range.mpr hi, ?_⟩
    rw [hat, localBad_window hc (by omega), hioBad i hi, hib]
  rw [hostCxlIoRead hn (by rw [hlim]; exact hn64) (by rw [hplace]; exact rowOf_window_ne_hbm hc (by omega)), hmet]
  refine ⟨_, rfl, setUE_flag s, setUE_cores s, setUE_hbm s, by simp, fun i hi hgood => ?_⟩
  rw [nth_map_range hi, hat, localByte_window hc (by omega), ioByte_data hc howner (by omega) ((hioBad i hi).trans hgood)]

/-! ## CXL.io writes of windows -/

/-- A write inside the window area is a window write (R65). -/
theorem localWrite_window {s : State} {a : Nat} {bs : List Byte} (hne : bs ≠ []) (hlo : winBase ≤ a)
    (hhi : a + bs.length ≤ winEnd) : localWrite a bs s = ioWrite (a - winBase) bs s := by
  have hhbm : (clip 0 hbmSize a bs).2 = [] := clip_outside (.inr (by unfold winBase at hlo; unfold hbmSize; omega))
  have hregs : (clip regBase (2 ^ 44) a bs).2 = [] := clip_outside (.inl (by unfold winEnd at hhi; unfold regBase; omega))
  simp [-Nat.reducePow, localWrite, hhbm, hregs, clip_inside hlo hhi, hne]

/-- A run inside the data scratchpad of a held core is written in words (R125, R442). -/
theorem ioWrite_data {s : State} {c off : Nat} {bs : List Byte} (hc : c < 192) (howner : (s.core c).owner.isSome = true)
    (hne : bs ≠ []) (hend : off + bs.length ≤ 0x600000) :
    ioWrite (0x800000 * c + off) bs s = s.putSeat c ((s.core c).seat.writeWords off (bs.length + 1) bs) := by
  have hpos := List.length_pos_iff.mpr hne
  have hdiv := window_div (c := c) (show off < 0x800000 by omega)
  have hmod := window_mod (c := c) (show off < 0x800000 by omega)
  have hrow : rowEnd (0x800000 * c + off) - (0x800000 * c + off) = 0x600000 - off := by
    unfold rowEnd
    simp only [hdiv, hmod]
    rw [if_pos (by omega)]; omega
  have hrun : ioRun (0x800000 * c + off) bs s = s.putSeat c ((s.core c).seat.writeWords off (bs.length + 1) bs) := by
    unfold ioRun
    simp only [hdiv, hmod]
    rw [if_neg (by simp [hne]; omega), if_neg (by omega), if_neg (by simp [Option.ne_none_iff_isSome, howner]), if_pos (by omega)]
  simp only [ioWrite, hrow]
  rw [List.take_of_length_le (by omega), List.drop_eq_nil_of_le (by omega), hrun, ioRun]
  rfl

/-- Without reservations (R220) a write performs at once. -/
theorem write_unreserved {x : Seat} (hresv : x.resv = []) (who : Option Bool) (cyc a : Nat) (bs : List Byte) :
    x.write who cyc a bs = { x with spad := Mem.setBytes x.spad a bs, bad := leftBad a bs.length x.bad } := by
  rw [Seat.write, hresv]; rfl

/-- Without reservations (R220) a write in words writes the run, and drops the errors of doublewords written whole. -/
theorem writeWords_eq {fuel : Nat} : ∀ {x : Seat} {a : Nat} {bs : List Byte}, x.resv = [] → bs.length ≤ fuel →
    ∃ bad, x.writeWords a fuel bs = { x with spad := Mem.setBytes x.spad a bs, bad := bad } := by
  induction fuel with
  | zero =>
    intro x a bs _ hlen
    obtain rfl := List.length_eq_zero_iff.mp (Nat.le_zero.mp hlen)
    exact ⟨x.bad, rfl⟩
  | succ fuel ih =>
    intro x a bs hresv hlen
    rcases bs with _ | ⟨b, bs⟩
    · exact ⟨x.bad, rfl⟩
    · have hdrop : ((b :: bs).drop (8 - a % 8)).length ≤ fuel := by rw [List.length_drop]; omega
      obtain ⟨bad, h⟩ := ih (x := x.write none 0 a ((b :: bs).take (8 - a % 8))) (a := a + (8 - a % 8))
        (by rw [write_unreserved hresv]; exact hresv) hdrop
      rw [Seat.writeWords, h, write_unreserved hresv]
      · exact ⟨bad, by rw [setBytes_take_drop]⟩
      · exact List.cons_ne_nil b bs

/-- R125, R442: a write of the data scratchpad of a core that a context holds. -/
theorem hostCxlIo_data_write {s : State} {c off : Nat} {bs : List Byte} (hc : c < 192) (howner : (s.core c).owner.isSome = true)
    (hne : bs ≠ []) (h64 : bs.length ≤ 64) (hend : off + bs.length ≤ 0x600000) (hresv : (s.core c).seat.resv = []) (n : Nat) :
    ∃ u, exec (.hostCxlIoWindowAccess (0x800000 * c + off) n (some bs)) s = .next u ∧
      Overwritten bs (Mem.byte (u.seat c).spad) (Mem.byte (s.core c).seat.spad) off ∧
      (u.seat c).tiles = (s.core c).seat.tiles ∧ (u.seat c).prim = (s.core c).seat.prim ∧
      (u.seat c).sec = (s.core c).seat.sec ∧ (∀ e, e ≠ c → u.core e = s.core e) ∧ u.hbm = s.hbm := by
  have hpos := List.length_pos_iff.mpr hne
  have hoff : off < 0x800000 := by omega
  have hgo : ¬(bs.isEmpty = true ∨ ioLimit (0x800000 * c + off) < bs.length) := by
    rw [ioLimit_window hc hoff]; simp [hne]; omega
  obtain ⟨bad, hseat⟩ := writeWords_eq (fuel := bs.length + 1) (a := off) hresv (Nat.le_succ bs.length)
  have hexec : exec (.hostCxlIoWindowAccess (0x800000 * c + off) n (some bs)) s =
      .next (s.putSeat c { (s.core c).seat with spad := Mem.setBytes (s.core c).seat.spad off bs, bad := bad }) := by
    rw [exec_hostCxlIoWindowAccess, execHostCxlIoWindowAccess]
    simp only [if_neg hgo]
    rw [ioPlace_window hc hoff, localWrite_window hne (by omega) (by unfold winBase winEnd; omega), Nat.add_sub_cancel_left,
      ioWrite_data hc howner hne hend, hseat]
  refine ⟨_, hexec, ?_, by simp, by simp, by simp, fun e he => by simp [State.putSeat, he], rfl⟩
  rw [seat_putSeat, if_pos rfl]
  exact overwritten_setBytes _ off bs

/-! ## Writes of the supervisor region (R130) -/

/-- R130: the region of the core changes; what its streams may still see of the words replaced is noted with them. -/
theorem hostSupervisorWrite_region {s : State} {c off : Nat} {bs : List Byte} (hc : c < 192) (hne : bs ≠ [])
    (hend : off + bs.length ≤ 0x8000) :
    ∃ u, exec (.hostSupervisorWrite c off bs) s = .next u ∧
      Overwritten bs (Mem.byte (u.core c).svr) (Mem.byte (s.core c).svr) off ∧
      (u.seat c).spad = (s.core c).seat.spad ∧ (u.seat c).ispad = (s.core c).seat.ispad ∧
      (∀ e, e ≠ c → u.core e = s.core e) ∧
      (∀ b, (u.st c b).regs = (s.st c b).regs ∧ (u.st c b).pc = (s.st c b).pc) ∧ u.hbm = s.hbm := by
  have hgo : ¬(192 ≤ c ∨ 0x8000 < off + bs.length ∨ bs.isEmpty = true) := by simp [hne]; omega
  obtain ⟨olds, cs, hwrite⟩ : ∃ olds cs, writeSup c off bs s =
      { s.putCore c { s.core c with
          svr := Mem.setBytes (s.core c).svr off bs, svrBad := leftBad off bs.length (s.core c).svrBad,
          seat := (s.core c).seat.staleSup olds } with ctxs := cs } := ⟨_, _, rfl⟩
  have hcore : ∀ e, (writeSup c off bs s).core e = if e = c then { s.core c with
      svr := Mem.setBytes (s.core c).svr off bs, svrBad := leftBad off bs.length (s.core c).svrBad,
      seat := (s.core c).seat.staleSup olds } else s.core e := by
    intro e
    rw [hwrite, ← core_putCore]; rfl
  refine ⟨writeSup c off bs s, by rw [exec_hostSupervisorWrite, execHostSupervisorWrite, if_neg hgo], ?_, ?_, ?_,
    fun e he => by rw [hcore, if_neg he], ?_, rfl⟩
  · rw [hcore, if_pos rfl]
    exact overwritten_setBytes _ off bs
  · rw [State.seat, hcore, if_pos rfl]; rfl
  · rw [State.seat, hcore, if_pos rfl]; rfl
  · intro b
    rw [State.st, State.seat, hcore, if_pos rfl]
    cases b <;> exact ⟨rfl, rfl⟩

/-! ## CXL.mem (R67, R139, R414, R417) -/

/-- R67, R414: a read of HBM without an error answers its bytes, with zeros for what an image hides. -/
theorem hostCxlMemRead_clean {s : State} {a n : Nat} (hn : 0 < n) (hend : a + n ≤ 0x6C00000000) (hst : 4 ≤ s.stage)
    (hclean : s.poisoned a n = false) :
    ∃ u, exec (.hostCxlMemRead a n) s = .next u ∧ u = { s with hostReply := u.hostReply } ∧
      u.hostReply = ((List.range n).map fun i => if hiddenByte s (a + i) then 0 else Mem.byte s.hbm (a + i), false) := by
  rw [exec_hostCxlMemRead, execHostCxlMemRead, if_neg (by unfold hbmSize; omega), if_neg (by omega), hclean]
  exact ⟨_, rfl, rfl, rfl⟩

/-- R417: a read of a line with an error carries poison and sets UE. -/
theorem hostCxlMemRead_poisoned {s : State} {a n : Nat} (hn : 0 < n) (hend : a + n ≤ 0x6C00000000) (hst : 4 ≤ s.stage)
    (hbad : s.poisoned a n = true) :
    ∃ u, exec (.hostCxlMemRead a n) s = .next u ∧ u.hostReply.2 = true ∧
      u.flag oECCSTAT 0 = true ∧ u.hbm = s.hbm ∧ u.poison = s.poison := by
  rw [exec_hostCxlMemRead, execHostCxlMemRead, if_neg (by unfold hbmSize; omega), if_neg (by omega), hbad]
  exact ⟨_, rfl, by simp, setUE_flag _, by simp, by simp⟩

/-- R139: below READY a read answers poison. -/
theorem hostCxlMemRead_early {s : State} {a n : Nat} (hn : 0 < n) (hend : a + n ≤ 0x6C00000000) (hst : s.stage < 4) :
    ∃ u, exec (.hostCxlMemRead a n) s = .next u ∧ u.hostReply.2 = true ∧ u.hbm = s.hbm := by
  rw [exec_hostCxlMemRead, execHostCxlMemRead, if_neg (by unfold hbmSize; omega), if_pos hst]
  exact ⟨_, rfl, rfl, rfl⟩

/-- R62, R417: a write of HBM changes its bytes, and the lines that it covers whole lose their errors. -/
theorem hostCxlMemWrite_ready {s : State} {a : Nat} {bs : List Byte} (hend : a + bs.length ≤ 0x6C00000000) (hst : 4 ≤ s.stage) :
    ∃ u, exec (.hostCxlMemWrite a bs) s = .next u ∧ Overwritten bs (Mem.byte u.hbm) (Mem.byte s.hbm) a ∧ u.cores = s.cores ∧
      u.regs = s.regs ∧ ∀ l, l ∈ u.poison ↔ l ∈ s.poison ∧ ¬(a ≤ 64 * l ∧ 64 * l + 64 ≤ a + bs.length) := by
  obtain ⟨cs, hwrite⟩ := ctxsOnly_imageTouch a bs.length (hbmPut a bs s)
  have hexec : exec (.hostCxlMemWrite a bs) s = .next { hbmPut a bs s with ctxs := cs } := by
    rw [exec_hostCxlMemWrite, execHostCxlMemWrite, if_neg (by unfold hbmSize; omega), hbmWrite, hwrite]
  refine ⟨_, hexec, overwritten_setBytes s.hbm a bs, rfl, rfl, fun l => ?_⟩
  simp only [hbmPut, List.mem_filter, Bool.not_eq_true', Bool.and_eq_false_iff, decide_eq_false_iff_not, Classical.not_and_iff_not_or_not]

/-- R139: below READY a write is dropped. -/
theorem hostCxlMemWrite_early {s : State} {a : Nat} {bs : List Byte} (hst : s.stage < 4) :
    exec (.hostCxlMemWrite a bs) s = .next s := by
  rw [exec_hostCxlMemWrite, execHostCxlMemWrite, if_pos (.inr hst)]

/-- Settles O45: each clause is the lemma on that access. -/
theorem hostAccesses : Obligations.HostAccesses := by
  intro s o lo x c off n a bs
  refine ⟨fun ho hp hne hlen => registerWrite_plain ho hp hne hlen, fun ho hlt => hostCxlIo_register_read s ho hlt,
    fun hx => registerWrite_runs_command s hx, fun hc hn hn64 => ⟨?_, ?_, ?_, ?_⟩,
    fun hc howner hne h64 hend hresv => hostCxlIo_data_write hc howner hne h64 hend hresv n,
    fun hc hne hend => hostSupervisorWrite_region hc hne hend, fun hn hend => ⟨?_, ?_, ?_⟩,
    fun hend => ⟨hostCxlMemWrite_ready hend, hostCxlMemWrite_early⟩⟩
  · exact fun howner hend hbad => reads_data hc hn hn64 howner hend hbad
  · exact fun howner hend hbad => hostCxlIo_data_read_bad hc hn hn64 howner hend hbad
  · exact fun hend hbad => reads_sup hc hn hn64 hend hbad
  · exact fun hlo hend => reads_unassigned hc hn hn64 hlo hend
  · exact hostCxlMemRead_clean hn hend
  · exact hostCxlMemRead_poisoned hn hend
  · exact hostCxlMemRead_early hn hend

end Sys2Proof.Machine.HostAccess
end

section
/-! The key-use log, fault records and page walks of a context (R58 to R60, R80, R85, R269, R386, R400, R401). -/

namespace Sys2Proof.Machine.Reports

/-! ## The stream that issued (R59, R85) -/

/-- The oldest key-use report of context `x` has left its list, in which `rs` stay. -/
def withKeyReps (s : State) (x : Nat) (rs : List KeyRep) : State := s.putCtx x { s.ctx x with keyReps := rs }

/-- The oldest fault record of context `x` has left its list, in which `ps` stay. -/
def withPosts (s : State) (x : Nat) (ps : List FPost) : State := s.putCtx x { s.ctx x with posts := ps }

@[simp] theorem ctx_withKeyReps (s : State) (x : Nat) (rs : List KeyRep) :
    (withKeyReps s x rs).ctx x = { s.ctx x with keyReps := rs } := by simp [withKeyReps]

@[simp] theorem ctx_withPosts (s : State) (x : Nat) (ps : List FPost) :
    (withPosts s x ps).ctx x = { s.ctx x with posts := ps } := by simp [withPosts]

/-- R59, R85: whether the issuer comes to a further boundary depends on its core and on its context's saved cores alone. -/
theorem issuerAlive_congr {s t : State} {x c : Nat} (hcore : t.core c = s.core c)
    (hsaved : (t.ctx x).saved = (s.ctx x).saved) (o : Origin) : issuerAlive t x c o = issuerAlive s x c o := by
  have hseat : t.seatOf x c = s.seatOf x c := by
    simp [State.seatOf, State.seat, hcore, hsaved]
  simp only [issuerAlive, issuerHolds, hseat]

@[simp] theorem issuerAlive_withKeyReps (s : State) (x c : Nat) (rs : List KeyRep) (o : Origin) :
    issuerAlive (withKeyReps s x rs) x c o = issuerAlive s x c o :=
  issuerAlive_congr (s := s) (t := withKeyReps s x rs) rfl (by simp) o

@[simp] theorem issuerAlive_withPosts (s : State) (x c : Nat) (ps : List FPost) (o : Origin) :
    issuerAlive (withPosts s x ps) x c o = issuerAlive s x c o :=
  issuerAlive_congr (s := s) (t := withPosts s x ps) rfl (by simp) o

/-- On a core that the context holds, what changes is the stream that issued. -/
theorem onIssuer_held {s : State} {x c : Nat} (howner : (s.core c).owner = some x) (o : Origin) (f : Stream → Stream) :
    onIssuer x c o f s = s.putSt c o.sec (f (s.st c o.sec)) := by
  have hseat : s.seatOf x c = s.seat c := if_pos howner
  rw [onIssuer, hseat, State.putSeatOf, if_pos howner]; rfl

/-- An update of a stream leaves every context alone. -/
@[simp] theorem ctx_putSt (s : State) (c x : Nat) (t : Bool) (y : Stream) : (s.putSt c t y).ctx x = s.ctx x := rfl

theorem killed_iff (s : State) (x : Nat) : killed s x = true ↔ s.ctxState x = 3 ∨ s.ctxState x = 4 := by
  simp [killed]

/-! ## The key-use log (R58, R59) -/

theorem keyUseReport_empty {s : State} {x : Nat} (h : (s.ctx x).keyReps = []) : exec (.keyUseReport x) s = .next s := by
  rw [exec_keyUseReport, execKeyUseReport]; simp only [h]

/-- R58: a report whose pair is not logged enters the log; of 64 entries the oldest goes. -/
theorem keyUseReport_new {s : State} {x : Nat} {r : KeyRep} {rs : List KeyRep} (h : (s.ctx x).keyReps = r :: rs)
    (hnew : ∀ e, ¬ (e ∈ (s.ctx x).keylog ∧ e.1 = r.ktens ∧ e.2.1 = r.kstep)) :
    exec (.keyUseReport x) s = .next (s.putCtx x { s.ctx x with
      keyReps := rs
      keylog := (if 64 ≤ (s.ctx x).keylog.length then (s.ctx x).keylog.drop 1 else (s.ctx x).keylog)
        ++ [(r.ktens, r.kstep, r.ident)] }) := by
  have hfind : (s.ctx x).keylog.find? (fun e => decide (e.1 = r.ktens) && decide (e.2.1 = r.kstep)) = none := by
    refine List.find?_eq_none.mpr fun e he hclash => hnew e ⟨he, ?_⟩
    simpa using hclash
  rw [exec_keyUseReport, execKeyUseReport]; simp only [h, hfind]

section
variable {s : State} {x : Nat} {r : KeyRep} {rs : List KeyRep} {e : W32 × W32 × Word}
  (h : (s.ctx x).keyReps = r :: rs)
  (hfind : (s.ctx x).keylog.find? (fun e => decide (e.1 = r.ktens) && decide (e.2.1 = r.kstep)) = some e)
include h hfind

/-- R59: a report that agrees with the entry, or whose stream has KWEN = 0, leaves no trace. -/
theorem keyUseReport_agrees (hsame : e.2.2 = r.ident ∨ r.org.kwen = false) :
    exec (.keyUseReport x) s = .next (withKeyReps s x rs) := by
  rw [exec_keyUseReport, execKeyUseReport]; simp only [h, hfind, if_pos hsame, withKeyReps]

/-- R59: a report that conflicts with the entry becomes pending in the stream that issued. -/
theorem keyUseReport_conflicts (hdiff : e.2.2 ≠ r.ident) (hkwen : r.org.kwen = true)
    (howner : (s.core r.core).owner = some x) (halive : issuerAlive s x r.core r.org = true) :
    exec (.keyUseReport x) s = .next ((withKeyReps s x rs).putSt r.core r.org.sec
      { s.st r.core r.org.sec with pend := { (s.st r.core r.org.sec).pend with
          keywarns := (s.st r.core r.org.sec).pend.keywarns ++
            [⟨r.ident, r.org.bundle, r.org.slot, cKEYWARN, 1, r.unit, 0, s.gtb⟩] } }) := by
  have hwarns : ¬(e.2.2 = r.ident ∨ r.org.kwen = false) := by simp [hdiff, hkwen]
  rw [exec_keyUseReport, execKeyUseReport]
  simp only [h, hfind, if_neg hwarns]
  have hissuer : issuerAlive (withKeyReps s x rs) x r.core r.org = true := by rw [issuerAlive_withKeyReps, halive]
  exact (if_pos hissuer).trans (congrArg _ (onIssuer_held (s := withKeyReps s x rs) howner _ _))

end

/-! ## What a record does to its stream (R85, R269, R386) -/

/-- R269, R386: a routine's fault is a trap condition, with the errors of storage first. -/
theorem takeRec_routine (t : Stream) {f : FRec} (hc : f.cause = 10) :
    t.takeRec f = { t with pend :=
      if f.code = 14 then { t.pend with ecc := t.pend.ecc ++ [⟨f.code, f.bundle, f.slot, f.va.toNat, some f⟩] }
      else { t.pend with routine := t.pend.routine ++ [⟨f.code, f.bundle, f.slot, f.va.toNat, some f⟩] } } := if_pos hc

/-- R85: any other record joins the queue of eight, and past it counts in FLOST. -/
theorem takeRec_fault (t : Stream) {f : FRec} (hc : f.cause ≠ 10) :
    t.takeRec f =
      if t.pend.faults.length < 8 then { t with pend := { t.pend with faults := t.pend.faults ++ [f] } }
      else { t with trap := { t.trap with flost := (t.trap.flost + 1) % 2 ^ 32 }, pend := { t.pend with lost := true } } :=
  if_neg hc

/-! ## The images that a write to HBM touches (R435) -/

/-- The context `z` differs from `y` at most in what it knows of its images. -/
def ImageOnly (y z : Ctx) : Prop := ∃ sv od ta, z = { y with saved := sv, odd := od, taint := ta }

theorem ImageOnly.refl (y : Ctx) : ImageOnly y y := ⟨_, _, _, rfl⟩

theorem ImageOnly.posts {y z : Ctx} (h : ImageOnly y z) : z.posts = y.posts := by
  obtain ⟨_, _, _, rfl⟩ := h; rfl

/-- Every context differs at most in what it knows of its images. -/
def ImagesOnly (s t : State) : Prop := ∀ z, ImageOnly (s.ctx z) (t.ctx z)

theorem ImagesOnly.refl (s : State) : ImagesOnly s s := fun _ => .refl _

theorem ImagesOnly.trans {s t u : State} (h : ImagesOnly s t) (k : ImagesOnly t u) : ImagesOnly s u := by
  intro z
  obtain ⟨_, _, _, ht⟩ := h z
  obtain ⟨sv, od, ta, hu⟩ := k z
  exact ⟨sv, od, ta, by rw [hu, ht]⟩

theorem imagesOnly_putCtx {s : State} {x : Nat} {y : Ctx} (h : ImageOnly (s.ctx x) y) : ImagesOnly s (s.putCtx x y) := by
  intro z
  rw [ctx_putCtx]
  split
  · subst_vars; exact h
  · exact .refl _

theorem imagesOnly_mendImage (x c lo n : Nat) (s : State) : ImagesOnly s (mendImage x c lo n s) := by
  rw [mendImage]
  split
  · split
    · exact .refl s
    · exact imagesOnly_putCtx ⟨_, _, _, rfl⟩
  · exact .refl s

theorem imagesOnly_markImage (x c lo hi : Nat) (s : State) : ImagesOnly s (markImage x c lo hi s) := by
  refine (imagesOnly_mendImage x c lo (hi - lo) s).trans ?_
  rw [markImage]
  split
  · exact .refl _
  · split <;> exact imagesOnly_putCtx ⟨_, _, _, rfl⟩

theorem imagesOnly_imageTouch (a n : Nat) (s : State) : ImagesOnly s (imageTouch a n s) := by
  refine foldl_keeps (ImagesOnly s) _ (fun t x ht => ?_) _ _ (.refl s)
  split
  · exact ht
  · refine foldl_keeps (ImagesOnly s) _ (fun u c hu => ?_) _ _ ht
    dsimp only
    split
    · exact hu.trans (imagesOnly_markImage _ _ _ _ u)
    · exact hu

/-! ## The fault ring (R401) -/

@[simp] theorem fld_setFld_whole (s : State) (o v : Nat) : (s.setFld o 0 64 v).fld o 0 64 = v % 2 ^ 64 := by
  have hlt := (s.reg o).isLt
  rw [State.fld, State.setFld, HostAccess.reg_setReg, BitVec.toNat_ofNat, insBits]
  omega

/-- R401: a record for the ring advances its head by one, changes no core, and of a context only what it knows of its images. -/
theorem toRing_frame (x : Nat) (r : FRec) (s : State) :
    (toRing x r s).cores = s.cores ∧ ImagesOnly s (toRing x r s) ∧
      (toRing x r s).fld (ccbOff x + 0x38) 0 64 = (s.fld (ccbOff x + 0x38) 0 64 + 1) % 2 ^ 64 := by
  obtain ⟨t, hring, hcores, himages⟩ : ∃ t : State,
      toRing x r s = t.setFld (ccbOff x + 0x38) 0 64 (s.fld (ccbOff x + 0x38) 0 64 + 1) ∧
        t.cores = s.cores ∧ ImagesOnly s t := by
    refine ⟨_, rfl, ?_, ?_⟩
    · split
      · obtain ⟨_, _, _, hwrite⟩ := hbmWrite_eq _ _ s
        rw [hwrite]
      · rfl
    · split
      · exact imagesOnly_imageTouch _ _ (hbmPut _ _ s)
      · exact .refl s
  rw [hring]
  exact ⟨hcores, himages, fld_setFld_whole _ _ _⟩

/-! ## Fault records (R85, R400, R401) -/

section
variable {s : State} {x : Nat} {p : FPost}

/-- R400: the record of a killed context vanishes. -/
theorem deliverRec_killed (hkilled : s.ctxState x = 3 ∨ s.ctxState x = 4) : deliverRec x p s = s :=
  if_pos ((killed_iff s x).mpr hkilled)

/-- R85: a record reaches the stream that issued. -/
theorem deliverRec_alive (hlives : ¬ (s.ctxState x = 3 ∨ s.ctxState x = 4)) (howner : (s.core p.core).owner = some x)
    (halive : issuerAlive s x p.core p.org = true) :
    deliverRec x p s = s.putSt p.core p.org.sec ((s.st p.core p.org.sec).takeRec p.frec) := by
  rw [deliverRec, if_neg (mt (killed_iff s x).mp hlives), if_pos halive, onIssuer_held howner]

/-- R401: the record of a task that has ended goes to the fault ring. -/
theorem deliverRec_ended (hlives : ¬ (s.ctxState x = 3 ∨ s.ctxState x = 4)) (hended : issuerAlive s x p.core p.org = false) :
    deliverRec x p s = countRec p.org p.frec.cause (toRing x p.frec s) := by
  rw [deliverRec, if_neg (mt (killed_iff s x).mp hlives), if_neg (by simp [hended])]

theorem faultRecordPost_empty (h : (s.ctx x).posts = []) : exec (.faultRecordPost x) s = .next s := by
  rw [exec_faultRecordPost, execFaultRecordPost]; simp only [h]

variable {ps : List FPost} (h : (s.ctx x).posts = p :: ps)
include h

/-- R85: the oldest record leaves its context's list and is delivered. -/
theorem faultRecordPost_delivers :
    exec (.faultRecordPost x) s = .next (deliverRec x p (withPosts s x ps)) := by
  rw [exec_faultRecordPost, execFaultRecordPost]; simp only [h, withPosts]

theorem faultRecordPost_killed (hkilled : s.ctxState x = 3 ∨ s.ctxState x = 4) :
    exec (.faultRecordPost x) s = .next (withPosts s x ps) := by
  rw [faultRecordPost_delivers h, deliverRec_killed (s := withPosts s x ps) hkilled]

theorem faultRecordPost_alive (hlives : ¬ (s.ctxState x = 3 ∨ s.ctxState x = 4)) (howner : (s.core p.core).owner = some x)
    (halive : issuerAlive s x p.core p.org = true) :
    exec (.faultRecordPost x) s = .next ((withPosts s x ps).putSt p.core p.org.sec
      ((s.st p.core p.org.sec).takeRec p.frec)) := by
  rw [faultRecordPost_delivers h, deliverRec_alive (s := withPosts s x ps) hlives howner (by simp [halive])]; rfl

/-- R401: the record of an ended task changes no core, and the ring's head advances by one. -/
theorem faultRecordPost_ended (hlives : ¬ (s.ctxState x = 3 ∨ s.ctxState x = 4))
    (hended : issuerAlive s x p.core p.org = false) :
    ∃ u, exec (.faultRecordPost x) s = .next u ∧ (u.ctx x).posts = ps ∧ u.cores = s.cores ∧
      u.fld (ccbOff x + 0x38) 0 64 = (s.fld (ccbOff x + 0x38) 0 64 + 1) % 2 ^ 64 := by
  obtain ⟨hcores, himages, hhead⟩ := toRing_frame x p.frec (withPosts s x ps)
  refine ⟨_, faultRecordPost_delivers h, ?_⟩
  rw [deliverRec_ended (s := withPosts s x ps) hlives (by simp [hended])]
  exact ⟨(himages x).posts.trans (by simp), hcores, hhead⟩

end

/-! ## Page walks (R78, R80) -/

theorem pageWalk_empty {s : State} {x : Nat} (h : (s.ctx x).walks = []) : exec (.pageWalk x) s = .next s := by
  rw [exec_pageWalk, execPageWalk]; simp only [h]

/-- R80: the oldest request is walked and its result cached; only registers and interrupts can change besides (UE, R424). -/
theorem pageWalk_caches {s : State} {x : Nat} {r : WalkReq} {rs : List WalkReq} (h : (s.ctx x).walks = r :: rs) :
    ∃ regs msix, exec (.pageWalk x) s = .next (State.putCtx { s with regs := regs, msix := msix } x
      { s.ctx x with walks := rs, tlb := (s.ctx x).tlb ++ [walk s x (r.va / 4096)] }) := by
  obtain ⟨regs, msix, hue⟩ : ∃ regs msix, (if (walk s x (r.va / 4096)).fault = cWALKERR then s.setUE else s) =
      { s with regs := regs, msix := msix } := by
    split
    · exact HostAccess.setUE_eq s
    · exact ⟨s.regs, s.msix, rfl⟩
  refine ⟨regs, msix, ?_⟩
  rw [← hue, exec_pageWalk, execPageWalk]
  simp only [h, Nat.reducePow]

/-! ## The obligation -/

/-- Settles O57: each clause is the lemma on that case of its step. -/
theorem reportsAndWalks : Obligations.ReportsAndWalks := by
  intro s x
  refine ⟨fun r rs h => ⟨fun hnew => ?_, fun e hfind => ⟨fun hsame => ?_, fun hdiff hkwen howner halive => ?_⟩⟩,
    fun p ps h => ⟨fun hkilled => ?_, fun h3 h4 howner halive hcause => ?_, fun h3 h4 howner halive hcause => ?_,
      fun h3 h4 hended => faultRecordPost_ended h (not_or.mpr ⟨h3, h4⟩) hended⟩,
    fun r rs h => ?_, keyUseReport_empty, faultRecordPost_empty, pageWalk_empty⟩
  · exact ⟨_, keyUseReport_new h hnew, by simp, by simp, rfl, rfl⟩
  · exact ⟨_, keyUseReport_agrees h hfind hsame, by simp, by simp, rfl, rfl⟩
  · exact ⟨_, keyUseReport_conflicts h hfind hdiff hkwen howner halive, by simp, by simp, rfl,
      ⟨r.ident, r.org.bundle, r.org.slot, cKEYWARN, 1, r.unit, 0, s.gtb⟩, rfl, rfl, rfl, rfl, rfl, by simp⟩
  · exact ⟨_, faultRecordPost_killed h hkilled, by simp, rfl, rfl⟩
  · refine ⟨_, faultRecordPost_alive h (not_or.mpr ⟨h3, h4⟩) howner halive, by simp, rfl, ?_⟩
    rw [st_putSt, if_pos ⟨rfl, rfl⟩, takeRec_fault _ hcause]
  · refine ⟨_, faultRecordPost_alive h (not_or.mpr ⟨h3, h4⟩) howner halive, by simp, rfl, ?_⟩
    rw [st_putSt, if_pos ⟨rfl, rfl⟩, takeRec_routine _ hcause]
  · obtain ⟨regs, msix, hexec⟩ := pageWalk_caches h
    exact ⟨_, hexec, by simp, by simp, rfl, rfl⟩

end Sys2Proof.Machine.Reports
end

section
/-! Scalar loads and single-element stores of a core as they perform (R132, R214, R220). -/

namespace Sys2Proof.Machine.CoreAccess

/-! ## The scratchpad without reservations and errors (R214, R220, R392) -/

theorem bytes_eq_map (m : Mem) (n : Nat) : ∀ a, Mem.bytes m a n = (List.range n).map fun i => Mem.byte m (a + i) := by
  induction n with
  | zero => intro a; rfl
  | succ n ih =>
    intro a
    have e : Mem.bytes m a (n + 1) = Mem.byte m a :: Mem.bytes m (a + 1) n := rfl
    rw [e, ih, List.range_succ_eq_map, List.map_cons, List.map_map]
    simp [Function.comp_def, Nat.add_comm, Nat.add_left_comm]

/-- R220: where nothing is reserved, a load samples the bytes as they stand. -/
theorem sample_of_no_resv {x : Seat} (h : x.resv = []) (t : Bool) (a n : Nat) : x.sample t a n = Mem.bytes x.spad a n := by
  simp [Seat.sample, Seat.sampleByte, h, bytes_eq_map]

theorem isBad_of_no_bad {x : Seat} (h : x.bad = []) (a n : Nat) : x.isBad a n = false := by simp [Seat.isBad, h]

/-- R220: where nothing is reserved, a write performs at once. -/
theorem write_of_no_resv {x : Seat} (h : x.resv = []) (who : Option Bool) (cyc a : Nat) (bs : List Byte) :
    x.write who cyc a bs = { x with spad := Mem.setBytes x.spad a bs, bad := leftBad a bs.length x.bad } := by
  simp [Seat.write, h]

/-! ## Streams with nothing due -/

theorem performLast_nil {s : State} {c : Nat} {t : Bool} (h : (s.st c t).lastAcc = []) : performLast c t s = s := by
  simp [performLast, h]

theorem dueAcc_nil {s : State} {c : Nat} {t : Bool} (h : (s.st c t).acc = []) (w : Bool) : dueAcc s c t w = [] := by
  simp [dueAcc, h]

/-- The only pending access, if it is due, stands among the writes or among the samples. -/
theorem dueAcc_singleton {s : State} {c : Nat} {t : Bool} {a : Access} (h : (s.st c t).acc = [a]) (hrem : a.rem = 0) (w : Bool) :
    dueAcc s c t w = if a.op.isWrite = w then [a] else [] := by
  by_cases hw : a.op.isWrite = w <;> simp [dueAcc, h, hrem, hw]

theorem sampleWait_none {s : State} {c : Nat} {t : Bool} (h : (s.st c t).wait = none) : sampleWait c t s = s := by
  simp only [sampleWait, h, ite_self]

/-- A stream without accesses and without a wait does nothing at its place in the cycle. -/
theorem performStream_idle {s : State} {c : Nat} {t : Bool} (hacc : (s.st c t).acc = []) (hlast : (s.st c t).lastAcc = [])
    (hwait : (s.st c t).wait = none) : performStream c t s = s := by
  rw [performStream]
  simp only [performLast_nil hlast, dueAcc_nil hacc, List.foldl_nil, sampleWait_none hwait]

/-! ## An access that leaves the pending ones (R213) -/

section
variable (c : Nat) (t : Bool) (a : Access) (s : State)

theorem dropAcc_seat (e : Nat) : (dropAcc c t a s).seat e =
    if e = c then { (s.seat c).putSt t { s.st c t with acc := (s.st c t).acc.filter fun b => decide (b.seq ≠ a.seq) } with
      just := (s.seat c).just ++ ((s.seat c).elemsOf a.op).map fun e => (a.cyc, e.1, e.2) } else s.seat e := by
  rw [dropAcc, seat_putSeat]; rfl

@[simp] theorem dropAcc_spad (e : Nat) : ((dropAcc c t a s).seat e).spad = (s.seat e).spad := by
  rw [dropAcc_seat]
  split
  · subst_vars; exact spad_putSt _ _ _
  · rfl

@[simp] theorem dropAcc_resv : ((dropAcc c t a s).seat c).resv = (s.seat c).resv := by
  rw [dropAcc_seat, if_pos rfl]; cases t <;> rfl

@[simp] theorem dropAcc_bad : ((dropAcc c t a s).seat c).bad = (s.seat c).bad := by
  rw [dropAcc_seat, if_pos rfl]; cases t <;> rfl

@[simp] theorem dropAcc_st (u : Bool) : (dropAcc c t a s).st c u =
    if u = t then { s.st c t with acc := (s.st c t).acc.filter fun b => decide (b.seq ≠ a.seq) } else s.st c u := by
  rw [State.st, dropAcc_seat, if_pos rfl]
  exact st_putSt_seat _ _ _ _

@[simp] theorem dropAcc_hbm : (dropAcc c t a s).hbm = s.hbm := rfl

theorem dropAcc_core {e : Nat} (he : e ≠ c) : (dropAcc c t a s).core e = s.core e := by
  simp [dropAcc, State.putSeat, he]

end

/-! ## The only pending access of a core -/

/-- The primary stream of core `c` has one pending access, which is due; nothing else can perform there in this cycle. -/
structure OnlyDue (s : State) (c : Nat) (a : Access) : Prop where
  thawed   : (s.core c).frozen = none
  accPrim  : (s.st c false).acc = [a]
  accSec   : (s.st c true).acc = []
  lastPrim : (s.st c false).lastAcc = []
  lastSec  : (s.st c true).lastAcc = []
  waitPrim : (s.st c false).wait = none
  waitSec  : (s.st c true).wait = none
  noResv   : (s.seat c).resv = []
  due      : a.rem = 0

section
variable {s : State} {c : Nat} {a : Access}

/-- What the primary's turn makes of its stream ends the cycle's accesses, as long as the secondary is left alone. -/
theorem OnlyDue.exec_eq (h : OnlyDue s c a) {t : State} (hprim : performStream c false s = t)
    (hsec : t.st c true = s.st c true) : exec (.pendingAccessPerform c) s = .next t := by
  have hidle : performStream c true t = t :=
    performStream_idle (by rw [hsec, h.accSec]) (by rw [hsec, h.lastSec]) (by rw [hsec, h.waitSec])
  simp [execPendingAccessPerform, h.thawed, hprim, hidle]

/-- A sample is the whole of the primary's turn. -/
theorem OnlyDue.performStream_sample (h : OnlyDue s c a) (hop : a.op.isWrite = false)
    (hwait : ((performSample c false a s).st c false).wait = none) :
    performStream c false s = performSample c false a s := by
  rw [performStream]
  simp only [performLast_nil h.lastPrim, dueAcc_singleton h.accPrim h.due, hop, Bool.false_eq_true, if_false, if_true,
    List.foldl_nil, List.foldl_cons, sampleWait_none hwait]

/-- A write is the whole of the primary's turn. -/
theorem OnlyDue.performStream_write (h : OnlyDue s c a) (hop : a.op.isWrite = true)
    (hacc : ((performWrite c false a s).st c false).acc = []) (hwait : ((performWrite c false a s).st c false).wait = none) :
    performStream c false s = performWrite c false a s := by
  rw [performStream]
  simp only [performLast_nil h.lastPrim, dueAcc_singleton h.accPrim h.due, hop, if_true, List.foldl_nil, List.foldl_cons,
    dueAcc_nil hacc, sampleWait_none hwait]

/-! ## A load (R132, R214) -/

/-- R214: a scalar load that meets no error brings the bytes of its element to the landing buffer. -/
theorem performSample_loadS (t : Bool) {d x n : Nat} {sg : Bool} (hop : a.op = .loadS d x n sg) (hbad : (s.seat c).bad = [])
    (hresv : (s.seat c).resv = []) :
    performSample c t a s =
      loaded c t a (.s d (loadVal n sg (Mem.bytes (s.seat c).spad x n))) (dropAcc c t a s) := by
  have hnone : ∀ es : List (Nat × Nat), (es.any fun e => ((dropAcc c t a s).seat c).isBad e.1 e.2) = false := by
    intro es
    simp [isBad_of_no_bad (x := (dropAcc c t a s).seat c) (by simpa using hbad)]
  have hsample : ((dropAcc c t a s).seat c).sample t x n = Mem.bytes (s.seat c).spad x n := by
    rw [sample_of_no_resv (by simpa using hresv), dropAcc_spad]
  simp only [performSample, hop, hnone, hsample, Bool.false_eq_true, if_false]

/-- The stream, memories and other cores after a load has entered the landing buffer. -/
theorem OnlyDue.load_performs (h : OnlyDue s c a) {d x n : Nat} {sg : Bool} (hop : a.op = .loadS d x n sg)
    (hbad : (s.seat c).bad = []) :
    ∃ t, exec (.pendingAccessPerform c) s = .next t ∧ (t.st c false).acc = [] ∧
      (t.st c false).landing = insLanding ⟨a.seq, a.lat - 1, 0, .s d (loadVal n sg (Mem.bytes (s.seat c).spad x n)),
        (a.bundle, a.slot)⟩ (s.st c false).landing ∧
      (t.st c false).regs = (s.st c false).regs ∧ t.hbm = s.hbm ∧
      ∀ e b, Mem.byte (t.seat e).spad b = Mem.byte (s.seat e).spad b := by
  have hload := performSample_loadS false hop hbad h.noResv
  have hst : ∀ u, ((performSample c false a s).st c u) = if u = false then
      { s.st c false with
        acc := []
        landing := insLanding ⟨a.seq, a.lat - 1, 0, .s d (loadVal n sg (Mem.bytes (s.seat c).spad x n)), (a.bundle, a.slot)⟩
          (s.st c false).landing } else s.st c u := by
    intro u
    rw [hload, loaded, st_putSt]
    cases u <;> simp [Stream.pushLanding, h.accPrim]
  have hspad : ∀ e, ((performSample c false a s).seat e).spad = (s.seat e).spad := by
    intro e
    rw [hload, loaded, State.putSt, seat_putSeat]
    split
    · subst_vars; simp
    · simp
  refine ⟨_, h.exec_eq (h.performStream_sample (by simp [hop, AccOp.isWrite]) (by simp [hst, h.waitPrim])) (by simp [hst]),
    by simp [hst], by simp [hst], by simp [hst], by rw [hload]; rfl, fun e b => by rw [hspad]⟩

/-! ## A store (R132, R214) -/

/-- R214: the primary's store of one element writes it whole. -/
theorem performWrite_store {x : Nat} {bs : List Byte} (hop : a.op = .store [(x, bs)]) (hresv : (s.seat c).resv = []) :
    performWrite c false a s = (dropAcc c false a s).putSeat c { (dropAcc c false a s).seat c with
      spad := Mem.setBytes (s.seat c).spad x bs, bad := leftBad x bs.length (s.seat c).bad } := by
  have hwrite := write_of_no_resv (x := (dropAcc c false a s).seat c) (by simpa using hresv) (some false) a.cyc x bs
  simp only [performWrite, hop, List.foldl_cons, List.foldl_nil, hwrite, dropAcc_spad, dropAcc_bad]

theorem OnlyDue.store_performs (h : OnlyDue s c a) {x : Nat} {bs : List Byte} (hop : a.op = .store [(x, bs)]) :
    ∃ t, exec (.pendingAccessPerform c) s = .next t ∧ (t.st c false).acc = [] ∧
      (t.seat c).spad = Mem.setBytes (s.seat c).spad x bs ∧ (∀ e, e ≠ c → t.core e = s.core e) ∧ t.hbm = s.hbm ∧
      (t.st c false).regs = (s.st c false).regs := by
  have hstore := performWrite_store hop h.noResv
  have hst : ∀ u, (performWrite c false a s).st c u = if u = false then { s.st c false with acc := [] } else s.st c u := by
    intro u
    rw [hstore, State.st, seat_putSeat, if_pos rfl]
    refine (dropAcc_st c false a s u).trans ?_
    simp [h.accPrim]
  refine ⟨_, h.exec_eq (h.performStream_write (by simp [hop, AccOp.isWrite]) (by simp [hst]) (by simp [hst, h.waitPrim]))
    (by simp [hst]), by simp [hst], by simp [hstore], fun e he => ?_, by rw [hstore]; rfl, by simp [hst]⟩
  rw [hstore]
  simp [State.putSeat, he, dropAcc_core c false a s he]

end

/-- Settles O30: with nothing else pending on the core, the access's own effect is all that the cycle does there. -/
theorem loadsAndStoresPerform : Obligations.LoadsAndStoresPerform := by
  refine ⟨fun s c a d x n sg hthaw hprim hsec hlast hlast' hwait hwait' hresv hbad hdue hop => ?_,
    fun s c a x bs hthaw hprim hsec hlast hlast' hwait hwait' hresv hdue hop => ?_⟩
  · exact OnlyDue.load_performs ⟨hthaw, hprim, hsec, hlast, hlast', hwait, hwait', hresv, hdue⟩ hop hbad
  · obtain ⟨t, hexec, hacc, hspad, hcore, hhbm, hregs⟩ :=
      OnlyDue.store_performs ⟨hthaw, hprim, hsec, hlast, hlast', hwait, hwait', hresv, hdue⟩ hop
    refine ⟨t, hexec, hacc, fun b hlo hhi => ?_, fun b hout => ?_, hcore, hhbm, hregs⟩
    · rw [hspad, Mem.byte_setBytes, if_pos ⟨hlo, hhi⟩]
    · rw [hspad, Mem.byte_setBytes_outside _ _ _ _ hout]

end Sys2Proof.Machine.CoreAccess
end

section
/-! TCTL: the tiles that a value names, its traps, and what it does to SKEW, bytes, owner states and armings (R115, R119, R123,
R124). -/

namespace Sys2Proof.Machine.TileOps

/-! ## Takes and tiles (R117 to R119) -/

@[simp] theorem tile_putTile (x : Seat) (t i : Nat) (y : Tile) : (x.putTile t y).tile i = if i = t then y else x.tile i :=
  Tab.get_set _ _ _ _ _

/-- Granting changes tiles and pending takes alone. -/
theorem grantAll_eq : ∀ (ks kept : List Take) (x : Seat), ∃ tl tk, grantAll ks kept x = { x with tiles := tl, takes := tk }
  | [], _, x => ⟨x.tiles, _, rfl⟩
  | k :: ks, kept, x => by
    rw [grantAll]
    split
    · obtain ⟨tl, tk, h⟩ := grantAll_eq ks kept (x.grant k)
      exact ⟨tl, tk, h⟩
    · exact grantAll_eq ks (kept ++ [k]) x

theorem grants_eq (x : Seat) : ∃ tl tk, x.grants = { x with tiles := tl, takes := tk } := grantAll_eq x.takes [] x

theorem grants_of_no_takes {x : Seat} (h : x.takes = []) : x.grants = x := by
  rw [Seat.grants, h, grantAll, ← h]

/-! ## The tiles of a value, and its traps (R123) -/

/-- Is tile `i` among the COUNT tiles from TILE on? -/
def named (v : Word) (i : Nat) : Bool := decide (tctlTile v ≤ i) && decide (i < tctlTile v + tctlCount v)

theorem mem_tctlTiles (v : Word) (i : Nat) : i ∈ tctlTiles v ↔ named v i = true := by
  simp only [tctlTiles, named, List.mem_map, List.mem_range, Bool.and_eq_true, decide_eq_true_eq]
  constructor
  · rintro ⟨j, hj, rfl⟩; omega
  · rintro ⟨hlo, hhi⟩; exact ⟨i - tctlTile v, by omega, by omega⟩

/-- The owner state that an OP asks of every named tile. -/
def neededOwner (op : Nat) : Option Owner :=
  if op = 0 then none else if op ≤ 3 then some .core else if op = 4 then some .mbx else some .fab

/-- OP, TILE and COUNT are in range. -/
structure Fits (v : Word) : Prop where
  op    : tctlOp v < 6
  count : 0 < tctlCount v
  tiles : tctlTile v + tctlCount v ≤ 1536

/-- R123: every named tile is in the owner state that the OP asks for and has no pending take, and a disarming names an arming in
force. -/
structure Allowed (x : Seat) (v : Word) : Prop where
  owner  : ∀ o, neededOwner (tctlOp v) = some o → ∀ i, named v i = true → (x.tile i).st = o
  takes  : ∀ k, k ∈ x.takes → named v k.tile = false
  arming : tctlOp v = 5 → ∃ r, r ∈ x.armings ∧ r.tile = tctlTile v ∧ r.count = tctlCount v

theorem tctlTrap_illi {x : Seat} {v : Word} (h : 6 ≤ tctlOp v ∨ tctlCount v = 0 ∨ 1536 < tctlTile v + tctlCount v) :
    tctlTrap x v = some tcILLI := if_pos h

/-- Does a named tile bar the TCTL: another owner state, or a pending take? -/
def bars (x : Seat) (v : Word) (i : Nat) : Bool :=
  ((neededOwner (tctlOp v)).any fun o => decide ((x.tile i).st ≠ o)) || x.takes.any fun k => decide (k.tile = i)

/-- Does a disarming name an arming that is not in force? -/
def unarmed (x : Seat) (v : Word) : Bool :=
  decide (tctlOp v = 5) && !(x.armings.any fun r => decide (r.tile = tctlTile v) && decide (r.count = tctlCount v))

theorem tctlTrap_of_fits {x : Seat} {v : Word} (h : Fits v) :
    tctlTrap x v = if (tctlTiles v).any (bars x v) = true ∨ unarmed x v = true then some tcOWNVIOL else none := by
  obtain ⟨hop, hcount, htiles⟩ := h
  rw [tctlTrap, if_neg (by omega)]
  unfold bars unarmed neededOwner
  dsimp only
  generalize (if tctlOp v = 0 then (none : Option Owner) else if tctlOp v ≤ 3 then some .core
    else if tctlOp v = 4 then some .mbx else some .fab) = need
  cases need <;> rfl

/-- No named tile bars the TCTL and its arming stands just when neither test finds anything. -/
theorem allowed_iff (x : Seat) (v : Word) :
    Allowed x v ↔ ¬((tctlTiles v).any (bars x v) = true ∨ unarmed x v = true) := by
  have hbars : ∀ i, bars x v i = true ↔
      (∃ o, neededOwner (tctlOp v) = some o ∧ (x.tile i).st ≠ o) ∨ ∃ k, k ∈ x.takes ∧ k.tile = i := by
    intro i
    rw [bars]
    cases neededOwner (tctlOp v) <;> simp
  have hunarmed : unarmed x v = true ↔
      tctlOp v = 5 ∧ ¬ ∃ r, r ∈ x.armings ∧ r.tile = tctlTile v ∧ r.count = tctlCount v := by
    simp [unarmed]
  simp only [List.any_eq_true, mem_tctlTiles, hbars, hunarmed]
  constructor
  · rintro ⟨howner, htakes, harming⟩ (⟨i, hi, ⟨o, ho, hne⟩ | ⟨k, hk, rfl⟩⟩ | ⟨h5, hno⟩)
    · exact hne (howner o ho i hi)
    · exact absurd hi (by simp [htakes k hk])
    · exact hno (harming h5)
  · intro h
    refine ⟨fun o ho i hi => ?_, fun k hk => ?_, fun h5 => ?_⟩
    · exact Classical.byContradiction fun hne => h (.inl ⟨i, hi, .inl ⟨o, ho, hne⟩⟩)
    · exact Bool.eq_false_iff.mpr fun hn => h (.inl ⟨k.tile, hn, .inr ⟨k, hk, rfl⟩⟩)
    · exact Classical.byContradiction fun hno => h (.inr ⟨h5, hno⟩)

theorem tctlTrap_allowed {x : Seat} {v : Word} (h : Fits v) (ha : Allowed x v) : tctlTrap x v = none := by
  rw [tctlTrap_of_fits h, if_neg ((allowed_iff x v).mp ha)]

theorem tctlTrap_ownviol {x : Seat} {v : Word} (h : Fits v) (ha : ¬ Allowed x v) : tctlTrap x v = some tcOWNVIOL := by
  rw [tctlTrap_of_fits h, if_pos (Classical.not_not.mp (mt (allowed_iff x v).mpr ha))]

/-! ## Owner states of named tiles (R123) -/

/-- A list of tiles goes to one owner state, and only tiles change. -/
theorem setOwners_eq (o : Owner) : ∀ (ts : List Nat) (x : Seat), ∃ tl,
    ts.foldl (fun x t => x.putTile t { x.tile t with st := o }) x = { x with tiles := tl } ∧
      ∀ i, Tab.get Tile.free tl i = if i ∈ ts then { x.tile i with st := o } else x.tile i
  | [], x => ⟨x.tiles, rfl, fun i => by simp [Seat.tile]⟩
  | t :: ts, x => by
    obtain ⟨tl, hfold, hget⟩ := setOwners_eq o ts (x.putTile t { x.tile t with st := o })
    refine ⟨tl, hfold, fun i => ?_⟩
    rw [hget, tile_putTile]
    by_cases hi : i = t
    · subst hi; simp
    · simp [hi]

theorem tilesTo_eq (v : Word) (o : Owner) (x : Seat) : ∃ tl, tilesTo v o x = { x with tiles := tl } ∧
    ∀ i, Tab.get Tile.free tl i = if named v i then { x.tile i with st := o } else x.tile i := by
  obtain ⟨tl, hfold, hget⟩ := setOwners_eq o (tctlTiles v) x
  exact ⟨tl, hfold, fun i => by simp only [hget, mem_tctlTiles]⟩

/-! ## SKEW (R115) -/

/-- Where the byte at offset `i` of a tile stands before SKEW becomes `set`. -/
def turnFrom (set : Bool) (i : Nat) : Nat :=
  256 * (i / 256) + 16 * (if set then (i / 256 + i / 16 % 16) % 16 else (i / 16 % 16 + 16 - i / 256 % 16) % 16) + i % 16

/-- Row, unit and byte of an offset: the unit is the one that R115 names. -/
theorem turnFrom_unit (set : Bool) {r j b : Nat} (hr : r < 16) (hj : j < 16) (hb : b < 16) :
    turnFrom set (256 * r + 16 * j + b) = 256 * r + 16 * (if set then (r + j) % 16 else (j + 16 - r) % 16) + b := by
  unfold turnFrom
  rw [show (256 * r + 16 * j + b) / 256 = r by omega, show (256 * r + 16 * j + b) / 16 % 16 = j by omega,
    show (256 * r + 16 * j + b) % 16 = b by omega, Nat.mod_eq_of_lt hr]

theorem turnFrom_lt (set : Bool) {k : Nat} (hk : k < 4096) : turnFrom set k < 4096 := by
  unfold turnFrom
  split <;> omega

theorem byte_turnTile (m : Mem) (t : Nat) (set : Bool) (i : Nat) {k : Nat} (hk : k < 4096) :
    Mem.byte (turnTile m t set) (4096 * i + k) =
      if i = t then Mem.byte m (4096 * i + turnFrom set k) else Mem.byte m (4096 * i + k) := by
  refine (Mem.byte_setBytes _ m (4096 * t) (4096 * i + k)).trans ?_
  rw [List.length_map, List.length_range]
  by_cases hi : i = t
  · subst hi
    rw [if_pos ⟨by omega, by omega⟩, if_pos rfl, Nat.add_sub_cancel_left, HostAccess.nth_map_range hk]
    rfl
  · rw [if_neg (by omega), if_neg hi]

/-- What turning the tiles that `p` names to SKEW `set` makes of a seat: SKEW, the bytes, and the places of errors. -/
structure Turned (set : Bool) (p : Nat → Prop) [DecidablePred p] (x y : Seat) : Prop where
  rest  : ∃ tl sp bd, y = { x with tiles := tl, spad := sp, bad := bd }
  tile  : ∀ i, y.tile i = if p i then { x.tile i with skew := set } else x.tile i
  bytes : ∀ i k, k < 4096 → Mem.byte y.spad (4096 * i + k) =
    if p i ∧ (x.tile i).skew ≠ set then Mem.byte x.spad (4096 * i + turnFrom set k) else Mem.byte x.spad (4096 * i + k)

theorem turn_same {set : Bool} {t : Nat} {x : Seat} (h : (x.tile t).skew = set) : x.turn set t = x := if_pos h

/-- R115: the tile has another SKEW: its bytes and the places of its errors move. -/
theorem turn_other {set : Bool} {t : Nat} {x : Seat} (h : (x.tile t).skew ≠ set) : ∃ bd, x.turn set t =
    { x with tiles := Tab.set Tile.free x.tiles t { x.tile t with skew := set }, spad := turnTile x.spad t set, bad := bd } :=
  ⟨_, if_neg h⟩

theorem turned_turn (set : Bool) (t : Nat) (x : Seat) : Turned set (· = t) x (x.turn set t) := by
  by_cases h : (x.tile t).skew = set
  · rw [turn_same h]
    refine ⟨⟨_, _, _, rfl⟩, fun i => ?_, fun i k _ => ?_⟩
    · by_cases hi : i = t
      · subst hi; simp [← h]
      · simp [hi]
    · rw [if_neg (by rintro ⟨rfl, hne⟩; exact hne h)]
  · obtain ⟨bd, hturn⟩ := turn_other h
    rw [hturn]
    refine ⟨⟨_, _, _, rfl⟩, fun i => ?_, fun i k hk => ?_⟩
    · rw [Seat.tile, Tab.get_set]
      by_cases hi : i = t
      · subst hi; rw [if_pos rfl, if_pos rfl]
      · rw [if_neg hi, if_neg hi]; rfl
    · rw [byte_turnTile _ _ _ _ hk]
      by_cases hi : i = t
      · subst hi; rw [if_pos rfl, if_pos ⟨rfl, h⟩]
      · rw [if_neg hi, if_neg (hi ·.1)]

/-- A tile that has been turned is not turned again. -/
theorem turned_foldl (set : Bool) : ∀ (ts : List Nat) (x : Seat), Turned set (· ∈ ts) x (ts.foldl (Seat.turn · set) x)
  | [], x => ⟨⟨_, _, _, rfl⟩, fun i => by simp, fun i k _ => by simp⟩
  | t :: ts, x => by
    obtain ⟨⟨_, _, _, hturn⟩, htile, hbytes⟩ := turned_turn set t x
    obtain ⟨⟨tl, sp, bd, hrest⟩, htiles, hbytes'⟩ := turned_foldl set ts (x.turn set t)
    refine ⟨⟨tl, sp, bd, hrest.trans (by rw [hturn])⟩, fun i => ?_, fun i k hk => ?_⟩
    · rw [List.foldl_cons, htiles, htile]
      by_cases hi : i = t <;> simp [hi]
    · rw [List.foldl_cons, hbytes' i k hk, htile]
      by_cases hi : i = t
      · simp [hi, hbytes t k hk]
      · simp [hi, hbytes i k hk, hbytes i _ (turnFrom_lt set hk)]

/-! ## The steps of TCTL (R115, R123, R124) -/

theorem tctl_allowed {s : State} {c : Nat} {v : Word} (h : Fits v) (ha : Allowed (s.seat c) v) (f : Seat → Seat) :
    tctl c v f s = .ok (s.putSeat c (f (s.seat c))) := by
  rw [tctl, tctlTrap_allowed h ha]

theorem tctl_trap {s : State} {c code : Nat} {v : Word} (h : tctlTrap (s.seat c) v = some code) (f : Seat → Seat) :
    tctl c v f s = .error (code, 0) := by
  rw [tctl, h]

/-- The seat `y` is `x` with the named tiles changed by `f`, the units of the tiles that `moves` picks by their SKEW taken from
where `unit` says, and the armings `arm`. -/
structure Reshaped (v : Word) (f : Tile → Tile) (unit : Nat → Nat → Nat) (moves : Bool → Bool) (arm : List Arming)
    (x y : Seat) : Prop where
  takes    : y.takes = x.takes
  armings  : y.armings = arm
  tile     : ∀ i, y.tile i = if named v i then f (x.tile i) else x.tile i
  bytes    : ∀ i r j b, r < 16 → j < 16 → b < 16 → Mem.byte y.spad (4096 * i + 256 * r + 16 * j + b) =
    if named v i && moves (x.tile i).skew then Mem.byte x.spad (4096 * i + 256 * r + 16 * unit r j + b)
    else Mem.byte x.spad (4096 * i + 256 * r + 16 * j + b)
  stream   : ∀ z, y.st z = x.st z

/-- A step that writes such a seat changes nothing else of the machine. -/
theorem Reshaped.frame {v : Word} {f : Tile → Tile} {unit : Nat → Nat → Nat} {moves : Bool → Bool} {arm : List Arming}
    {s : State} {c : Nat} {y : Seat} (h : Reshaped v f unit moves arm (s.seat c) y) {r : Host.Outcome State Fault Refusal}
    (hr : r = .next (s.putSeat c y)) :
    ∃ u, r = .next u ∧ (u.seat c).takes = (s.seat c).takes ∧ (u.seat c).armings = arm ∧
      (∀ i, (u.seat c).tile i = if named v i then f ((s.seat c).tile i) else (s.seat c).tile i) ∧
      (∀ i r j b, r < 16 → j < 16 → b < 16 → Mem.byte (u.seat c).spad (4096 * i + 256 * r + 16 * j + b) =
        if named v i && moves ((s.seat c).tile i).skew then Mem.byte (s.seat c).spad (4096 * i + 256 * r + 16 * unit r j + b)
        else Mem.byte (s.seat c).spad (4096 * i + 256 * r + 16 * j + b)) ∧
      (∀ z, u.st c z = s.st c z) ∧ (∀ e, e ≠ c → u.core e = s.core e) ∧ u.hbm = s.hbm := by
  obtain ⟨htakes, harm, htile, hbytes, hstream⟩ := h
  have hseat : (s.putSeat c y).seat c = y := by simp
  refine ⟨_, hr, ?_⟩
  simp only [State.st, hseat]
  exact ⟨htakes, harm, htile, hbytes, hstream, fun e he => by simp [State.putSeat, he], rfl⟩

/-- Where no unit moves the bytes stand. -/
theorem bytes_stay (v : Word) (unit : Nat → Nat → Nat) (x : Seat) : ∀ i r j b, r < 16 → j < 16 → b < 16 →
    Mem.byte x.spad (4096 * i + 256 * r + 16 * j + b) =
      if named v i && (fun _ : Bool => false) (x.tile i).skew then Mem.byte x.spad (4096 * i + 256 * r + 16 * unit r j + b)
      else Mem.byte x.spad (4096 * i + 256 * r + 16 * j + b) := by
  intros; simp

theorem reshaped_none (v : Word) (unit : Nat → Nat → Nat) (x : Seat) :
    Reshaped v id unit (fun _ => false) x.armings x x :=
  ⟨rfl, rfl, fun i => by simp, bytes_stay v unit x, fun _ => rfl⟩

theorem reshaped_tilesTo (v : Word) (o : Owner) (unit : Nat → Nat → Nat) (x : Seat) :
    Reshaped v (fun y => { y with st := o }) unit (fun _ => false) x.armings x (tilesTo v o x) := by
  obtain ⟨tl, heq, hget⟩ := tilesTo_eq v o x
  rw [heq]
  exact ⟨rfl, rfl, hget, bytes_stay v unit x, fun _ => rfl⟩

/-- R124: the armings that meet a named tile are cancelled, and the tiles go back to CORE. -/
theorem reshaped_disarm (v : Word) (unit : Nat → Nat → Nat) (arm : List Arming) (x : Seat) :
    Reshaped v (fun y => { y with st := .core }) unit (fun _ => false) arm x (tilesTo v .core { x with armings := arm }) := by
  obtain ⟨htakes, harm, htile, hbytes, hstream⟩ := reshaped_tilesTo v .core unit { x with armings := arm }
  exact ⟨htakes, harm, htile, hbytes, hstream⟩

theorem reshaped_turn (v : Word) (set : Bool) (x : Seat) :
    Reshaped v (fun y => { y with skew := set }) (fun r j => if set then (r + j) % 16 else (j + 16 - r) % 16) (fun k => k != set)
      x.armings x ((tctlTiles v).foldl (Seat.turn · set) x) := by
  obtain ⟨⟨tl, sp, bd, heq⟩, htile, hbytes⟩ := turned_foldl set (tctlTiles v) x
  refine ⟨by rw [heq], by rw [heq], fun i => ?_, fun i r j b hr hj hb => ?_, fun z => by rw [heq]; rfl⟩
  · simp only [htile, mem_tctlTiles]
  · have hk := hbytes i (256 * r + 16 * j + b) (by omega)
    rw [turnFrom_unit set hr hj hb] at hk
    simpa only [mem_tctlTiles, Nat.add_assoc, Bool.and_eq_true, bne_iff_ne] using hk

/-! ## A TCTL that nothing bars -/

section
variable {s : State} {c : Nat} {v : Word} (h : Fits v)
include h

theorem tctlStep_allowed (ha : Allowed (s.seat c) v) (f : Seat → Seat) :
    tctlStep (tctl c v f s) s = .next (s.putSeat c (f (s.seat c))) := by
  rw [tctl_allowed h ha]; rfl

/-- R123: a release of mailboxes with no take pending grants nothing. -/
theorem releaseMailbox_allowed (t : Bool) (ha : Allowed (s.seat c) v) (htakes : (s.seat c).takes = []) :
    exec (.tctlReleaseMailbox c t v) s = .next (s.putSeat c (tilesTo v .core (s.seat c))) := by
  have hgrants : (tilesTo v .core (s.seat c)).grants = tilesTo v .core (s.seat c) :=
    grants_of_no_takes ((reshaped_tilesTo v .core (fun _ j => j) _).takes.trans htakes)
  rw [exec_tctlReleaseMailbox]
  exact (tctlStep_allowed h ha _).trans (by rw [hgrants])

/-- R124: a disarming that names the only arming's run leaves none. -/
theorem disarm_allowed (t : Bool) {r : Arming} (ha : Allowed (s.seat c) v) (htakes : (s.seat c).takes = [])
    (harm : (s.seat c).armings = [r]) (htile : r.tile = tctlTile v) (hcount : r.count = tctlCount v) :
    exec (.tctlDisarm c t v) s = .next (s.putSeat c (tilesTo v .core { s.seat c with armings := [] })) := by
  have hhit : ((tctlTiles v).any fun t => decide (r.tile ≤ t) && decide (t < r.tile + r.count)) = true :=
    List.any_eq_true.mpr ⟨tctlTile v, by simp [mem_tctlTiles, named, h.count], by simp [htile, hcount, h.count]⟩
  have hgrants := grants_of_no_takes ((reshaped_disarm v (fun _ j => j) [] (s.seat c)).takes.trans htakes)
  rw [exec_tctlDisarm]
  refine (tctlStep_allowed h ha _).trans ?_
  simp only [harm, List.filter_cons, hhit, Bool.not_true, Bool.false_eq_true, if_false, List.filter_nil, hgrants]

end

/-- The owner states and takes that let an OP go ahead that is not a disarming. -/
theorem allowed_of_owner {x : Seat} {v : Word} {o : Owner} (hneed : neededOwner (tctlOp v) = some o) (h5 : tctlOp v ≠ 5)
    (howner : ∀ i, named v i = true → (x.tile i).st = o) (htakes : ∀ k, k ∈ x.takes → named v k.tile = false) :
    Allowed x v where
  owner := fun o' ho i hi => by
    have he : o = o' := by simpa [hneed] using ho
    rw [← he, howner i hi]
  takes := htakes
  arming := fun h => absurd h h5

/-- OP 0 asks for no owner state. -/
theorem allowed_none {x : Seat} {v : Word} (hop : tctlOp v = 0) (htakes : ∀ k, k ∈ x.takes → named v k.tile = false) :
    Allowed x v where
  owner := fun o ho => by simp [hop, neededOwner] at ho
  takes := htakes
  arming := fun h => by omega

/-- R124: FAB tiles of an arming in force. -/
theorem allowed_disarm {x : Seat} {v : Word} {r : Arming} (hop : tctlOp v = 5)
    (howner : ∀ i, named v i = true → (x.tile i).st = .fab) (htakes : x.takes = []) (hr : r ∈ x.armings)
    (htile : r.tile = tctlTile v) (hcount : r.count = tctlCount v) : Allowed x v where
  owner := fun o ho i hi => by
    have he : Owner.fab = o := by simpa [hop, neededOwner] using ho
    rw [← he, howner i hi]
  takes := by simp [htakes]
  arming := fun _ => ⟨r, hr, htile, hcount⟩

/-! ## The SYSW that issues it (R123) -/

theorem sysw_tctl (a : RegF) (s : State) :
    exec (.sysw a 0x30) s = runSlot [a] (doTctl s.cur.core s.cur.sec (rdS s a) s) s := by
  rw [exec_sysw]
  simp [execSysw, sysOk, sysAssigned]

/-- Every OP is the common frame around some change of the seat that leaves the streams alone. -/
theorem doTctl_eq_tctl (c : Nat) (t : Bool) (v : Word) (s : State) :
    ∃ f : Seat → Seat, doTctl c t v s = tctl c v f s ∧ ∀ x z, (f x).st z = x.st z := by
  have hgrants : ∀ (x : Seat) z, x.grants.st z = x.st z := by
    intro x z
    obtain ⟨tl, tk, h⟩ := grants_eq x
    rw [h]; rfl
  have howner : ∀ o x z, (tilesTo v o x).st z = x.st z := fun o x z =>
    (reshaped_tilesTo v o (fun _ j => j) x).stream z
  unfold doTctl
  split
  · exact ⟨_, rfl, fun x z => (reshaped_turn v true x).stream z⟩
  · exact ⟨_, rfl, fun x z => (reshaped_turn v false x).stream z⟩
  · exact ⟨_, rfl, fun x z => howner .mbx x z⟩
  · exact ⟨_, rfl, fun x z => (hgrants _ z).trans (howner .core x z)⟩
  · exact ⟨_, rfl, fun x z => (hgrants _ z).trans (howner .core { x with armings := _ } z)⟩
  · exact ⟨_, rfl, fun _ _ => rfl⟩

/-- R123: the slot that issues a barred TCTL traps. -/
theorem sysw_tctl_traps {s : State} {a : RegF} {code : Nat} (hlive : QueuesLive s [a])
    (h : tctlTrap (s.seat s.cur.core) (rdS s a) = some code) : Traps (.sysw a 0x30) s code 0 := by
  obtain ⟨f, hf, _⟩ := doTctl_eq_tctl s.cur.core s.cur.sec (rdS s a) s
  exact traps_of hlive (by rw [sysw_tctl, hf, tctl_trap h])

theorem shell_tiles {x y : Seat} (h : x.shell = y.shell) : x.tiles = y.tiles := by
  have htiles := congrArg Seat.tiles h; exact htiles

theorem shell_armings {x y : Seat} (h : x.shell = y.shell) : x.armings = y.armings := by
  have harmings := congrArg Seat.armings h; exact harmings

/-- R123: a TCTL that nothing bars acts in the tick of its SYSW; nothing is left to land. -/
theorem sysw_tctl_acts {s w : State} {a : RegF} (hlive : QueuesLive s [a])
    (h : doTctl s.cur.core s.cur.sec (rdS s a) s = .ok w) :
    ∃ u, exec (.sysw a 0x30) s = .next u ∧ (u.seat s.cur.core).shell = (w.seat s.cur.core).shell ∧
      u.cst.regs = s.cst.regs ∧ u.cst.landing = s.cst.landing := by
  obtain ⟨f, hf, hstream⟩ := doTctl_eq_tctl s.cur.core s.cur.sec (rdS s a) s
  have hw : w = s.putSeat s.cur.core (f (s.seat s.cur.core)) := by
    rw [hf, tctl] at h
    split at h
    · cases h
    · exact (Except.ok.inj h).symm
  have hcur : w.cur = s.cur := by rw [hw]; rfl
  have hcst : w.cst = s.cst := by
    rw [State.cst, hcur, hw, State.st, seat_putSeat, if_pos rfl, hstream]; rfl
  have hpop : ((popFields [a] w).seat w.cur.core).shell = (w.seat w.cur.core).shell := (keptBy_popFields [a] w).seat
  rw [hcur] at hpop
  exact ⟨(popFields [a] w).used, by rw [sysw_tctl, h, runSlot_live hlive], hpop, by simp [hcst], by simp [hcst]⟩

/-- Settles O50: a TCTL that is in range and barred by nothing reshapes its tiles; any other traps. -/
theorem tileControl : Obligations.TileControl := by
  intro s c t v a x lo n op named' does stays here all
  refine ⟨fun hn hend => ?_, fun hlive hc hv => ?_⟩
  · have fits : op < 6 → Fits v := fun hop => ⟨hop, hn, hend⟩
    have allowed : ∀ {k o}, tctlOp v = k → neededOwner k = some o → k ≠ 5 → all o →
        (∀ k, k ∈ x.takes → named v k.tile = false) → Allowed x v :=
      fun hop hneed h5 hall htakes => allowed_of_owner (by rw [hop, hneed]) (by rw [hop]; exact h5) hall htakes
    refine ⟨fun htakes => ⟨fun hop => ?_, fun hop hall => ?_, fun hop hall => ?_, fun hop hall => ?_⟩,
      fun htakes => ⟨fun hop hall => ?_, fun r hop hall harm htile hcount => ?_⟩⟩
    · exact (reshaped_none v here x).frame (tctlStep_allowed (fits (by omega)) (allowed_none hop htakes) id)
    · have hturn := reshaped_turn v true x
      simp only [if_true, Bool.bne_true] at hturn
      exact hturn.frame (tctlStep_allowed (fits (by omega)) (allowed hop rfl (by omega) hall htakes) _)
    · have hturn := reshaped_turn v false x
      simp only [Bool.false_eq_true, if_false, Bool.bne_false] at hturn
      exact hturn.frame (tctlStep_allowed (fits (by omega)) (allowed hop rfl (by omega) hall htakes) _)
    · exact (reshaped_tilesTo v .mbx here x).frame
        (tctlStep_allowed (fits (by omega)) (allowed hop rfl (by omega) hall htakes) _)
    · exact (reshaped_tilesTo v .core here x).frame
        (releaseMailbox_allowed (fits (by omega)) t (allowed hop rfl (by omega) hall (by simp [htakes])) htakes)
    · have hr : r ∈ x.armings := by rw [harm]; exact List.mem_singleton_self r
      exact (reshaped_disarm v here [] x).frame (disarm_allowed (fits (by omega)) t
        (allowed_disarm hop hall htakes hr htile hcount) htakes harm htile hcount)
  · subst hc hv
    refine ⟨fun hout => sysw_tctl_traps hlive (tctlTrap_illi hout), fun hn hend hbar => ?_, fun w hw => ?_⟩
    · have hop : op < 6 := by omega
      refine sysw_tctl_traps hlive (tctlTrap_ownviol ⟨hop, hn, hend⟩ ?_)
      rintro ⟨howner, htakes, harming⟩
      have owned : ∀ {k o}, tctlOp (rdS s a) = k → neededOwner k = some o → ¬ ∃ i, named' i = true ∧ (x.tile i).st ≠ o :=
        fun hk hneed ⟨i, hi, hne⟩ => hne (howner _ (by rw [hk, hneed]) i hi)
      rcases hbar with ⟨hlo, hhi, hex⟩ | ⟨hop, hex⟩ | ⟨hop, hex⟩ | ⟨_, k, hk, hnamed⟩ | ⟨hop, hno⟩
      · have hneed : neededOwner op = some .core := by rw [neededOwner, if_neg (by omega), if_pos hhi]
        exact owned rfl hneed hex
      · exact owned hop rfl hex
      · exact owned hop rfl hex
      · exact absurd hnamed (by rw [show named' k.tile = false from htakes k hk]; simp)
      · obtain ⟨r, hr, htile, hcount⟩ := harming hop
        rcases hno r hr with hne | hne
        · exact hne htile
        · exact hne hcount
    · obtain ⟨u, hexec, hshell, hregs, hlanding⟩ := sysw_tctl_acts hlive hw
      exact ⟨u, hexec, shell_tiles hshell, shell_spad hshell, shell_armings hshell, hregs, hlanding⟩

end Sys2Proof.Machine.TileOps
end

section
/-! Takes, routines, collisions, freezes, gang joins and gang messages of a core (R119, R156, R157, R188, R266, R268, R349, R376). -/

namespace Sys2Proof.Machine.CoreUnits

/-! ## Takes (R118, R119) -/

/-- R119: the only pending take is granted as soon as nothing bars it. -/
theorem grants_granted {x : Seat} {k : Take} (h : x.takes = [k]) (hfree : x.grantable k [] = true) :
    x.grants = { x.grant k with takes := [] } := by
  rw [Seat.grants, h, grantAll, if_pos hfree]; rfl

theorem grants_barred {x : Seat} {k : Take} (h : x.takes = [k]) (hbar : x.grantable k [] = false) :
    x.grants = { x with takes := [k] } := by
  rw [Seat.grants, h, grantAll, hbar]; rfl

theorem grant_owner (x : Seat) (k : Take) : ((x.grant k).tile k.tile).st = if k.dst then .engW else .engR := by
  rw [Seat.grant, TileOps.tile_putTile, if_pos rfl]
  cases k.dst <;> rfl

theorem grant_other (x : Seat) (k : Take) {i : Nat} (hi : i ≠ k.tile) : (x.grant k).tile i = x.tile i := by
  rw [Seat.grant, TileOps.tile_putTile, if_neg hi]

/-- R117, R119: the tile of a granted take is its engine's. -/
theorem takeGrant_grants {s : State} {c : Nat} {k : Take} (htakes : (s.seat c).takes = [k])
    (hold : (s.seat c).oldAccess k.tile k.cyc = false) (hst : ((s.seat c).tile k.tile).st = .core) :
    ∃ u, exec (.takeGrant c) s = .next u ∧ (u.seat c).takes = [] ∧
      ((u.seat c).tile k.tile).st = (if k.dst then .engW else .engR) ∧
      (∀ i, i ≠ k.tile → (u.seat c).tile i = (s.seat c).tile i) ∧ (u.seat c).spad = (s.seat c).spad := by
  have hfree : (s.seat c).grantable k [] = true := by simp [Seat.grantable, hst, hold]
  have hseat : (s.putSeat c (s.seat c).grants).seat c = { (s.seat c).grant k with takes := [] } := by
    rw [seat_putSeat, if_pos rfl, grants_granted htakes hfree]
  refine ⟨_, rfl, ?_⟩
  rw [hseat]
  exact ⟨rfl, grant_owner _ k, fun i hi => grant_other _ k hi, rfl⟩

/-- R118: a take waits for a tile that is FAB, MBX or written by an engine. -/
theorem takeGrant_waits {s : State} {c : Nat} {k : Take} (htakes : (s.seat c).takes = [k])
    (hst : ((s.seat c).tile k.tile).st = .fab ∨ ((s.seat c).tile k.tile).st = .mbx ∨ ((s.seat c).tile k.tile).st = .engW) :
    ∃ u, exec (.takeGrant c) s = .next u ∧ (u.seat c).takes = [k] ∧ (u.seat c).tiles = (s.seat c).tiles := by
  have hbar : (s.seat c).grantable k [] = false := by
    rcases hst with h | h | h <;> simp [Seat.grantable, h]
  refine ⟨_, rfl, ?_⟩
  simp only [seat_putSeat, if_true, grants_barred htakes hbar, and_self]

/-! ## Routines (R266, R268) -/

theorem endHold_eq (x : Seat) (t : Nat × Bool) : ∃ tl, x.endHold t = { x with tiles := tl } := by
  unfold Seat.endHold
  dsimp only
  split <;> exact ⟨_, rfl⟩

theorem endHolds_eq : ∀ (ts : List (Nat × Bool)) (x : Seat), ∃ tl, ts.foldl Seat.endHold x = { x with tiles := tl }
  | [], x => ⟨x.tiles, rfl⟩
  | t :: ts, x => by
    obtain ⟨tl, h⟩ := endHold_eq x t
    obtain ⟨tl', h'⟩ := endHolds_eq ts (x.endHold t)
    exact ⟨tl', h'.trans (by rw [h])⟩

/-- Releasing changes tiles and pending takes alone. -/
theorem release_eq (x : Seat) (id : Nat) (ts : List (Nat × Bool)) :
    ∃ tl tk, x.release id ts = { x with tiles := tl, takes := tk } := by
  unfold Seat.release
  dsimp only
  generalize hheld : ts.filter _ = held
  obtain ⟨tl, h⟩ := endHolds_eq held { x with takes := x.takes.filter fun k => decide (k.id ≠ id) }
  obtain ⟨tl', tk, h'⟩ := TileOps.grants_eq (held.foldl Seat.endHold { x with takes := x.takes.filter fun k => decide (k.id ≠ id) })
  exact ⟨tl', tk, h'.trans (by rw [h])⟩

/-- An update of the issuer changes no scratchpad, no matrix engine and no memory. -/
theorem onIssuer_frame (x c : Nat) (o : Origin) (f : Stream → Stream) (s : State) :
    ((onIssuer x c o f s).seat c).mxe = (s.seat c).mxe ∧ ((onIssuer x c o f s).seat c).spad = (s.seat c).spad ∧
      (onIssuer x c o f s).hbm = s.hbm := by
  by_cases h : (s.core c).owner = some x
  · rw [Reports.onIssuer_held h]
    simp [State.putSt]
  · rw [onIssuer, State.putSeatOf, if_neg h]
    exact ⟨rfl, rfl, rfl⟩

theorem flagsTo_frame (x c : Nat) (o : Origin) (f : Nat) (s : State) :
    ((flagsTo x c o f s).seat c).mxe = (s.seat c).mxe ∧ ((flagsTo x c o f s).seat c).spad = (s.seat c).spad ∧
      (flagsTo x c o f s).hbm = s.hbm := by
  rw [flagsTo]
  split
  · exact onIssuer_frame x c o _ s
  · exact ⟨rfl, rfl, rfl⟩

/-- R268: the flags of a finished routine wait for the next tick of the stream whose task issued it. -/
theorem flagsTo_held {x c f : Nat} {o : Origin} {s : State} (howner : (s.core c).owner = some x)
    (hissuer : issuerHolds s x c o = true) :
    ((flagsTo x c o f s).st c o.sec).pend.flagsNew = ((s.st c o.sec).pend.flagsNew ||| f) := by
  rw [flagsTo]
  by_cases hf : f = 0
  · simp [hf]
  · rw [if_pos ⟨hf, hissuer⟩, Reports.onIssuer_held howner]
    simp [fOr]

/-- Whether the issuer's task is still there depends on the core's owner and streams alone. -/
theorem issuerHolds_putSeat {s : State} {x c : Nat} {y : Seat} {o : Origin} (howner : (s.core c).owner = some x)
    (hst : y.st o.sec = s.st c o.sec) : issuerHolds (s.putSeat c y) x c o = issuerHolds s x c o := by
  have hseat : ∀ t : State, (t.core c).owner = some x → t.seatOf x c = t.seat c := fun t ht => if_pos ht
  rw [issuerHolds, issuerHolds, hseat s howner, hseat _ (by simp [howner]), seat_putSeat, if_pos rfl, hst]
  rfl

/-- R266: the oldest routine without its MEND begins at its entry once it holds its tiles. -/
theorem routineBegin_begins {s : State} {c : Nat} {r : Routine}
    (hnext : (s.seat c).mxe.queue.find? (fun q => !q.mended) = some r) (hbegun : r.begun = false)
    (hgranted : (s.seat c).granted r.id = true) :
    exec (.routineBegin c) s = .next (s.putSeat c { s.seat c with
      mxe := { (s.seat c).mxe.putRoutine { r with begun := true } with upc := r.entry } }) := by
  have h : nextRoutine (s.seat c) = some r := by
    rw [nextRoutine]
    simp only [hnext, hbegun, hgranted, and_self, if_true]
  rw [exec_routineBegin, execRoutineBegin]
  simp only [h]

/-- The seat after routine `r` has left the queue and released its tiles (R268). -/
def retired (x : Seat) (r : Routine) : Seat :=
  Seat.release { x with mxe := { x.mxe with queue := x.mxe.queue.filter fun q => decide (q.id ≠ r.id) } } r.id r.tiles

theorem retired_frame (x : Seat) (r : Routine) :
    (retired x r).mxe = { x.mxe with queue := x.mxe.queue.filter fun q => decide (q.id ≠ r.id) } ∧
      (retired x r).spad = x.spad ∧ ∀ t, (retired x r).st t = x.st t := by
  obtain ⟨_, _, h⟩ := release_eq
    { x with mxe := { x.mxe with queue := x.mxe.queue.filter fun q => decide (q.id ≠ r.id) } } r.id r.tiles
  rw [retired, h]
  exact ⟨rfl, rfl, fun _ => rfl⟩

/-- R268: the oldest routine with its MEND leaves the queue, releases its tiles and sends its flags. -/
theorem routineFinish_finishes {s : State} {c : Nat} {r : Routine}
    (hdone : (s.seat c).mxe.queue.find? (fun q => q.mended) = some r) :
    ∃ u, exec (.routineFinish c) s = .next u ∧
      (u.seat c).mxe.queue = (s.seat c).mxe.queue.filter (fun q => decide (q.id ≠ r.id)) ∧
      (u.seat c).mxe.acc = (s.seat c).mxe.acc ∧ (u.seat c).spad = (s.seat c).spad ∧ u.hbm = s.hbm ∧
      (∀ z, (s.core c).owner = some z → issuerHolds s z c r.org = true →
        (u.st c r.org.sec).pend.flagsNew = ((s.st c r.org.sec).pend.flagsNew ||| r.flags)) := by
  have hexec : exec (.routineFinish c) s =
      .next (flagsTo (s.ctxOf c) c r.org r.flags (s.putSeat c (retired (s.seat c) r))) := by
    rw [exec_routineFinish, execRoutineFinish]
    simp only [hdone, retired]
  obtain ⟨hmxe, hspad, hst⟩ := retired_frame (s.seat c) r
  obtain ⟨hmxe', hspad', hhbm⟩ := flagsTo_frame (s.ctxOf c) c r.org r.flags (s.putSeat c (retired (s.seat c) r))
  simp only [seat_putSeat, if_true] at hmxe' hspad'
  refine ⟨_, hexec, by rw [hmxe', hmxe], by rw [hmxe', hmxe], by rw [hspad', hspad], hhbm, fun z howner hissuer => ?_⟩
  have hctx : s.ctxOf c = z := by rw [State.ctxOf, howner]; rfl
  have hstream : (s.putSeat c (retired (s.seat c) r)).st c r.org.sec = s.st c r.org.sec := by
    rw [State.st, seat_putSeat, if_pos rfl, hst]; rfl
  rw [hctx, flagsTo_held (by simp [howner]) (by rw [issuerHolds_putSeat howner (hst _), hissuer]), hstream]

/-! ## Ends of deviation runs (R157, R409) -/

/-- On core `c` nothing but the runs of its streams differs. -/
structure RunsOnly (c : Nat) (s u : State) : Prop where
  frozen : (u.core c).frozen = (s.core c).frozen
  spad   : (u.seat c).spad = (s.seat c).spad
  stream : ∀ t, ∃ d, u.st c t = { s.st c t with dev := d }

theorem RunsOnly.refl (c : Nat) (s : State) : RunsOnly c s s := ⟨rfl, rfl, fun _ => ⟨_, rfl⟩⟩

theorem RunsOnly.trans {c : Nat} {s t u : State} (h : RunsOnly c s t) (k : RunsOnly c t u) : RunsOnly c s u := by
  refine ⟨k.frozen.trans h.frozen, k.spad.trans h.spad, fun b => ?_⟩
  obtain ⟨_, ht⟩ := h.stream b
  obtain ⟨d, hu⟩ := k.stream b
  exact ⟨d, by rw [hu, ht]⟩

/-- What a stream loses its cycle for does not depend on the run under way. -/
theorem RunsOnly.lossOf {c : Nat} {s u : State} (h : RunsOnly c s u) (t : Bool) : lossOf u c t = lossOf s c t := by
  obtain ⟨d, hst⟩ := h.stream t
  simp only [Machine.lossOf, hst, h.frozen]

/-- The run of a stream goes on: its cycle is lost for the run's cause. -/
def Loses (s : State) (c : Nat) (t : Bool) : Prop :=
  ∃ l d, lossOf s c t = some l ∧ (s.st c t).dev = some d ∧ l.1 = d.cause

theorem debugRec_core (x : Nat) (r : DRec) (s : State) (c : Nat) : (debugRec x r s).core c = s.core c := by
  obtain ⟨_, _, _, _, _, h⟩ := debugRec_eq x r s
  rw [h]; rfl

/-- R409: a run that ends leaves a record and counters, and no run. -/
theorem endDev_frame (x c : Nat) (t : Bool) (s : State) :
    RunsOnly c s (endDev x c t s) ∧ ((endDev x c t s).st c t).dev = none ∧
      ((endDev x c t s).st c (!t)).dev = (s.st c (!t)).dev := by
  rw [endDev]
  split
  · next h => exact ⟨.refl c s, h, rfl⟩
  · next d h =>
    generalize hput : s.putSt c t { s.st c t with dev := none } = v
    have hv : RunsOnly c s v ∧ (v.st c t).dev = none ∧ (v.st c (!t)).dev = (s.st c (!t)).dev := by
      subst hput
      refine ⟨⟨?_, ?_, fun b => ?_⟩, by simp, by simp⟩
      · simp [State.putSt, State.putSeat]
      · simp [State.putSt]
      · rw [st_putSt]
        by_cases hb : b = t
        · subst hb; exact ⟨none, by simp⟩
        · exact ⟨_, by simp [hb]; rfl⟩
    have hcore : ∀ z : State, z.core c = v.core c → RunsOnly c s z ∧ (z.st c t).dev = none ∧
        (z.st c (!t)).dev = (s.st c (!t)).dev := by
      intro z hz
      obtain ⟨⟨hfrozen, hspad, hstream⟩, hown, hother⟩ := hv
      simp only [State.st, State.seat, ← hz] at hfrozen hspad hstream hown hother
      exact ⟨⟨hfrozen, hspad, hstream⟩, hown, hother⟩
    exact hcore _ (debugRec_core x _ v c)

/-- The run ends unless the stream still loses its cycle for the run's cause. -/
theorem endRun_frame (x c : Nat) (s : State) (t : Bool) :
    RunsOnly c s (endRun x c s t) ∧ ((endRun x c s t).st c (!t)).dev = (s.st c (!t)).dev ∧
      (Loses s c t → ((endRun x c s t).st c t).dev = (s.st c t).dev) ∧
      (¬ Loses s c t → ((endRun x c s t).st c t).dev = none) := by
  obtain ⟨hruns, hnone, hother⟩ := endDev_frame x c t s
  by_cases h : Loses s c t
  · obtain ⟨l, d, hloss, hdev, hcause⟩ := id h
    have hsame : endRun x c s t = s := by
      rw [endRun]
      simp only [hloss, hdev, hcause, if_true]
    rw [hsame]
    exact ⟨.refl c s, rfl, fun _ => rfl, fun hn => absurd h hn⟩
  · have hends : endRun x c s t = endDev x c t s := by
      rw [endRun]
      split
      · next l d hloss hdev => exact if_neg fun hcause => h ⟨l, d, hloss, hdev, hcause⟩
      · rfl
    rw [hends]
    exact ⟨hruns, hother, fun hl => absurd hl h, fun _ => hnone⟩

/-- Both streams' runs, the primary's first: neither decides about the other. -/
theorem endRuns_frame (x c : Nat) (v : State) :
    RunsOnly c v (endRun x c (endRun x c v false) true) ∧ ∀ b,
      (Loses v c b → ((endRun x c (endRun x c v false) true).st c b).dev = (v.st c b).dev) ∧
      (¬ Loses v c b → ((endRun x c (endRun x c v false) true).st c b).dev = none) := by
  obtain ⟨hruns, hother, hkeeps, hends⟩ := endRun_frame x c v false
  obtain ⟨hruns', hother', hkeeps', hends'⟩ := endRun_frame x c (endRun x c v false) true
  have hloses : Loses (endRun x c v false) c true ↔ Loses v c true := by
    rw [Loses, Loses, hruns.lossOf, show ((endRun x c v false).st c true).dev = (v.st c true).dev from hother]
  refine ⟨hruns.trans hruns', fun b => ?_⟩
  cases b
  · exact ⟨fun h => hother'.trans (hkeeps h), fun h => hother'.trans (hends h)⟩
  · exact ⟨fun h => (hkeeps' (hloses.mpr h)).trans hother, fun h => hends' (mt hloses.mp h)⟩

/-- The state in which core `c` is no longer frozen. -/
def thawed (s : State) (c : Nat) : State := s.putCore c { s.core c with frozen := none }

@[simp] theorem core_thawed (s : State) (c : Nat) : (thawed s c).core c = { s.core c with frozen := none } := by simp [thawed]

@[simp] theorem st_thawed (s : State) (c : Nat) (t : Bool) : (thawed s c).st c t = s.st c t := by simp [State.st, State.seat]

/-- R157, R409: the freeze ends; a run whose cause still holds goes on, and in a core without a context nothing else happens. -/
theorem freezeEnd_thaws {s : State} {c : Nat} (hfrozen : (s.core c).frozen.isSome = true) (hnone : freezeOf s c = none) :
    ∃ u, exec (.freezeEnd c) s = .next u ∧ RunsOnly c (thawed s c) u ∧ ∀ b,
      ((s.core c).owner = none ∨ Loses (thawed s c) c b → (u.st c b).dev = (s.st c b).dev) ∧
      ((s.core c).owner.isSome = true → ¬ Loses (thawed s c) c b → (u.st c b).dev = none) := by
  obtain ⟨f, hf⟩ := Option.isSome_iff_exists.mp hfrozen
  cases howner : (s.core c).owner with
  | none =>
    have hexec : exec (.freezeEnd c) s = .next (thawed s c) := by
      rw [exec_freezeEnd, execFreezeEnd]
      simp only [hf, hnone, core_putCore, if_true, howner, thawed]
    exact ⟨_, hexec, .refl _ _, fun b => ⟨fun _ => by simp, fun h => by simp at h⟩⟩
  | some x =>
    have hexec : exec (.freezeEnd c) s = .next (endRun x c (endRun x c (thawed s c) false) true) := by
      rw [exec_freezeEnd, execFreezeEnd]
      simp only [hf, hnone, core_putCore, if_true, howner, thawed]
    obtain ⟨hruns, hdev⟩ := endRuns_frame x c (thawed s c)
    refine ⟨_, hexec, hruns, fun b => ⟨fun h => ?_, fun _ h => (hdev b).2 h⟩⟩
    rw [(hdev b).1 (h.resolve_left (by simp)), st_thawed]

/-! ## Gang joins (R188, R376) -/

/-- R188: members that are all at their join and go on at one address join. -/
theorem gangJoin_joins {s : State} {g : Nat} {n : Nat × Stream} {rest : List (Nat × Stream)}
    (hmembers : gangMembers s g = n :: rest)
    (hready : ∀ e, e ∈ n :: rest → (s.core e.1).frozen = none ∧ (e.2.ph = .issue ∨ e.2.ph = .reissue) ∧ atJoin s e.1 = true ∧
      joinTarget s e.1 = joinTarget s n.1) :
    exec (.gangJoin g) s = .next { s with gangs := s.gangs.map fun e =>
      if e.1 = g then (e.1, { e.2 with origin := s.cycle - (n.2.sys.ticks - 1) }) else e } := by
  have hall : ((n :: rest).all fun m => (s.core m.1).frozen.isNone && (decide (m.2.ph = .issue) || decide (m.2.ph = .reissue)) &&
      atJoin s m.1) = true := by
    refine List.all_eq_true.mpr fun e he => ?_
    obtain ⟨hthawed, hph, hjoin, _⟩ := hready e he
    simp [hthawed, hph, hjoin]
  have hone : (rest.all fun r => decide (joinTarget s r.1 = joinTarget s n.1)) = true := by
    refine List.all_eq_true.mpr fun e he => ?_
    obtain ⟨_, _, _, htarget⟩ := hready e (List.mem_cons_of_mem n he)
    exact decide_eq_true htarget
  rw [exec_gangJoin, execGangJoin]
  simp only [hmembers, hall, hone, Bool.true_eq_false, if_false, if_true]

/-! ## Gang messages (R349) -/

/-- Bytes written one by one. -/
def scatter (m : Mem) (ds : List (Nat × Byte)) : Mem := ds.foldl (fun m d => Mem.setByte m d.1 d.2) m

theorem byte_scatter_outside : ∀ (ds : List (Nat × Byte)) (m : Mem) (a : Nat), a ∉ ds.map (fun d => d.1) →
    Mem.byte (scatter m ds) a = Mem.byte m a
  | [], _, _, _ => rfl
  | d :: ds, m, a, h => by
    rw [List.map_cons, List.mem_cons, not_or] at h
    have hrec := byte_scatter_outside ds (Mem.setByte m d.1 d.2) a h.2
    rw [Mem.byte_setByte, if_neg h.1] at hrec
    exact hrec

/-- Of bytes for addresses all different, every one stands. -/
theorem byte_scatter_mem : ∀ (ds : List (Nat × Byte)) (m : Mem), (ds.map fun d => d.1).Nodup → ∀ d, d ∈ ds →
    Mem.byte (scatter m ds) d.1 = d.2
  | d :: ds, m, hnodup, e, he => by
    rw [List.map_cons, List.nodup_cons] at hnodup
    rcases List.mem_cons.mp he with rfl | he
    · exact (byte_scatter_outside ds (Mem.setByte m e.1 e.2) e.1 hnodup.1).trans (by simp)
    · exact byte_scatter_mem ds (Mem.setByte m d.1 d.2) hnodup.2 e he

/-- R220: where nothing is reserved, the bytes of a message are written at once. -/
theorem writes_of_no_resv (cyc : Nat) : ∀ (ds : List (Nat × Byte)) (x : Seat), x.resv = [] →
    ∃ bad, ds.foldl (fun x d => x.write (some false) cyc d.1 [d.2]) x = { x with spad := scatter x.spad ds, bad := bad }
  | [], x, _ => ⟨x.bad, rfl⟩
  | d :: ds, x, h => by
    obtain ⟨bad, hrec⟩ := writes_of_no_resv cyc ds
      { x with spad := Mem.setBytes x.spad d.1 [d.2], bad := leftBad d.1 [d.2].length x.bad } h
    rw [List.foldl_cons, CoreAccess.write_of_no_resv h]
    exact ⟨bad, hrec⟩

section
variable {s : State} {c : Nat} {m : GMsg} (hresv : (s.seat c).resv = [])
  (htiles : ∀ d, d ∈ m.data → ((s.seat c).tile (tileOf d.1)).st = .core ∨ ((s.seat c).tile (tileOf d.1)).st = .mbx)
include hresv htiles

/-- R349: a message for tiles that are CORE or MBX is written whole, and its sender forgets it. -/
theorem landMsg_eq : ∃ bad cmds s1, s1 = s.putSeat c { s.seat c with spad := scatter (s.seat c).spad m.data, bad := bad } ∧
    landMsg c s m = s1.putSeat m.src { s1.seat m.src with
      msgs := (s1.seat m.src).msgs.filter fun n => decide (n.id ≠ m.id), cmds := cmds } := by
  obtain ⟨bad, hwrites⟩ := writes_of_no_resv s.cycle m.data (s.seat c) hresv
  rw [landMsg]
  dsimp only
  generalize hok : (m.data.all fun d => _) = ok
  have htrue : ok = true := by
    rw [← hok]
    refine List.all_eq_true.mpr fun d hd => ?_
    rcases htiles d hd with h | h <;> simp only [h]
  simp only [htrue, if_true, hwrites]
  exact ⟨bad, _, _, rfl, rfl⟩

theorem landMsg_frame : ((landMsg c s m).seat c).spad = scatter (s.seat c).spad m.data ∧
    (∀ n, n ∈ ((landMsg c s m).seat m.src).msgs → n.id ≠ m.id) ∧ (landMsg c s m).hbm = s.hbm := by
  obtain ⟨bad, cmds, s1, hs1, hland⟩ := landMsg_eq hresv htiles
  have hspad : (s1.seat c).spad = scatter (s.seat c).spad m.data := by rw [hs1, seat_putSeat, if_pos rfl]
  rw [hland]
  refine ⟨?_, fun n hn => ?_, by rw [hs1]; rfl⟩
  · rw [seat_putSeat]
    split
    · next h => rw [← h]; exact hspad
    · exact hspad
  · rw [seat_putSeat, if_pos rfl] at hn
    simpa using (List.mem_filter.mp hn).2

end

theorem gangMessageLanding_lands {s : State} {c : Nat} {m : GMsg} (htick : s.ticking c false = true) (hdue : dueMsgs s c = [m]) :
    exec (.gangMessageLanding c) s = .next (landMsg c s m) := by
  rw [exec_gangMessageLanding, execGangMessageLanding, htick, hdue]; rfl

/-- Settles O44: each clause is the lemma on its step. -/
theorem coreUnitSteps : Obligations.CoreUnitSteps := by
  intro s c g t r k m x
  refine ⟨fun htakes hold => ⟨takeGrant_grants htakes hold, takeGrant_waits htakes⟩, fun hnext hbegun hgranted => ?_,
    routineFinish_finishes, ?_, fun hthawed hcollides => ?_, fun f hfreeze hcause => ?_, fun hfrozen hnone => ?_,
    fun n rest hmembers hready => ?_, fun htick hdue hnodup hresv htiles => ?_⟩
  · exact ⟨_, routineBegin_begins hnext hbegun hgranted, by simp, by simp [x, Mxe.putRoutine], by simp [x],
      by simp [x, Mxe.putRoutine], rfl⟩
  · exact ⟨_, rfl, by simp, by simp, by simp, by simp⟩
  · refine ⟨_, by rw [exec_collisionCycle, execCollisionCycle, if_neg (by simp [hthawed, hcollides])], by simp, by simp⟩
  · exact ⟨_, by rw [exec_powerFreeze, execPowerFreeze, hfreeze]; exact if_pos hcause, by simp⟩
  · obtain ⟨u, hexec, hruns, hdev⟩ := freezeEnd_thaws hfrozen hnone
    refine ⟨u, hexec, by simp [hruns.frozen], hruns.spad.trans (by simp [State.seat, x]), fun b => ?_⟩
    obtain ⟨d, hst⟩ := hruns.stream b
    rw [st_thawed] at hst
    have hloses : Loses (thawed s c) c b ↔ ∃ l d, lossOf (thawed s c) c b = some l ∧ (s.st c b).dev = some d ∧ l.1 = d.cause := by
      rw [Loses, st_thawed]
    refine ⟨by rw [hst], by rw [hst], ?_⟩
    have hown := hdev b
    rw [hloses] at hown
    exact hown
  · exact ⟨_, gangJoin_joins hmembers hready, rfl, rfl, rfl⟩
  · obtain ⟨hspad, hmsgs, hhbm⟩ := landMsg_frame hresv htiles
    refine ⟨_, gangMessageLanding_lands htick hdue, fun d hd => ?_, fun a ha => ?_, hmsgs, hhbm⟩
    · rw [hspad, byte_scatter_mem _ _ hnodup d hd]
    · rw [hspad, byte_scatter_outside _ _ a ha]

end Sys2Proof.Machine.CoreUnits
end

section
/-! Fetching a bundle, and the step that runs a slot's instruction (R127, R151, R152, R178, R392, R412). -/

namespace Sys2Proof.Machine.Bundles

/-! ## The next step (R178; log entries 1 and 2) -/

theorem step_due {s : State} {i : Instr} {rest : List Instr} (hclocks : s.clocksStand = false) (hagenda : s.agenda = i :: rest) :
    step s = exec i { s with agenda := rest } := by
  rw [step, hclocks, hagenda]; rfl

theorem step_turn {s : State} (hclocks : s.clocksStand = false) (hagenda : s.agenda = []) : step s = turnStep s := by
  rw [step, hclocks, hagenda]; rfl

theorem slotInstr_decoded {k : Nat} {w : W32} {i : Instr} (h : decodeSlot (slotClass k) w.toNat = .ok i) : slotInstr k w = .ok i := by
  rw [slotInstr, h]

theorem badRead_iff (s : State) (k : Nat) : badRead s k = true ↔ (.read s.cur.core s.cur.sec k : Upset) ∈ s.upset := by
  simp [badRead]

/-- The slot's word decodes: its instruction runs, as one that reads an error where the environment has struck its operands (R178, R392). -/
theorem runWord_decoded {k : Nat} {w : W32} {i : Instr} (h : decodeSlot (slotClass k) w.toNat = .ok i) (s : State) :
    runWord k w s = if (.read s.cur.core s.cur.sec k : Upset) ∈ s.upset then execBad i s else exec i s := by
  rw [runWord, slotInstr_decoded h]
  simp only [badRead_iff]

theorem slotStep_decoded {s : State} {k : Nat} {w : W32} {more : List (Nat × W32)} {i : Instr} (htodo : s.cur.todo = (k, w) :: more)
    (h : decodeSlot (slotClass k) w.toNat = .ok i) :
    slotStep s = thenSlot k w s.cst.seq (if (.read s.cur.core s.cur.sec k : Upset) ∈ s.upset then execBad i (atSlot k more s)
      else exec i (atSlot k more s)) := by
  rw [slotStep, htodo]
  exact congrArg (thenSlot k w s.cst.seq) (runWord_decoded h _)

theorem turnStep_issue {s : State} {c : Nat} {t : Bool} {b : Bundle} (hturn : s.turn = .issue c t) (hissuing : issuing s c t = true)
    (hfetch : fetch s c t = .ok b) : turnStep s = slotStep (openBundle c t b s) := by
  rw [turnStep, hturn]
  simp only [issueStep, hissuing, if_true, hfetch]

theorem turnStep_slot {s : State} {c : Nat} {t : Bool} (hturn : s.turn = .slot c t) : turnStep s = slotStep s := by
  rw [turnStep, hturn]

/-! ## The opening of a bundle (R152, R412) -/

/-- Breakpoints that a task's bundle has passed change one mark of its stream (R412). -/
theorem passBp_st (c : Nat) (t : Bool) (s : State) : ∃ b, (passBp c t s).st c t = { s.st c t with bpSkip := b } := by
  rw [passBp]
  split
  · exact ⟨false, by simp⟩
  · exact ⟨_, rfl⟩

theorem openBundle_upset (c : Nat) (t : Bool) (b : Bundle) (s : State) : (openBundle c t b s).upset = s.upset := by
  rw [openBundle, passBp]; split <;> rfl

theorem openBundle_hbm (c : Nat) (t : Bool) (b : Bundle) (s : State) : (openBundle c t b s).hbm = s.hbm := by
  rw [openBundle, passBp]; split <;> rfl

theorem openBundle_cur (c : Nat) (t : Bool) (b : Bundle) (s : State) :
    ∃ a, (openBundle c t b s).cur = { cursorAt c t b (passBp c t s) with ahead := a } := ⟨_, rfl⟩

theorem cursorAt_passBp (c : Nat) (t : Bool) (b : Bundle) (s : State) :
    (cursorAt c t b (passBp c t s)).todo = b.rest (s.st c t).done ∧ (cursorAt c t b (passBp c t s)).pc = (s.st c t).pc := by
  obtain ⟨p, hst⟩ := passBp_st c t s
  rw [cursorAt, hst]; exact ⟨rfl, rfl⟩

/-- A bundle without slots is IDLE, which counts a use and nothing else (R153). -/
theorem slotStep_empty {s : State} (htodo : s.cur.todo = []) : slotStep s = .next (finishBundle s.used) := by
  rw [slotStep, htodo]; rfl

/-- Settles O6: the step that is due, the first slot of a bundle, a later slot, and the bundle without slots. -/
theorem stepRunsTheDecodedInstruction : Obligations.StepRunsTheDecodedInstruction := by
  refine ⟨fun s i rest => step_due, ?_, ?_, ?_, ?_⟩
  · intro s c t b k w more i hclocks hagenda hturn hissuing hfetch htodo hdecode
    rw [step_turn hclocks hagenda, turnStep_issue hturn hissuing hfetch, slotStep_decoded htodo hdecode, openBundle_upset]
    rfl
  · intro s c t b _ _ _ _ _
    obtain ⟨a, hcur⟩ := openBundle_cur c t b s
    obtain ⟨htodo, hpc⟩ := cursorAt_passBp c t b s
    dsimp only
    rw [hcur]
    exact ⟨htodo, hpc, rfl, rfl, rfl, rfl, openBundle_hbm c t b s⟩
  · intro s c t k w more i hclocks hagenda hturn htodo hdecode
    rw [step_turn hclocks hagenda, turnStep_slot hturn, slotStep_decoded htodo hdecode]
  · intro s c t hclocks hagenda hturn htodo
    exact ⟨s.used, rfl, by rw [step_turn hclocks hagenda, turnStep_slot hturn, slotStep_empty htodo]⟩

/-! ## Words of the instruction scratchpad (R127, R151) -/

theorem leNat_lt : ∀ bs : List Byte, leNat bs < 256 ^ bs.length
  | [] => by decide
  | b :: bs => by
    have hb : b.toNat < 256 := b.isLt
    have hbs := leNat_lt bs
    simp only [leNat, List.length_cons, Nat.pow_succ]
    omega

theorem num_lt (m : Mem) (a n : Nat) : Mem.num m a n < 256 ^ n := by
  have hlen : (Mem.bytes m a n).length = n := by rw [CoreAccess.bytes_eq_map, List.length_map, List.length_range]
  calc Mem.num m a n < 256 ^ (Mem.bytes m a n).length := leNat_lt _
    _ = 256 ^ n := by rw [hlen]

/-! ## Fetches of the common region (R127, R152) -/

theorem fetchCore_of_no_gang {s : State} {c : Nat} {t : Bool} (h : ∀ k, (s.st c t).task = some k → k.gang = none) :
    fetchCore s c t = c := by
  cases htask : (s.st c t).task with
  | none => simp [fetchCore, htask]
  | some k => simp [fetchCore, htask, h k htask]

theorem codePlace_below (exb : Bool) {a : Nat} (h : a < 0x10000) : codePlace exb a = a := if_neg (by omega)

theorem regionEnd_common {a : Nat} (hlo : 0x8000 ≤ a) (hhi : a < 0x10000) : regionEnd a = some 0x10000 := by
  rw [regionEnd, if_neg (by omega), if_pos hhi]

section
variable {s : State} {c : Nat} {t : Bool} (hgang : ∀ k, (s.st c t).task = some k → k.gang = none)
include hgang

theorem fetchWord_common (hstale : (s.st c t).stale = []) {a : Nat} (hlo : 0x8000 ≤ a) (hhi : a < 0x10000) :
    fetchWord s c t a = BitVec.ofNat 32 (Mem.num (s.seat c).ispad a 4) := by
  rw [fetchWord, fetchCore_of_no_gang hgang]
  simp [codePlace_below _ hhi, hstale, show ¬ a < 0x8000 by omega]

theorem fetchBad_common (hbad : (s.seat c).ibad = []) {a : Nat} (hlo : 0x8000 ≤ a) (hhi : a < 0x10000) :
    fetchBad s c t a = false := by
  rw [fetchBad, fetchCore_of_no_gang hgang]
  simp [codePlace_below _ hhi, hbad, show ¬ a < 0x8000 by omega]

end

/-- Settles O7: each check of the fetch passes, and each word of the bundle is one of the common region. -/
theorem fetchReadsTheBundleAtPc : Obligations.FetchReadsTheBundleAtPc := by
  intro s c t h a n word hgang hstale hbad halign hlo hend hhead
  have hword : ∀ x, 0x8000 ≤ x → x < 0x10000 → fetchWord s c t x = BitVec.ofNat 32 (word x) :=
    fun x => fetchWord_common hgang hstale
  have hgood : ∀ x, 0x8000 ≤ x → x < 0x10000 → fetchBad s c t x = false := fun x => fetchBad_common hgang hbad
  have hheader : decodeHeader (fetchWord s c t a).toNat = .ok h := by
    rw [hword a hlo (by omega), BitVec.toNat_ofNat, Nat.mod_eq_of_lt (show word a < 2 ^ 32 from num_lt _ _ 4)]
    exact hhead
  have hslots : ((List.range n).any fun i => fetchBad s c t (a + 4 + 4 * i)) = false := by
    simp only [List.any_eq_false, List.mem_range, Bool.not_eq_true]
    exact fun i hi => hgood _ (by omega) (by omega)
  have hwords : ((slotsOf h.mask).mapIdx fun i k => (k, fetchWord s c t (a + 4 + 4 * i)))
      = (slotsOf h.mask).mapIdx fun j k => (k, BitVec.ofNat 32 (word (a + 4 + 4 * j))) := by
    refine List.mapIdx_eq_mapIdx_iff.mpr fun i hi => ?_
    have hlt : i < n := hi
    rw [hword _ (by omega) (by omega)]
  rw [fetch, regionEnd_common hlo (by omega)]
  dsimp only
  rw [if_neg (show ¬ (a < 0x8000 ∧ _) by omega), if_neg (not_not_intro halign), hgood a hlo (by omega), hheader]
  dsimp only
  rw [if_neg (show ¬ 0x10000 < a + (4 + 4 * n) by omega), hslots, hwords]
  rfl

end Sys2Proof.Machine.Bundles
end

section
/-! The registers of a stream: what their fields name, their reset values, and the landing of results (R142, R144 to R147, R392). -/

namespace Sys2Proof.Machine.RegisterFile

/-! ## Register fields (R142, R170) -/

theorem qOf_register {f : RegF} (h : f.toNat < 56) : qOf f = none := if_neg (by omega)

theorem qOf_queue {f : RegF} (h : 56 ≤ f.toNat) : qOf f = some (f.toNat % 4) := if_pos h

theorem rdS_register {f : RegF} (h : f.toNat < 56) (s : State) : rdS s f = s.cst.regs.getS f.toNat := by
  rw [rdS, qOf_register h]

theorem queueHead_cons {s : State} {n : Nat} {d : DEntry} {ds : List DEntry} (h : ((s.seat s.cur.core).q n).dq = d :: ds) :
    queueHead s n = some d := by
  rw [queueHead, h]; rfl

section
variable {s : State} {f : RegF} {d : DEntry} {ds : List DEntry} (hqueue : 56 ≤ f.toNat)
  (hhead : ((s.seat s.cur.core).q (f.toNat % 4)).dq = d :: ds)
include hqueue hhead

theorem rdS_queue (hclass : d.vec = false) : rdS s f = BitVec.ofNat 64 (leNat d.bytes) := by
  rw [rdS, qOf_queue hqueue]
  simp [queueHead_cons hhead, hclass]

theorem rdV_queue (hclass : d.vec = true) (l : Nat) : rdV s f l = BitVec.ofNat 32 (leNat ((d.bytes.drop (4 * l)).take 4)) := by
  rw [rdV, qOf_queue hqueue]
  simp [queueHead_cons hhead, hclass]

end

/-! ## Landings in registers (R142, R145) -/

/-- The state in which the registers of stream `t` of core `c` are `r`. -/
def withRegs (c : Nat) (t : Bool) (s : State) (r : Regs) : State := s.putSt c t { s.st c t with regs := r }

@[simp] theorem st_withRegs (c : Nat) (t : Bool) (s : State) (r : Regs) : (withRegs c t s r).st c t = { s.st c t with regs := r } := by
  simp [withRegs]

section
variable {c : Nat} {t : Bool} {s : State} {e : Landing} {d : Nat}

theorem landOne_s {v : Word} (h : e.dest = .s d v) : landOne c t s e = withRegs c t s ((s.st c t).regs.setS d v) := by
  rw [landOne, h]; rfl

theorem landOne_p {v : Bool} (h : e.dest = .p d v) : landOne c t s e = withRegs c t s ((s.st c t).regs.setP d v) := by
  rw [landOne, h]; rfl

theorem landOne_v {ls : List (Nat × W32)} (h : e.dest = .v d ls) :
    landOne c t s e = withRegs c t s ((s.st c t).regs.setLanes d ls) := by
  rw [landOne, h]; rfl

theorem landOne_k {bs : List (Nat × Bool)} (h : e.dest = .k d bs) :
    landOne c t s e = withRegs c t s ((s.st c t).regs.setK d (maskBits ((s.st c t).regs.getK d) bs)) := by
  rw [landOne, h]; rfl

end

/-- A result for s0, p0 or k0 is discarded (R142). -/
theorem landOne_fixed {c : Nat} {t : Bool} {s : State} {e : Landing}
    (h : (∃ v, e.dest = .s 0 v) ∨ (∃ v, e.dest = .p 0 v) ∨ (∃ bs, e.dest = .k 0 bs)) :
    ((landOne c t s e).st c t).regs = (s.st c t).regs := by
  obtain ⟨v, hs⟩ | ⟨v, hp⟩ | ⟨bs, hk⟩ := h
  · rw [landOne_s hs, st_withRegs, setS_zero]
  · rw [landOne_p hp, st_withRegs, setP_zero]
  · rw [landOne_k hk, st_withRegs, setK_zero]

/-- Settles O9: the fixed registers by their reads and landings, the register fields by what they name. -/
theorem fixedRegisters : Obligations.FixedRegisters := by
  intro s c t e f
  exact ⟨fun r => ⟨getS_zero r, getP_zero r, getK_zero r⟩, rdS_register (by decide) s, getP_zero _, getK_zero _, landOne_fixed,
    fun h => rdS_register h s, fun d ds hqueue hhead => ⟨rdS_queue hqueue hhead, rdV_queue hqueue hhead⟩⟩

/-! ## Reset (R49, R106, R123, R144, R381) -/

@[simp] theorem seat_reset (c : Nat) : State.reset.seat c = Seat.reset := rfl

@[simp] theorem st_reset (c : Nat) (t : Bool) : State.reset.st c t = Stream.reset := by cases t <;> rfl

@[simp] theorem core_reset (c : Nat) : State.reset.core c = Core.reset := rfl

/-- At reset every core is as every other. -/
theorem sysRead_reset (c : Nat) (t : Bool) (n : Nat) : sysRead State.reset c t n = sysRead State.reset 0 t n := rfl

/-- Settles O8: every core reads what core 0 reads, and that is computed. -/
theorem resetValues : Obligations.ResetValues := by
  intro c t
  simp only [sysRead_reset c t, core_reset]
  cases t <;> decide

/-! ## Reads after landings (R141, R145) -/

@[simp] theorem getP_setP (r : Regs) (d e : Nat) (v : Bool) (h : d ≠ 0) : (r.setP d v).getP e = if e = d then v else r.getP e := by
  unfold Regs.setP Regs.getP
  rw [if_neg h]
  by_cases he : e = 0
  · simp [he, Ne.symm h]
  · simp [he]

/-- A landing in a scalar register, s0 included. -/
theorem getS_setS_landed (r : Regs) (d e : Nat) (v : Word) : (r.setS d v).getS e = if e = d ∧ d ≠ 0 then v else r.getS e := by
  by_cases h : d = 0
  · subst h; simp
  · simp [h]

/-- A landing in a predicate, p0 included. -/
theorem getP_setP_landed (r : Regs) (d e : Nat) (v : Bool) : (r.setP d v).getP e = if e = d ∧ d ≠ 0 then v else r.getP e := by
  by_cases h : d = 0
  · subst h; simp
  · simp [h]

theorem getV_setV_landed (r : Regs) {d l e m : Nat} (v : W32) (hl : l < 128) (hm : m < 128) :
    (r.setV d l v).getV e m = if e = d ∧ m = l then v else r.getV e m := by
  rw [getV_setV]
  simp only [show 128 * e + m = 128 * d + l ↔ e = d ∧ m = l by omega]

/-- A scalar landing leaves the tables of the other registers. -/
theorem setS_eq (r : Regs) (d : Nat) (v : Word) : ∃ t, r.setS d v = { r with s := t } := by
  rw [Regs.setS]; split
  · exact ⟨r.s, rfl⟩
  · exact ⟨_, rfl⟩

theorem setP_eq (r : Regs) (d : Nat) (v : Bool) : ∃ t, r.setP d v = { r with p := t } := by
  rw [Regs.setP]; split
  · exact ⟨r.p, rfl⟩
  · exact ⟨_, rfl⟩

/-- The registers other than the scalar ones. -/
structure NonScalarKept (r q : Regs) : Prop where
  p : ∀ e, q.getP e = r.getP e
  k : ∀ e, q.getK e = r.getK e
  v : ∀ e l, q.getV e l = r.getV e l

theorem nonScalarKept_setS (r : Regs) (d : Nat) (v : Word) : NonScalarKept r (r.setS d v) := by
  obtain ⟨t, h⟩ := setS_eq r d v
  rw [h]; exact ⟨fun _ => rfl, fun _ => rfl, fun _ _ => rfl⟩

theorem getS_setP (r : Regs) (d e : Nat) (v : Bool) : (r.setP d v).getS e = r.getS e := by
  obtain ⟨t, h⟩ := setP_eq r d v
  rw [h]; rfl

/-! ## The only result of a stream lands (R145, R147, R392) -/

section
variable {s : State} {c : Nat} {t : Bool} {e : Landing}

/-- The stream begins a tick and its one result, with one tick to go, stands nowhere else. -/
structure LandsAlone (s : State) (c : Nat) (t : Bool) (e : Landing) : Prop where
  ticks : s.ticking c t = true
  only  : (s.st c t).landing = [e]
  last  : (s.st c t).lastLand = []
  due   : e.rem = 1

/-- The machine as the result lands: the tick has begun and nothing is pending in the stream. -/
def tickBegun (s : State) (c : Nat) (t : Bool) : State := s.putSt c t { (s.st c t).tick with landing := [] }

/-- The result as it lands. -/
def dueNow (e : Landing) : Landing := { e with rem := 0 }

theorem LandsAlone.not_frozen (h : LandsAlone s c t e) : (s.core c).frozen.isSome = false := by
  have hticks := h.ticks
  rw [State.ticking, Bool.and_eq_true] at hticks
  simpa using hticks.1

theorem LandsAlone.exec_eq (h : LandsAlone s c t e) (hlate : e.late = false) :
    exec (.resultLanding c t) s = .next (landAll c t [dueNow e] (tickBegun s c t)) := by
  have hlast : landLast c t s = s := by simp [landLast, h.last]
  have htick : (s.st c t).tick.landing = [dueNow e] := by simp [Stream.tick, h.only, h.due, dueNow]
  have hdue : (dueNow e).late = false := hlate
  rw [exec_resultLanding, execResultLanding, h.not_frozen]
  simp [hlast, h.ticks, Stream.due, htick, hdue, tickBegun, show (dueNow e).rem = 0 from rfl]

theorem landsBad_iff (s : State) (c : Nat) (t : Bool) : landsBad s c t = true ↔ (.land c t : Upset) ∈ s.upset := by
  simp [landsBad]

/-- The stream once its one due result has landed in its registers, which are then `r`. -/
theorem landAll_sound {r : Regs} (hgood : landsBad s c t = false) (hland : landOne c t s e = withRegs c t s r) :
    (landAll c t [e] s).st c t =
      { s.st c t with regs := r, sys := { (s.st c t).sys with fflags := joinFlags (s.st c t).sys.fflags e.flags } } := by
  simp [landAll, landsAs, landsEcc, hgood, hland]

/-- ECC is pending for the operation; of the cores nothing else changes (R392). -/
theorem st_eccAt (c : Nat) (t : Bool) (op : Nat × Nat) (s : State) :
    (eccAt c t op s).st c t =
      { s.st c t with pend := { (s.st c t).pend with ecc := (s.st c t).pend.ecc ++ [⟨tcECC, op.1, op.2, 0, none⟩] } } := by
  rw [eccAt, State.st, State.seat, State.core, HostAccess.setUE_cores]
  exact (st_putSt s c c t t _).trans (if_pos ⟨rfl, rfl⟩)

/-- The stream once a scalar result that holds an error has landed: its register takes a free value (R392). -/
theorem landAll_struck {d : Nat} {v : Word} (hbad : landsBad s c t = true) (hdest : e.dest = .s d v) :
    ∃ w, (landAll c t [e] s).st c t =
      { s.st c t with
        regs := (s.st c t).regs.setS d w
        pend := { (s.st c t).pend with ecc := (s.st c t).pend.ecc ++ [⟨tcECC, e.src.1, e.src.2, 0, none⟩] }
        sys := { (s.st c t).sys with fflags := joinFlags (s.st c t).sys.fflags e.flags } } := by
  have hblur : ({ e with dest := e.dest.blur (s.free + 128 * 0) } : Landing).dest = .s d (Config.freeWord (s.free + 128 * 0)) := by
    rw [hdest]; rfl
  refine ⟨Config.freeWord (s.free + 128 * 0), ?_⟩
  rw [landAll, landsAs, landsEcc, hbad]
  simp only [if_true, List.mapIdx_cons, List.mapIdx_nil, List.foldl_cons, List.foldl_nil, landOne_s hblur, st_withRegs, st_putSt,
    and_self, st_eccAt]
  rfl

section
variable {u : State} (h : LandsAlone s c t e) (hexec : exec (.resultLanding c t) s = .next u)
include h hexec

theorem LandsAlone.answer (hlate : e.late = false) : u = landAll c t [dueNow e] (tickBegun s c t) := by
  simpa using hexec.symm.trans (h.exec_eq hlate)

/-- A sound result for a register: the registers are those after its landing, the flags have joined, nothing is pending. -/
theorem LandsAlone.lands {r : Regs} (hgood : (.land c t : Upset) ∉ s.upset) (hlate : e.late = false)
    (hland : landOne c t (tickBegun s c t) (dueNow e) = withRegs c t (tickBegun s c t) r) :
    (u.st c t).regs = r ∧ (u.st c t).landing = [] ∧ (u.st c t).sys.fflags = joinFlags (s.st c t).sys.fflags e.flags := by
  have hsound : landsBad (tickBegun s c t) c t = false :=
    Bool.eq_false_iff.mpr fun hbad => hgood ((landsBad_iff (tickBegun s c t) c t).mp hbad)
  rw [h.answer hexec hlate, landAll_sound hsound hland]
  simp [tickBegun, Stream.tick, dueNow]

theorem LandsAlone.lands_s (hgood : (.land c t : Upset) ∉ s.upset) {d : Nat} {v : Word} (hdest : e.dest = .s d v) :
    (u.st c t).regs = (s.st c t).regs.setS d v ∧ (u.st c t).landing = [] ∧
      (u.st c t).sys.fflags = joinFlags (s.st c t).sys.fflags e.flags := by
  refine h.lands hexec hgood (by rw [Landing.late, hdest]) ?_
  rw [landOne_s (e := dueNow e) hdest]
  simp [tickBegun, Stream.tick]

theorem LandsAlone.lands_p (hgood : (.land c t : Upset) ∉ s.upset) {d : Nat} {v : Bool} (hdest : e.dest = .p d v) :
    (u.st c t).regs = (s.st c t).regs.setP d v := by
  refine (h.lands hexec hgood (by rw [Landing.late, hdest]) ?_).1
  rw [landOne_p (e := dueNow e) hdest]
  simp [tickBegun, Stream.tick]

theorem LandsAlone.lands_v (hgood : (.land c t : Upset) ∉ s.upset) {d : Nat} {ls : List (Nat × W32)} (hdest : e.dest = .v d ls) :
    (u.st c t).regs = (s.st c t).regs.setLanes d ls := by
  refine (h.lands hexec hgood (by rw [Landing.late, hdest]) ?_).1
  rw [landOne_v (e := dueNow e) hdest]
  simp [tickBegun, Stream.tick]

/-- A scalar result that holds an error: its register takes some value, and ECC is pending for its operation. -/
theorem LandsAlone.strikes (hbad : (.land c t : Upset) ∈ s.upset) {d : Nat} {v : Word} (hdest : e.dest = .s d v) :
    ∃ w, (u.st c t).regs = (s.st c t).regs.setS d w ∧ (u.st c t).landing = [] ∧
      (u.st c t).pend.ecc = (s.st c t).pend.ecc ++ [⟨14, e.src.1, e.src.2, 0, none⟩] := by
  have hstruck : landsBad (tickBegun s c t) c t = true := (landsBad_iff (tickBegun s c t) c t).mpr hbad
  obtain ⟨w, hst⟩ := landAll_struck (e := dueNow e) hstruck hdest
  refine ⟨w, ?_⟩
  rw [h.answer hexec (by rw [Landing.late, hdest]), hst]
  simp [tickBegun, Stream.tick, dueNow, tcECC]

end

end

/-- Settles O29: a sound result and one that holds an error, by the kind of its destination. -/
theorem resultLands : Obligations.ResultLands := by
  intro s c t e htick honly hlast hdue y
  have h : LandsAlone s c t e := ⟨htick, honly, hlast, hdue⟩
  obtain ⟨u, hexec⟩ := exec_next (.resultLanding c t) s
  refine ⟨fun hgood => ⟨u, hexec, fun d v hdest => ?_, fun d v hdest => ?_, fun d l v hdest hl r m hm => ?_⟩,
    fun hbad => ⟨u, hexec, fun d v hdest => ?_⟩⟩
  · obtain ⟨hregs, hempty, hflags⟩ := h.lands_s hexec hgood hdest
    obtain ⟨hp, hk, hv⟩ := nonScalarKept_setS y.regs d v
    rw [hregs]
    exact ⟨hempty, hflags, fun r => getS_setS_landed y.regs d r v, hp, hk, hv⟩
  · rw [h.lands_p hexec hgood hdest]
    exact ⟨fun r => getP_setP_landed y.regs d r v, fun r => getS_setP y.regs d r v⟩
  · rw [h.lands_v hexec hgood hdest]
    exact getV_setV_landed y.regs v hl hm
  · obtain ⟨w, hregs, hempty, hecc⟩ := h.strikes hexec hbad hdest
    obtain ⟨hp, hk, hv⟩ := nonScalarKept_setS y.regs d w
    rw [hregs]
    refine ⟨hempty, hecc, fun r hr => ?_, hp, hk, hv⟩
    rw [getS_setS_landed, if_neg]
    rintro ⟨rfl, hd⟩
    exact hr.elim (absurd rfl) hd

end Sys2Proof.Machine.RegisterFile
end

section
/-! System registers as slots read and write them, IFENCE and SETF (R106, R143, R144, R190, R197, R198, R388). -/

namespace Sys2Proof.Machine.SystemAccess

/-! ## SYSR (R143, R197) -/

theorem sysOk_open {n : Nat} {s : State} (hassigned : sysAssigned n = true) (hmode : n < 0x100 ∨ s.cst.sys.sup = true) (b : SlotRes) :
    sysOk n s b = b := by
  rw [sysOk, if_neg (by simp [hassigned]), if_neg]
  rintro ⟨hn, hsup⟩
  rcases hmode with h | h
  · omega
  · exact absurd (hsup.symm.trans h) (by decide)

/-- A slot whose body changes nothing that `Kept` names before it posts a result. -/
theorem posts_after {i : Instr} {s u : State} {fs : List RegF} {d : Dest} {fl lat : Nat} (hlive : QueuesLive s fs)
    (hkept : KeptBy s u (fun _ q => q)) (hcur : u.cur = s.cur) (hcst : u.cst = s.cst)
    (e : exec i s = runSlot fs (.ok (land d fl lat u)) s) : Posts i s fs d fl lat :=
  ⟨_, e.trans (runSlot_live hlive), kept_after fs (hkept.trans (keptBy_land d fl lat u)),
    by simp [State.used, land, hcur], by simp [land, Stream.pushLanding, hcst], by simp [land, Stream.pushLanding, hcst, hcur],
    by simp [land, hcst]⟩

/-- R197: what a SYSR posts is the register's value at the start of its tick. -/
theorem sysr_posts {s : State} {n : BitVec 12} (d : RegF) (hassigned : sysAssigned n.toNat = true)
    (hmode : n.toNat < 0x100 ∨ s.cst.sys.sup = true) (hn : n.toNat ≠ 0x109) :
    Posts (.sysr d n) s [] (.s d.toNat (sysRead (atTickStart s) s.cur.core s.cur.sec n.toNat)) 0 2 := by
  refine posts_after (queuesLive_nil s) (keptBy_putCst s s.cst rfl) rfl (cst_putCst s _) ?_
  rw [exec_sysr, execSysr, sysOk_open hassigned hmode, sysReadEffect, if_neg hn]

/-- A slot posts one result: its destination and value are fixed. -/
theorem posts_dest_unique {i : Instr} {s : State} {fs fs' : List RegF} {d d' : Dest} {fl fl' lat lat' : Nat}
    (hempty : s.cst.landing = []) (h : Posts i s fs d fl lat) (h' : Posts i s fs' d' fl' lat') : d = d' := by
  obtain ⟨t, hexec, -, -, -, hland, -⟩ := h
  obtain ⟨t', hexec', -, -, -, hland', -⟩ := h'
  obtain rfl : t = t' := by simpa using hexec.symm.trans hexec'
  rw [hempty, hland', hempty] at hland
  simp only [insLanding, List.cons.injEq, Landing.mk.injEq] at hland
  exact hland.1.2.2.2.1.symm

/-- Queue 0 of core 0, switched on, with the data entries `ds`. -/
def queueOf (ds : List DEntry) : Seat := { Seat.reset with gq := [(0, { GQueue.reset with gqc := 1, dq := ds })] }

/-- The secondary stream of core 0 is about to issue a slot. In this tick the primary's bundle has popped the only data entry of
queue 0; the cursor keeps the core as it stood at the start of the tick. -/
def popped : State :=
  { State.reset.putSeat 0 (queueOf []) with cur := { Cursor.reset with sec := true, start := some (queueOf [⟨false, []⟩]) } }

/-- Refutes O20: a SYSR of GQS0 in the state `popped` posts the status at the start of the tick, with the entry that the other
stream has popped since, as R197 says, and not the value that the register has as the slot runs. -/
theorem not_systemRegisterAccess : ¬ Obligations.SystemRegisterAccess := by
  intro h
  obtain ⟨-, -, hreads⟩ := h popped 5 0 0x4C (by unfold QueuesLive; decide)
  obtain ⟨hposts, -, -⟩ := hreads (by decide) (.inl (by decide))
  have hstart := sysr_posts (s := popped) (n := 0x4C) 5 (by decide) (.inl (by decide)) (by decide)
  have hdest := posts_dest_unique (by decide) (hposts (by decide)) hstart
  exact absurd hdest (by decide)

/-! ## Fields of a value -/

theorem low_eq_and {n : Nat} (h : n ≤ 64) (v : Word) : word (low n v) = v &&& BitVec.ofNat 64 (2 ^ n - 1) := by
  have hpow : 2 ^ n ≤ 2 ^ 64 := Nat.pow_le_pow_right (by decide) h
  have hpos : 0 < 2 ^ n := Nat.two_pow_pos n
  refine BitVec.eq_of_toNat_eq ?_
  rw [BitVec.toNat_and, word, low, BitVec.toNat_ofNat, BitVec.toNat_ofNat, Nat.mod_eq_of_lt (a := 2 ^ n - 1) (by omega),
    Nat.and_two_pow_sub_one_eq_mod, Nat.mod_eq_of_lt (Nat.lt_of_lt_of_le (Nat.mod_lt _ hpos) hpow)]

theorem truncate_eq_low (n : Nat) (v : Word) : (v.truncate n).zeroExtend 64 = word (low n v) := by
  refine BitVec.eq_of_toNat_eq ?_
  simp [word, low]

theorem truncate_eq_and {n : Nat} (h : n ≤ 64) (v : Word) : (v.truncate n).zeroExtend 64 = v &&& BitVec.ofNat 64 (2 ^ n - 1) :=
  (truncate_eq_low n v).trans (low_eq_and h v)

theorem b2n_bit0 (v : Word) : word (b2n (bitN v.toNat 0)) = v &&& 1 := by
  refine Eq.trans (congrArg word ?_) (low_eq_and (n := 1) (by decide) v)
  simp only [b2n, bitN, low, decide_eq_true_eq]
  split <;> omega

theorem testBit_b2n_add (b : Bool) (x j : Nat) : (b2n b + 2 * x).testBit j = if j = 0 then b else x.testBit (j - 1) := by
  cases j with
  | zero => cases b <;> simp [b2n, Nat.testBit_zero]
  | succ j =>
    rw [Nat.testBit_succ, if_neg (by omega), Nat.add_sub_cancel]
    congr 1
    cases b <;> simp only [b2n, if_true, Bool.false_eq_true, if_false] <;> omega

theorem getLsbD_word (x : Nat) {j : Nat} (h : j < 64) : (word x).getLsbD j = x.testBit j := by
  rw [word, BitVec.getLsbD_ofNat]; simp [h]

/-! ## What a number reads (R106, R143, R144, R388) -/

section
variable (s : State) (c : Nat) (t : Bool) {n : Nat}

theorem sysRead_ts (h : 0x20 ≤ n ∧ n ≤ 0x2F) : sysRead s c t n = ((s.st c t).regs.getTs (n - 0x20)).zeroExtend 64 := by
  simp (disch := omega) only [sysRead, if_neg, if_pos]; rfl

theorem sysRead_gqb (h : 0x40 ≤ n ∧ n ≤ 0x43) : sysRead s c t n = ((s.seat c).q (n % 4)).gqb := by
  simp (disch := omega) only [sysRead, if_neg, if_pos]

theorem sysRead_gqc (h : 0x44 ≤ n ∧ n ≤ 0x47) : sysRead s c t n = ((s.seat c).q (n % 4)).gqc := by
  simp (disch := omega) only [sysRead, if_neg, if_pos]

theorem sysRead_gql (h : 0x48 ≤ n ∧ n ≤ 0x4B) : sysRead s c t n = ((s.seat c).q (n % 4)).gql := by
  simp (disch := omega) only [sysRead, if_neg, if_pos]

theorem sysRead_gqs (h : 0x4C ≤ n ∧ n ≤ 0x4F) : sysRead s c t n = word ((s.seat c).q (n % 4)).status := by
  simp (disch := omega) only [sysRead, if_neg, if_pos]

theorem sysRead_sscr (h : 0x110 ≤ n ∧ n ≤ 0x117) : sysRead s c t n = Tab.get 0 (s.st c t).trap.sscr (n - 0x110) := by
  simp (disch := omega) only [sysRead, if_neg, if_pos]; rfl

end

/-- What a number reads depends on its core, the contexts, the registers of BAR 0 and the time base. -/
theorem sysRead_congr {s u : State} {c : Nat} (hcore : u.core c = s.core c) (hctxs : u.ctxs = s.ctxs) (hregs : u.regs = s.regs)
    (hgtb : u.gtb = s.gtb) (t : Bool) (n : Nat) : sysRead u c t n = sysRead s c t n := by
  simp only [sysRead, sstat, State.st, State.seat, State.ctxOf, State.ctx, State.fld, State.reg, hcore, hctxs, hregs, hgtb]

/-! ## What a write leaves (R106, R143, R197) -/

@[simp] theorem st_sysWriteSeat (n : Nat) (v : Word) (x : Seat) (t : Bool) : (sysWriteSeat n v x).st t = x.st t := by
  unfold sysWriteSeat
  dsimp only
  repeat' split
  all_goals simp only [st_putQ]

@[simp] theorem st_sysLand (c : Nat) (t : Bool) (n : Nat) (v : Word) (s : State) :
    (sysLand c t n v s).st c t = sysWriteStream n v (s.st c t) := by
  rw [sysLand, State.st]
  simp only [seat_putSeat, if_true, st_sysWriteSeat, st_putSt_seat]
  rfl

/-- Of the core's registers a write changes what it does to the seat with the stream put back. -/
theorem q_sysLand (c : Nat) (t : Bool) (n : Nat) (v : Word) (s : State) (m : Nat) :
    ((sysLand c t n v s).seat c).q m = (sysWriteSeat n v (s.seat c)).q m := by
  rw [sysLand]
  simp only [seat_putSeat, if_true]
  unfold sysWriteSeat
  simp only [q_putSt]
  repeat' split
  all_goals simp only [q_putQ, q_putSt]

section
variable (v : Word) {n : Nat}

theorem sysWriteStream_ts (y : Stream) (h : 0x20 ≤ n ∧ n ≤ 0x2F) :
    (sysWriteStream n v y).regs = { y.regs with ts := Tab.set tsDefault y.regs.ts (n - 0x20) (v.truncate 32) } := by
  simp (disch := omega) only [sysWriteStream, if_neg, if_pos]

theorem sysWriteStream_sscr (y : Stream) (h : 0x110 ≤ n ∧ n ≤ 0x117) :
    (sysWriteStream n v y).trap.sscr = Tab.set 0 y.trap.sscr (n - 0x110) v := by
  simp (disch := omega) only [sysWriteStream, if_neg, if_pos]

theorem sysWriteSeat_gqb (x : Seat) (h : 0x40 ≤ n ∧ n ≤ 0x43) : ((sysWriteSeat n v x).q (n % 4)).gqb = word (low 56 v) := by
  rw [sysWriteSeat, if_pos h]; simp

theorem sysWriteSeat_gqc (x : Seat) (h : 0x44 ≤ n ∧ n ≤ 0x47) :
    ((sysWriteSeat n v x).q (n % 4)).gqc = word (v.toNat &&& (bitsMask 63 32 + bitsMask 15 9 + 1)) := by
  rw [sysWriteSeat, if_neg (by omega), if_pos h]; simp

theorem sysWriteSeat_gql (x : Seat) (h : 0x48 ≤ n ∧ n ≤ 0x4B) : ((sysWriteSeat n v x).q (n % 4)).gql = word (low 32 v) := by
  rw [sysWriteSeat, if_neg (by omega), if_neg (by omega), if_pos h]; simp

/-- OOB and XF are cleared by a one; the counts stay (R106). -/
theorem sysWriteSeat_gqs (x : Seat) (h : 0x4C ≤ n ∧ n ≤ 0x4F) : (sysWriteSeat n v x).q (n % 4) =
    { x.q (n % 4) with oob := (x.q (n % 4)).oob && !bitN v.toNat 0, xf := (x.q (n % 4)).xf && !bitN v.toNat 1 } := by
  rw [sysWriteSeat, if_neg (by omega), if_neg (by omega), if_neg (by omega), if_pos h]; simp

end

/-! ## What reads back (R106, R388) -/

/-- The status of a queue: OOB, XF and its counts (R106). -/
theorem status_eq (q : GQueue) :
    q.status = b2n q.oob + 2 * (b2n q.xf + 2 * (q.aq.length % 64 * 2 ^ 2 + q.dq.length % 64 * 2 ^ 8)) := by
  rw [GQueue.status]; omega

/-- The low two bits of a status are OOB and XF. -/
theorem testBit_status (q : GQueue) (j : Nat) : q.status.testBit j =
    if j = 0 then q.oob else if j = 1 then q.xf else (q.aq.length % 64 * 2 ^ 2 + q.dq.length % 64 * 2 ^ 8).testBit (j - 2) := by
  rw [status_eq, testBit_b2n_add, testBit_b2n_add]
  rcases j with _ | _ | j <;> rfl

/-- TCAUSE without its done mask and argument, both below bit 16. -/
def causeLow (r : TrapRegs) : Nat := r.code % 32 + b2n r.asy * 2 ^ 5 + r.slot % 8 * 2 ^ 8

theorem causeLow_lt (r : TrapRegs) : causeLow r < 2 ^ 16 := by
  have hasy : b2n r.asy ≤ 1 := by cases r.asy <;> decide
  rw [causeLow]; omega

/-- The bits of TCAUSE by its fields (R388). -/
theorem testBit_cause (r : TrapRegs) (j : Nat) : r.cause.testBit j =
    if j < 16 then (causeLow r).testBit j else if j < 32 then r.done.getLsbD (j - 16) else r.arg.getLsbD (j - 32) := by
  have hdone : r.done.toNat < 2 ^ 16 := Nat.lt_trans r.done.isLt (by decide)
  have hcause : r.cause = 2 ^ 16 * (2 ^ 16 * r.arg.toNat + r.done.toNat) + causeLow r := by
    rw [TrapRegs.cause, causeLow]; omega
  rw [hcause, Nat.testBit_two_pow_mul_add _ (causeLow_lt r), Nat.testBit_two_pow_mul_add _ hdone]
  simp only [show j - 16 < 16 ↔ j < 32 by omega, show j - 16 - 16 = j - 32 by omega, BitVec.testBit_toNat]

theorem sysRead_status_landed (s : State) (c : Nat) (t : Bool) {n : Nat} (v : Word) (h : 0x4C ≤ n ∧ n ≤ 0x4F) {j : Nat} (hj : j < 64) :
    (sysRead (sysLand c t n v s) c t n).getLsbD j = ((sysRead s c t n).getLsbD j && !(decide (j < 2) && v.getLsbD j)) := by
  rw [sysRead_gqs _ _ _ h, sysRead_gqs _ _ _ h, q_sysLand, sysWriteSeat_gqs v _ h, getLsbD_word _ hj, getLsbD_word _ hj,
    testBit_status, testBit_status, HostAccess.bitN_eq_testBit, HostAccess.bitN_eq_testBit, BitVec.testBit_toNat, BitVec.testBit_toNat]
  by_cases h0 : j = 0
  · simp [h0]
  · by_cases h1 : j = 1
    · simp [h1]
    · simp [h0, h1, show ¬ j < 2 by omega]

theorem sysRead_cause_landed (s : State) (c : Nat) (t : Bool) (v : Word) {j : Nat} (hj : j < 64) :
    (sysRead (sysLand c t 0x100 v s) c t 0x100).getLsbD j
      = if 16 ≤ j ∧ j < 24 then v.getLsbD j else (sysRead s c t 0x100).getLsbD j := by
  have hread : ∀ u : State, sysRead u c t 0x100 = word (u.st c t).trap.cause := fun _ => rfl
  rw [hread, hread, st_sysLand, getLsbD_word _ hj, getLsbD_word _ hj, testBit_cause, testBit_cause]
  rw [show (sysWriteStream 0x100 v (s.st c t)).trap = { (s.st c t).trap with done := BitVec.ofNat 8 (v.toNat / 2 ^ 16) } from rfl]
  dsimp only
  by_cases hlow : j < 16
  · rw [if_pos hlow, if_pos hlow, if_neg (by omega)]; rfl
  · by_cases hhigh : j < 32
    · rw [if_neg hlow, if_pos hhigh, if_neg hlow, if_pos hhigh, BitVec.getLsbD_ofNat, Nat.testBit_div_two_pow, BitVec.testBit_toNat,
        Nat.sub_add_cancel (by omega)]
      by_cases hin : j < 24
      · rw [if_pos (by omega), decide_eq_true (by omega), Bool.true_and]
      · rw [if_neg (by omega), decide_eq_false (by omega), Bool.false_and, BitVec.getLsbD_of_ge _ _ (by omega)]
    · rw [if_neg hlow, if_neg hhigh, if_neg hlow, if_neg hhigh, if_neg (by omega)]

/-- The return that a write of TRET asks for (R389). -/
theorem ret_landed (s : State) (c : Nat) (t : Bool) (v : Word) :
    ((sysLand c t 0x108 v s).st c t).ret = some (v.getLsbD 16, v.extractLsb' 8 8) := by
  have hret : ((sysLand c t 0x108 v s).st c t).ret = some (bitN v.toNat 16, BitVec.ofNat 8 (v.toNat / 2 ^ 8)) := by
    rw [st_sysLand]; rfl
  have hskip : BitVec.ofNat 8 (v.toNat / 2 ^ 8) = v.extractLsb' 8 8 := by
    rw [BitVec.extractLsb', Nat.shiftRight_eq_div_pow]
  rw [hret, HostAccess.bitN_eq_testBit, hskip, BitVec.testBit_toNat]

/-! ## Read-only registers (R143) -/

/-- The numbers that a SYSW leaves as they are. -/
def ReadOnly (n : Nat) : Prop :=
  n = 1 ∨ n = 2 ∨ n = 5 ∨ n = 8 ∨ n = 9 ∨ n = 0x0A ∨ n = 0x16 ∨ (0x50 ≤ n ∧ n ≤ 0x53) ∨ n = 0x102 ∨ n = 0x109

theorem sysWriteStream_readOnly {n : Nat} (h : ReadOnly n) (v : Word) (y : Stream) : sysWriteStream n v y = y := by
  unfold ReadOnly at h
  simp (disch := omega) only [sysWriteStream, if_neg]

theorem sysWriteSeat_readOnly {n : Nat} (h : ReadOnly n) (v : Word) (x : Seat) : sysWriteSeat n v x = x := by
  unfold ReadOnly at h
  simp (disch := omega) only [sysWriteSeat, if_neg]

theorem putSt_st (x : Seat) (t : Bool) : x.putSt t (x.st t) = x := by cases t <;> rfl

theorem core_putSeat_seat (s : State) (c d : Nat) : (s.putSeat c (s.seat c)).core d = s.core d := by
  rw [State.putSeat, core_putCore]
  split
  · next h => rw [h]; rfl
  · rfl

theorem sysLand_readOnly {n : Nat} (h : ReadOnly n) (c : Nat) (t : Bool) (v : Word) (s : State) :
    sysLand c t n v s = s.putSeat c (s.seat c) := by
  rw [sysLand]
  simp only [sysWriteStream_readOnly h, sysWriteSeat_readOnly h, putSt_st, ne_eq, not_true_eq_false, and_false, if_false]

theorem sysRead_readOnly {n : Nat} (h : ReadOnly n) (c : Nat) (t : Bool) (v : Word) (s : State) :
    sysRead (sysLand c t n v s) c t n = sysRead s c t n := by
  rw [sysLand_readOnly h]
  exact sysRead_congr (core_putSeat_seat s c c) rfl rfl rfl t n

/-! ## IFENCE and SETF (R190, R198) -/

/-- The stream without its old words in the range `z`. -/
def forgetting (z : Nat × Nat) (y : Stream) : Stream :=
  { y with stale := y.stale.filter fun e => !(decide (z.1 ≤ e.1) && decide (e.1 < z.2)) }

theorem mem_forgetting (z : Nat × Nat) (y : Stream) (e : Nat × W32) :
    e ∈ (forgetting z y).stale ↔ e ∈ y.stale ∧ ¬ (z.1 ≤ e.1 ∧ e.1 < z.2) := by
  simp only [forgetting, List.mem_filter, Bool.not_eq_true', Bool.and_eq_false_iff, decide_eq_false_iff_not,
    Decidable.not_and_iff_not_or_not]

/-- The machine after an IFENCE of region `r` by the stream under way. -/
def fenced (r : IRegion) (s : State) : State :=
  { s.putCst (forgetting (regionRange r s.cst.sys.exb) s.cst) with
    cur := { s.cur with part := { s.cur.part with extra := s.cur.part.extra + 1 } }, free := s.free + 1 }

theorem cst_fenced (r : IRegion) (s : State) : (fenced r s).cst = forgetting (regionRange r s.cst.sys.exb) s.cst := cst_putCst s _

/-- R190: the stream's old words of the region are forgotten; one idle tick follows the bundle. -/
theorem ifence_forgets (s : State) (r : IRegion) :
    ∃ t, exec (.ifence r) s = .next t ∧ t.rest = s.rest ∧ t.cst.regs = s.cst.regs ∧ t.cst.landing = s.cst.landing ∧
      t.cur = { s.cur with part := { s.cur.part with extra := s.cur.part.extra + 1 } } ∧
      let z := regionRange r s.cst.sys.exb
      (∀ e, e ∈ t.cst.stale ↔ e ∈ s.cst.stale ∧ ¬ (z.1 ≤ e.1 ∧ e.1 < z.2)) := by
  refine ⟨fenced r s, (exec_ifence r s).trans (runSlot_live (queuesLive_nil s)), rfl, ?_, ?_, rfl, fun e => ?_⟩
  · rw [cst_fenced]; rfl
  · rw [cst_fenced]; rfl
  · rw [cst_fenced]; exact mem_forgetting _ _ e

theorem setf_posts {s : State} {a : RegF} {k : F3} (d : BitVec 2) (hlive : QueuesLive s [a]) (hguard : rdP s k = true) :
    Posts (.setf d a k) s [a] (.xf d.toNat (rdS s a &&& 0xFFFFFFFFFF)) 0 4 := by
  refine posts_of hlive ?_
  rw [exec_setf, execSetf, guarded, hguard, if_pos rfl, low_eq_and (by decide)]
  rfl

/-! ## The statement -/

/-- A register of the stream reads back what the write has left in the stream. -/
theorem sysRead_landed {c : Nat} {t : Bool} {n : Nat} (f : Stream → Word) (hread : ∀ u, sysRead u c t n = f (u.st c t)) (v : Word)
    (s : State) : sysRead (sysLand c t n v s) c t n = f (sysWriteStream n v (s.st c t)) := by
  rw [hread, st_sysLand]

/-- Settles O21: each register by what a write leaves of it, the read-only ones by `sysRead_readOnly`. -/
theorem systemRegistersFencesAndFormats : Obligations.SystemRegistersFencesAndFormats := by
  refine ⟨fun s c t n v => ?_, fun s r d a k => ⟨ifence_forgets s r, setf_posts d⟩⟩
  dsimp only
  refine ⟨?clusters, ?krg64, ?krg32, ?kwen, fun hts => ?_, ?tsel, fun hgqb => ?_, fun hgql => ?_, ?fflags, fun hgqc => ?_,
    fun hgqs j => sysRead_status_landed s c t v hgqs, ?tcause, ?tpc, ?tret, fun hsscr => ?_, fun hro => sysRead_readOnly hro c t v s⟩
  case clusters =>
    rintro (rfl | rfl)
    · exact (sysRead_landed (·.sys.clma.zeroExtend 64) (fun _ => rfl) v s).trans (truncate_eq_and (by decide) v)
    · exact (sysRead_landed (·.sys.clmb.zeroExtend 64) (fun _ => rfl) v s).trans (truncate_eq_and (by decide) v)
  case krg64 =>
    rintro (rfl | rfl | rfl)
    · exact sysRead_landed (·.sys.kseed) (fun _ => rfl) v s
    · exact sysRead_landed (·.sys.kidx) (fun _ => rfl) v s
    · exact sysRead_landed (·.sys.kdest) (fun _ => rfl) v s
  case krg32 =>
    rintro (rfl | rfl | rfl)
    · exact (sysRead_landed (·.sys.ktens.zeroExtend 64) (fun _ => rfl) v s).trans (truncate_eq_and (by decide) v)
    · exact (sysRead_landed (·.sys.kstep.zeroExtend 64) (fun _ => rfl) v s).trans (truncate_eq_and (by decide) v)
    · exact (sysRead_landed (·.sys.drawc.zeroExtend 64) (fun _ => rfl) v s).trans (truncate_eq_and (by decide) v)
  case kwen =>
    rintro rfl
    exact (sysRead_landed (fun y => word (b2n y.sys.kwen)) (fun _ => rfl) v s).trans (b2n_bit0 v)
  case tsel =>
    rintro rfl
    exact (sysRead_landed (·.sys.tsel.zeroExtend 64) (fun _ => rfl) v s).trans (truncate_eq_and (by decide) v)
  case fflags =>
    rintro rfl
    exact (sysRead_landed (fun y => word y.sys.fflags) (fun _ => rfl) v s).trans (low_eq_and (n := 6) (by decide) v)
  case tcause => rintro rfl j hj; exact sysRead_cause_landed s c t v hj
  case tpc =>
    rintro rfl
    exact (sysRead_landed (fun y => word y.trap.tpc) (fun _ => rfl) v s).trans (low_eq_and (by decide) v)
  case tret => rintro rfl; exact ⟨rfl, ret_landed s c t v⟩
  · rw [sysRead_ts _ _ _ hts, st_sysLand, sysWriteStream_ts v _ hts, Regs.getTs, Tab.get_set, if_pos rfl]
    exact truncate_eq_and (by decide) v
  · rw [sysRead_gqb _ _ _ hgqb, q_sysLand, sysWriteSeat_gqb v _ hgqb]
    exact low_eq_and (by decide) v
  · rw [sysRead_gql _ _ _ hgql, q_sysLand, sysWriteSeat_gql v _ hgql]
    exact low_eq_and (by decide) v
  · rw [sysRead_gqc _ _ _ hgqc, q_sysLand, sysWriteSeat_gqc v _ hgqc]
    exact BitVec.eq_of_toNat_eq (by simp [word, bitsMask])
  · rw [sysRead_sscr _ _ _ hsscr, st_sysLand, sysWriteStream_sscr v _ hsscr, Tab.get_set, if_pos rfl]

end Sys2Proof.Machine.SystemAccess
end

section
/-! The frame of every slot that only posts results, starts accesses, or asks for a wait or the end of the task (R145, R154). -/

namespace Sys2Proof.Machine.SlotFrames

/-- An answer that has not trapped keeps what `Kept` names. -/
def Frames (s : State) (fs : List RegF) (r : Host.Outcome State Fault Refusal) : Prop :=
  ∀ t, r = .next t → t.cur.stopped = false → Kept s t fs

section
variable {s : State}

theorem frames_runSlot {fs : List RegF} {b : SlotRes} (h : BodyKeeps s b) : Frames s fs (runSlot fs b s) :=
  fun _ hnext hstopped => kept_of_runSlot h hnext hstopped

theorem keptBy_ite {p : Prop} [Decidable p] {f : Nat → GQueue → GQueue} {u v : State} (hu : KeptBy s u f) (hv : KeptBy s v f) :
    KeptBy s (if p then u else v) f := by split <;> assumption

/-! ## Scalar forms (R184, R197, R200) -/

section
variable {d a b : RegF} {k : F3} {lat : Nat}

theorem frames_alu {f : Word → Word → Word} : Frames s [a, b] (alu d a b k lat f s) :=
  frames_runSlot (bodyKeeps_guarded (bodyKeeps_land _ _ _ s))

theorem frames_alu1 {f : Word → Word} : Frames s [a] (alu1 d a k lat f s) :=
  frames_runSlot (bodyKeeps_guarded (bodyKeeps_land _ _ _ s))

theorem frames_alui {f : Word → Word} : Frames s [a] (alui d a f s) := frames_runSlot (bodyKeeps_land _ _ _ s)

theorem frames_predOp {d : F3} {v : Bool} : Frames s [] (predOp d k v s) :=
  frames_runSlot (bodyKeeps_guarded (bodyKeeps_land _ _ _ s))

theorem frames_sysr {n : BitVec 12} (hn : n.toNat ≠ 0x109) : Frames s [] (execSysr d n s) := by
  refine frames_runSlot (bodyKeeps_sysOk (bodyKeeps_ok ?_))
  rw [sysReadEffect, if_neg hn]
  exact (keptBy_putCst s s.cst rfl).trans (keptBy_land _ _ _ _)

theorem frames_sysw {n : BitVec 12} (hn : n.toNat ≠ 0x30) : Frames s [a] (execSysw a n s) := by
  rw [execSysw, if_neg hn]
  exact frames_runSlot (bodyKeeps_sysOk (bodyKeeps_land _ _ _ s))

end

/-! ## Waits and the end of the task (R191, R192, R195) -/

theorem frames_idle {n : BitVec 6} {sat : Bool} {rnd : Rnd} {prof : BitVec 6} : Frames s [] (execIdle n sat rnd prof s) := by
  intro t hnext _
  cases hnext
  exact kept_after [] (KeptBy.refl s)

theorem frames_waita {a b : RegF} {k : F3} {sc : Scope} {c : WCond} : Frames s [a, b] (execWaita a b k sc c s) :=
  frames_runSlot (bodyKeeps_guarded (bodyKeeps_ite (bodyKeeps_error s _) (bodyKeeps_setWait _ s)))

theorem frames_waito {a : RegF} {i : BitVec 14} : Frames s [a] (execWaito a i s) :=
  frames_runSlot (bodyKeeps_ite (bodyKeeps_error s _) (bodyKeeps_setWait _ s))

theorem frames_tend : Frames s [] (execTend s) :=
  frames_runSlot (bodyKeeps_userOnly (bodyKeeps_ok (keptBy_cur s _ rfl rfl)))

/-! ## Accesses (R214 to R219, R343, R351, R355) -/

section
variable {d a b : RegF} {k : F3} {c : CSet} {l : Bool} {n : Nat}

theorem frames_loadS {o : BitVec 13} {signed : Bool} : Frames s [b] (loadS d b l o n signed s) :=
  frames_runSlot (bodyKeeps_aligned (bodyKeeps_accessOk (bodyKeeps_pend _ _ _ _ s)))

theorem frames_storeS {o : BitVec 13} : Frames s [d, b] (storeS d b l o n s) :=
  frames_runSlot (bodyKeeps_aligned (bodyKeeps_accessOk (bodyKeeps_pend _ _ _ _ s)))

theorem frames_amo {op : AmoOp} : Frames s [a, b] (amo op d a b k l s) :=
  frames_runSlot (bodyKeeps_guarded (bodyKeeps_aligned (bodyKeeps_accessOk (bodyKeeps_pend _ _ _ _ s))))

theorem frames_loadK : Frames s [a, b] (loadK d a b c l n s) :=
  frames_runSlot (bodyKeeps_unlessEmpty (bodyKeeps_kblocks fun _ => bodyKeeps_accessOk (bodyKeeps_pend _ _ _ _ s)))

theorem frames_storeK : Frames s [d, a, b] (storeK d a b c l n s) :=
  frames_runSlot (bodyKeeps_unlessEmpty (bodyKeeps_kblocks fun _ => bodyKeeps_accessOk (bodyKeeps_pend _ _ _ _ s)))

/-- A whole register of the engines is read: an access of one element with its checks. -/
theorem bodyKeeps_block {va m : Nat} {p : Prop} [Decidable p] {op : AccOp} :
    BodyKeeps s (if p then .error (tcALIGN, 0) else if detBars s va m false then .error (tcOWNVIOL, 0) else .ok (pend op 1 2 false s)) :=
  bodyKeeps_ite (bodyKeeps_error s _) (bodyKeeps_ite (bodyKeeps_error s _) (bodyKeeps_pend _ _ _ _ s))

end

/-! ## Vector forms (R223 to R250) -/

section
variable {d a b : RegF} {k : F3} {c : CSet} {lat : Nat}

theorem frames_lanewise {fs : List RegF} {f : Nat → Nat × Nat} : Frames s fs (lanewise fs d k c lat f s) :=
  frames_runSlot (bodyKeeps_landLanes _ _ _ s)

theorem frames_vred {op : Nat → Nat → Nat × Nat} {ident : Nat} : Frames s [a] (vred d a k c op ident s) :=
  frames_runSlot (bodyKeeps_landLanes _ _ _ s)

theorem landLanes_cur (rs : List (Nat × Nat × Nat)) : (landLanes d lat rs s).cur = s.cur := by
  rw [landLanes]; split <;> rfl

/-- Without stochastic rounding a conversion reports no use of its key (R58). -/
theorem srReport_landLanes (hrnd : s.cur.rnd ≠ .sr) (rs : List (Nat × Nat × Nat)) :
    srReport c (landLanes d lat rs s) = landLanes d lat rs s := by
  rw [srReport, landLanes_cur, if_neg fun hsr => hrnd hsr.1]

theorem frames_vcvt {src dst : VFmt} (hrnd : s.cur.rnd ≠ .sr) : Frames s [a] (execVcvt d a src dst k c s) := by
  rw [execVcvt, srReport_landLanes hrnd]
  exact frames_runSlot (bodyKeeps_landLanes _ _ _ s)

theorem frames_cvtFx128 {p : Nat} (hrnd : s.cur.rnd ≠ .sr) : Frames s [a] (cvtFx128 d a p k c s) := by
  rw [cvtFx128, srReport_landLanes hrnd]
  exact frames_runSlot (bodyKeeps_landLanes _ _ _ s)

/-- With no error in the accumulators a read of them takes no free values (R250, R392). -/
theorem frames_vaccrd (hrnd : s.cur.rnd ≠ .sr) (hecc : (s.seat s.cur.core).mxe.ecc = false) : Frames s [a] (execVaccrd d a k c s) := by
  refine frames_runSlot (bodyKeeps_ite (bodyKeeps_error s _) ?_)
  rw [srReport_landLanes hrnd, hecc]
  exact bodyKeeps_landLanes _ _ _ s

/-- A dropout over no clusters reports no use of its key (R58, R248). -/
theorem frames_vdrop (hempty : clusterSet s c = 0) : Frames s [a, b] (execVdrop d a b k c s) := by
  rw [execVdrop, if_pos hempty]
  exact frames_runSlot (bodyKeeps_landLanes _ _ _ s)

end

end

/-! ## Every slot that only posts -/

theorem frames_of_postsOnly (s : State) (i : Instr) (h : postsOnly s i = true) : Frames s (queueFields i) (exec i s) := by
  cases i with
  | idle =>
    simp only [exec]
    exact frames_idle
  | sysr => exact frames_sysr fun hn => of_decide_eq_true h (BitVec.eq_of_toNat_eq hn)
  | sysw => exact frames_sysw fun hn => of_decide_eq_true h (BitVec.eq_of_toNat_eq hn)
  | waita =>
    simp only [exec]
    exact frames_waita
  | waito => exact frames_waito
  | tend => exact frames_tend
  | setf | cmp => exact frames_runSlot (bodyKeeps_guarded (bodyKeeps_land _ _ _ s))
  | add | sub | mul | mulh | mulhu | divs | divu | rems | remu | and | or | xor | andn | shl | shr | sar | min | max | minu | maxu =>
    simp only [exec]
    exact frames_alu
  | clz | ctz | popc =>
    simp only [exec]
    exact frames_alu1
  | addi | andi | ori | xori | shli | shri | sari | ext =>
    simp only [exec]
    exact frames_alui
  | pand | por | pxor | pnot =>
    simp only [exec]
    exact frames_predOp
  | sel | lui | lhi | ltop | ins | widx | cmpi | mpset => exact frames_runSlot (bodyKeeps_land _ _ _ s)
  | ldB | ldH | ldW | ldD | lduB | lduH | lduW =>
    simp only [exec]
    exact frames_loadS
  | stB | stH | stW | stD =>
    simp only [exec]
    exact frames_storeS
  | vld | vldb => exact frames_runSlot (bodyKeeps_unlessEmpty (bodyKeeps_aligned (bodyKeeps_loadV _ _ _ s)))
  | vst => exact frames_runSlot (bodyKeeps_unlessEmpty (bodyKeeps_aligned (bodyKeeps_storeV _ _ _ s)))
  | vldt => exact frames_runSlot (bodyKeeps_unlessEmpty (bodyKeeps_column fun _ => bodyKeeps_loadV _ _ _ s))
  | vstt => exact frames_runSlot (bodyKeeps_unlessEmpty (bodyKeeps_column fun _ => bodyKeeps_storeV _ _ _ s))
  | vlds => exact frames_runSlot (bodyKeeps_strided fun _ => bodyKeeps_ite (bodyKeeps_same s) (bodyKeeps_loadV _ _ _ s))
  | vsts => exact frames_runSlot (bodyKeeps_strided fun _ => bodyKeeps_ite (bodyKeeps_same s) (bodyKeeps_storeV _ _ _ s))
  | amoAdd | amoMax | amoMin | amoSwap | amoCas =>
    simp only [exec]
    exact frames_amo
  | vldkKbf7 | vldkKbf4 | vldkKbf2 =>
    simp only [exec]
    exact frames_loadK
  | vstkKbf7 | vstkKbf4 | vstkKbf2 =>
    simp only [exec]
    exact frames_storeK
  | gset | chw => exact frames_runSlot bodyKeeps_block
  | kilnr => exact frames_runSlot (bodyKeeps_ite (bodyKeeps_land _ _ _ s) bodyKeeps_block)
  | vaddI32 | vsubI32 | vmulI32 | vmulh | vand | vor | vxor | vabsI32 | vshl | vshr | vsar | vminI32 | vmaxI32 | vminU32 | vmaxU32
  | vaddF32 | vsubF32 | vmulF32 | vfmaF32 | vminF32 | vmaxF32 | vdot2Bf16 | vabsF32 | vnegF32 | vcpysF32 | vmov | vbcast | vperm | vxcl
  | viota | vrcp | vrcpr | vrsq | vrsqr | vsqrt | vexp2 | vlog2 | vsin | vcos | vrand | vrandf | vtopk | vmergek =>
    simp only [exec]
    exact frames_lanewise
  | vcmpF32 | vcmpI32 => exact frames_runSlot (bodyKeeps_landMask _ _ s)
  | vsel | vins => exact frames_runSlot (bodyKeeps_landLanes _ _ _ s)
  | vextr => exact frames_runSlot (bodyKeeps_ok (keptBy_ite (keptBy_land _ _ _ s) (KeptBy.refl s)))
  | vredaddF32 | vredaddI32 | vredmaxF32 | vredmaxI32 | vredminF32 | vredminI32 =>
    simp only [exec]
    exact frames_vred
  | vcvt => exact frames_vcvt (of_decide_eq_true h)
  | vcvtF32Fx128Lo | vcvtF32Fx128Hi =>
    simp only [exec]
    exact frames_cvtFx128 (of_decide_eq_true h)
  | vaccrd =>
    obtain ⟨hrnd, hecc⟩ := Bool.and_eq_true_iff.mp h
    exact frames_vaccrd (of_decide_eq_true hrnd) (by simpa using hecc)
  | vdrop => exact frames_vdrop (of_decide_eq_true h)
  | _ => exact absurd h Bool.false_ne_true

/-- Settles O11: each slot by its form. -/
theorem resultSlotsFrame : Obligations.ResultSlotsFrame := fun i s t h hnext hstopped => frames_of_postsOnly s i h t hnext hstopped

end Sys2Proof.Machine.SlotFrames
end

section
/-! The results of the scalar slots: register and immediate operations, counts, division, bit fields, compares and predicates
(R201 to R210). -/

namespace Sys2Proof.Machine.ScalarSlots

/-! ## A guard that holds (R154, R182) -/

theorem guarded_true {s : State} {k : F3} (h : rdP s k = true) (b : SlotRes) : guarded k s b = b := if_pos h

/-! ## The forms of the scalar slots -/

section
variable {i : Instr} {s : State} {d a b : RegF} {k : F3} {lat : Nat} {v : Word}

theorem posts_alu {f : Word → Word → Word} (hq : QueuesLive s [a, b]) (hk : rdP s k = true)
    (hexec : exec i s = alu d a b k lat f s) (hv : f (rdS s a) (rdS s b) = v) : Posts i s [a, b] (.s d.toNat v) 0 lat :=
  posts_of hq (by rw [hexec, alu, guarded_true hk, hv])

theorem posts_alu1 {f : Word → Word} (hq : QueuesLive s [a]) (hk : rdP s k = true) (hexec : exec i s = alu1 d a k lat f s) :
    Posts i s [a] (.s d.toNat (f (rdS s a))) 0 lat :=
  posts_of hq (by rw [hexec, alu1, guarded_true hk])

theorem posts_alui {f : Word → Word} (hq : QueuesLive s [a]) (hexec : exec i s = alui d a f s) :
    Posts i s [a] (.s d.toNat (f (rdS s a))) 0 1 :=
  posts_of hq hexec

theorem posts_predOp {d : F3} {v : Bool} (hk : rdP s k = true) (hexec : exec i s = predOp d k v s) :
    Posts i s [] (.p d.toNat v) 0 1 :=
  posts_of (queuesLive_nil s) (by rw [hexec, predOp, guarded_true hk])

end

/-! ## Values of the three-register operations (R201, R202) -/

/-- The upper half of a product is that of its 128 bits. -/
theorem hi64_eq_extract (z : Int) : hi64 z = (BitVec.ofInt 128 z).extractLsb' 64 64 := by
  refine BitVec.eq_of_toNat_eq ?_
  rw [hi64, BitVec.toNat_ofInt, BitVec.extractLsb'_toNat, BitVec.toNat_ofInt, Nat.shiftRight_eq_div_pow]
  omega

theorem hi64_signed (x y : Word) :
    hi64 (x.toInt * y.toInt) = (x.signExtend 128 * y.signExtend 128).extractLsb' 64 64 := by
  rw [hi64_eq_extract, BitVec.ofInt_mul]; rfl

theorem hi64_unsigned (x y : Word) :
    hi64 ((x.toNat * y.toNat : Nat) : Int) = (x.zeroExtend 128 * y.zeroExtend 128).extractLsb' 64 64 := by
  rw [hi64_eq_extract, BitVec.ofInt_natCast, BitVec.ofNat_mul, BitVec.ofNat_toNat, BitVec.ofNat_toNat]

/-- The low six bits of an amount. -/
theorem toNat_and_63 (y : Word) : (y &&& 63).toNat = y.toNat % 64 := by
  rw [BitVec.toNat_and]
  exact Nat.and_two_pow_sub_one_eq_mod y.toNat 6

theorem shlW_eq (x y : Word) : shlW x y = x <<< (y &&& 63) := by rw [shlW, BitVec.shiftLeft_eq', toNat_and_63]

theorem shrW_eq (x y : Word) : shrW x y = x >>> (y &&& 63) := by rw [shrW, BitVec.ushiftRight_eq', toNat_and_63]

theorem sarW_eq (x y : Word) : sarW x y = x.sshiftRight' (y &&& 63) := by rw [sarW, BitVec.sshiftRight_eq', toNat_and_63]

theorem ite_toInt_le (x y z w : Word) : (if x.toInt ≤ y.toInt then z else w) = if x.sle y then z else w := by
  simp only [BitVec.sle_iff_toInt_le]

theorem ite_toNat_le (x y z w : Word) : (if x.toNat ≤ y.toNat then z else w) = if x ≤ y then z else w := rfl

/-- Settles O12: each operation is `alu` with its function, and the functions with a form of their own have the values of R201. -/
theorem threeRegisterResults : Obligations.ThreeRegisterResults := by
  intro s d a b k hq hk x y gives
  have post : ∀ {i lat f v}, exec i s = alu d a b k lat f s → f x y = v → gives i lat v := posts_alu hq hk
  exact ⟨post (exec_add ..) rfl, post (exec_sub ..) rfl, post (exec_mul ..) rfl,
    post (exec_mulh ..) (hi64_signed x y), post (exec_mulhu ..) (hi64_unsigned x y),
    post (exec_and ..) rfl, post (exec_or ..) rfl, post (exec_xor ..) rfl, post (exec_andn ..) rfl,
    post (exec_shl ..) (shlW_eq x y), post (exec_shr ..) (shrW_eq x y), post (exec_sar ..) (sarW_eq x y),
    post (exec_min ..) (ite_toInt_le x y x y), post (exec_max ..) (ite_toInt_le y x x y),
    post (exec_minu ..) (ite_toNat_le x y x y), post (exec_maxu ..) (ite_toNat_le y x x y)⟩

/-! ## Counts (R201) -/

/-- CLZ: no bit above the first one, from the top. -/
theorem clzN_spec (w : Nat) : ∀ n, clzN n w ≤ n ∧ (∀ j, j < clzN n w → w.testBit (n - 1 - j) = false) ∧
    (clzN n w < n → w.testBit (n - 1 - clzN n w) = true)
  | 0 => ⟨Nat.le_refl 0, fun _ h => absurd h (Nat.not_lt_zero _), fun h => absurd h (Nat.not_lt_zero _)⟩
  | n + 1 => by
    obtain ⟨hle, hzero, hone⟩ := clzN_spec w n
    rw [clzN, HostAccess.bitN_eq_testBit]
    split
    · next h => exact ⟨Nat.zero_le _, fun _ hj => absurd hj (Nat.not_lt_zero _), fun _ => h⟩
    · next h =>
      refine ⟨by omega, fun j hj => ?_, fun hlt => ?_⟩
      · rcases j with _ | j
        · simpa using h
        · rw [show n + 1 - 1 - (j + 1) = n - 1 - j by omega]
          exact hzero j (by omega)
      · rw [show n + 1 - 1 - (1 + clzN n w) = n - 1 - clzN n w by omega]
        exact hone (by omega)

/-- CTZ: no bit below the first one, from the bottom. -/
theorem ctzN_spec : ∀ n w, ctzN n w ≤ n ∧ (∀ j, j < ctzN n w → w.testBit j = false) ∧
    (ctzN n w < n → w.testBit (ctzN n w) = true)
  | 0, _ => ⟨Nat.le_refl 0, fun _ h => absurd h (Nat.not_lt_zero _), fun h => absurd h (Nat.not_lt_zero _)⟩
  | n + 1, w => by
    obtain ⟨hle, hzero, hone⟩ := ctzN_spec n (w / 2)
    rw [ctzN]
    split
    · next h => exact ⟨Nat.zero_le _, fun _ hj => absurd hj (Nat.not_lt_zero _), fun _ => by simp [Nat.testBit_zero, h]⟩
    · next h =>
      refine ⟨by omega, fun j hj => ?_, fun hlt => ?_⟩
      · rcases j with _ | j
        · simpa [Nat.testBit_zero] using h
        · rw [Nat.testBit_succ]
          exact hzero j (by omega)
      · rw [Nat.add_comm, Nat.testBit_succ]
        exact hone (by omega)

/-- POPC counts the positions that hold a one. -/
theorem popN_eq_length : ∀ n w, popN n w = ((List.range n).filter fun j => w.testBit j).length
  | 0, _ => rfl
  | n + 1, w => by
    have hlow : w % 2 = if w.testBit 0 then 1 else 0 := by
      rw [Nat.testBit_zero]
      rcases Nat.mod_two_eq_zero_or_one w with h | h <;> simp [h]
    have hrest : ((List.range n).map Nat.succ).filter (fun j => w.testBit j) =
        ((List.range n).filter fun j => (w / 2).testBit j).map Nat.succ := by
      simp only [List.filter_map, Function.comp_def, Nat.succ_eq_add_one, Nat.testBit_succ]
    rw [popN, popN_eq_length n, hlow, List.range_succ_eq_map, List.filter_cons, hrest]
    split <;> simp [Nat.add_comm]

/-! ## Division (R201, R202) -/

/-- R202: every remainder is the dividend less the divisor times the quotient. -/
theorem remSigned_eq (x y : Word) : remSigned x y = x - y * divSigned x y := by
  rw [remSigned, divSigned]
  split
  · next h => simp [h]
  · have hdiv : BitVec.ofInt 64 (y.toInt * x.toInt.tdiv y.toInt + x.toInt.tmod y.toInt) = x := by
      rw [Int.mul_tdiv_add_tmod, BitVec.ofInt_toInt]
    rw [BitVec.ofInt_add, BitVec.ofInt_mul, BitVec.ofInt_toInt] at hdiv
    exact BitVec.eq_sub_iff_add_eq.mpr ((BitVec.add_comm _ _).trans hdiv)

theorem remUnsigned_eq (x y : Word) : remUnsigned x y = x - y * divUnsigned x y := by
  rw [remUnsigned, divUnsigned]
  split
  · next h => simp [h]
  · have hdiv : BitVec.ofNat 64 (y.toNat * (x.toNat / y.toNat) + x.toNat % y.toNat) = x := by
      rw [Nat.div_add_mod, BitVec.ofNat_toNat, BitVec.setWidth_eq]
    rw [BitVec.ofNat_add, BitVec.ofNat_mul, BitVec.ofNat_toNat, BitVec.setWidth_eq] at hdiv
    exact BitVec.eq_sub_iff_add_eq.mpr ((BitVec.add_comm _ _).trans hdiv)

theorem toNat_divUnsigned {x y : Word} (hy : y ≠ 0) : (divUnsigned x y).toNat = x.toNat / y.toNat := by
  rw [divUnsigned, if_neg hy, BitVec.toNat_ofNat]
  exact Nat.mod_eq_of_lt (Nat.lt_of_le_of_lt (Nat.div_le_self _ _) x.isLt)

/-- R202: the quotient truncates toward zero wherever it has a code. -/
theorem toInt_divSigned {x y : Word} (hy : y ≠ 0) (hover : ¬(x = BitVec.intMin 64 ∧ y = BitVec.allOnes 64)) :
    (divSigned x y).toInt = Int.tdiv x.toInt y.toInt := by
  rw [divSigned, if_neg hy, BitVec.toInt_ofInt, ← BitVec.toInt_sdiv]
  refine BitVec.toInt_sdiv_of_ne_or_ne x y ?_
  by_cases hx : x = BitVec.intMin 64
  · exact .inr fun hone => hover ⟨hx, hone.trans (by decide)⟩
  · exact .inl hx

/-- R202: the one quotient without a code. -/
theorem divSigned_overflow : divSigned (BitVec.intMin 64) (BitVec.allOnes 64) = BitVec.intMin 64 := by decide

/-- Settles O13: the counts are those of `clzN`, `ctzN` and `popN`, the quotients those of `divSigned` and `divUnsigned`. -/
theorem countAndDivisionResults : Obligations.CountAndDivisionResults := by
  refine ⟨fun s d a k hq hk => ?_, fun s d a b k hq hk => ?_⟩
  · have hbit : ∀ j, (rdS s a).getLsbD j = (rdS s a).toNat.testBit j := fun _ => rfl
    obtain ⟨hclz, hclzZero, hclzOne⟩ := clzN_spec (rdS s a).toNat 64
    obtain ⟨hctz, hctzZero, hctzOne⟩ := ctzN_spec 64 (rdS s a).toNat
    exact ⟨_, _, _, posts_alu1 hq hk (exec_clz ..), posts_alu1 hq hk (exec_ctz ..), posts_alu1 hq hk (exec_popc ..),
      hclz, hclzZero, hclzOne, hctz, hctzZero, hctzOne, popN_eq_length 64 _⟩
  · have post : ∀ {i f}, exec i s = alu d a b k 20 f s → Posts i s [a, b] (.s d.toNat (f (rdS s a) (rdS s b))) 0 20 :=
      fun h => posts_alu hq hk h rfl
    refine ⟨_, _, _, _, post (exec_divs ..), post (exec_rems ..), post (exec_divu ..), post (exec_remu ..),
      fun hy => ⟨if_pos hy, if_pos hy, if_pos hy, if_pos hy⟩, fun ⟨hx, hy⟩ => ?_, toInt_divSigned, toNat_divUnsigned,
      remSigned_eq _ _, remUnsigned_eq _ _⟩
    rw [remSigned_eq, hx, hy, divSigned_overflow]
    exact ⟨rfl, by decide⟩

/-! ## Bit fields (R206 to R208) -/

/-- A number in three parts: below a field, the field, above it. -/
theorem insBits_parts (w lo n v : Nat) :
    insBits w lo n v = 2 ^ lo * (2 ^ n * (w / 2 ^ lo / 2 ^ n) + v % 2 ^ n) + w % 2 ^ lo := by
  have hw : 2 ^ lo * (2 ^ n * (w / 2 ^ lo / 2 ^ n) + w / 2 ^ lo % 2 ^ n) + w % 2 ^ lo = w := by
    rw [Nat.div_add_mod, Nat.div_add_mod]
  rw [Nat.mul_add] at hw
  rw [insBits, Nat.mul_add, Nat.mul_comm (w / 2 ^ lo % 2 ^ n), Nat.mul_comm (v % 2 ^ n)]
  omega

/-- R206, R207: the field holds the low bits of the value, every other bit stands. -/
theorem testBit_insBits (w lo n v j : Nat) :
    (insBits w lo n v).testBit j = if lo ≤ j ∧ j < lo + n then v.testBit (j - lo) else w.testBit j := by
  rw [insBits_parts, Nat.testBit_two_pow_mul_add _ (Nat.mod_lt _ (Nat.two_pow_pos lo)), Nat.testBit_mod_two_pow,
    Nat.testBit_two_pow_mul_add _ (Nat.mod_lt _ (Nat.two_pow_pos n)), Nat.testBit_mod_two_pow, Nat.testBit_div_two_pow,
    Nat.testBit_div_two_pow]
  by_cases hlo : j < lo
  · simp [hlo, Nat.not_le_of_lt hlo]
  · by_cases hhi : j - lo < n
    · rw [if_neg hlo, if_pos hhi, if_pos (by omega)]; simp [hhi]
    · rw [if_neg hlo, if_neg hhi, if_neg (by omega), show j - lo - n + n + lo = j by omega]

theorem getLsbD_insW (w : Word) (lo n v : Nat) {j : Nat} (hj : j < 64) :
    (insW w lo n v).getLsbD j = if lo ≤ j ∧ j < lo + n then v.testBit (j - lo) else w.getLsbD j := by
  rw [insW, SystemAccess.getLsbD_word _ hj, testBit_insBits]; rfl

/-- R207: bits of an extracted field. -/
theorem getLsbD_ext (x : Word) (p n : Nat) {j : Nat} (hj : j < 64) :
    (word (x.toNat / 2 ^ p % 2 ^ n)).getLsbD j = if j < n then x.getLsbD (p + j) else false := by
  rw [SystemAccess.getLsbD_word _ hj, Nat.testBit_mod_two_pow, Nat.testBit_div_two_pow, Nat.add_comm j p]
  split
  · next h => rw [decide_eq_true h]; rfl
  · next h => rw [decide_eq_false h]; rfl

/-- R208: the whole work id. -/
theorem widxOf_whole {y : Stream} {k : Task} {f : Nat} (htask : y.task = some k) (hf : f = 6) : widxOf y f = k.wid := by
  simp [widxOf, htask, hf]

/-- R208: one field of the work id. -/
theorem toNat_widxOf_field {y : Stream} {k : Task} {f : Nat} (htask : y.task = some k) (hf : f < 6) :
    (widxOf y f).toNat = k.wid.toNat / 2 ^ (nth (0, 0) k.fields f).1 % 2 ^ (nth (0, 0) k.fields f).2 := by
  simp only [widxOf, htask, if_neg (Nat.ne_of_lt hf), word, BitVec.toNat_ofNat]
  exact Nat.mod_eq_of_lt (Nat.lt_of_le_of_lt (Nat.le_trans (Nat.mod_le _ _) (Nat.div_le_self _ _)) k.wid.isLt)

/-- Settles O14: the immediate operations are `alui` with their functions, and the field forms have the bits of `insW` and EXT. -/
theorem immediateAndBitFieldResults : Obligations.ImmediateAndBitFieldResults := by
  refine ⟨fun s d a b k i14 n i20 i12 => ?_, fun s d a w p f => ?_⟩
  · refine ⟨fun hq => posts_of hq rfl, fun hq => ⟨posts_alui hq (exec_addi ..), posts_alui hq (exec_andi ..),
        posts_alui hq (exec_ori ..), posts_alui hq (exec_xori ..), posts_alui hq (exec_shli ..), posts_alui hq (exec_shri ..),
        posts_alui hq (exec_sari ..)⟩,
      posts_of (queuesLive_nil s) rfl, ⟨_, posts_of (queuesLive_nil s) (exec_lhi ..), fun j hj => ?_⟩,
      ⟨_, posts_of (queuesLive_nil s) (exec_ltop ..), fun j hj => ?_⟩⟩
    · exact getLsbD_insW _ 32 20 _ hj
    · rw [getLsbD_insW _ 52 12 _ hj]
      simp only [show (52 ≤ j ∧ j < 52 + 12) ↔ 52 ≤ j by omega]; rfl
  · refine ⟨fun hq hfit => ⟨⟨_, posts_alui hq (exec_ext ..), fun j hj => ?_⟩, ⟨_, posts_of hq (exec_ins ..), fun j hj => ?_⟩⟩,
      fun k htask => ⟨fun hf => ?_, fun hf => ⟨_, posts_of (queuesLive_nil s) (exec_widx ..), toNat_widxOf_field htask hf⟩⟩⟩
    · rw [getLsbD_ext _ _ _ hj]
      simp only [Nat.lt_succ_iff]
    · rw [getLsbD_insW _ _ _ _ hj]
      simp only [show (p.toNat ≤ j ∧ j < p.toNat + (w.toNat + 1)) ↔ p.toNat ≤ j ∧ j ≤ p.toNat + w.toNat by omega]; rfl
    · rw [← widxOf_whole htask hf]
      exact posts_of (queuesLive_nil s) rfl

/-! ## Compares and predicates (R209, R210) -/

/-- Settles O15: a compare posts `condHolds`, which is the relation of its condition; the predicate operations are `predOp`. -/
theorem predicateResults : Obligations.PredicateResults := by
  intro s d pa pb k a b c i10 gives holds
  have hcond : ∀ x y, condHolds c x y = holds x y := by
    intro x y
    cases c <;> simp only [condHolds, holds, BitVec.slt_eq_decide, BitVec.sle_eq_decide, BitVec.ult_eq_decide, BitVec.ule_eq_decide]
  refine ⟨fun hk hq => ?_, fun hq => ?_, fun hk => ⟨posts_predOp hk (exec_pand ..), posts_predOp hk (exec_por ..),
    posts_predOp hk (exec_pxor ..), posts_predOp hk (exec_pnot ..)⟩⟩
  · rw [← hcond]
    exact posts_of hq (by rw [exec_cmp, execCmp, guarded_true hk])
  · rw [← hcond]
    exact posts_of hq rfl

end Sys2Proof.Machine.ScalarSlots
end

section
/-! The C slot: transfers, waits, the end of a task and software traps, and what the test of a wait decides (R182 to R196, R384,
R406, R411). -/

namespace Sys2Proof.Machine.ControlSlots

open ScalarSlots (guarded_true)

/-! ## Guards of the C slot (R183, R186) -/

theorem userOnly_user {s : State} (h : s.cst.sys.sup = false) (b : SlotRes) : userOnly s b = b := if_neg (by simp [h])

theorem userOnly_supervisor {s : State} (h : s.cst.sys.sup = true) (b : SlotRes) : userOnly s b = .error (tcILLI, 0) := if_pos h

theorem regTarget_valid {v : Word} (hlt : v.toNat < 2 ^ 19) (hmod : v.toNat % 4 = 0) (b : SlotRes) : regTarget v b = b :=
  if_neg (by omega)

theorem regTarget_bad {v : Word} (h : 2 ^ 19 ≤ v.toNat ∨ v.toNat % 4 ≠ 0) (b : SlotRes) : regTarget v b = .error (tcALIGN, 0) :=
  if_pos h

/-! ## Transfers (R184 to R187, R189) -/

section
variable {s : State} {p k : F3} {d a : RegF}

theorem branch_on {o : BitVec 22} (h : rdP s p = true) :
    Takes (.brp p o) s [] 1 (branchTarget s.cur.pc o) 1 false ∧ Passes (.brpn p o) s [] :=
  ⟨takes_of (queuesLive_nil s) (by rw [exec_brp, execBrp, if_pos h]),
    passes_of (queuesLive_nil s) (by rw [exec_brpn, execBrpn, if_pos h])⟩

theorem branch_off {o : BitVec 22} (h : rdP s p = false) :
    Takes (.brpn p o) s [] 1 (branchTarget s.cur.pc o) 1 false ∧ Passes (.brp p o) s [] :=
  ⟨takes_of (queuesLive_nil s) (by rw [exec_brpn, execBrpn, if_neg (by simp [h])]),
    passes_of (queuesLive_nil s) (by rw [exec_brp, execBrp, if_neg (by simp [h])])⟩

theorem register_transfers (hq : QueuesLive s [a]) (hk : rdP s k = true) (hlt : (rdS s a).toNat < 2 ^ 19)
    (hmod : (rdS s a).toNat % 4 = 0) :
    Takes (.jmp a k) s [a] 4 (rdS s a).toNat 1 false ∧
      TakesWith (.callr d a k) s [a] d (word (linkAddr s)) 2 (rdS s a).toNat 1 ∧ Takes (.ret a k) s [a] 3 (rdS s a).toNat 1 false := by
  refine ⟨takes_of hq ?_, takesWith_of hq ?_, takes_of hq ?_⟩
  · rw [exec_jmp, execJmp, guarded_true hk, regTarget_valid hlt hmod]
  · rw [exec_callr, execCallr, guarded_true hk, regTarget_valid hlt hmod, link, linkAddr, linkAddr, transfer_cur]
  · rw [exec_ret, execRet, guarded_true hk, regTarget_valid hlt hmod]

theorem call_takes {i : BitVec 20} :
    TakesWith (.call d i) s [] d (word (linkAddr s)) 2 (branchTarget s.cur.pc i) 1 :=
  takesWith_of (queuesLive_nil s) (by rw [exec_call, execCall, link, linkAddr, linkAddr, transfer_cur])

/-- R187: below its limit a count goes round. -/
theorem loop_again {i : BitVec 14} (hq : QueuesLive s [a]) (h : (loopCount s d).toNat < (rdS s a).toNat) :
    TakesWith (.loop d a i) s [a] d (loopCount s d) 5 (branchTarget s.cur.pc i) 0 :=
  takesWith_of hq (by rw [exec_loop, execLoop, if_pos h])

theorem loop_done {i : BitVec 14} (hq : QueuesLive s [a]) (h : (rdS s a).toNat ≤ (loopCount s d).toNat) :
    Posts (.loop d a i) s [a] (.s d.toNat (loopCount s d)) 0 1 :=
  posts_of hq (by rw [exec_loop, execLoop, if_neg (Nat.not_lt_of_le h)])

theorem loopi_again {n : BitVec 6} {i : BitVec 14} (h : (loopCount s d).toNat < n.toNat) :
    TakesWith (.loopi d n i) s [] d (loopCount s d) 5 (branchTarget s.cur.pc i) 0 :=
  takesWith_of (queuesLive_nil s) (by rw [exec_loopi, execLoopi, if_pos h])

theorem loopi_done {n : BitVec 6} {i : BitVec 14} (h : n.toNat ≤ (loopCount s d).toNat) :
    Posts (.loopi d n i) s [] (.s d.toNat (loopCount s d)) 0 1 :=
  posts_of (queuesLive_nil s) (by rw [exec_loopi, execLoopi, if_neg (Nat.not_lt_of_le h)])

theorem bswap_takes {o : BitVec 22} (hsup : s.cst.sys.sup = false) (h : rdP s p = true) :
    Takes (.bswap p o) s [] 6 (branchTarget s.cur.pc o) 1 true :=
  takes_of (queuesLive_nil s) (by rw [exec_bswap, execBswap, userOnly_user hsup, if_pos h])

theorem bswap_passes {o : BitVec 22} (hsup : s.cst.sys.sup = false) (h : rdP s p = false) : Passes (.bswap p o) s [] :=
  passes_of (queuesLive_nil s) (by rw [exec_bswap, execBswap, userOnly_user hsup, if_neg (by simp [h])])

/-- R186: a register target out of range or off its alignment. -/
theorem register_transfers_trap (hq : QueuesLive s [a]) (hk : rdP s k = true)
    (h : 2 ^ 19 ≤ (rdS s a).toNat ∨ (rdS s a).toNat % 4 ≠ 0) :
    Traps (.jmp a k) s tcALIGN 0 ∧ Traps (.callr d a k) s tcALIGN 0 ∧ Traps (.ret a k) s tcALIGN 0 := by
  refine ⟨traps_of hq ?_, traps_of hq ?_, traps_of hq ?_⟩
  · rw [exec_jmp, execJmp, guarded_true hk, regTarget_bad h]
  · rw [exec_callr, execCallr, guarded_true hk, regTarget_bad h]
  · rw [exec_ret, execRet, guarded_true hk, regTarget_bad h]

end

/-- R406, R411: no record where the context's debugging or its branch records are off. -/
theorem branchRec_off {s : State} {kind target : Nat}
    (h : ∀ x, (s.core s.cur.core).owner = some x → (s.ctx x).dbga = false ∨ s.flag (dbgOff x) 2 = false) :
    branchRec kind target s = s := by
  rw [branchRec]
  split
  · rfl
  · next x howner => exact if_pos (h x howner)

/-- Settles O16: each transfer is `transfer`, with its link or count in the landing buffer. -/
theorem transfersGoWhereTheRulesSay : Obligations.TransfersGoWhereTheRulesSay :=
  ⟨fun _ _ _ _ _ _ _ _ _ => ⟨branch_on, branch_off, takes_of (queuesLive_nil _) rfl, call_takes, register_transfers,
      fun hq => ⟨loop_again hq, loop_done hq⟩, loopi_again, loopi_done, bswap_takes, bswap_passes⟩,
    fun _ _ _ => branchRec_off⟩

/-! ## Waits and the end of the task (R191 to R195) -/

/-- A slot whose body asks for something at the end of its bundle. -/
theorem asks_of {i : Instr} {s : State} {fs : List RegF} {p : Part} (hq : QueuesLive s fs)
    (hexec : exec i s = runSlot fs (.ok { s with cur := { s.cur with part := p } }) s) : Asks i s fs p := by
  have hcst : State.cst { s with cur := { s.cur with part := p } } = s.cst := rfl
  exact ⟨_, hexec.trans (runSlot_live hq), kept_after fs (keptBy_cur s _ rfl rfl), by simp [State.used], by simp [hcst],
    by simp [hcst], by simp [hcst]⟩

/-- Settles O18: a wait or the end of the task is a request in the cursor, after the checks of its operands. -/
theorem waitsAndEndsComplete : Obligations.WaitsAndEndsComplete := by
  intro s a b k sc c i14 n prof sat rnd x after
  refine ⟨fun hq hk => ⟨fun hmod hlt => asks_of hq ?_, fun hbad => traps_of hq ?_⟩,
    fun hq => ⟨fun htile => asks_of hq ?_, fun htile => traps_of hq ?_⟩, fun hsup => asks_of (queuesLive_nil s) ?_,
    ⟨s.used, rfl, kept_after [] (KeptBy.refl s), rfl, rfl, rfl, rfl⟩⟩
  · have hgood : ¬((rdS s a).toNat % 8 ≠ 0 ∨ spadSize ≤ (rdS s a).toNat) :=
      not_or.mpr ⟨not_not_intro hmod, Nat.not_le_of_lt hlt⟩
    rw [exec_waita, execWaita, guarded_true hk, if_neg hgood]; rfl
  · change (rdS s a).toNat % 8 ≠ 0 ∨ spadSize ≤ (rdS s a).toNat at hbad
    rw [exec_waita, execWaita, guarded_true hk, if_pos hbad]
  · rw [exec_waito, execWaito, if_neg (Nat.not_le_of_lt htile)]; rfl
  · rw [exec_waito, execWaito, if_pos htile]
  · rw [exec_tend, execTend, userOnly_user hsup]

/-! ## Traps of the C slot (R183, R196, R384) -/

/-- R384, R387: the stream after a precise trap in user mode. -/
theorem slotTrap_cst {s : State} (hsup : s.cst.sys.sup = false) (code arg : Nat) :
    (slotTrap code arg s).cst = { s.cst with part := s.cur.part }.enter
      { code := code, slot := s.cur.slot, asy := false, done := s.cur.done, arg := arg, tpc := s.cur.pc, top := s.cur.pc,
        tfr := [0, 0, 0, 0] } true := by
  have hst : (s.putCst { s.cst with part := s.cur.part }).st s.cur.core s.cur.sec = { s.cst with part := s.cur.part } :=
    cst_putCst s _
  have huser : ((s.putCst { s.cst with part := s.cur.part }).st s.cur.core s.cur.sec).sys.sup = false := by rw [hst]; exact hsup
  have hcur := fun i => takeTrap_cur (i := i) (same := true) huser
  have hentered := fun i => takeTrap_st (i := i) (same := true) huser
  rw [hst] at hentered
  rw [slotTrap, State.cst]
  simp only [hcur]
  exact hentered _

/-- R196, R384: what a software trap leaves in the trap registers. -/
theorem softTrap_enters {s : State} (hsup : s.cst.sys.sup = false) (code : Nat) (arg : BitVec 16) :
    let t := softTrap code arg.toNat s
    t.cur.stopped = true ∧ t.cst.trap.code = code ∧ t.cst.trap.slot = s.cur.slot ∧ t.cst.trap.done = (s.cur.done ||| 1) ∧
      t.cst.trap.arg = arg.zeroExtend 28 ∧ t.cst.trap.tpc = s.cur.pc % 2 ^ 19 ∧ t.cst.pc = 0x100 * code ∧
      t.cst.sys.sup = true ∧ t.cst.regs = s.cst.regs := by
  intro t
  have hcst := slotTrap_cst (s := { s with cur := { s.cur with done := s.cur.done ||| 1 } }) hsup code arg.toNat
  change t.cst = _ at hcst
  rw [hcst]
  exact ⟨rfl, rfl, rfl, rfl, BitVec.ofNat_toNat 28 arg, rfl, rfl, rfl, rfl⟩

/-- Settles O19: in supervisor mode the four are refused; in user mode TRAP and BRK are `softTrap`. -/
theorem supervisorAndSoftwareTraps : Obligations.SupervisorAndSoftwareTraps := by
  refine ⟨fun s p o code hsup => ⟨?_, ?_, ?_, ?_⟩, fun s code hsup => ⟨⟨_, ?_, softTrap_enters hsup tcTRAP code⟩,
    fun hdbg => ⟨_, ?_, softTrap_enters hsup tcBRK code⟩, fun hdbg => ⟨s.used, ?_, kept_after [] (KeptBy.refl s), rfl, rfl, rfl, rfl⟩⟩⟩
  · exact traps_of (queuesLive_nil s) (by rw [exec_tend, execTend, userOnly_supervisor hsup])
  · exact traps_of (queuesLive_nil s) (by rw [exec_bswap, execBswap, userOnly_supervisor hsup])
  · rw [Traps, exec_trap, execTrap, if_pos hsup]
  · rw [Traps, exec_brk, execBrk, if_pos hsup]
  · rw [exec_trap, execTrap, if_neg (by simp [hsup])]
  · rw [exec_brk, execBrk, if_neg (by simp [hsup]), if_pos hdbg]
  · rw [exec_brk, execBrk, if_neg (by simp [hsup]), if_neg (by simp [hdbg])]

/-! ## The test of a wait (R193, R194, R409) -/

open CoreUnits (RunsOnly endDev_frame)

/-- A change of a stream's run changes nothing else. -/
theorem runsOnly_putDev (c : Nat) (t : Bool) (s : State) (d : Option Dev) : RunsOnly c s (s.putSt c t { s.st c t with dev := d }) := by
  refine ⟨by simp [State.putSt, State.putSeat], by simp [State.putSt], fun b => ?_⟩
  by_cases hb : b = t
  · subst hb; exact ⟨d, by simp⟩
  · exact ⟨_, by simp [hb]; rfl⟩

/-- R409: a lost cycle changes the run of its stream, and leaves a record where a run ends. -/
theorem lose_frame (x c : Nat) (t : Bool) (l : Nat × Nat × Nat) (s : State) : RunsOnly c s (lose x c t l s) := by
  rw [lose]
  split
  · split
    · exact runsOnly_putDev c t s _
    · exact (endDev_frame x c t s).1.trans (runsOnly_putDev c t _ _)
  · exact runsOnly_putDev c t s _

/-- R193: a wait that ends leaves the stream as it is but for the wait, the wait's pending limit and the run. -/
theorem wake_frame (c : Nat) (s : State) (t : Bool) :
    (∃ d, (wake c s t).st c t = { s.st c t with wait := none, pend := { (s.st c t).pend with waitto := false }, dev := d }) ∧
      ((wake c s t).seat c).spad = (s.seat c).spad := by
  obtain ⟨u, hwake, hruns⟩ : ∃ u, wake c s t =
      u.putSt c t { u.st c t with wait := none, pend := { (u.st c t).pend with waitto := false } } ∧ RunsOnly c s u := by
    refine ⟨_, rfl, ?_⟩
    split
    · split
      · exact (lose_frame _ c t _ s).trans (endDev_frame _ c t _).1
      · exact .refl c s
    · exact .refl c s
  obtain ⟨d, hst⟩ := hruns.stream t
  exact ⟨⟨d, by rw [hwake, st_putSt, if_pos ⟨rfl, rfl⟩, hst]⟩, by simp [hwake, State.putSt, hruns.spad]⟩

section
variable {s : State} {c : Nat} {t : Bool} {w : Wait}

/-- SLEEP_END of a stream outside a gang: the outcome of the test decides. -/
theorem sleepEnd_alone (hwait : (s.st c t).wait = some w) (hthaw : (s.core c).frozen = none)
    (hph : (s.st c t).ph = .test ∨ (s.st c t).ph = .sleep) (hgang : gangTask (s.st c t) = none) :
    exec (.sleepEnd c t) s = .next (if w.ok then wake c s t else if (s.st c t).ph = .test then
      s.putSt c t { s.st c t with wait := some { w with tested := true }, pend := { (s.st c t).pend with waitto := false } }
      else s) := by
  have hgo : ¬((s.core c).frozen.isSome = true ∨ ((s.st c t).ph ≠ .test ∧ (s.st c t).ph ≠ .sleep)) := by
    rintro (h | ⟨htest, hsleep⟩)
    · simp [hthaw] at h
    · exact hph.elim htest hsleep
  rw [exec_sleepEnd, execSleepEnd]
  simp only [hwait, if_neg hgo, hgang]
  split <;> rfl

/-- WAIT_LIMIT_EXPIRY of a stream that sleeps under a limit. -/
theorem waitLimitExpiry_asleep (hwait : (s.st c t).wait = some w) (htested : w.tested = true)
    (hlim : s.fld (ccbOff (s.ctxOf c) + 0x40) 0 48 ≠ 0) :
    exec (.waitLimitExpiry c t) s = .next (if s.fld (ccbOff (s.ctxOf c) + 0x40) 0 48 < w.count then
      s.putSt c t { s.st c t with pend := { (s.st c t).pend with waitto := true } } else s) := by
  rw [exec_waitLimitExpiry, execWaitLimitExpiry]
  simp only [hwait, htested, hlim, ne_eq, not_false_eq_true, true_and]
  split <;> rfl

end

/-- Settles O42: the outcome of the test, the stream's phase, and the count against the limit decide. -/
theorem waitsEndOrSleep : Obligations.WaitsEndOrSleep := by
  intro s c t w y hwait
  refine ⟨fun hthaw hph hgang => ⟨fun hok => ?_, fun hok htest => ?_, fun hok hsleep => ?_⟩,
    fun htested hlim => ⟨fun hover => ?_, fun hwithin => ?_⟩⟩
  · obtain ⟨⟨d, hst⟩, hspad⟩ := wake_frame c s t
    refine ⟨wake c s t, by rw [sleepEnd_alone hwait hthaw hph hgang, if_pos hok], ?_⟩
    rw [hst]
    exact ⟨rfl, rfl, rfl, rfl, hspad⟩
  · refine ⟨_, (sleepEnd_alone hwait hthaw hph hgang).trans (congrArg _ ((if_neg (by simp [hok])).trans (if_pos htest))), ?_⟩
    rw [st_putSt, if_pos ⟨rfl, rfl⟩]
    exact ⟨rfl, rfl, rfl, by simp [State.putSt], rfl⟩
  · rw [sleepEnd_alone hwait hthaw hph hgang, if_neg (by simp [hok]), if_neg (by rw [hsleep]; decide)]
  · refine ⟨_, (waitLimitExpiry_asleep hwait htested hlim).trans (congrArg _ (if_pos hover)), by simp [y], fun e he => ?_, rfl⟩
    simp [State.putSt, State.putSeat, he]
  · rw [waitLimitExpiry_asleep hwait htested hlim, if_neg (Nat.not_lt_of_le hwithin)]

end Sys2Proof.Machine.ControlSlots
end

section
/-! The scratchpad slots: the checks of their addresses, the accesses that they start, and atomics as they perform (R211 to R220). -/

namespace Sys2Proof.Machine.ScratchpadSlots

open ScalarSlots (guarded_true)

/-! ## Checks of an access (R211, R212) -/

/-- The element lies in the scratchpad, in no owner state that deterministic mode bars. -/
def Free (s : State) (al store : Bool) (a n : Nat) : Prop := a + n ≤ 0x600000 ∧ (al = false → detBars s a n store = false)

section
variable {s : State} {al store : Bool} {els : List (Nat × Nat)} {a n : Nat}

theorem accessOk_free (h : ∀ e, e ∈ els → Free s al store e.1 e.2) (b : SlotRes) : accessOk s els al store b = b := by
  have hin : els.any (fun e => !inSpad e.1 e.2) = false :=
    List.any_eq_false.mpr fun e he => by simp [inSpad, spadSize, (h e he).1]
  have hdet : (!al && els.any fun e => detBars s e.1 e.2 store) = false := by
    cases al
    · exact List.any_eq_false.mpr fun e he => by simp [(h e he).2 rfl]
    · rfl
  rw [accessOk, hin, hdet]; rfl

theorem accessOk_outside (h : ∃ e, e ∈ els ∧ 0x600000 < e.1 + e.2) (b : SlotRes) :
    accessOk s els al store b = .error (tcALIGN, 0) := by
  obtain ⟨e, he, hlt⟩ := h
  have hout : inSpad e.1 e.2 = false := decide_eq_false (Nat.not_le_of_lt hlt)
  exact if_pos (List.any_eq_true.mpr ⟨e, he, by rw [hout]; rfl⟩)

theorem aligned_multiple (h : a % n = 0) (b : SlotRes) : aligned a n b = b := if_neg (not_not_intro h)

/-- A misaligned access traps, and so does an aligned one whose remaining checks trap. -/
theorem aligned_traps {b : SlotRes} (h : a % n ≠ 0 ∨ b = .error (tcALIGN, 0)) : aligned a n b = .error (tcALIGN, 0) := by
  rw [aligned]
  split
  · rfl
  · next hmod => exact h.resolve_left hmod

theorem element_free (hmod : a % n = 0) (h : Free s al store a n) (b : SlotRes) :
    aligned a n (accessOk s [(a, n)] al store b) = b := by
  rw [aligned_multiple hmod]
  exact accessOk_free (fun e he => by obtain rfl := List.mem_singleton.mp he; exact h) b

theorem element_traps (h : a % n ≠ 0 ∨ 0x600000 < a + n) (b : SlotRes) :
    aligned a n (accessOk s [(a, n)] al store b) = .error (tcALIGN, 0) :=
  aligned_traps (h.imp_right fun hlt => accessOk_outside ⟨(a, n), List.mem_singleton_self _, hlt⟩ b)

end

/-! ## Scalar loads and stores (R214) -/

section
variable {i : Instr} {s : State} {d b : RegF} {al : Bool} {o : BitVec 13} {n : Nat}

theorem starts_loadS {sg : Bool} (hq : QueuesLive s [b]) (hexec : exec i s = loadS d b al o n sg s)
    (h : effAddr (rdS s b) o n % n = 0 ∧ Free s al false (effAddr (rdS s b) o n) n) :
    Starts i s [b] (.loadS d.toNat (effAddr (rdS s b) o n) n sg) 1 3 al :=
  starts_of hq (by rw [hexec, loadS, element_free h.1 h.2])

theorem starts_storeS (hq : QueuesLive s [d, b]) (hexec : exec i s = storeS d b al o n s)
    (h : effAddr (rdS s b) o n % n = 0 ∧ Free s al true (effAddr (rdS s b) o n) n) :
    Starts i s [d, b] (.store [(effAddr (rdS s b) o n, leBytes n (rdS s d).toNat)]) 2 2 al :=
  starts_of hq (by rw [hexec, storeS, element_free h.1 h.2])

theorem traps_loadS {sg : Bool} (hq : QueuesLive s [b]) (hexec : exec i s = loadS d b al o n sg s)
    (h : effAddr (rdS s b) o n % n ≠ 0 ∨ 0x600000 < effAddr (rdS s b) o n + n) : Traps i s tcALIGN 0 :=
  traps_of hq (by rw [hexec, loadS, element_traps h])

theorem traps_storeS (hq : QueuesLive s [d, b]) (hexec : exec i s = storeS d b al o n s)
    (h : effAddr (rdS s b) o n % n ≠ 0 ∨ 0x600000 < effAddr (rdS s b) o n + n) : Traps i s tcALIGN 0 :=
  traps_of hq (by rw [hexec, storeS, element_traps h])

end

/-- Settles O25: each form is `loadS` or `storeS` of its size. -/
theorem scalarAccessesStart : Obligations.ScalarAccessesStart := by
  intro s d b al o x fits data
  refine ⟨fun hq => ⟨fun h => ⟨?_, ?_⟩, fun h => ⟨?_, ?_⟩, fun h => ⟨?_, ?_⟩, fun h => ?_⟩,
    fun hq => ⟨fun h => ?_, fun h => ?_, fun h => ?_, fun h => ?_⟩⟩
  · exact starts_loadS hq (exec_ldB ..) h
  · exact starts_loadS hq (exec_lduB ..) h
  · exact starts_loadS hq (exec_ldH ..) h
  · exact starts_loadS hq (exec_lduH ..) h
  · exact starts_loadS hq (exec_ldW ..) h
  · exact starts_loadS hq (exec_lduW ..) h
  · exact starts_loadS hq (exec_ldD ..) h
  · exact starts_storeS hq (exec_stB ..) h
  · exact starts_storeS hq (exec_stH ..) h
  · exact starts_storeS hq (exec_stW ..) h
  · exact starts_storeS hq (exec_stD ..) h

/-! ## Vector loads and stores (R215 to R217, R223) -/

theorem unlessEmpty_empty {s : State} {c : CSet} (h : clusterSet s c = 0) (b : SlotRes) : unlessEmpty s c b = .ok s := if_pos h

theorem unlessEmpty_nonempty {s : State} {c : CSet} (h : clusterSet s c ≠ 0) (b : SlotRes) : unlessEmpty s c b = b := if_neg h

/-- The words of the lanes that a store writes. -/
def laneData (s : State) (d : RegF) (els : List (Nat × Nat)) : List (Nat × List Byte) :=
  els.map fun e => (e.2, leBytes 4 (rdV s d e.1).toNat)

/-- A body over the words of an access that traps where a word lies outside the scratchpad. -/
def Guards (f : List (Nat × Nat) → SlotRes) : Prop :=
  ∀ els, (∃ e, e ∈ els ∧ 0x600000 < e.2 + 4) → f els = .error (tcALIGN, 0)

section
variable {s : State} {d : RegF} {al : Bool} {els : List (Nat × Nat)}

theorem loadV_free (h : ∀ e, e ∈ els → Free s al false e.2 4) :
    loadV d els al s = .ok (pend (.loadV d.toNat els) 1 4 al s) :=
  accessOk_free (List.forall_mem_map.mpr h) _

theorem storeV_free (h : ∀ e, e ∈ els → Free s al true e.2 4) :
    storeV d els al s = .ok (pend (.store (laneData s d els)) 2 2 al s) :=
  accessOk_free (List.forall_mem_map.mpr h) _

theorem loadV_guards : Guards fun els => loadV d els al s :=
  fun _ ⟨e, he, hlt⟩ => accessOk_outside ⟨(e.2, 4), List.mem_map.mpr ⟨e, he, rfl⟩, hlt⟩ _

theorem storeV_guards : Guards fun els => storeV d els al s :=
  fun _ ⟨e, he, hlt⟩ => accessOk_outside ⟨(e.2, 4), List.mem_map.mpr ⟨e, he, rfl⟩, hlt⟩ _

/-- A body that does nothing without words still guards. -/
theorem Guards.unlessNone {f : List (Nat × Nat) → SlotRes} (hf : Guards f) :
    Guards fun els => if els.isEmpty then .ok s else f els := by
  intro els h
  obtain ⟨e, he, _⟩ := id h
  simp [List.ne_nil_of_mem he, hf els h]

end

/-- A set of clusters that is not empty holds one. -/
theorem exists_cluster {m : BitVec 8} (h : m ≠ 0) : ∃ i, i < 8 ∧ inCset m i = true := by
  refine Classical.byContradiction fun hnone => ?_
  refine h (BitVec.eq_of_getLsbD_eq fun i hi => ?_)
  rw [show (0 : BitVec 8).getLsbD i = false from BitVec.getLsbD_zero]
  exact Bool.eq_false_iff.mpr fun hbit => hnone ⟨i, hi, hbit⟩

/-- Some cluster of the set has its last lane in an access of the set. -/
theorem exists_last_lane {s : State} {c : CSet} (h : clusterSet s c ≠ 0) : ∃ p, p ∈ setLanes s c ∧ p % 16 = 15 := by
  obtain ⟨i, hi, hbit⟩ := exists_cluster h
  refine ⟨16 * i + 15, List.mem_filter.mpr ⟨List.mem_range.mpr (by omega), ?_⟩, by omega⟩
  rwa [show (16 * i + 15) / 16 = i by omega]

section
variable {s : State} {c : CSet} {x : Nat} {f : List (Nat × Nat) → SlotRes}

/-- R215: the words of a row, or one word for each lane of it. -/
theorem rowBody_traps {place : Nat → Nat × Nat} (hf : Guards f)
    (h : x % 64 ≠ 0 ∨ ∃ p, p ∈ setLanes s c ∧ 0x600000 < (place p).2 + 4) :
    aligned x 64 (f ((setLanes s c).map place)) = .error (tcALIGN, 0) :=
  aligned_traps (h.imp_right fun ⟨p, hp, hlt⟩ => hf _ ⟨place p, List.mem_map_of_mem hp, hlt⟩)

/-- The word of a lane of a column access (R217). -/
def skewed (x p : Nat) : Nat × Nat := (p, 4096 * (x / 4096) + x % 4096 + 256 * (p % 16) + 4 * (p / 16))

theorem column_valid (hlt : x < 0x600000) (hrow : x % 4096 < 256) (hmod : x % 32 = 0)
    (hskew : ((s.seat s.cur.core).tile (x / 4096)).skew = true) :
    column s x c f = f ((setLanes s c).map (skewed x)) := by
  have hwords : (fun p => (p, 4096 * (x / 4096) + 256 * (p % 16) + x % 4096 + 4 * (p / 16))) = skewed x := by
    funext p
    rw [skewed, Nat.add_right_comm (4096 * (x / 4096))]
  have hplace : ¬(spadSize ≤ x ∨ 256 ≤ x % 4096 ∨ x % 32 ≠ 0) := by unfold spadSize; omega
  rw [column, if_neg hplace, if_neg (by simp [hskew]), hwords]

theorem column_traps (h : 256 ≤ x % 4096 ∨ x % 32 ≠ 0 ∨ 0x600000 ≤ x ∨ ((s.seat s.cur.core).tile (x / 4096)).skew = false) :
    column s x c f = .error (tcALIGN, 0) := by
  rw [column]
  split
  · rfl
  · next hplace =>
    unfold spadSize at hplace
    exact if_pos (((h.resolve_left (by omega)).resolve_left (by omega)).resolve_left (by omega))

end

section
variable {s : State} {a b : RegF} {k : F3} {c : CSet} {f : List (Nat × Nat) → SlotRes}

/-- The word of a lane of a strided access (R216). -/
def strideWord (s : State) (a b : RegF) (p : Nat) : Nat × Nat := (p, (rdS s a + BitVec.ofNat 64 p * rdS s b).toNat)

theorem strided_aligned (h : ∀ p, p ∈ writtenLanes s k c → (strideWord s a b p).2 % 4 = 0) :
    strided s a b k c f = f ((writtenLanes s k c).map (strideWord s a b)) := by
  have hnone : ((writtenLanes s k c).map (strideWord s a b)).any (fun e => decide (e.2 % 4 ≠ 0)) = false :=
    List.any_eq_false.mpr (List.forall_mem_map.mpr fun p hp => by simp [h p hp])
  exact if_neg (Bool.eq_false_iff.mp hnone)

theorem strided_traps (hf : Guards f)
    (h : ∃ p, p ∈ writtenLanes s k c ∧ ((strideWord s a b p).2 % 4 ≠ 0 ∨ 0x600000 < (strideWord s a b p).2 + 4)) :
    strided s a b k c f = .error (tcALIGN, 0) := by
  by_cases hmod : ∀ p, p ∈ writtenLanes s k c → (strideWord s a b p).2 % 4 = 0
  · obtain ⟨p, hp, hbad⟩ := h
    rw [strided_aligned hmod]
    exact hf _ ⟨_, List.mem_map_of_mem hp, hbad.resolve_left (not_not_intro (hmod p hp))⟩
  · obtain ⟨p, hnot⟩ := Classical.not_forall.mp hmod
    obtain ⟨hp, hbad⟩ := Classical.not_imp.mp hnot
    exact if_pos (List.any_eq_true.mpr ⟨strideWord s a b p, List.mem_map_of_mem hp, decide_eq_true hbad⟩)

end

/-! ## KBF blocks (R218) -/

theorem length_leBytes : ∀ n w, (leBytes n w).length = n
  | 0, _ => rfl
  | n + 1, w => congrArg (· + 1) (length_leBytes n (w / 256))

/-- The two elements of each cluster's block: code bytes and header. -/
def blockElems (xa xb k : Nat) (cls : List Nat) : List (Nat × Nat) :=
  cls.flatMap fun i => [(xa + 2 * (k + 1) * i, 2 * (k + 1)), (xb + 2 * i, 2)]

theorem mem_blockElems {xa xb k : Nat} {cls : List Nat} {e : Nat × Nat} : e ∈ blockElems xa xb k cls ↔
    ∃ i, i ∈ cls ∧ (e = (xa + 2 * (k + 1) * i, 2 * (k + 1)) ∨ e = (xb + 2 * i, 2)) := by
  simp [blockElems, List.mem_flatMap]

/-- The bytes that a block store writes. -/
def blockData (s : State) (d : RegF) (xa xb k : Nat) (cls : List Nat) : List (Nat × List Byte) :=
  cls.flatMap fun i =>
    [(xa + 2 * (k + 1) * i, leBytes (2 * (k + 1)) (packCodes k ((List.range 16).map fun j => (rdV s d (16 * i + j)).toNat))),
      (xb + 2 * i, leBytes 2 ((rdV s d (16 * i)).toNat / 2 ^ 8))]

theorem elems_blockData (s : State) (d : RegF) (xa xb k : Nat) (cls : List Nat) :
    ((blockData s d xa xb k cls).map fun e => (e.1, e.2.length)) = blockElems xa xb k cls := by
  simp [blockData, blockElems, List.map_flatMap, length_leBytes]

section
variable {i : Instr} {s : State} {d a b : RegF} {c : CSet} {al : Bool} {k : Nat}

/-- One element of a block, or an address, is out of place. -/
def BlockBad (s : State) (a b : RegF) (c : CSet) (k : Nat) : Prop :=
  (rdS s a).toNat % 2 ≠ 0 ∨ (rdS s b).toNat % 2 ≠ 0 ∨ ∃ i, i ∈ clustersOf (clusterSet s c) ∧
    (0x600000 < (rdS s a).toNat + 2 * (k + 1) * i + 2 * (k + 1) ∨ 0x600000 < (rdS s b).toNat + 2 * i + 2)

theorem kblocks_even (ha : (rdS s a).toNat % 2 = 0) (hb : (rdS s b).toNat % 2 = 0) (f : List (Nat × Nat × Nat) → SlotRes) :
    kblocks s a b k c f = f ((clustersOf (clusterSet s c)).map fun i =>
      (i, (rdS s a).toNat + 2 * (k + 1) * i, (rdS s b).toNat + 2 * i)) :=
  if_neg (not_or.mpr ⟨not_not_intro ha, not_not_intro hb⟩)

/-- The checks and the access of a block form, over the elements of its blocks. -/
theorem loadK_eq (hset : clusterSet s c ≠ 0) (ha : (rdS s a).toNat % 2 = 0) (hb : (rdS s b).toNat % 2 = 0) :
    loadK d a b c al k s = runSlot [a, b] (accessOk s
      (blockElems (rdS s a).toNat (rdS s b).toNat k (clustersOf (clusterSet s c))) al false
      (.ok (pend (.loadK d.toNat k ((clustersOf (clusterSet s c)).map fun i =>
        (i, (rdS s a).toNat + 2 * (k + 1) * i, (rdS s b).toNat + 2 * i))) 1 4 al s))) s := by
  rw [loadK, unlessEmpty_nonempty hset, kblocks_even ha hb, List.flatMap_map]; rfl

theorem storeK_eq (hset : clusterSet s c ≠ 0) (ha : (rdS s a).toNat % 2 = 0) (hb : (rdS s b).toNat % 2 = 0) :
    storeK d a b c al k s = runSlot [d, a, b] (accessOk s
      (blockElems (rdS s a).toNat (rdS s b).toNat k (clustersOf (clusterSet s c))) al true
      (.ok (pend (.store (blockData s d (rdS s a).toNat (rdS s b).toNat k (clustersOf (clusterSet s c)))) 2 2 al s))) s := by
  rw [storeK, unlessEmpty_nonempty hset, kblocks_even ha hb, ← elems_blockData s d]
  dsimp only
  rw [List.flatMap_map]; rfl

theorem blockElems_free {store : Bool} {xa xb : Nat} {cls : List Nat}
    (h : ∀ i, i ∈ cls → xa + 2 * (k + 1) * i + 2 * (k + 1) ≤ 0x600000 ∧ xb + 2 * i + 2 ≤ 0x600000 ∧
      (al = false → detBars s (xa + 2 * (k + 1) * i) (2 * (k + 1)) store = false ∧ detBars s (xb + 2 * i) 2 store = false)) :
    ∀ e, e ∈ blockElems xa xb k cls → Free s al store e.1 e.2 := by
  intro e he
  obtain ⟨i, hi, hcase⟩ := mem_blockElems.mp he
  obtain ⟨hcode, hheader, hdet⟩ := h i hi
  rcases hcase with rfl | rfl
  · exact ⟨hcode, fun hal => (hdet hal).1⟩
  · exact ⟨hheader, fun hal => (hdet hal).2⟩

theorem blockElems_outside {xa xb : Nat} {cls : List Nat}
    (h : ∃ i, i ∈ cls ∧ (0x600000 < xa + 2 * (k + 1) * i + 2 * (k + 1) ∨ 0x600000 < xb + 2 * i + 2)) :
    ∃ e, e ∈ blockElems xa xb k cls ∧ 0x600000 < e.1 + e.2 := by
  obtain ⟨i, hi, hlt | hlt⟩ := h
  · exact ⟨_, mem_blockElems.mpr ⟨i, hi, .inl rfl⟩, hlt⟩
  · exact ⟨_, mem_blockElems.mpr ⟨i, hi, .inr rfl⟩, hlt⟩

/-- R114, R218: a block form out of place. -/
theorem blockBad_cases (h : BlockBad s a b c k) (f : List (Nat × Nat × Nat) → SlotRes) :
    kblocks s a b k c f = .error (tcALIGN, 0) ∨ (rdS s a).toNat % 2 = 0 ∧ (rdS s b).toNat % 2 = 0 ∧
      ∃ e, e ∈ blockElems (rdS s a).toNat (rdS s b).toNat k (clustersOf (clusterSet s c)) ∧ 0x600000 < e.1 + e.2 := by
  by_cases ha : (rdS s a).toNat % 2 = 0
  · by_cases hb : (rdS s b).toNat % 2 = 0
    · exact .inr ⟨ha, hb, blockElems_outside ((h.resolve_left (not_not_intro ha)).resolve_left (not_not_intro hb))⟩
    · exact .inl (if_pos (.inr hb))
  · exact .inl (if_pos (.inl ha))

theorem traps_loadK (hset : clusterSet s c ≠ 0) (hq : QueuesLive s [a, b]) (hexec : exec i s = loadK d a b c al k s)
    (h : BlockBad s a b c k) : Traps i s tcALIGN 0 := by
  refine traps_of hq ?_
  rcases blockBad_cases h _ with hodd | ⟨ha, hb, hout⟩
  · rw [hexec, loadK, unlessEmpty_nonempty hset, hodd]
  · rw [hexec, loadK_eq hset ha hb, accessOk_outside hout]

theorem traps_storeK (hset : clusterSet s c ≠ 0) (hq : QueuesLive s [d, a, b]) (hexec : exec i s = storeK d a b c al k s)
    (h : BlockBad s a b c k) : Traps i s tcALIGN 0 := by
  refine traps_of hq ?_
  rcases blockBad_cases h _ with hodd | ⟨ha, hb, hout⟩
  · rw [hexec, storeK, unlessEmpty_nonempty hset, hodd]
  · rw [hexec, storeK_eq hset ha hb, accessOk_outside hout]

end

/-! ## The vector forms together (R211, R215 to R218) -/

section
variable {i : Instr} {s : State} {d a b : RegF} {k : F3} {c : CSet} {al : Bool} {o : BitVec 11}

/-- R215: a row that is out of place. -/
theorem rows_trap (hset : clusterSet s c ≠ 0)
    (h : effAddr (rdS s b) o 64 % 64 ≠ 0 ∨ ∃ p, p ∈ setLanes s c ∧ 0x600000 < effAddr (rdS s b) o 64 + 4 * p + 4) :
    (QueuesLive s [b] → Traps (.vld d b al c o) s tcALIGN 0) ∧ (QueuesLive s [d, b] → Traps (.vst d b al c o) s tcALIGN 0) := by
  refine ⟨fun hq => traps_of hq ?_, fun hq => traps_of hq ?_⟩
  · rw [exec_vld, execVld, unlessEmpty_nonempty hset, rowBody_traps loadV_guards h]
  · rw [exec_vst, execVst, unlessEmpty_nonempty hset, rowBody_traps storeV_guards h]

/-- R215: one row for all clusters: its last lane reaches its end. -/
theorem vldb_traps (hset : clusterSet s c ≠ 0) (hq : QueuesLive s [b])
    (h : effAddr (rdS s b) o 64 % 64 ≠ 0 ∨ 0x600000 < effAddr (rdS s b) o 64 + 64) : Traps (.vldb d b al c o) s tcALIGN 0 := by
  obtain ⟨p, hp, hlast⟩ := exists_last_lane hset
  have hend : effAddr (rdS s b) o 64 % 64 ≠ 0 ∨
      ∃ p, p ∈ setLanes s c ∧ 0x600000 < (p, effAddr (rdS s b) o 64 + 4 * (p % 16)).2 + 4 :=
    h.imp_right fun hlt => ⟨p, hp, by omega⟩
  exact traps_of hq (by rw [exec_vldb, execVldb, unlessEmpty_nonempty hset, rowBody_traps loadV_guards hend])

/-- R217: a column that is out of place. -/
theorem columns_trap (hset : clusterSet s c ≠ 0)
    (h : 256 ≤ effAddr (rdS s b) o 64 % 4096 ∨ effAddr (rdS s b) o 64 % 32 ≠ 0 ∨ 0x600000 ≤ effAddr (rdS s b) o 64 ∨
      ((s.seat s.cur.core).tile (effAddr (rdS s b) o 64 / 4096)).skew = false) :
    (QueuesLive s [b] → Traps (.vldt d b al c o) s tcALIGN 0) ∧ (QueuesLive s [d, b] → Traps (.vstt d b al c o) s tcALIGN 0) := by
  refine ⟨fun hq => traps_of hq ?_, fun hq => traps_of hq ?_⟩
  · rw [exec_vldt, execVldt, unlessEmpty_nonempty hset, column_traps h]
  · rw [exec_vstt, execVstt, unlessEmpty_nonempty hset, column_traps h]

/-- R216: an admitted lane that is out of place. -/
theorem strides_trap
    (h : ∃ p, p ∈ writtenLanes s k c ∧ ((strideWord s a b p).2 % 4 ≠ 0 ∨ 0x600000 < (strideWord s a b p).2 + 4)) :
    (QueuesLive s [a, b] → Traps (.vlds d a b k c al) s tcALIGN 0) ∧
      (QueuesLive s [d, a, b] → Traps (.vsts d a b k c al) s tcALIGN 0) := by
  refine ⟨fun hq => traps_of hq ?_, fun hq => traps_of hq ?_⟩
  · rw [exec_vlds, execVlds, strided_traps loadV_guards.unlessNone h]
  · rw [exec_vsts, execVsts, strided_traps storeV_guards.unlessNone h]

/-- R219: an atomic that is out of place. -/
theorem amo_traps {op : AmoOp} (hq : QueuesLive s [a, b]) (hk : rdP s k = true) (hexec : exec i s = amo op d a b k al s)
    (h : (rdS s a).toNat % 8 ≠ 0 ∨ 0x600000 < (rdS s a).toNat + 8) : Traps i s tcALIGN 0 :=
  traps_of hq (by rw [hexec, amo, guarded_true hk, element_traps h])

end

/-- Settles O17: the forms of each family share their check. -/
theorem misalignedOperandsTrap : Obligations.MisalignedOperandsTrap := by
  refine ⟨fun _ _ _ _ => ControlSlots.register_transfers_trap, fun s d a b k c al o o11 => ?_⟩
  refine ⟨fun hq => ⟨fun h => ⟨?_, ?_⟩, fun h => ⟨?_, ?_⟩, fun h => ⟨?_, ?_⟩, fun h => ?_⟩,
    fun hq => ⟨fun h => ?_, fun h => ?_, fun h => ?_, fun h => ?_⟩,
    fun hset => ⟨fun hq => ⟨fun h => (rows_trap hset h).1 hq, vldb_traps hset hq, fun h => (columns_trap hset h).1 hq⟩,
      fun hq => ⟨fun h => (rows_trap hset h).2 hq, fun h => (columns_trap hset h).2 hq⟩,
      fun hq => ⟨traps_loadK hset hq (exec_vldkKbf7 ..), traps_loadK hset hq (exec_vldkKbf4 ..),
        traps_loadK hset hq (exec_vldkKbf2 ..)⟩,
      fun hq => ⟨traps_storeK hset hq (exec_vstkKbf7 ..), traps_storeK hset hq (exec_vstkKbf4 ..),
        traps_storeK hset hq (exec_vstkKbf2 ..)⟩⟩,
    strides_trap, fun hq hk h => ⟨?_, ?_, ?_, ?_, ?_⟩⟩
  · exact traps_loadS hq (exec_ldB ..) h
  · exact traps_loadS hq (exec_lduB ..) h
  · exact traps_loadS hq (exec_ldH ..) h
  · exact traps_loadS hq (exec_lduH ..) h
  · exact traps_loadS hq (exec_ldW ..) h
  · exact traps_loadS hq (exec_lduW ..) h
  · exact traps_loadS hq (exec_ldD ..) h
  · exact traps_storeS hq (exec_stB ..) h
  · exact traps_storeS hq (exec_stH ..) h
  · exact traps_storeS hq (exec_stW ..) h
  · exact traps_storeS hq (exec_stD ..) h
  · exact amo_traps hq hk (exec_amoAdd ..) h
  · exact amo_traps hq hk (exec_amoMax ..) h
  · exact amo_traps hq hk (exec_amoMin ..) h
  · exact amo_traps hq hk (exec_amoSwap ..) h
  · exact amo_traps hq hk (exec_amoCas ..) h

section
variable {i : Instr} {s : State} {d a b : RegF} {k : F3} {c : CSet} {al : Bool} {o : BitVec 11} {n : Nat}

/-- R211, R223: over no clusters the forms with an offset perform nothing. -/
theorem offset_forms_pass (hset : clusterSet s c = 0) :
    (QueuesLive s [b] → Passes (.vld d b al c o) s [b] ∧ Passes (.vldb d b al c o) s [b] ∧ Passes (.vldt d b al c o) s [b]) ∧
      (QueuesLive s [d, b] → Passes (.vst d b al c o) s [d, b] ∧ Passes (.vstt d b al c o) s [d, b]) := by
  refine ⟨fun hq => ⟨passes_of hq ?_, passes_of hq ?_, passes_of hq ?_⟩, fun hq => ⟨passes_of hq ?_, passes_of hq ?_⟩⟩
  · rw [exec_vld, execVld, unlessEmpty_empty hset]
  · rw [exec_vldb, execVldb, unlessEmpty_empty hset]
  · rw [exec_vldt, execVldt, unlessEmpty_empty hset]
  · rw [exec_vst, execVst, unlessEmpty_empty hset]
  · rw [exec_vstt, execVstt, unlessEmpty_empty hset]

/-- R216: without an admitted lane a strided form performs nothing. -/
theorem strided_forms_pass (hnone : writtenLanes s k c = []) :
    (QueuesLive s [a, b] → Passes (.vlds d a b k c al) s [a, b]) ∧
      (QueuesLive s [d, a, b] → Passes (.vsts d a b k c al) s [d, a, b]) := by
  have haligned : ∀ p, p ∈ writtenLanes s k c → (strideWord s a b p).2 % 4 = 0 := by simp [hnone]
  refine ⟨fun hq => passes_of hq ?_, fun hq => passes_of hq ?_⟩
  · rw [exec_vlds, execVlds, strided_aligned haligned, hnone]; rfl
  · rw [exec_vsts, execVsts, strided_aligned haligned, hnone]; rfl

/-- R216: the words of the admitted lanes. -/
theorem strided_forms_start (hsome : writtenLanes s k c ≠ [])
    (haligned : ∀ p, p ∈ writtenLanes s k c → (strideWord s a b p).2 % 4 = 0) :
    let els := (writtenLanes s k c).map (strideWord s a b)
    (QueuesLive s [a, b] → (∀ e, e ∈ els → Free s al false e.2 4) →
      Starts (.vlds d a b k c al) s [a, b] (.loadV d.toNat els) 1 4 al) ∧
    (QueuesLive s [d, a, b] → (∀ e, e ∈ els → Free s al true e.2 4) →
      Starts (.vsts d a b k c al) s [d, a, b] (.store (laneData s d els)) 2 2 al) := by
  intro els
  have hne : els.isEmpty = false := by simp [els, hsome]
  refine ⟨fun hq hfree => starts_of hq ?_, fun hq hfree => starts_of hq ?_⟩
  · rw [exec_vlds, execVlds, strided_aligned haligned, if_neg (Bool.eq_false_iff.mp hne), loadV_free hfree]
  · rw [exec_vsts, execVsts, strided_aligned haligned, if_neg (Bool.eq_false_iff.mp hne), storeV_free hfree]

/-- R215: the words of the rows, or of one row for all clusters. -/
theorem row_forms_start (hset : clusterSet s c ≠ 0) (hmod : effAddr (rdS s b) o 64 % 64 = 0) :
    let rows := (setLanes s c).map fun p => (p, effAddr (rdS s b) o 64 + 4 * p)
    let one := (setLanes s c).map fun p => (p, effAddr (rdS s b) o 64 + 4 * (p % 16))
    (QueuesLive s [b] →
      ((∀ e, e ∈ rows → Free s al false e.2 4) → Starts (.vld d b al c o) s [b] (.loadV d.toNat rows) 1 4 al) ∧
      ((∀ e, e ∈ one → Free s al false e.2 4) → Starts (.vldb d b al c o) s [b] (.loadV d.toNat one) 1 4 al)) ∧
    (QueuesLive s [d, b] → (∀ e, e ∈ rows → Free s al true e.2 4) →
      Starts (.vst d b al c o) s [d, b] (.store (laneData s d rows)) 2 2 al) := by
  refine ⟨fun hq => ⟨fun hfree => starts_of hq ?_, fun hfree => starts_of hq ?_⟩, fun hq hfree => starts_of hq ?_⟩
  · rw [exec_vld, execVld, unlessEmpty_nonempty hset, aligned_multiple hmod, loadV_free hfree]
  · rw [exec_vldb, execVldb, unlessEmpty_nonempty hset, aligned_multiple hmod, loadV_free hfree]
  · rw [exec_vst, execVst, unlessEmpty_nonempty hset, aligned_multiple hmod, storeV_free hfree]

/-- R217: the words of a column access. -/
theorem column_forms_start (hset : clusterSet s c ≠ 0) (hlt : effAddr (rdS s b) o 64 < 0x600000)
    (hrow : effAddr (rdS s b) o 64 % 4096 < 256) (hmod : effAddr (rdS s b) o 64 % 32 = 0)
    (hskew : ((s.seat s.cur.core).tile (effAddr (rdS s b) o 64 / 4096)).skew = true) :
    let els := (setLanes s c).map (skewed (effAddr (rdS s b) o 64))
    (QueuesLive s [b] → (∀ e, e ∈ els → Free s al false e.2 4) → Starts (.vldt d b al c o) s [b] (.loadV d.toNat els) 1 4 al) ∧
    (QueuesLive s [d, b] → (∀ e, e ∈ els → Free s al true e.2 4) →
      Starts (.vstt d b al c o) s [d, b] (.store (laneData s d els)) 2 2 al) := by
  refine ⟨fun hq hfree => starts_of hq ?_, fun hq hfree => starts_of hq ?_⟩
  · rw [exec_vldt, execVldt, unlessEmpty_nonempty hset, column_valid hlt hrow hmod hskew, loadV_free hfree]
  · rw [exec_vstt, execVstt, unlessEmpty_nonempty hset, column_valid hlt hrow hmod hskew, storeV_free hfree]

end

/-- Settles O26: the words of each form's lanes, once its checks are met. -/
theorem vectorAccessesStart : Obligations.VectorAccessesStart := by
  refine ⟨fun s d a b k c al o => ?_, fun s d a b c al => ?_⟩
  · exact ⟨fun hset => (offset_forms_pass hset).1, fun hset => (offset_forms_pass hset).2,
      fun hset hq => ⟨fun hmod => (row_forms_start hset hmod).1 hq,
        fun hlt hrow hmod hskew => (column_forms_start hset hlt hrow hmod hskew).1 hq⟩,
      fun hset hq => ⟨fun hmod => (row_forms_start hset hmod).2 hq,
        fun hlt hrow hmod hskew => (column_forms_start hset hlt hrow hmod hskew).2 hq⟩,
      strided_forms_pass, strided_forms_start⟩
  · intro xa xb cls els codes ws free hset ha hb
    have load : ∀ {i n}, QueuesLive s [a, b] → exec i s = loadK d a b c al n s → free n false →
        Starts i s [a, b] (.loadK d.toNat n (els n)) 1 4 al :=
      fun hq hexec h => starts_of hq (by rw [hexec, loadK_eq hset ha hb, accessOk_free (blockElems_free h)])
    have store : ∀ {i n}, QueuesLive s [d, a, b] → exec i s = storeK d a b c al n s → free n true →
        Starts i s [d, a, b] (.store (ws n)) 2 2 al :=
      fun hq hexec h => starts_of hq (by rw [hexec, storeK_eq hset ha hb, accessOk_free (blockElems_free h)]; rfl)
    exact ⟨fun hq => ⟨load hq (exec_vldkKbf7 ..), load hq (exec_vldkKbf4 ..), load hq (exec_vldkKbf2 ..)⟩,
      fun hq => ⟨store hq (exec_vstkKbf7 ..), store hq (exec_vstkKbf4 ..), store hq (exec_vstkKbf2 ..)⟩⟩

end Sys2Proof.Machine.ScratchpadSlots
end

section
/-! Local atomics: their start, what they write, and how they perform alone on a core (R132, R219, R220). -/

namespace Sys2Proof.Machine.Atomics

open ScalarSlots (guarded_true)
open ScratchpadSlots (Free element_free length_leBytes)
open CoreAccess

/-! ## Start, and the value written (R219) -/

/-- R219: the sample of an atomic; only CAS has an expected value. -/
theorem starts_amo {i : Instr} {s : State} {d a b : RegF} {k : F3} {al : Bool} {op : AmoOp} (hq : QueuesLive s [a, b])
    (hk : rdP s k = true) (hexec : exec i s = amo op d a b k al s) (hmod : (rdS s a).toNat % 8 = 0)
    (hfree : Free s al true (rdS s a).toNat 8) :
    Starts i s [a, b] (.amoSample d.toNat (rdS s a).toNat op (rdS s b) (if op = .cas then rdS s d else 0)) 1 3 al :=
  starts_of hq (by rw [hexec, amo, guarded_true hk, element_free hmod hfree])

/-- The signed maximum is one of the two, and neither is above it. -/
theorem amoNew_max (w v e : Word) :
    ∃ m, amoNew .max w v e = some m ∧ (m = w ∨ m = v) ∧ w.sle m = true ∧ v.sle m = true := by
  by_cases h : v.toInt ≤ w.toInt
  · exact ⟨w, congrArg some (if_pos h), .inl rfl, BitVec.sle_iff_toInt_le.mpr (Int.le_refl _), BitVec.sle_iff_toInt_le.mpr h⟩
  · exact ⟨v, congrArg some (if_neg h), .inr rfl, BitVec.sle_iff_toInt_le.mpr (Int.le_of_lt (Int.not_le.mp h)), BitVec.sle_iff_toInt_le.mpr (Int.le_refl _)⟩

theorem amoNew_min (w v e : Word) :
    ∃ m, amoNew .min w v e = some m ∧ (m = w ∨ m = v) ∧ m.sle w = true ∧ m.sle v = true := by
  by_cases h : w.toInt ≤ v.toInt
  · exact ⟨w, congrArg some (if_pos h), .inl rfl, BitVec.sle_iff_toInt_le.mpr (Int.le_refl _), BitVec.sle_iff_toInt_le.mpr h⟩
  · exact ⟨v, congrArg some (if_neg h), .inr rfl, BitVec.sle_iff_toInt_le.mpr (Int.le_of_lt (Int.not_le.mp h)), BitVec.sle_iff_toInt_le.mpr (Int.le_refl _)⟩

/-! ## Numbers in memories (R7) -/

theorem leNat_leBytes : ∀ n w, leNat (leBytes n w) = w % 256 ^ n
  | 0, w => by rw [Nat.pow_zero, Nat.mod_one]; rfl
  | n + 1, w => by
    rw [leBytes, leNat, leNat_leBytes n, Nat.pow_succ']
    exact Nat.mod_mul.symm

/-- A run that was just written reads back. -/
theorem bytes_setBytes (m : Mem) (a : Nat) (bs : List Byte) : Mem.bytes (Mem.setBytes m a bs) a bs.length = bs := by
  rw [bytes_eq_map]
  refine List.ext_getElem (by simp) fun i hi hi' => ?_
  rw [List.getElem_map, List.getElem_range, Mem.byte_setBytes, if_pos ⟨by omega, by omega⟩, Nat.add_sub_cancel_left,
    HostAccess.nth_eq_getD, List.getD_eq_getElem?_getD, List.getElem?_eq_getElem hi', Option.getD_some]

theorem num_setNum (m : Mem) (a n w : Nat) : Mem.num (Mem.setNum m a n w) a n = w % 256 ^ n := by
  have hread := bytes_setBytes m a (leBytes n w)
  rw [length_leBytes] at hread
  rw [Mem.num, Mem.setNum, hread, leNat_leBytes]

theorem num_setNum_word (m : Mem) (a : Nat) (v : Word) : Mem.num (Mem.setNum m a 8 v.toNat) a 8 = v.toNat :=
  (num_setNum m a 8 v.toNat).trans (Nat.mod_eq_of_lt v.isLt)

/-! ## The write of an atomic in its scratchpad (R219) -/

section
variable (x : Seat) (a : Nat) (op : AmoOp) (w v e : Word)

@[simp] theorem amoPut_resv : (x.amoPut a op w v e).resv = x.resv := by
  rw [Seat.amoPut]
  split <;> rfl

@[simp] theorem amoPut_st (t : Bool) : (x.amoPut a op w v e).st t = x.st t := by
  rw [Seat.amoPut]
  split <;> rfl

theorem amoPut_spad_some {n : Word} (h : amoNew op w v e = some n) :
    (x.amoPut a op w v e).spad = Mem.setNum x.spad a 8 n.toNat := by
  rw [Seat.amoPut, h]; rfl

theorem amoPut_spad_none (h : amoNew op w v e = none) : (x.amoPut a op w v e).spad = x.spad := by
  rw [Seat.amoPut, h]

/-- R219: no byte outside the doubleword changes. -/
theorem amoPut_outside {b : Nat} (hout : b < a ∨ a + 8 ≤ b) :
    Mem.byte (x.amoPut a op w v e).spad b = Mem.byte x.spad b := by
  cases h : amoNew op w v e with
  | none => rw [amoPut_spad_none x a op w v e h]
  | some n =>
    rw [amoPut_spad_some x a op w v e h]
    exact Mem.byte_setBytes_outside _ _ _ _ (by rwa [length_leBytes])

end

/-! ## The sample of an atomic (R219, R220) -/

section
variable {s : State} {c : Nat} {a : Access} {d x : Nat} {op : AmoOp} {v e : Word}

/-- The primary's stream after the sample: the write stands a tick away, and the old value is on its way. -/
def sampledStream (y : Stream) (a : Access) (d x : Nat) (op : AmoOp) (v e old : Word) : Stream :=
  { y with
    acc := [{ a with rem := 1, op := .amoWrite d x op v e old }]
    landing := insLanding ⟨a.seq, a.lat - 1, 0, .s d old, (a.bundle, a.slot)⟩ (y.landing.filter fun l => decide (l.seq ≠ a.seq)) }

/-- R219: the only access of the primary samples, where nothing is reserved and nothing has failed. -/
theorem performSample_amo (hop : a.op = .amoSample d x op v e) (hacc : (s.st c false).acc = [a]) (hresv : (s.seat c).resv = [])
    (hbad : (s.seat c).bad = []) :
    performSample c false a s = (dropAcc c false a s).putSeat c
      { ((dropAcc c false a s).seat c).putSt false (sampledStream (s.st c false) a d x op v e ((s.seat c).dword x)) with
        resv := [⟨x, false, a.seq, (s.seat c).dword x, []⟩] } := by
  have hnone : ∀ es : List (Nat × Nat), (es.any fun e => ((dropAcc c false a s).seat c).isBad e.1 e.2) = false := by
    intro es
    simp [isBad_of_no_bad (x := (dropAcc c false a s).seat c) (by simpa using hbad)]
  have hst : ((dropAcc c false a s).seat c).st false = { s.st c false with acc := [] } := by
    refine (dropAcc_st c false a s false).trans ?_
    simp [hacc]
  have hword : ((dropAcc c false a s).seat c).dword x = (s.seat c).dword x := by rw [Seat.dword, dropAcc_spad]; rfl
  have hfree : ((dropAcc c false a s).seat c).resv = [] := by simpa using hresv
  simp only [performSample, hop, hnone, hst, hword, hfree, Bool.false_eq_true, if_false, List.any_nil, List.nil_append]
  rfl

/-- R219, R220: the sample tick. -/
theorem sample_performs (h : OnlyDue s c a) (hop : a.op = .amoSample d x op v e) (hbad : (s.seat c).bad = []) :
    ∃ t, exec (.pendingAccessPerform c) s = .next t ∧
      t.st c false = sampledStream (s.st c false) a d x op v e ((s.seat c).dword x) ∧
      (t.seat c).resv = [⟨x, false, a.seq, (s.seat c).dword x, []⟩] ∧ t.hbm = s.hbm ∧ ∀ f, (t.seat f).spad = (s.seat f).spad := by
  have hsample := performSample_amo hop h.accPrim h.noResv hbad
  have hst : ∀ u, (performSample c false a s).st c u =
      if u = false then sampledStream (s.st c false) a d x op v e ((s.seat c).dword x) else s.st c u := by
    intro u
    rw [hsample, State.st, seat_putSeat, if_pos rfl]
    refine (st_putSt_seat _ false u _).trans ?_
    cases u
    · rfl
    · exact dropAcc_st c false a s true
  have hwait : ((performSample c false a s).st c false).wait = none := by rw [hst]; exact h.waitPrim
  refine ⟨_, h.exec_eq (h.performStream_sample (by rw [hop]; rfl) hwait) (hst true), hst false, ?_, ?_, fun f => ?_⟩
  · rw [hsample, seat_putSeat, if_pos rfl]
  · rw [hsample]; rfl
  · rw [hsample, seat_putSeat]
    split
    · next hf =>
      subst hf
      exact (spad_putSt _ _ _).trans (dropAcc_spad f false a s f)
    · exact dropAcc_spad c false a s f

end

/-! ## The write of an atomic at its tick (R219, R220) -/

section
variable {s : State} {c : Nat} {a : Access} {d x : Nat} {op : AmoOp} {v e w : Word}

/-- The seat after the write: the access and its reservation are gone, and the doubleword holds what the operation gives. -/
def writtenSeat (s : State) (c : Nat) (a : Access) (x : Nat) (op : AmoOp) (v e w : Word) : Seat :=
  { (dropAcc c false a s).seat c with resv := [] }.amoPut x op w v e

/-- R219: the write of an atomic that holds the only reservation. -/
theorem performWrite_amo (hop : a.op = .amoWrite d x op v e w) (hresv : (s.seat c).resv = [⟨x, false, a.seq, w, []⟩]) :
    performWrite c false a s = (dropAcc c false a s).putSeat c (writtenSeat s c a x op v e w) := by
  have hfree : ((dropAcc c false a s).seat c).resv = [⟨x, false, a.seq, w, []⟩] := (dropAcc_resv c false a s).trans hresv
  simp [performWrite, hop, hresv, hfree, releaseLate, writtenSeat]

/-- R219, R220: the write tick. -/
theorem write_performs (hthaw : (s.core c).frozen = none) (hacc : (s.st c false).acc = [a]) (hacc' : (s.st c true).acc = [])
    (hlast : (s.st c false).lastAcc = []) (hlast' : (s.st c true).lastAcc = []) (hwait : (s.st c false).wait = none)
    (hwait' : (s.st c true).wait = none) (hrem : a.rem = 0) (hop : a.op = .amoWrite d x op v e w)
    (hresv : (s.seat c).resv = [⟨x, false, a.seq, w, []⟩]) :
    exec (.pendingAccessPerform c) s = .next ((dropAcc c false a s).putSeat c (writtenSeat s c a x op v e w)) ∧
      (writtenSeat s c a x op v e w).st false = { s.st c false with acc := [] } := by
  generalize ht : (dropAcc c false a s).putSeat c (writtenSeat s c a x op v e w) = t
  have hwrite : performWrite c false a s = t := (performWrite_amo hop hresv).trans ht
  have hseat : ∀ u, (writtenSeat s c a x op v e w).st u = if u = false then { s.st c false with acc := [] } else s.st c u := by
    intro u
    refine (amoPut_st _ x op w v e u).trans ((dropAcc_st c false a s u).trans ?_)
    simp [hacc]
  have hst : ∀ u, t.st c u = if u = false then { s.st c false with acc := [] } else s.st c u := by
    intro u
    rw [← ht, State.st, seat_putSeat, if_pos rfl, hseat]
  have hprim : performStream c false s = t := by
    have hdone : dueAcc t c false false = [] := dueAcc_nil (by rw [hst]; rfl) false
    rw [performStream]
    simp only [performLast_nil hlast, dueAcc_singleton hacc hrem, hop, AccOp.isWrite, if_true, List.foldl_cons, List.foldl_nil,
      hwrite, hdone]
    exact sampleWait_none (by rw [hst]; exact hwait)
  have hsec : performStream c true t = t :=
    performStream_idle (by rw [hst]; exact hacc') (by rw [hst]; exact hlast') (by rw [hst]; exact hwait')
  refine ⟨?_, hseat false⟩
  rw [exec_pendingAccessPerform, execPendingAccessPerform, if_neg (by simp [hthaw]), hprim, hsec]

end

/-- Settles O27: the sample and the write are each all that the cycle does on the core. -/
theorem atomicsStartAndPerform : Obligations.AtomicsStartAndPerform := by
  refine ⟨fun s d a b k al hq hk hmod hin hdet => ?_, fun w v e => ?_,
    fun s c a d x op v e w hthaw hacc hacc' hlast hlast' hwait hwait' hrem => ⟨fun hop hresv hbad => ?_, fun hop hresv => ?_⟩⟩
  · exact ⟨starts_amo hq hk (exec_amoAdd ..) hmod ⟨hin, hdet⟩, starts_amo hq hk (exec_amoMax ..) hmod ⟨hin, hdet⟩,
      starts_amo hq hk (exec_amoMin ..) hmod ⟨hin, hdet⟩, starts_amo hq hk (exec_amoSwap ..) hmod ⟨hin, hdet⟩,
      starts_amo hq hk (exec_amoCas ..) hmod ⟨hin, hdet⟩⟩
  · exact ⟨rfl, rfl, amoNew_max w v e, amoNew_min w v e, fun h => if_pos h, fun h => if_neg h⟩
  · obtain ⟨t, hexec, hst, hreserved, hhbm, hspad⟩ :=
      sample_performs ⟨hthaw, hacc, hacc', hlast, hlast', hwait, hwait', hresv, hrem⟩ hop hbad
    refine ⟨t, hexec, ?_, ?_, hreserved, ?_, hhbm, fun f b => by rw [hspad]⟩
    all_goals rw [hst]; rfl
  · obtain ⟨hexec, hst⟩ := write_performs hthaw hacc hacc' hlast hlast' hwait hwait' hrem hop hresv
    generalize ht : (dropAcc c false a s).putSeat c (writtenSeat s c a x op v e w) = t at hexec
    have hseat : t.seat c = writtenSeat s c a x op v e w := by rw [← ht, seat_putSeat, if_pos rfl]
    have hstream : t.st c false = { s.st c false with acc := [] } := by rw [State.st, hseat, hst]
    have hspad := dropAcc_spad c false a s c
    refine ⟨t, hexec, by rw [hstream], ?_, by rw [hstream], by rw [hstream], by rw [← ht]; rfl, fun n hn => ?_, fun hn => ?_,
      fun b hout => ?_, fun f hf => ?_⟩
    · rw [hseat, writtenSeat, amoPut_resv]
    · rw [hseat, writtenSeat, amoPut_spad_some _ _ _ _ _ _ hn, num_setNum_word]
    · rw [hseat, writtenSeat, amoPut_spad_none _ _ _ _ _ _ hn]
      exact hspad
    · rw [hseat, writtenSeat, amoPut_outside _ _ _ _ _ _ hout]
      exact congrArg (Mem.byte · b) hspad
    · rw [← ht]
      simp [State.putSeat, hf, dropAcc_core c false a s hf]

end Sys2Proof.Machine.Atomics
end
